-- ==== Sys2Proof/Word.lean ====
section
/-! DEFINITION. The word types of the TDC-4 cluster and the one sparse map in which every memory,
register file and table of the model is held. -/

namespace Sys2Proof

/-- A byte; multi-byte values are little-endian (R9). -/
abbrev Byte := BitVec 8

/-- A 32-bit CSR word or FP32 bit pattern. -/
abbrev Word32 := BitVec 32

/-- A 64-bit register, instruction word or local-store word. -/
abbrev Word64 := BitVec 64

/-- A string of bytes, byte 0 first: a local-store row has 512 of them, a tile row 64. -/
abbrev Bytes := List (BitVec 8)

/-- A sparse map from indices to values: pairs with strictly rising keys. What an unlisted key
reads as is the default given to each operation; canonical form is `Sparse.wf`. -/
abbrev Sparse (α : Type) := List (Nat × α)

/-- A byte memory: a list of (address, byte) cells in canonical form; an unlisted byte reads 0. -/
abbrev Mem := Sparse (BitVec 8)

end Sys2Proof
end

