-- ==== Sys2Proof/Syntax.lean ====
section
/-! DEFINITION. The commands of the TDC-4 cluster: one constructor of `Instr` for each row of the
table of operations and events, with the fields its rules give it. Field widths are those of
chapter 21; a reserved code or an illegal value can be written here and is met by the meaning. -/

namespace Sys2Proof

/-- The two threads of the Tether (R54): TA issues access work, TX execute work. -/
inductive Thread
  | ta | tx
  deriving DecidableEq, Repr

/-- Number of an s-register, s0 to s31 (R54). -/
abbrev Reg := BitVec 5

/-- A 7-bit operand slot (Table 21.4). -/
abbrev Slot := BitVec 7

/-- The conversion block of word 1 (Table 21.5). -/
structure ConvBlk where
  dfmt : BitVec 4
  rnd : BitVec 3
  ftz : Bool
  ieee : Bool
  amx : BitVec 4
  gacc : Bool
  naninc : Bool
  scl : BitVec 7
  deriving DecidableEq, Repr

/-- LS.RD and LS.WR (Table 21.6). -/
structure LsArgs where
  sa : Reg
  rs : Reg
  h : BitVec 8
  n1 : BitVec 6
  port : BitVec 3
  clear : Bool
  deriving DecidableEq, Repr

/-- LS.RQ, LS.RQ.S and LS.WQ. -/
structure LsqArgs where
  q : BitVec 3
  rs : Reg
  stride : Reg
  h : BitVec 8
  n1 : BitVec 6
  port : BitVec 3
  clear : Bool
  deriving DecidableEq, Repr

/-- LS.TAG. -/
structure LsTagArgs where
  rs : Reg
  n : Reg
  h : BitVec 8
  full : Bool
  deriving DecidableEq, Repr

/-- TLD, TLD.S, TST and TST.S. -/
structure TileMoveArgs where
  tg : BitVec 6
  rs : Reg
  stride : Reg
  h : BitVec 8
  n1 : BitVec 6
  port : BitVec 3
  clear : Bool
  deriving DecidableEq, Repr

/-- TLD.T. -/
structure TldTArgs where
  tg : BitVec 6
  rs : Reg
  stride : Reg
  h : BitVec 8
  port : BitVec 3
  clear : Bool
  j : BitVec 3
  wide : Bool
  deriving DecidableEq, Repr

/-- TCTX.SAVE and TCTX.LOAD. -/
structure TctxArgs where
  rs : Reg
  sd : Reg
  h : BitVec 8
  port : BitVec 3
  deriving DecidableEq, Repr

/-- DMA.COPY. -/
structure DmaArgs where
  src : Reg
  dst : Reg
  form : BitVec 2
  ndma : BitVec 12
  port : BitVec 3
  clear : Bool
  ha : BitVec 8
  hb : BitVec 8
  deriving DecidableEq, Repr

/-- PUT, MSG.SEND, TAKE, MSG.RECV and PEEK. -/
structure RemoteArgs where
  rs : Reg
  node : Reg
  wr : Reg
  key : Reg
  sd : Reg
  sa : Reg
  le : BitVec 9
  fp : BitVec 2
  win : BitVec 4
  n1 : BitVec 6
  port : BitVec 3
  clear : Bool
  saen : Bool
  deriving DecidableEq, Repr

/-- FETCH. -/
structure FetchArgs where
  rs : Reg
  node : Reg
  wr : Reg
  key : Reg
  sd : Reg
  n : Reg
  le : BitVec 9
  fp : BitVec 2
  win : BitVec 4
  deriving DecidableEq, Repr

/-- MX.MM. -/
structure MxMmArgs where
  mxd : Reg
  a : Slot
  w : Slot
  acc : BitVec 2
  accum : Bool
  raw : Bool
  half : Bool
  fmta : BitVec 4
  fmtw : BitVec 4
  ftz : Bool
  deriving DecidableEq, Repr

/-- MX.WLD. -/
structure MxWldArgs where
  w : Slot
  half : Bool
  deriving DecidableEq, Repr

/-- MX.WLD.T. -/
structure MxWldTArgs where
  rs : Reg
  stride : Reg
  h : BitVec 8
  port : BitVec 3
  clear : Bool
  fmtw : BitVec 4
  half : Bool
  j : BitVec 3
  qsel : BitVec 2
  deriving DecidableEq, Repr

/-- MX.CONV. -/
structure MxConvArgs where
  rs : Reg
  cvg1 : Reg
  cvg2 : Reg
  w : Slot
  h : BitVec 8
  port : BitVec 3
  port2 : BitVec 3
  clear : Bool
  acc : BitVec 2
  accum : Bool
  half : Bool
  fmta : BitVec 4
  fmtw : BitVec 4
  ftz : Bool
  deriving DecidableEq, Repr

/-- MX.DRAIN. -/
structure MxDrainArgs where
  drd : Reg
  d : Slot
  acc : BitVec 2
  nset : BitVec 2
  half : Bool
  conv : ConvBlk
  deriving DecidableEq, Repr

/-- MV.GEMV. -/
structure MvGemvArgs where
  rs : Reg
  mvd : Reg
  va : Slot
  vb : Slot
  d : Slot
  d2 : Slot
  h : BitVec 8
  port : BitVec 3
  port2 : BitVec 3
  clear : Bool
  fmtw : BitVec 4
  conv : ConvBlk
  deriving DecidableEq, Repr

/-- VX.EW. -/
structure VxEwArgs where
  vxd : Reg
  bb : Reg
  i0 : Slot
  i1 : Slot
  i2 : Slot
  d : Slot
  uop : BitVec 6
  num : Bool
  wf : BitVec 4
  group : Bool
  f0 : BitVec 4
  f1 : BitVec 4
  f2 : BitVec 4
  conv : ConvBlk
  deriving DecidableEq, Repr

/-- EP.RUN. -/
structure EpRunArgs where
  vxd : Reg
  bb : Reg
  i0 : Slot
  i1 : Slot
  i2 : Slot
  d : Slot
  slot : BitVec 3
  group : Bool
  f0 : BitVec 4
  f1 : BitVec 4
  f2 : BitVec 4
  conv : ConvBlk
  deriving DecidableEq, Repr

/-- VX.RED. -/
structure VxRedArgs where
  vxd : Reg
  sd : Reg
  i0 : Slot
  op : BitVec 4
  num : Bool
  pre : BitVec 4
  group : Bool
  kqx : BitVec 3
  f0 : BitVec 4
  rnd : BitVec 3
  ftz : Bool
  ieee : Bool
  deriving DecidableEq, Repr

/-- VX.SCAN and VX.SEGSCAN; the mask slot is read by VX.SEGSCAN only. -/
structure VxScanArgs where
  vxd : Reg
  b0 : Reg
  tot : Reg
  i0 : Slot
  mask : Slot
  d : Slot
  op : BitVec 4
  exc : Bool
  pre : BitVec 4
  group : Bool
  f0 : BitVec 4
  conv : ConvBlk
  deriving DecidableEq, Repr

/-- CVT. -/
structure CvtArgs where
  vxd : Reg
  i0 : Slot
  d : Slot
  group : Bool
  f0 : BitVec 4
  conv : ConvBlk
  deriving DecidableEq, Repr

/-- GLZ.STEP and GLZ.ROWS; `adv` is carried by GLZ.STEP, `list` and `port2` by GLZ.ROWS. -/
structure GlzArgs where
  gzd : Reg
  t : Reg
  sd : Reg
  list : Slot
  grad : Slot
  ch : BitVec 2
  g : BitVec 6
  hp : BitVec 8
  port : BitVec 3
  port2 : BitVec 3
  pfmt : BitVec 4
  gfmt : BitVec 4
  adv : Bool
  rnd : BitVec 3
  ftz : Bool
  ieee : Bool
  deriving DecidableEq, Repr

/-- The shape records of word 2 of a TDC-3 form, 14 bits per operand slot (R418). -/
structure ShapeRecs where
  r0 : BitVec 14
  r1 : BitVec 14
  r2 : BitVec 14
  r3 : BitVec 14
  deriving DecidableEq, Repr

/-- A block received from a fabric partner (Tables 13.1, 13.2), its CRC found correct:
`data` says that it came as 18 flits and carries the row `row`. -/
structure Block where
  typ : BitVec 4
  data : Bool
  seq : BitVec 8
  dst : BitVec 19
  src : BitVec 19
  win : BitVec 4
  wr : BitVec 17
  key : BitVec 32
  txn : BitVec 6
  status : BitVec 8
  row : Bytes
  deriving DecidableEq, Repr

/-- What a port finds wrong with an arrival (R288, R381). -/
inductive LinkFailure
  /-- A block that fails its CRC; `data` says that it came as 18 flits. -/
  | blockCrc (data : Bool)
  /-- A block that arrives out of sequence while the receiver discards (R288). -/
  | outOfSeq (data : Bool)
  /-- A flit without credit: a CRC failure of its block (R381). -/
  | noCredit
  /-- A link unit that fails its CRC. -/
  | unitCrc
  deriving DecidableEq, Repr

/-- An image as it was read from its slot (R365): whether every reservoir read succeeded, its public key, signature,
SEQ and SVN, and the bytes that the signature covers. -/
structure ImageRead where
  readsOk : Bool
  key : BitVec 512
  sig : BitVec 512
  seq : BitVec 32
  svn : BitVec 16
  signed : Bytes
  deriving DecidableEq, Repr

/-- What the physical steps 2 to 7 of a bisque start find (R341, R342, R365, R366). -/
structure BisqueOutcome where
  /-- The images that the ROM reads from the two slots, and whether each, once started, passes its self-check in
  time (R366). -/
  image0 : ImageRead
  image1 : ImageRead
  runs0 : Bool
  runs1 : Bool
  /-- START_CODE of the step from 3 to 7 that failed twice, 0 if none did (Table 16.7). -/
  startCode : BitVec 8
  /-- The local-store rows that the self-test finds failing, as physical rows (R90). -/
  badRows : List (BitVec 17)
  /-- Failed cube-columns (R165). -/
  badCols : BitVec 8
  /-- Delay trims of MI, VI, LI, FI (R313). -/
  trims : BitVec 24
  /-- Calibration offsets of the twelve Cones (R324, R359). -/
  offsets : List (BitVec 8)
  deriving DecidableEq, Repr

/-- What the steps of a refire find (R343): the step that failed twice (0 none), the measurement of each Cone at
the quick check and its offset where it is calibrated fully (R324), the trims, and the ports whose link reset the
partner acknowledged. -/
structure RefireOutcome where
  failStep : BitVec 4
  measured : List (BitVec 8)
  offsets : List (BitVec 8)
  trims : BitVec 24
  linkUp : BitVec 4
  deriving DecidableEq, Repr

/-- What the Bridle samples in a 1 ms tick (R355, R356, R387): four diode codes in units of 0.125 degrees and the
two rail-current codes in each brg_clk cycle. -/
structure TickSample where
  diodes : List (BitVec 16)
  core : List (BitVec 12)
  sram : List (BitVec 12)
  deriving DecidableEq, Repr

/-- The commands: every row of the table of operations and events. A row of an instruction stream
carries the thread that issues it. -/
inductive Instr
  -- scalar instructions (R62, R412)
  | nop (t : Thread)
  | add (t : Thread) (rd rs1 rs2 : Reg)
  | sub (t : Thread) (rd rs1 rs2 : Reg)
  | and (t : Thread) (rd rs1 rs2 : Reg)
  | or (t : Thread) (rd rs1 rs2 : Reg)
  | xor (t : Thread) (rd rs1 rs2 : Reg)
  | shl (t : Thread) (rd rs1 rs2 : Reg)
  | shr (t : Thread) (rd rs1 rs2 : Reg)
  | sra (t : Thread) (rd rs1 rs2 : Reg)
  | addi (t : Thread) (rd rs1 : Reg) (imm : BitVec 32)
  | andi (t : Thread) (rd rs1 : Reg) (imm : BitVec 32)
  | ori (t : Thread) (rd rs1 : Reg) (imm : BitVec 32)
  | xori (t : Thread) (rd rs1 : Reg) (imm : BitVec 32)
  | shli (t : Thread) (rd rs1 : Reg) (imm : BitVec 32)
  | shri (t : Thread) (rd rs1 : Reg) (imm : BitVec 32)
  | srai (t : Thread) (rd rs1 : Reg) (imm : BitVec 32)
  | li (t : Thread) (rd : Reg) (imm : BitVec 32)
  | lih (t : Thread) (rd : Reg) (imm : BitVec 32)
  | mul (t : Thread) (rd rs1 rs2 : Reg)
  | mulh (t : Thread) (rd rs1 rs2 : Reg)
  | mulhu (t : Thread) (rd rs1 rs2 : Reg)
  | divs (t : Thread) (rd rs1 rs2 : Reg)
  | divu (t : Thread) (rd rs1 rs2 : Reg)
  | rems (t : Thread) (rd rs1 rs2 : Reg)
  | remu (t : Thread) (rd rs1 rs2 : Reg)
  | cmpEq (t : Thread) (rd rs1 rs2 : Reg)
  | cmpNe (t : Thread) (rd rs1 rs2 : Reg)
  | cmpLt (t : Thread) (rd rs1 rs2 : Reg)
  | cmpLtu (t : Thread) (rd rs1 rs2 : Reg)
  | cmpGe (t : Thread) (rd rs1 rs2 : Reg)
  | cmpGeu (t : Thread) (rd rs1 rs2 : Reg)
  | beq (t : Thread) (rs1 rs2 : Reg) (off : BitVec 32)
  | bne (t : Thread) (rs1 rs2 : Reg) (off : BitVec 32)
  | blt (t : Thread) (rs1 rs2 : Reg) (off : BitVec 32)
  | bge (t : Thread) (rs1 rs2 : Reg) (off : BitVec 32)
  | bltu (t : Thread) (rs1 rs2 : Reg) (off : BitVec 32)
  | bgeu (t : Thread) (rs1 rs2 : Reg) (off : BitVec 32)
  | jmp (t : Thread) (off : BitVec 32)
  | jal (t : Thread) (rd : Reg) (off : BitVec 32)
  | jr (t : Thread) (rs1 : Reg)
  | fadd (t : Thread) (rd rs1 rs2 : Reg) (rnd : BitVec 3)
  | fsub (t : Thread) (rd rs1 rs2 : Reg) (rnd : BitVec 3)
  | fmul (t : Thread) (rd rs1 rs2 : Reg) (rnd : BitVec 3)
  | fma (t : Thread) (rd rs1 rs2 rs3 : Reg) (rnd : BitVec 3)
  | fdiv (t : Thread) (rd rs1 rs2 : Reg) (rnd : BitVec 3)
  | fsqrt (t : Thread) (rd rs1 : Reg) (rnd : BitVec 3)
  | fmin (t : Thread) (rd rs1 rs2 : Reg) (num : Bool)
  | fmax (t : Thread) (rd rs1 rs2 : Reg) (num : Bool)
  | fcmpEq (t : Thread) (rd rs1 rs2 : Reg)
  | fcmpLt (t : Thread) (rd rs1 rs2 : Reg)
  | fcmpLe (t : Thread) (rd rs1 rs2 : Reg)
  | fcmpUn (t : Thread) (rd rs1 rs2 : Reg)
  | fcvtDL (t : Thread) (rd rs1 : Reg) (rnd : BitVec 3)
  | fcvtLD (t : Thread) (rd rs1 : Reg) (rnd : BitVec 3)
  | fcvtDW (t : Thread) (rd rs1 : Reg)
  | fcvtWD (t : Thread) (rd rs1 : Reg) (rnd : BitVec 3)
  | ldB (t : Thread) (rd rs1 : Reg) (imm : BitVec 32)
  | ldBU (t : Thread) (rd rs1 : Reg) (imm : BitVec 32)
  | ldH (t : Thread) (rd rs1 : Reg) (imm : BitVec 32)
  | ldHU (t : Thread) (rd rs1 : Reg) (imm : BitVec 32)
  | ldW (t : Thread) (rd rs1 : Reg) (imm : BitVec 32)
  | ldWU (t : Thread) (rd rs1 : Reg) (imm : BitVec 32)
  | ldD (t : Thread) (rd rs1 : Reg) (imm : BitVec 32)
  | stB (t : Thread) (rs1 rs2 : Reg) (imm : BitVec 32)
  | stH (t : Thread) (rs1 rs2 : Reg) (imm : BitVec 32)
  | stW (t : Thread) (rs1 rs2 : Reg) (imm : BitVec 32)
  | stD (t : Thread) (rs1 rs2 : Reg) (imm : BitVec 32)
  | pmov (t : Thread) (rd : Reg) (imm : BitVec 32)
  | pset (t : Thread) (rs1 : Reg) (imm : BitVec 32)
  | kpush (t : Thread) (rs1 : Reg) (imm : BitVec 32)
  | kpop (t : Thread) (rd : Reg) (imm : BitVec 32)
  | qdepth (t : Thread) (rd : Reg) (imm : BitVec 32)
  | budget (t : Thread) (rd : Reg)
  | srd (t : Thread) (rd : Reg) (imm : BitVec 32)
  | swr (t : Thread) (rs1 : Reg) (imm : BitVec 32)
  | srseed (t : Thread) (rs1 : Reg)
  | srread (t : Thread) (rd : Reg)
  | nstatRd (t : Thread) (rd : Reg) (imm : BitVec 32)
  | amaxRd (t : Thread) (rd : Reg) (imm : BitVec 32)
  | coilBegin (t : Thread) (rs1 : Reg) (imm : BitVec 32)
  | coilEnd (t : Thread)
  | coilSet (t : Thread) (rs1 : Reg) (imm : BitVec 32)
  | coilBreak (t : Thread) (imm : BitVec 32)
  | coilIdx (t : Thread) (rd : Reg) (imm : BitVec 32)
  | fence (t : Thread)
  | replaySync (t : Thread)
  | fret (t : Thread)
  | halt (t : Thread)
  -- access stream (chapter 9, Table 21.6)
  | lsRd (t : Thread) (a : LsArgs)
  | lsWr (t : Thread) (a : LsArgs)
  | lsRq (t : Thread) (a : LsqArgs)
  | lsRqS (t : Thread) (a : LsqArgs)
  | lsWq (t : Thread) (a : LsqArgs)
  | lsTag (t : Thread) (a : LsTagArgs)
  | tld (t : Thread) (a : TileMoveArgs)
  | tldS (t : Thread) (a : TileMoveArgs)
  | tldT (t : Thread) (a : TldTArgs)
  | tst (t : Thread) (a : TileMoveArgs)
  | tstS (t : Thread) (a : TileMoveArgs)
  | tctxSave (t : Thread) (a : TctxArgs)
  | tctxLoad (t : Thread) (a : TctxArgs)
  | dmaCopy (t : Thread) (a : DmaArgs)
  | put (t : Thread) (a : RemoteArgs)
  | msgSend (t : Thread) (a : RemoteArgs)
  | take (t : Thread) (a : RemoteArgs)
  | msgRecv (t : Thread) (a : RemoteArgs)
  | peek (t : Thread) (a : RemoteArgs)
  | fetch (t : Thread) (a : FetchArgs)
  | bind (t : Thread) (h : BitVec 8) (tmask : BitVec 2)
  | unbind (t : Thread) (h : BitVec 8) (tmask : BitVec 2)
  | hswap (t : Thread) (ss : Reg) (h : BitVec 8)
  | sessNext (t : Thread) (sa sd : Reg)
  | spoolPrefetch (t : Thread) (ss : Reg) (n1 : BitVec 6)
  | spoolPin (t : Thread) (ss : Reg) (n1 : BitVec 6)
  | spoolUnpin (t : Thread) (ss : Reg) (n1 : BitVec 6)
  | spoolInv (t : Thread)
  -- execute stream (chapter 10, Table 21.6)
  | mxMm (t : Thread) (a : MxMmArgs)
  | mxWld (t : Thread) (a : MxWldArgs)
  | mxWldT (t : Thread) (a : MxWldTArgs)
  | mxConv (t : Thread) (a : MxConvArgs)
  | mxDrain (t : Thread) (a : MxDrainArgs)
  | mvGemv (t : Thread) (a : MvGemvArgs)
  | vxEw (t : Thread) (a : VxEwArgs)
  | epRun (t : Thread) (a : EpRunArgs)
  | vxRed (t : Thread) (a : VxRedArgs)
  | vxScan (t : Thread) (a : VxScanArgs)
  | vxSegscan (t : Thread) (a : VxScanArgs)
  | cvt (t : Thread) (a : CvtArgs)
  | epLoad (t : Thread) (slot : BitVec 3) (tile : BitVec 4)
  | glzStep (t : Thread) (a : GlzArgs)
  | glzRows (t : Thread) (a : GlzArgs)
  | tcfg (t : Thread) (mask : BitVec 16) (rows1 : BitVec 5) (bytes1 : BitVec 6) (fmt : BitVec 4)
  | tcfgR (t : Thread) (shape : Reg) (mask : BitVec 16)
  | trel (t : Thread) (mask : BitVec 16)
  | tdc3MxMm (t : Thread) (a : MxMmArgs) (r : ShapeRecs)
  | tdc3MvGemv (t : Thread) (a : MvGemvArgs) (r : ShapeRecs)
  | tdc3VxEw (t : Thread) (a : VxEwArgs) (r : ShapeRecs)
  | tdc3VxRed (t : Thread) (a : VxRedArgs) (r : ShapeRecs)
  | tdc3Cvt (t : Thread) (a : CvtArgs) (r : ShapeRecs)
  -- events inside the cluster; `fid` is the model's number of an instruction in flight
  | tagTestPass (fid : Nat)
  | tagTimeout (fid : Nat)
  | lsReadReturn (fid : Nat)
  | tensorCompletion (fid : Nat)
  | faultHandlerEntry (t : Thread)
  | mutualWait
  | spoolFillArrival (line : BitVec 48) (err : Bool) (data : Bytes)
  | boundaryAccess
  | scrubRead (stack : BitVec 5)
  | scrubWriteBack (stack : BitVec 5)
  | forcedScrubSlot (due : BitVec 24)
  | bindingRelease (t : Thread) (h : BitVec 8)
  | handleDrainComplete (h : BitVec 8)
  | msgRetry (fid : Nat) (row : Nat)
  -- arrivals at a fabric port
  | putReq (port : BitVec 2) (b : Block)
  | takeReq (port : BitVec 2) (b : Block)
  | peekReq (port : BitVec 2) (b : Block)
  | fetchReq (port : BitVec 2) (b : Block)
  | dataRsp (port : BitVec 2) (b : Block)
  | statusRsp (port : BitVec 2) (b : Block)
  | link (port : BitVec 2) (ack : Bool) (seq : BitVec 8)
  | linkNoAnswerResend (port : BitVec 2) (seq : BitVec 8)
  | fabricCreditReturn (port : BitVec 2)
  | fabRspTimeout (port : BitVec 2) (txn : BitVec 6)
  -- arrivals at the reservoir port
  | reservoirReadResponse (id : BitVec 6) (err : Bool) (data : Bytes)
  | reservoirWriteAck (id : BitVec 6) (err : Bool)
  -- host commands (Table 16.3) and the ends of those that take time
  | start
  | pause
  | pauseComplete
  | resume
  | refire
  | refireComplete (o : RefireOutcome)
  | maintEnter
  | maintExit
  | mouldLoad
  | mouldLoadComplete (readErr : Bool) (stream : List Bytes) (linkUp : BitVec 4)
  | lcSet
  | replay
  | setStep
  | switchBoundary
  | synthLockFail
  | retain
  | wake
  | sessResume
  | sessPark
  | hpin
  | hunpin
  | hfree
  | hevict
  | linkRetrain
  | retrainAck (port : BitVec 2)
  | retrainTimeout (port : BitVec 2)
  -- mailbox operations (Table 18.4)
  | version
  | telemetry
  | wearRead
  | wearWrite
  | updateVerify
  | updateActivate
  | monToken
  | monLock
  | lcChallenge
  | lcAuthorize
  | uartCfg
  | mailboxOperationEnd (img : ImageRead)
  -- serial monitor commands (Table 18.5)
  | help
  | id
  | state
  | temp
  | power
  | cones
  | steps
  | log (n : Nat)
  | cnt (address : BitVec 16)
  | unlock (token : BitVec 64)
  | lock
  -- CSR accesses with a row of their own, and all others
  | sessRead
  | sessWrite
  | sessCreditAdd (data : BitVec 32)
  | handleEntryWrite (address : BitVec 16) (data : BitVec 32)
  | pstageWrite (address : BitVec 16) (data : BitVec 32)
  | evtCauseClear (data : BitVec 32)
  | evtLogSel (data : BitVec 32)
  | evtLogRdptr (data : BitVec 32)
  | coneMinRead
  | wideRegisterLowerRead (address : BitVec 16)
  | csrWrite (address : BitVec 16) (data : BitVec 32)
  -- the start
  | bisqueStart (o : BisqueOutcome)
  -- power, clocks and margins
  | windowStrobe (credit : BitVec 16)
  | updateBoundary
  | ballastMissed
  | drogueLevelRise (codes : List (Option (BitVec 6)))
  | drogueLevelFall (codes : List (Option (BitVec 6)))
  | marginLow (cone : BitVec 4)
  | crossingOccupancyCheck (src dst : BitVec 3) (occ : BitVec 3)
  | safeEntry
  -- the Bridle
  | bridleTick (x : TickSample)
  | coneCalibration (offsets : List (BitVec 8))
  | wearEvaluation
  | watchdogExpiry
  | imageSelfCheckTimeout (slot : BitVec 1) (late : Bool) (image0 image1 : ImageRead)
  | eventLogEntry
  | uartCommandLine (samples : List Bool)
  | linkCrcFailure (port : BitVec 2) (kind : LinkFailure) (seq : BitVec 8)
  | imageSelfCheckPass (slot : BitVec 1) (image0 image1 : ImageRead)
  | configurationSweep
  -- resets
  | porNLow
  | rstNAssert
  | trstN
  -- test access port (R388)
  | bypass
  | idcode
  | samplePreload
  | extest
  | clamp
  deriving DecidableEq, Repr

end Sys2Proof
end

