-- ==== Sys2Proof/Decode.lean ====
section
/-! DEFINITION. The command that a word of the table of operations spells, and the decoding of the instruction words
of architecture 4.x (R410 to R416, R418). -/

namespace Sys2Proof

/-- The table gives none of its rows any bits, so no word spells a command. -/
def decodeTableWord (_nbits _w : Nat) : Option Instr := none

/-! Fields of words. -/

/-- The field of `n` bits from bit `lo` up. -/
def wordBits (w : Word64) (lo n : Nat) : Nat := w.toNat / 2 ^ lo % 2 ^ n

/-- The bits of a field, set. -/
def fieldMask (lo n : Nat) : Nat := (2 ^ n - 1) * 2 ^ lo

/-- A word has no bit set outside the fields of a mask (RES0). -/
def onlyBits (w : Word64) (mask : Nat) : Bool := w &&& ~~~(BitVec.ofNat 64 mask) == 0

/-! Scalar words (R412). -/

/-- The fields that a scalar instruction carries (Table 21.1). -/
structure ScalarUse where
  rd : Bool
  rs1 : Bool
  rs2 : Bool
  rs3 : Bool
  rnd : Bool
  num : Bool
  imm : Bool
  deriving DecidableEq, Repr

/-- The fields of the scalar opcodes (Table 21.2); none for a reserved one. -/
def scalarUse (opc : Nat) : Option ScalarUse :=
  let u (rd rs1 rs2 imm : Bool) : ScalarUse :=
    { rd := rd, rs1 := rs1, rs2 := rs2, rs3 := false, rnd := false, num := false, imm := imm }
  let three := u true true true false
  let two := u true true false true
  let rounded (x : ScalarUse) : ScalarUse := { x with rnd := true }
  if opc = 0x00 ∨ 0x2C ≤ opc ∧ opc ≤ 0x2F ∨ opc = 0x5B then some (u false false false false)
  else if 0x01 ≤ opc ∧ opc ≤ 0x08 then some three
  else if 0x09 ≤ opc ∧ opc ≤ 0x0F then some two
  else if opc = 0x10 ∨ opc = 0x11 then some (u true false false true)
  else if 0x12 ≤ opc ∧ opc ≤ 0x1E then some three
  else if 0x20 ≤ opc ∧ opc ≤ 0x25 then some (u false true true true)
  else if opc = 0x26 then some (u false false false true)
  else if opc = 0x27 then some (u true false false true)
  else if opc = 0x28 then some (u false true false false)
  else if opc = 0x33 then some { rounded three with rs3 := true }
  else if 0x30 ≤ opc ∧ opc ≤ 0x34 then some (rounded three)
  else if opc = 0x35 ∨ opc = 0x3C ∨ opc = 0x3D ∨ opc = 0x3F then some (rounded (u true true false false))
  else if opc = 0x3E then some (u true true false false)
  else if opc = 0x36 ∨ opc = 0x37 then some { three with num := true }
  else if 0x38 ≤ opc ∧ opc ≤ 0x3B then some three
  else if 0x40 ≤ opc ∧ opc ≤ 0x46 then some two
  else if 0x48 ≤ opc ∧ opc ≤ 0x4B then some (u false true true true)
  else if opc = 0x4C ∨ opc = 0x51 ∨ opc = 0x52 ∨ opc = 0x54 ∨ opc = 0x58 ∨ opc = 0x59 ∨ opc = 0x5E then
    some (u true false false true)
  else if opc = 0x4D ∨ opc = 0x50 ∨ opc = 0x55 ∨ opc = 0x5A ∨ opc = 0x5C then some (u false true false true)
  else if opc = 0x53 ∨ opc = 0x57 then some (u true false false false)
  else if opc = 0x56 then some (u false true false false)
  else if opc = 0x5D then some (u false false false true)
  else none

/-- The bits that a scalar instruction may set. -/
def scalarMask (u : ScalarUse) : Nat :=
  let b (x : Bool) (lo n : Nat) : Nat := if x then fieldMask lo n else 0
  fieldMask 0 8 + b u.rd 8 5 + b u.rs1 13 5 + b u.rs2 18 5 + b u.rs3 23 5 + b u.rnd 28 3 + b u.num 31 1 + b u.imm 32 32

/-- The arithmetic, compare and branch instructions. -/
def scalarLow (t : Thread) (opc : Nat) (rd rs1 rs2 : Reg) (imm : BitVec 32) : Option Instr :=
  match opc with
  | 0x00 => some (.nop t)
  | 0x01 => some (.add t rd rs1 rs2)
  | 0x02 => some (.sub t rd rs1 rs2)
  | 0x03 => some (.and t rd rs1 rs2)
  | 0x04 => some (.or t rd rs1 rs2)
  | 0x05 => some (.xor t rd rs1 rs2)
  | 0x06 => some (.shl t rd rs1 rs2)
  | 0x07 => some (.shr t rd rs1 rs2)
  | 0x08 => some (.sra t rd rs1 rs2)
  | 0x09 => some (.addi t rd rs1 imm)
  | 0x0A => some (.andi t rd rs1 imm)
  | 0x0B => some (.ori t rd rs1 imm)
  | 0x0C => some (.xori t rd rs1 imm)
  | 0x0D => some (.shli t rd rs1 imm)
  | 0x0E => some (.shri t rd rs1 imm)
  | 0x0F => some (.srai t rd rs1 imm)
  | 0x10 => some (.li t rd imm)
  | 0x11 => some (.lih t rd imm)
  | 0x12 => some (.mul t rd rs1 rs2)
  | 0x13 => some (.mulh t rd rs1 rs2)
  | 0x14 => some (.mulhu t rd rs1 rs2)
  | 0x15 => some (.divs t rd rs1 rs2)
  | 0x16 => some (.divu t rd rs1 rs2)
  | 0x17 => some (.rems t rd rs1 rs2)
  | 0x18 => some (.remu t rd rs1 rs2)
  | 0x19 => some (.cmpEq t rd rs1 rs2)
  | 0x1A => some (.cmpNe t rd rs1 rs2)
  | 0x1B => some (.cmpLt t rd rs1 rs2)
  | 0x1C => some (.cmpLtu t rd rs1 rs2)
  | 0x1D => some (.cmpGe t rd rs1 rs2)
  | 0x1E => some (.cmpGeu t rd rs1 rs2)
  | 0x20 => some (.beq t rs1 rs2 imm)
  | 0x21 => some (.bne t rs1 rs2 imm)
  | 0x22 => some (.blt t rs1 rs2 imm)
  | 0x23 => some (.bge t rs1 rs2 imm)
  | 0x24 => some (.bltu t rs1 rs2 imm)
  | 0x25 => some (.bgeu t rs1 rs2 imm)
  | 0x26 => some (.jmp t imm)
  | 0x27 => some (.jal t rd imm)
  | 0x28 => some (.jr t rs1)
  | 0x2C => some (.fence t)
  | 0x2D => some (.replaySync t)
  | 0x2E => some (.fret t)
  | 0x2F => some (.halt t)
  | _ => none

/-- The floating-point instructions. -/
def scalarFloat (t : Thread) (opc : Nat) (rd rs1 rs2 rs3 : Reg) (rnd : BitVec 3) (num : Bool) : Option Instr :=
  match opc with
  | 0x30 => some (.fadd t rd rs1 rs2 rnd)
  | 0x31 => some (.fsub t rd rs1 rs2 rnd)
  | 0x32 => some (.fmul t rd rs1 rs2 rnd)
  | 0x33 => some (.fma t rd rs1 rs2 rs3 rnd)
  | 0x34 => some (.fdiv t rd rs1 rs2 rnd)
  | 0x35 => some (.fsqrt t rd rs1 rnd)
  | 0x36 => some (.fmin t rd rs1 rs2 num)
  | 0x37 => some (.fmax t rd rs1 rs2 num)
  | 0x38 => some (.fcmpEq t rd rs1 rs2)
  | 0x39 => some (.fcmpLt t rd rs1 rs2)
  | 0x3A => some (.fcmpLe t rd rs1 rs2)
  | 0x3B => some (.fcmpUn t rd rs1 rs2)
  | 0x3C => some (.fcvtDL t rd rs1 rnd)
  | 0x3D => some (.fcvtLD t rd rs1 rnd)
  | 0x3E => some (.fcvtDW t rd rs1)
  | 0x3F => some (.fcvtWD t rd rs1 rnd)
  | _ => none

/-- Loads, stores and the system instructions. -/
def scalarHigh (t : Thread) (opc : Nat) (rd rs1 rs2 : Reg) (imm : BitVec 32) : Option Instr :=
  match opc with
  | 0x40 => some (.ldB t rd rs1 imm)
  | 0x41 => some (.ldBU t rd rs1 imm)
  | 0x42 => some (.ldH t rd rs1 imm)
  | 0x43 => some (.ldHU t rd rs1 imm)
  | 0x44 => some (.ldW t rd rs1 imm)
  | 0x45 => some (.ldWU t rd rs1 imm)
  | 0x46 => some (.ldD t rd rs1 imm)
  | 0x48 => some (.stB t rs1 rs2 imm)
  | 0x49 => some (.stH t rs1 rs2 imm)
  | 0x4A => some (.stW t rs1 rs2 imm)
  | 0x4B => some (.stD t rs1 rs2 imm)
  | 0x4C => some (.pmov t rd imm)
  | 0x4D => some (.pset t rs1 imm)
  | 0x50 => some (.kpush t rs1 imm)
  | 0x51 => some (.kpop t rd imm)
  | 0x52 => some (.qdepth t rd imm)
  | 0x53 => some (.budget t rd)
  | 0x54 => some (.srd t rd imm)
  | 0x55 => some (.swr t rs1 imm)
  | 0x56 => some (.srseed t rs1)
  | 0x57 => some (.srread t rd)
  | 0x58 => some (.nstatRd t rd imm)
  | 0x59 => some (.amaxRd t rd imm)
  | 0x5A => some (.coilBegin t rs1 imm)
  | 0x5B => some (.coilEnd t)
  | 0x5C => some (.coilSet t rs1 imm)
  | 0x5D => some (.coilBreak t imm)
  | 0x5E => some (.coilIdx t rd imm)
  | _ => none

/-- A scalar word. -/
def decodeScalar (t : Thread) (w : Word64) : Option Instr :=
  let opc := wordBits w 0 8
  let rd : Reg := BitVec.ofNat 5 (wordBits w 8 5)
  let rs1 : Reg := BitVec.ofNat 5 (wordBits w 13 5)
  let rs2 : Reg := BitVec.ofNat 5 (wordBits w 18 5)
  let imm := BitVec.ofNat 32 (wordBits w 32 32)
  match scalarUse opc with
  | none => none
  | some u =>
    if !onlyBits w (scalarMask u) then none
    else if opc < 0x30 then scalarLow t opc rd rs1 rs2 imm
    else if opc < 0x40 then
      scalarFloat t opc rd rs1 rs2 (BitVec.ofNat 5 (wordBits w 23 5)) (BitVec.ofNat 3 (wordBits w 28 3)) (w.getLsbD 31)
    else scalarHigh t opc rd rs1 rs2 imm

/-! Tensor words (R413 to R416). -/

/-- The layout of a tensor instruction (Table 21.6): its s-register fields, operand slots, widths of its immediate
fields, and the bits of the conversion block that it carries. -/
structure Layout where
  words : Nat
  regs : Nat
  slots : Nat
  imms : List Nat
  conv : Nat
  deriving DecidableEq, Repr

/-- The whole conversion block; RND, FTZ and SATMODE; FTZ alone (Tables 21.5, 10.4). -/
def convAll : Nat := fieldMask 23 22
/-- RND, FTZ and SATMODE. -/
def convRound : Nat := fieldMask 27 5
/-- FTZ. -/
def convFtz : Nat := fieldMask 30 1

/-- The layouts of Table 21.6; none for a reserved opcode. -/
def layoutOf (opc : Nat) : Option Layout :=
  let one (regs slots : Nat) (imms : List Nat) : Option Layout :=
    some { words := 1, regs := regs, slots := slots, imms := imms, conv := 0 }
  let two (regs slots : Nat) (imms : List Nat) (conv : Nat) : Option Layout :=
    some { words := 2, regs := regs, slots := slots, imms := imms, conv := conv }
  match opc with
  | 0x60 => one 2 0 [8, 6, 3, 1]
  | 0x61 => one 2 0 [8, 6, 3]
  | 0x62 => one 1 0 [3, 8, 6, 3, 1]
  | 0x63 => one 2 0 [3, 8, 6, 3, 1]
  | 0x64 => one 1 0 [3, 8, 6, 3]
  | 0x65 => one 2 0 [8, 1]
  | 0x66 => one 1 0 [6, 8, 6, 3, 1]
  | 0x67 => one 2 0 [6, 8, 6, 3, 1]
  | 0x68 => one 2 0 [6, 8, 3, 1, 3, 1]
  | 0x69 => one 1 0 [6, 8, 6, 3]
  | 0x6A => one 2 0 [6, 8, 6, 3]
  | 0x6B => one 2 0 [8, 3]
  | 0x6C => one 1 0 [8, 3]
  | 0x6D => one 2 0 [2, 12, 3, 1, 8, 8]
  | 0x70 => two 6 0 [9, 2, 4, 6, 3, 1, 1] 0
  | 0x71 => two 6 0 [9, 2, 4, 6, 3, 1, 1] 0
  | 0x72 => two 6 0 [9, 2, 4, 6, 3, 1, 1] 0
  | 0x73 => two 6 0 [9, 2, 4, 6, 3, 1, 1] 0
  | 0x74 => two 6 0 [9, 2, 4, 6, 3, 1, 1] 0
  | 0x75 => two 6 0 [9, 2, 4] 0
  | 0x78 => one 0 0 [8, 2]
  | 0x79 => one 0 0 [8, 2]
  | 0x7A => one 1 0 [8]
  | 0x7B => one 2 0 []
  | 0x7C => one 1 0 [6]
  | 0x7D => one 1 0 [6]
  | 0x7E => one 1 0 [6]
  | 0x7F => one 0 0 []
  | 0x90 => two 1 2 [2, 1, 1, 1, 4, 4] convFtz
  | 0x91 => one 0 1 [1]
  | 0x92 => one 2 0 [8, 3, 1, 4, 1, 3, 2]
  | 0x93 => two 3 1 [8, 3, 3, 1, 2, 1, 1, 4, 4] convFtz
  | 0x94 => two 1 1 [2, 2, 1] convAll
  | 0x98 => two 2 4 [8, 3, 3, 1, 4] convAll
  | 0xA0 => two 2 4 [6, 1, 4, 1, 4, 4, 4] convAll
  | 0xA1 => two 2 4 [3, 1, 4, 4, 4] convAll
  | 0xA2 => two 2 1 [4, 1, 4, 1, 3, 4] convRound
  | 0xA3 => two 3 2 [4, 1, 4, 1, 4] convAll
  | 0xA4 => two 3 3 [4, 1, 4, 1, 4] convAll
  | 0xA5 => two 1 2 [1, 4] convAll
  | 0xA6 => one 0 0 [3, 4]
  | 0xB0 => two 3 1 [2, 6, 8, 3, 4, 4, 1] convRound
  | 0xB1 => two 3 2 [2, 6, 8, 3, 3, 4, 4] convRound
  | 0xB8 => one 0 0 [16, 5, 6, 4]
  | 0xB9 => one 1 0 [16]
  | 0xBA => one 0 0 [16]
  | _ => none

/-- The places of immediate fields: whether in word 1, lowest bit, width. A field that does not fit in word 0 begins
at bit 45 of word 1, and the later ones follow it (R414). -/
def placeFields : Bool → Nat → List Nat → List (Bool × Nat × Nat)
  | _, _, [] => []
  | true, p, n :: ns => (true, p, n) :: placeFields true (p + n) ns
  | false, p, n :: ns =>
    if p + n ≤ 64 then (false, p, n) :: placeFields false (p + n) ns
    else (true, 45, n) :: placeFields true (45 + n) ns

/-- The places of the immediate fields of a layout. -/
def Layout.places (l : Layout) : List (Bool × Nat × Nat) := placeFields false (23 + 7 * l.slots) l.imms

/-- The bits of s-register field `k`: three to a word. -/
def regMask (n : Nat) : Nat := ((List.range n).map (fun k => fieldMask (8 + 5 * k) 5)).sum

/-- The bits that word 0 may set. -/
def Layout.mask0 (l : Layout) : Nat :=
  fieldMask 0 8 + regMask (min 3 l.regs) + fieldMask 23 (7 * l.slots) +
    ((l.places.filter (fun x => !x.1)).map (fun x => fieldMask x.2.1 x.2.2)).sum

/-- The bits that word 1 may set. -/
def Layout.mask1 (l : Layout) : Nat :=
  fieldMask 0 8 + regMask (l.regs - 3) + l.conv +
    ((l.places.filter (fun x => x.1)).map (fun x => fieldMask x.2.1 x.2.2)).sum

/-- A tensor instruction's fields as read. -/
structure Fields where
  sr : Nat → Reg
  slot : Nat → Slot
  imm : Nat → Nat
  conv : ConvBlk

/-- The conversion block of word 1 (Table 21.5). -/
def readConv (w : Word64) : ConvBlk where
  dfmt := BitVec.ofNat 4 (wordBits w 23 4)
  rnd := BitVec.ofNat 3 (wordBits w 27 3)
  ftz := w.getLsbD 30
  ieee := w.getLsbD 31
  amx := BitVec.ofNat 4 (wordBits w 32 4)
  gacc := w.getLsbD 36
  naninc := w.getLsbD 37
  scl := BitVec.ofNat 7 (wordBits w 38 7)

/-- The fields of a layout in two words. -/
def Layout.read (l : Layout) (w0 w1 : Word64) : Fields where
  sr k := BitVec.ofNat 5 (if k < 3 then wordBits w0 (8 + 5 * k) 5 else wordBits w1 (8 + 5 * (k - 3)) 5)
  slot k := BitVec.ofNat 7 (wordBits w0 (23 + 7 * k) 7)
  imm k :=
    match l.places[k]? with
    | some (second, p, n) => wordBits (if second then w1 else w0) p n
    | none => 0
  conv := readConv w1

/-- A one-bit field. -/
def Fields.flag (f : Fields) (k : Nat) : Bool := f.imm k == 1

/-- A tile move (TLD, TST and their strided forms). -/
def moveArgs (f : Fields) : TileMoveArgs where
  tg := BitVec.ofNat 6 (f.imm 0)
  rs := f.sr 0
  stride := f.sr 1
  h := BitVec.ofNat 8 (f.imm 1)
  n1 := BitVec.ofNat 6 (f.imm 2)
  port := BitVec.ofNat 3 (f.imm 3)
  clear := f.flag 4

/-- LS.RD and LS.WR. -/
def lsArgs (f : Fields) : LsArgs where
  sa := f.sr 0
  rs := f.sr 1
  h := BitVec.ofNat 8 (f.imm 0)
  n1 := BitVec.ofNat 6 (f.imm 1)
  port := BitVec.ofNat 3 (f.imm 2)
  clear := f.flag 3

/-- LS.RQ, LS.RQ.S and LS.WQ. -/
def lsqArgs (f : Fields) : LsqArgs where
  q := BitVec.ofNat 3 (f.imm 0)
  rs := f.sr 0
  stride := f.sr 1
  h := BitVec.ofNat 8 (f.imm 1)
  n1 := BitVec.ofNat 6 (f.imm 2)
  port := BitVec.ofNat 3 (f.imm 3)
  clear := f.flag 4

/-- The remote instructions with a row count. -/
def remoteArgs (f : Fields) : RemoteArgs where
  rs := f.sr 0
  node := f.sr 1
  wr := f.sr 2
  key := f.sr 3
  sd := f.sr 4
  sa := f.sr 5
  le := BitVec.ofNat 9 (f.imm 0)
  fp := BitVec.ofNat 2 (f.imm 1)
  win := BitVec.ofNat 4 (f.imm 2)
  n1 := BitVec.ofNat 6 (f.imm 3)
  port := BitVec.ofNat 3 (f.imm 4)
  clear := f.flag 5
  saen := f.flag 6

/-- The other access instructions. -/
def tldTArgs (f : Fields) : TldTArgs where
  tg := BitVec.ofNat 6 (f.imm 0)
  rs := f.sr 0
  stride := f.sr 1
  h := BitVec.ofNat 8 (f.imm 1)
  port := BitVec.ofNat 3 (f.imm 2)
  clear := f.flag 3
  j := BitVec.ofNat 3 (f.imm 4)
  wide := f.flag 5

/-- TCTX.SAVE and TCTX.LOAD. -/
def tctxArgs (f : Fields) : TctxArgs where
  rs := f.sr 0
  sd := f.sr 1
  h := BitVec.ofNat 8 (f.imm 0)
  port := BitVec.ofNat 3 (f.imm 1)

/-- DMA.COPY. -/
def dmaArgs (f : Fields) : DmaArgs where
  src := f.sr 0
  dst := f.sr 1
  form := BitVec.ofNat 2 (f.imm 0)
  ndma := BitVec.ofNat 12 (f.imm 1)
  port := BitVec.ofNat 3 (f.imm 2)
  clear := f.flag 3
  ha := BitVec.ofNat 8 (f.imm 4)
  hb := BitVec.ofNat 8 (f.imm 5)

/-- LS.TAG. -/
def lsTagArgs (f : Fields) : LsTagArgs where
  rs := f.sr 0
  n := f.sr 1
  h := BitVec.ofNat 8 (f.imm 0)
  full := f.flag 1

/-- FETCH. -/
def fetchArgs (f : Fields) : FetchArgs where
  rs := f.sr 0
  node := f.sr 1
  wr := f.sr 2
  key := f.sr 3
  sd := f.sr 4
  n := f.sr 5
  le := BitVec.ofNat 9 (f.imm 0)
  fp := BitVec.ofNat 2 (f.imm 1)
  win := BitVec.ofNat 4 (f.imm 2)

/-- The TA instructions. -/
def buildAccess (t : Thread) (opc : Nat) (f : Fields) : Option Instr :=
  match opc with
  | 0x60 => some (.lsRd t (lsArgs f))
  | 0x61 => some (.lsWr t (lsArgs f))
  | 0x62 => some (.lsRq t (lsqArgs f))
  | 0x63 => some (.lsRqS t (lsqArgs f))
  | 0x64 => some (.lsWq t (lsqArgs f))
  | 0x65 => some (.lsTag t (lsTagArgs f))
  | 0x66 => some (.tld t (moveArgs f))
  | 0x67 => some (.tldS t (moveArgs f))
  | 0x68 => some (.tldT t (tldTArgs f))
  | 0x69 => some (.tst t (moveArgs f))
  | 0x6A => some (.tstS t (moveArgs f))
  | 0x6B => some (.tctxSave t (tctxArgs f))
  | 0x6C => some (.tctxLoad t (tctxArgs f))
  | 0x6D => some (.dmaCopy t (dmaArgs f))
  | 0x70 => some (.put t (remoteArgs f))
  | 0x71 => some (.msgSend t (remoteArgs f))
  | 0x72 => some (.take t (remoteArgs f))
  | 0x73 => some (.msgRecv t (remoteArgs f))
  | 0x74 => some (.peek t (remoteArgs f))
  | 0x75 => some (.fetch t (fetchArgs f))
  | 0x78 => some (.bind t (BitVec.ofNat 8 (f.imm 0)) (BitVec.ofNat 2 (f.imm 1)))
  | 0x79 => some (.unbind t (BitVec.ofNat 8 (f.imm 0)) (BitVec.ofNat 2 (f.imm 1)))
  | 0x7A => some (.hswap t (f.sr 0) (BitVec.ofNat 8 (f.imm 0)))
  | 0x7B => some (.sessNext t (f.sr 0) (f.sr 1))
  | 0x7C => some (.spoolPrefetch t (f.sr 0) (BitVec.ofNat 6 (f.imm 0)))
  | 0x7D => some (.spoolPin t (f.sr 0) (BitVec.ofNat 6 (f.imm 0)))
  | 0x7E => some (.spoolUnpin t (f.sr 0) (BitVec.ofNat 6 (f.imm 0)))
  | 0x7F => some (.spoolInv t)
  | _ => none

/-- MX.MM. -/
def mxMmArgs (f : Fields) : MxMmArgs where
  mxd := f.sr 0
  a := f.slot 0
  w := f.slot 1
  acc := BitVec.ofNat 2 (f.imm 0)
  accum := f.flag 1
  raw := f.flag 2
  half := f.flag 3
  fmta := BitVec.ofNat 4 (f.imm 4)
  fmtw := BitVec.ofNat 4 (f.imm 5)
  ftz := f.conv.ftz

/-- MX.WLD.T. -/
def mxWldTArgs (f : Fields) : MxWldTArgs where
  rs := f.sr 0
  stride := f.sr 1
  h := BitVec.ofNat 8 (f.imm 0)
  port := BitVec.ofNat 3 (f.imm 1)
  clear := f.flag 2
  fmtw := BitVec.ofNat 4 (f.imm 3)
  half := f.flag 4
  j := BitVec.ofNat 3 (f.imm 5)
  qsel := BitVec.ofNat 2 (f.imm 6)

/-- MX.CONV. -/
def mxConvArgs (f : Fields) : MxConvArgs where
  rs := f.sr 0
  cvg1 := f.sr 1
  cvg2 := f.sr 2
  w := f.slot 0
  h := BitVec.ofNat 8 (f.imm 0)
  port := BitVec.ofNat 3 (f.imm 1)
  port2 := BitVec.ofNat 3 (f.imm 2)
  clear := f.flag 3
  acc := BitVec.ofNat 2 (f.imm 4)
  accum := f.flag 5
  half := f.flag 6
  fmta := BitVec.ofNat 4 (f.imm 7)
  fmtw := BitVec.ofNat 4 (f.imm 8)
  ftz := f.conv.ftz

/-- MX.DRAIN. -/
def mxDrainArgs (f : Fields) : MxDrainArgs where
  drd := f.sr 0
  d := f.slot 0
  acc := BitVec.ofNat 2 (f.imm 0)
  nset := BitVec.ofNat 2 (f.imm 1)
  half := f.flag 2
  conv := f.conv

/-- MV.GEMV. -/
def mvGemvArgs (f : Fields) : MvGemvArgs where
  rs := f.sr 0
  mvd := f.sr 1
  va := f.slot 0
  vb := f.slot 1
  d := f.slot 2
  d2 := f.slot 3
  h := BitVec.ofNat 8 (f.imm 0)
  port := BitVec.ofNat 3 (f.imm 1)
  port2 := BitVec.ofNat 3 (f.imm 2)
  clear := f.flag 3
  fmtw := BitVec.ofNat 4 (f.imm 4)
  conv := f.conv

/-- VX.EW. -/
def vxEwArgs (f : Fields) : VxEwArgs where
  vxd := f.sr 0
  bb := f.sr 1
  i0 := f.slot 0
  i1 := f.slot 1
  i2 := f.slot 2
  d := f.slot 3
  uop := BitVec.ofNat 6 (f.imm 0)
  num := f.flag 1
  wf := BitVec.ofNat 4 (f.imm 2)
  group := f.flag 3
  f0 := BitVec.ofNat 4 (f.imm 4)
  f1 := BitVec.ofNat 4 (f.imm 5)
  f2 := BitVec.ofNat 4 (f.imm 6)
  conv := f.conv

/-- EP.RUN. -/
def epRunArgs (f : Fields) : EpRunArgs where
  vxd := f.sr 0
  bb := f.sr 1
  i0 := f.slot 0
  i1 := f.slot 1
  i2 := f.slot 2
  d := f.slot 3
  slot := BitVec.ofNat 3 (f.imm 0)
  group := f.flag 1
  f0 := BitVec.ofNat 4 (f.imm 2)
  f1 := BitVec.ofNat 4 (f.imm 3)
  f2 := BitVec.ofNat 4 (f.imm 4)
  conv := f.conv

/-- VX.RED. -/
def vxRedArgs (f : Fields) : VxRedArgs where
  vxd := f.sr 0
  sd := f.sr 1
  i0 := f.slot 0
  op := BitVec.ofNat 4 (f.imm 0)
  num := f.flag 1
  pre := BitVec.ofNat 4 (f.imm 2)
  group := f.flag 3
  kqx := BitVec.ofNat 3 (f.imm 4)
  f0 := BitVec.ofNat 4 (f.imm 5)
  rnd := f.conv.rnd
  ftz := f.conv.ftz
  ieee := f.conv.ieee

/-- VX.SCAN and VX.SEGSCAN, with the slot of the destination. -/
def vxScanArgs (f : Fields) (mask d : Nat) : VxScanArgs where
  vxd := f.sr 0
  b0 := f.sr 1
  tot := f.sr 2
  i0 := f.slot 0
  mask := f.slot mask
  d := f.slot d
  op := BitVec.ofNat 4 (f.imm 0)
  exc := f.flag 1
  pre := BitVec.ofNat 4 (f.imm 2)
  group := f.flag 3
  f0 := BitVec.ofNat 4 (f.imm 4)
  conv := f.conv

/-- CVT. -/
def cvtArgs (f : Fields) : CvtArgs where
  vxd := f.sr 0
  i0 := f.slot 0
  d := f.slot 1
  group := f.flag 0
  f0 := BitVec.ofNat 4 (f.imm 1)
  conv := f.conv

/-- GLZ.STEP. -/
def glzStepArgs (f : Fields) : GlzArgs where
  gzd := f.sr 0
  t := f.sr 1
  sd := f.sr 2
  list := 0
  grad := f.slot 0
  ch := BitVec.ofNat 2 (f.imm 0)
  g := BitVec.ofNat 6 (f.imm 1)
  hp := BitVec.ofNat 8 (f.imm 2)
  port := BitVec.ofNat 3 (f.imm 3)
  port2 := 0
  pfmt := BitVec.ofNat 4 (f.imm 4)
  gfmt := BitVec.ofNat 4 (f.imm 5)
  adv := f.flag 6
  rnd := f.conv.rnd
  ftz := f.conv.ftz
  ieee := f.conv.ieee

/-- GLZ.ROWS. -/
def glzRowsArgs (f : Fields) : GlzArgs where
  gzd := f.sr 0
  t := f.sr 1
  sd := f.sr 2
  list := f.slot 0
  grad := f.slot 1
  ch := BitVec.ofNat 2 (f.imm 0)
  g := BitVec.ofNat 6 (f.imm 1)
  hp := BitVec.ofNat 8 (f.imm 2)
  port := BitVec.ofNat 3 (f.imm 3)
  port2 := BitVec.ofNat 3 (f.imm 4)
  pfmt := BitVec.ofNat 4 (f.imm 5)
  gfmt := BitVec.ofNat 4 (f.imm 6)
  adv := false
  rnd := f.conv.rnd
  ftz := f.conv.ftz
  ieee := f.conv.ieee

/-- The TX instructions. -/
def buildExecute (t : Thread) (opc : Nat) (f : Fields) : Option Instr :=
  match opc with
  | 0x90 => some (.mxMm t (mxMmArgs f))
  | 0x91 => some (.mxWld t { w := f.slot 0, half := f.flag 0 })
  | 0x92 => some (.mxWldT t (mxWldTArgs f))
  | 0x93 => some (.mxConv t (mxConvArgs f))
  | 0x94 => some (.mxDrain t (mxDrainArgs f))
  | 0x98 => some (.mvGemv t (mvGemvArgs f))
  | 0xA0 => some (.vxEw t (vxEwArgs f))
  | 0xA1 => some (.epRun t (epRunArgs f))
  | 0xA2 => some (.vxRed t (vxRedArgs f))
  | 0xA3 => some (.vxScan t { vxScanArgs f 0 1 with mask := 0 })
  | 0xA4 => some (.vxSegscan t (vxScanArgs f 1 2))
  | 0xA5 => some (.cvt t (cvtArgs f))
  | 0xA6 => some (.epLoad t (BitVec.ofNat 3 (f.imm 0)) (BitVec.ofNat 4 (f.imm 1)))
  | 0xB0 => some (.glzStep t (glzStepArgs f))
  | 0xB1 => some (.glzRows t (glzRowsArgs f))
  | 0xB8 => some (.tcfg t (BitVec.ofNat 16 (f.imm 0)) (BitVec.ofNat 5 (f.imm 1)) (BitVec.ofNat 6 (f.imm 2))
      (BitVec.ofNat 4 (f.imm 3)))
  | 0xB9 => some (.tcfgR t (f.sr 0) (BitVec.ofNat 16 (f.imm 0)))
  | 0xBA => some (.trel t (BitVec.ofNat 16 (f.imm 0)))
  | _ => none

/-- An extension word (R410). -/
def isExtension (w : Word64) : Bool := wordBits w 0 8 == 0xFE

/-! TDC-3 forms (R418). -/

/-- The native opcode of a TDC-3 form. -/
def nativeOpc (opc : Nat) : Option Nat :=
  match opc with
  | 0xC0 => some 0x90
  | 0xC1 => some 0x98
  | 0xC2 => some 0xA0
  | 0xC3 => some 0xA2
  | 0xC4 => some 0xA5
  | _ => none

/-- The immediate fields of a native form that are RES0 in its TDC-3 form: HALF, GROUP and the formats. -/
def c3Zero (opc : Nat) : List Nat :=
  match opc with
  | 0xC0 => [3, 4, 5]
  | 0xC1 => [4]
  | 0xC2 => [3, 4, 5, 6]
  | 0xC3 => [3, 5]
  | 0xC4 => [0, 1]
  | _ => []

/-- The shape records of word 2. -/
def readRecs (w : Word64) : ShapeRecs where
  r0 := BitVec.ofNat 14 (wordBits w 8 14)
  r1 := BitVec.ofNat 14 (wordBits w 22 14)
  r2 := BitVec.ofNat 14 (wordBits w 36 14)
  r3 := BitVec.ofNat 14 (wordBits w 50 14)

/-- The TDC-3 forms. -/
def buildC3 (t : Thread) (opc : Nat) (f : Fields) (r : ShapeRecs) : Option Instr :=
  match opc with
  | 0xC0 => some (.tdc3MxMm t (mxMmArgs f) r)
  | 0xC1 => some (.tdc3MvGemv t (mvGemvArgs f) r)
  | 0xC2 => some (.tdc3VxEw t (vxEwArgs f) r)
  | 0xC3 => some (.tdc3VxRed t (vxRedArgs f) r)
  | 0xC4 => some (.tdc3Cvt t (cvtArgs f) r)
  | _ => none

/-- A TDC-3 form: only SCL of the conversion block may be set. -/
def decodeC3 (t : Thread) (w0 w1 w2 : Word64) : Option Instr :=
  let opc := wordBits w0 0 8
  match (nativeOpc opc).bind layoutOf with
  | none => none
  | some l =>
    let l := { l with conv := if l.conv = convAll then fieldMask 38 7 else 0 }
    let f := l.read w0 w1
    if onlyBits w0 l.mask0 && onlyBits w1 l.mask1 && isExtension w1 && isExtension w2 &&
        (c3Zero opc).all (fun k => f.imm k == 0) then buildC3 t opc f (readRecs w2)
    else none

/-- A TA or TX instruction. -/
def decodeTensor (t : Thread) (w0 w1 : Word64) : Option Instr :=
  let opc := wordBits w0 0 8
  match layoutOf opc with
  | none => none
  | some l =>
    let second := l.words == 1 || (isExtension w1 && onlyBits w1 l.mask1)
    if onlyBits w0 l.mask0 && second then
      if opc < 0x90 then buildAccess t opc (l.read w0 w1) else buildExecute t opc (l.read w0 w1)
    else none

/-- Words of an instruction, by its opcode. -/
def wordCount (opc : Nat) : Nat :=
  if 0xC0 ≤ opc ∧ opc ≤ 0xC4 then 3
  else
    match layoutOf opc with
    | some l => l.words
    | none => 1

/-- The instruction that three consecutive words begin with; none for words that fault with ILLEGAL_OP whatever the
state is: a reserved opcode, a set RES0 bit, a missing extension word (R410, R411). -/
def decodeWords (t : Thread) (w0 w1 w2 : Word64) : Option Instr :=
  let opc := wordBits w0 0 8
  if opc < 0x60 then decodeScalar t w0
  else if opc < 0xC0 then decodeTensor t w0 w1
  else decodeC3 t w0 w1 w2

end Sys2Proof
end

