-- ==== Sys2Proof/Config.lean ====
section
/-! DEFINITION. The values that the spec leaves open, as constants without a body: nothing can evaluate them
or prove a value of them. -/

namespace Sys2Proof.Config

/-- What CREDITS holds after a decrement of zero (Table 12.2): a free value, log entry 47. -/
opaque noCredit : Nat → BitVec 8

/-- Deviation, in units of the last place of the FP32 result, of the approximating micro-ops exp2, log2,
reciprocal, reciprocal square root and tanh (codes 0x10 to 0x14) at an FP32 input (R53); the model keeps it
inside the bound of Table 02.5. -/
opaque approxNudge : Nat → BitVec 32 → Int

/-- The code of the weight format of a TDC-3 MV.GEMV, whose FMTW field is zero and whose shape records name no
weights (R418), by the format code of its vector. -/
opaque tdc3WeightFmt : BitVec 4 → BitVec 4

/-- The scale byte of a block whose scale by R43 is above 254, by that scale: R43 clamps the low end only, and
SCL up to 63 (R191) takes large elements beyond the range of E8M0. -/
opaque mxScaleBeyond : Int → BitVec 8

/-- The codes of ACK and of NAK in byte 1 of a link unit (R287 gives none), log entry 66. -/
opaque ackCode : BitVec 8

/-- The code of NAK. -/
opaque nakCode : BitVec 8

/-- The nonce of LC_CHALLENGE (R368), by the number of free values drawn before it. -/
opaque nonce : Nat → BitVec 64

/-- The ticket that LC_AUTHORIZE returns (R368), by the number of free values drawn before it. -/
opaque ticket : Nat → BitVec 64

/-- DATA12 to DATA15 of TELEMETRY, to which Table 18.4 gives no value, by the number of free values drawn
before. -/
opaque telemetryRest : Nat → Nat → BitVec 32

/-- Whether the mean of rail-current codes with this sum and this number, which lies between two codes, is the upper
one (R356 gives no rounding), log entry 68. -/
opaque meanUp : Nat → Nat → Bool

/-- The text in which the serial monitor writes a row of values: R371 gives the values and not their text, log
entry 45. -/
opaque valueText : List Nat → Bytes

/-- SHA-256 of a byte string (R365, R368). -/
opaque sha256 : Bytes → BitVec 256

/-- ECDSA P-256 verification of a signature over a digest with a public key (R365, R368). -/
opaque p256Verify : BitVec 512 → BitVec 512 → BitVec 256 → Bool

/-- What the scan after a SAMPLE/PRELOAD leaves in the cells of the boundary-scan register, by the number of such scans
before it: the surroundings shift it in (R388), log entry 7. -/
opaque scanIn : Nat → List Bool

end Sys2Proof.Config
end

