-- ==== Sys2Proof/Machine/Sparse.lean ====
section
/-! DEFINITION. The operations of the sparse map and of byte memories, in canonical form. -/

namespace Sys2Proof

namespace Sparse

/-- The value at key `k`, `d` where the map lists none. -/
def get {α : Type} (d : α) : Sparse α → Nat → α
  | [], _ => d
  | (j, v) :: m, k => if k = j then v else if k < j then d else get d m k

/-- Insert or replace without regard to the default. -/
def put {α : Type} : Sparse α → Nat → α → Sparse α
  | [], k, v => [(k, v)]
  | (j, w) :: m, k, v =>
    if k = j then (k, v) :: m
    else if k < j then (k, v) :: (j, w) :: m
    else (j, w) :: put m k v

/-- Remove a key. -/
def drop {α : Type} : Sparse α → Nat → Sparse α
  | [], _ => []
  | (j, w) :: m, k => if k = j then m else if k < j then (j, w) :: m else (j, w) :: drop m k

/-- Write `v` at `k`, keeping the canonical form: a key that would hold the default is not listed. -/
def set {α : Type} [DecidableEq α] (d : α) (m : Sparse α) (k : Nat) (v : α) : Sparse α :=
  if v = d then drop m k else put m k v

/-- All keys are above `lo`, strictly rising, and no entry holds the default. -/
def wfFrom {α : Type} [DecidableEq α] (d : α) : Nat → Sparse α → Bool
  | _, [] => true
  | lo, (j, v) :: m => decide (lo ≤ j) && decide (v ≠ d) && wfFrom d (j + 1) m

/-- Canonical form: keys strictly rising, no entry equal to what an unlisted key reads as. -/
def wf {α : Type} [DecidableEq α] (d : α) (m : Sparse α) : Bool := wfFrom d 0 m

end Sparse


namespace Mem

/-- One byte. -/
def read (m : Mem) (a : Nat) : Byte := Sparse.get 0 m a

/-- Write one byte. -/
def write (m : Mem) (a : Nat) (b : Byte) : Mem := Sparse.set 0 m a b

/-- `n` bytes from address `a` upwards. -/
def readBytes (m : Mem) : Nat → Nat → Bytes
  | _, 0 => []
  | a, n + 1 => read m a :: readBytes m (a + 1) n

/-- The bytes of `bs` at address `a` upwards. -/
def writeBytes (m : Mem) : Nat → Bytes → Mem
  | _, [] => m
  | a, b :: bs => writeBytes (write m a b) (a + 1) bs

/-- The canonical form of a memory. -/
def wf (m : Mem) : Bool := Sparse.wf 0 m

end Mem

end Sys2Proof
end

