-- ==== Sys2Proof/Machine/State.lean ====
section
/-! DEFINITION. The state of the cluster as plain data: every register, table, queue, memory and mode
that the rules name, the queue of waiting commands, and the state right after reset. -/

namespace Sys2Proof.Machine

/-- A decoded number (R29): a NaN with its mantissa field aligned to the left of 52 bits, an
infinity, or a finite value `(-1)^sign * mant * 2^exp`. Signed zeros have `mant = 0`. -/
inductive Val
  | nan (sign : Bool) (payload : Nat)
  | inf (sign : Bool)
  | fin (sign : Bool) (mant : Nat) (exp : Int)
  deriving DecidableEq, Repr

/-- Counts of an instruction in progress (R44) with the LFSR its draws leave (R40). -/
structure Tally where
  nsat : Nat
  nflush : Nat
  nnan : Nat
  lfsr : Word32
  deriving DecidableEq, Repr

/-- Design-time parameters (R4) and the cluster's serial number. -/
structure Build where
  vxLanes : Nat
  lsStacks : Nat
  sessEntries : Nat
  spoolKib : Nat
  serial : BitVec 64
  deriving DecidableEq, Repr

/-- The values of the fuse bus (Table 19.1). -/
structure Fuses where
  grade : BitVec 2
  lc : BitVec 3
  cluster : BitVec 9
  slotBase : BitVec 31
  minSvn : BitVec 16
  keyhash : BitVec 256
  lckeyhash : BitVec 256
  jtagMfr : BitVec 11
  deriving DecidableEq, Repr

/-- Run states (Table 16.1). -/
inductive RunState
  | off | bisque | refire | ready | run | pause | maint | safe | faulted
  deriving DecidableEq, Repr

/-- Owners (R334). -/
inductive Owner
  | host | tether | bridle
  deriving DecidableEq, Repr

/-- One half's copy of the run-control state (R22, R334). -/
structure RunCopy where
  state : RunState
  owner : Owner
  epoch : BitVec 8
  deriving DecidableEq, Repr

/-- Causes of SAFE (Table 20.3). -/
inductive SafeCause
  | none | splitAuthority | clkSlip
  deriving DecidableEq, Repr

/-- Run state, ownership and the reset pins (R329, R334, R374, R397). -/
structure RunCtl where
  porN : Bool
  rstN : Bool
  state : RunState
  owner : Owner
  epoch : BitVec 8
  retained : Bool
  step : BitVec 4
  west : RunCopy
  east : RunCopy
  safeCause : SafeCause
  /-- State held before SAFE (R335). -/
  held : RunState
  /-- SAFE is to be entered at the next instruction boundary (R22, R314). -/
  safeDue : Bool
  startCode : BitVec 8
  entryTa : BitVec 48
  entryTx : BitVec 48
  /-- A START has been accepted since the last bisque start (R360). -/
  started : Bool
  /-- Life-cycle state (R345). -/
  lc : BitVec 3
  deriving DecidableEq, Repr

/-- CMD_STATUS and MBX_STATUS (Tables 20.4, 20.18). -/
inductive CmdStatus
  | idle | busy | ok | fail
  deriving DecidableEq, Repr

/-- The command slot (R331, R398). -/
structure CmdSlot where
  op : BitVec 8
  status : CmdStatus
  arg0 : Word32
  arg1 : Word32
  arg2 : Word32
  arg3 : Word32
  deriving DecidableEq, Repr

/-- CSR response statuses (Table 19.7). -/
inductive CsrStatus
  | ok | errAddr | errState | errRights | errAbsent
  deriving DecidableEq, Repr

/-- The CSR port: the last response, the responses that the host has not yet taken, oldest first (R376), the held
lower word (R393) and the captured upper words, by the address of their register (R378). -/
structure CsrPort where
  status : CsrStatus
  rdata : Word32
  waiting : List (CsrStatus × Word32)
  held : Option (BitVec 16 × Word32)
  capture : Sparse Word32
  deriving DecidableEq, Repr

/-- Severities (R350). -/
inductive Severity
  | note | warn | error | fatal
  deriving DecidableEq, Repr

/-- An event on its way to the log (R350, R361). -/
structure Event where
  code : BitVec 12
  sev : Severity
  cycle : BitVec 48
  detail : BitVec 48
  deriving DecidableEq, Repr

/-- Events, interrupt cause and the event log (R350, R361 to R363, R399). -/
structure EvtState where
  cause : BitVec 4
  enable : BitVec 2
  queue : List Event
  log : Sparse (BitVec 128)
  head : BitVec 16
  sel : BitVec 16
  rdptr : BitVec 16
  entry : BitVec 128
  /-- Entries ever written since the log was cleared, to know whether a slot is occupied (R362). -/
  written : Nat
  lostArmed : Bool
  deriving DecidableEq, Repr

/-- A fault: its code, the instruction's address and its FVAL (R81, R88, R420). -/
structure FaultRec where
  fc : BitVec 8
  pc : BitVec 48
  fval : Word64
  deriving DecidableEq, Repr

/-- A binding of a handle at an epoch (R220). A released binding stays until R222 removes it. -/
structure Binding where
  h : BitVec 8
  epoch : BitVec 8
  deriving DecidableEq, Repr

/-- What an instruction found at its first issue, so that a restart gives the same result (R87): the thread's
s-registers and bindings, and the epochs of the handles that it translated without a binding. `first` is its
number at first issue, `sr` says that it draws random bits (R40). -/
structure Snapshot where
  regs : Sparse Word64
  bind : List Binding
  seen : List Binding
  first : Nat
  sr : Bool
  deriving DecidableEq, Repr

/-- An entry of a restart list (R80, R87, Table 03.1). -/
structure RestartEntry where
  pc : BitVec 48
  fc : BitVec 8
  detail : Word64
  snap : Snapshot
  deriving DecidableEq, Repr

/-- A Coil level (R71 to R73). -/
structure CoilLevel where
  remaining : BitVec 32
  index : Word64
  body : BitVec 48
  stop : BitVec 48
  setTo : Option (BitVec 32)
  deriving DecidableEq, Repr

/-- What a thread last waited on instead of issuing (R11). -/
inductive Wait
  | none
  | scoreboard
  | engine
  | limit
  | queue (q : BitVec 4)
  | spool
  | interlock
  | srOrder
  | earlier
  deriving DecidableEq, Repr

/-- Where a thread stands in the fault sequence of R81 to R83. -/
inductive Phase
  | normal
  /-- An issue fault was met; handler entry is due. -/
  | issueFault (f : FaultRec)
  /-- An execution fault (or a fault in a reissue, R84) was met; in-flight work drains. -/
  | execFault
  deriving DecidableEq, Repr

/-- NSTAT (R44). -/
structure Nstat where
  nsat : BitVec 24
  nflush : BitVec 24
  nnan : BitVec 24
  deriving DecidableEq, Repr

/-- One thread (R54, Table 03.1). s0 is not stored. -/
structure ThreadState where
  regs : Sparse Word64
  pc : BitVec 48
  fc : BitVec 8
  hact : Bool
  halted : Bool
  c3 : Bool
  restart : List RestartEntry
  coil : List CoilLevel
  fpc : BitVec 48
  fnpc : BitVec 48
  fval : Word64
  hvec : BitVec 48
  rstsel : BitVec 3
  hostRstsel : BitVec 3
  lfsr : Word32
  nstat : Nstat
  bind : List Binding
  wait : Wait
  atSync : Bool
  /-- Stopped by R85 or R348. -/
  stopped : Bool
  phase : Phase
  /-- Stopped at an instruction boundary by PAUSE or SAFE (R86). -/
  paused : Bool
  /-- FRET or RESUME is reissuing the restart list (R84, R86). -/
  reissuing : Bool
  /-- Number of the tensor instruction whose counts NSTAT holds (R45). -/
  nstatBy : Nat
  /-- First cycle of the local store in which the thread can issue again (R64, R99). -/
  nextIssue : Nat
  deriving DecidableEq, Repr

/-- The staging bank (R60). -/
structure Stage where
  vals : Sparse Word64
  mask : Word64
  pending : Bool
  deriving DecidableEq, Repr

/-- An entry of an operand queue (R68): reserved by a producer until filled, then possibly
reserved by a consumer. -/
structure QEntry where
  prod : Nat
  data : Option Bytes
  cons : Option Nat
  /-- The row has a parity error (R347). No row of the table makes one. -/
  bad : Bool
  deriving DecidableEq, Repr

/-- An entry of a token queue (R69). -/
structure KEntry where
  prod : Option Nat
  val : Option Word64
  deriving DecidableEq, Repr

/-- The operand and token queues, oldest entry first; the count of R20. -/
structure Queues where
  q : Sparse (List QEntry)
  k : Sparse (List KEntry)
  idle : Nat
  deriving DecidableEq, Repr

/-- A resident Spool line, most recently used first in the list of lines (R77). -/
structure SpoolLine where
  tag : BitVec 48
  pinned : Bool
  data : Bytes
  deriving DecidableEq, Repr

/-- A Spool fill in flight (R77, R78). -/
structure SpoolFill where
  tag : BitVec 48
  pin : Bool
  demandTa : Bool
  demandTx : Bool
  /-- Started by a prefetch or pin. -/
  ahead : Bool
  /-- SPOOL.INV was issued while it was in flight. -/
  discard : Bool
  deriving DecidableEq, Repr

/-- The Spool (R77 to R79). -/
structure Spool where
  lines : List SpoolLine
  fills : List SpoolFill
  deriving DecidableEq, Repr

/-- XFMT codes (Table 04.1). -/
inductive Xfmt
  | none | tableFp16 | tableBf16 | records
  deriving DecidableEq, Repr

/-- The expansion tag of a tile (R134, Table 05.3). -/
structure XTag where
  xfmt : Xfmt
  handle : BitVec 8
  epoch : BitVec 8
  port : BitVec 3
  xrow : BitVec 17
  offset : BitVec 32
  stride : BitVec 12
  r0 : BitVec 17
  deriving DecidableEq, Repr

/-- Configuration and fullness of a tile (Table 05.1). -/
structure TileCfg where
  rows1 : BitVec 5
  bytes1 : BitVec 6
  fmt : BitVec 4
  full : Bool
  valid : BitVec 32
  xtag : XTag
  deriving DecidableEq, Repr

/-- The tile register file (R118, R119, R28): configuration of T0 to T15, the bytes of row r of
tile t at address 2048t + 64r, its sidecar bytes at 128t + 4r. -/
structure Tiles where
  cfg : Sparse TileCfg
  data : Mem
  side : Mem
  deriving DecidableEq, Repr

/-- The operand cache, most recent first, and the reuse latches by engine input (R139, R140). -/
structure OperandCache where
  rows : List (Nat × Nat)
  latch : Sparse (Nat × Nat)
  deriving DecidableEq, Repr

/-- The stationary of one half (R151, R152): panel-block elements, element (k, n) at 32k + n;
missing elements are +0. `fmt` is the format code of its elements. -/
structure Stationary where
  blocks : Nat
  fmt : BitVec 4
  elems : List Val
  raw : List Int
  isInt : Bool
  /-- Loaded elements are E2M1 or INT4, so that STAT may run in the double class; FP16 or BF16, so that it
  runs in the quarter class (Table 06.1). -/
  four : Bool
  wide : Bool
  deriving DecidableEq, Repr

/-- Matrix engine state (R160, R151, R165). Element (set, row, col) of the accumulators is at
8192 * set + 32 * row + col. -/
structure MxState where
  acc : Sparse Word32
  /-- Bit s set: ACCs is INT32. -/
  intTypes : BitVec 4
  stat0 : Stationary
  stat1 : Stationary
  full : BitVec 6
  h0 : BitVec 6
  h1 : BitVec 6
  /-- Cycles among the last seven in which each half broadcast, latest in bit 0 (R157). -/
  win0 : BitVec 7
  win1 : BitVec 7
  deriving DecidableEq, Repr

/-- A loaded element program (Table 08.2); micro-ops as their 32-bit words. -/
structure Program where
  wf : BitVec 4
  nin : Nat
  uops : List Word32
  consts : List Word32
  deriving DecidableEq, Repr

/-- VXE state: the eight program slots (R185). -/
structure VxState where
  slots : Sparse (Option Program)
  deriving DecidableEq, Repr

/-- A Glaze parameter group (Table 11.1). -/
structure Group where
  rule : BitVec 2
  lr : Word32
  wd : Word32
  beta1 : Word32
  beta2 : Word32
  eps : Word32
  curve : BitVec 5
  step : Word32
  frozen : Bool
  lzy : Bool
  deriving DecidableEq, Repr

/-- The Glaze block (R404). -/
structure GlzState where
  groups : Sparse Group
  sel : BitVec 6
  curve : BitVec 8
  deriving DecidableEq, Repr

/-- Tag states (R107). -/
inductive Tag
  | empty | full | wclaim | rclaim
  deriving DecidableEq, Repr

/-- Who a boundary access serves (R104). -/
inductive BUse
  /-- The row of a remote PUT (R299). -/
  | putRow (win : BitVec 4)
  /-- The row a remote TAKE, PEEK or FETCH is answered with. -/
  | answer (port : BitVec 2) (win : BitVec 4) (dst : BitVec 19) (txn : BitVec 6)
  /-- Row `i` of a DMA.COPY RL in flight. -/
  | dma (fid i : Nat)
  /-- Row `i` of a remote instruction in flight. -/
  | remote (fid i : Nat)
  /-- A row of a request to the cluster's own node (R284). -/
  | selfAnswer (fid i : Nat) (win : BitVec 4)
  | selfPut (win : BitVec 4)
  /-- A row of a session resume or park (R277). -/
  | sessIn
  | sessOut (i : Nat)
  deriving DecidableEq, Repr

/-- A boundary access waiting for the boundary port (R104). -/
structure BAccess where
  phys : Nat
  handle : BitVec 8
  tagged : Bool
  /-- The row to write, or none for a read. -/
  row : Option Bytes
  use : BUse
  /-- The port whose inbound buffer holds the block of the row (R293). -/
  buffer : Option (BitVec 2)
  /-- For a read that a TAKE accepted (R108): the row as it stood then, and its first bad word. -/
  taken : Option (Bytes × Option Nat)
  deriving DecidableEq, Repr

/-- The local store (R89 to R117). Byte b of physical row p is at address 512p + b of `rows`. -/
structure LocalStore where
  rows : Mem
  tags : Sparse Tag
  /-- Words with a single-bit error, as a mask per physical row. -/
  single : Sparse Word64
  /-- Words with an uncorrectable error. -/
  double : Sparse Word64
  waitLimit : Word32
  corrLast : BitVec 17
  /-- Scrub pointer per stack. -/
  ptr : Sparse (BitVec 12)
  /-- Rewrites requested by R113 and write-backs due from a scrub read, as physical rows. -/
  rewrites : List Nat
  writeBacks : List Nat
  boundary : List BAccess
  /-- The repair map: the rows that a spare row of their stack replaces (R90). -/
  repairs : List (BitVec 17)
  /-- Non-lull cycles of the local store so far (R99), and the stack that a boundary access uses in this one. -/
  round : Nat
  busy : Option Nat
  /-- Consecutive cycles of each stack without an idle one (R117). -/
  starve : Sparse Nat
  deriving DecidableEq, Repr

/-- Handle states (Table 14.1). -/
inductive HState
  | free | bound | draining | pinned
  deriving DecidableEq, Repr

/-- One mapping slot (Table 04.1). -/
structure Mapping where
  base : BitVec 12
  count : BitVec 17
  mask : BitVec 24
  deriving DecidableEq, Repr

/-- A handle-table entry (R92, Table 20.7). -/
structure Handle where
  state : HState
  tagged : Bool
  rd : Bool
  wr : Bool
  glz : Bool
  xfmt : Xfmt
  prevValid : Bool
  epoch : BitVec 8
  prevEpoch : BitVec 8
  refcount : BitVec 16
  lastuse : Word32
  xrow : BitVec 17
  cur : Mapping
  prev : Mapping
  deriving DecidableEq, Repr

/-- Why a reservoir access was made (R384, R385). -/
inductive ResUse
  | fill (line : BitVec 48)
  | dmaIn (fid i : Nat)
  | dmaOut (fid i : Nat)
  | sessIn (i : Nat)
  | sessOut (i : Nat)
  /-- Row `i` of a Mould stream (R336, R339). -/
  | stream (i : Nat)
  /-- The requester was abandoned; the response is discarded (R333, R343). -/
  | discard
  deriving DecidableEq, Repr

/-- A reservoir request, waiting (no identifier) or outstanding. -/
structure ResReq where
  id : Option (BitVec 6)
  address : BitVec 48
  use : ResUse
  /-- Data of a write. -/
  data : Bytes
  deriving DecidableEq, Repr

/-- The reservoir port (R301, R384, R385), each channel in order of issue. -/
structure ResPort where
  reads : List ResReq
  writes : List ResReq
  deriving DecidableEq, Repr

/-- What a port sends (R286): a block, or a link unit with ACK or NAK. -/
inductive TxUnit
  | block (b : Block)
  | link (ack : Bool) (seq : BitVec 8)
  deriving DecidableEq, Repr

/-- A block in the replay buffer (R288): `resends` counts its resends, `resend` says that it is to
be sent again. -/
structure Sent where
  b : Block
  resends : Nat
  resend : Bool
  deriving DecidableEq, Repr

/-- A tracker entry (R294). -/
structure Track where
  txn : BitVec 6
  node : BitVec 19
  fid : Nat
  row : Nat
  age : Nat
  deriving DecidableEq, Repr

/-- A fabric port (R286 to R294, R381, R382). -/
structure Port where
  down : Bool
  retrain : Bool
  txSeq : BitVec 8
  rxSeq : BitVec 8
  discarding : Bool
  discards : Nat
  replay : List Sent
  credits : Nat
  /-- Credits returned to the partner since the last link reset (R293, R382), and those of them that it has not yet
  spent: the space it may fill in the inbound buffer (R381). -/
  returned : Nat
  space : Nat
  tracker : List Track
  /-- Link units and responses waiting to be sent. -/
  outLink : List TxUnit
  outRsp : List Block
  /-- Everything the port has sent, latest first: the port's output. -/
  tx : List TxUnit
  deriving DecidableEq, Repr

/-- A window entry (Table 13.3). -/
structure Window where
  valid : Bool
  chipAny : Bool
  clusterAny : Bool
  put : Bool
  take : Bool
  peek : Bool
  fetch : Bool
  handle : BitVec 8
  srcChip : BitVec 10
  srcCluster : BitVec 9
  wbase : BitVec 17
  wrows : BitVec 17
  key : Word32
  expiry : Word32
  deriving DecidableEq, Repr

/-- Fabric ports, windows and fabric control (R283, R295, R402). -/
structure Fabric where
  n : Port
  e : Port
  s : Port
  w : Port
  windows : Sparse Window
  epoch : Word32
  denyLast : Word32
  nodeId : BitVec 19
  retryGap : BitVec 16
  retryLimit : BitVec 16
  rspLimit : Word32
  deriving DecidableEq, Repr

/-- Session states (Table 12.2). -/
inductive SessState
  | free | parked | resident | ready | running | draining
  deriving DecidableEq, Repr

/-- A session entry (Table 12.1). -/
structure Session where
  state : SessState
  cls : BitVec 2
  model : BitVec 8
  credits : BitVec 8
  tenant : BitVec 16
  lang : BitVec 12
  slot : BitVec 12
  stamp : Word32
  deriving DecidableEq, Repr

/-- An outstanding SESS.NEXT list and the replay boundaries since its issue (R276). -/
structure SessList where
  sessions : List Nat
  boundaries : Nat
  deriving DecidableEq, Repr

/-- A session transfer in progress (R277): rows done, and the state before the command. -/
structure SessXfer where
  index : Nat
  park : Bool
  done : Nat
  prior : SessState
  /-- CURRENT of SESS_HANDLE when the command was accepted (R95, R277). -/
  map : Mapping
  deriving DecidableEq, Repr

/-- The session sequencer (R271 to R277, R403). -/
structure SessTable where
  entries : Sparse Session
  idx : BitVec 16
  data : BitVec 128
  handle : BitVec 8
  rows : BitVec 7
  parkBase : BitVec 48
  used : BitVec 17
  lists : List SessList
  xfer : Option SessXfer
  deriving DecidableEq, Repr

/-- The Ballast parameters the host writes (Tables 12.3, 12.4, 20.14). -/
structure BalParams where
  fixed : Bool
  fixBudget : BitVec 2
  fixD : BitVec 4
  ewStatic : Word32
  ewMx : Word32
  ewMv : Word32
  ewVx : Word32
  ewGlz : Word32
  ewRow : Word32
  ewFab : Word32
  rthJ : Word32
  cthJ : Word32
  rthP : Word32
  cthP : Word32
  tAmb : Word32
  kObs : Word32
  tTh3 : Word32
  tTh2 : Word32
  tTh1 : Word32
  tTrip : Word32
  eTh3 : BitVec 24
  eTh2 : BitVec 24
  eTh1 : BitVec 24
  eHyst : BitVec 24
  balMax : BitVec 24
  balMin : BitVec 24
  duty : BitVec 16
  batchCap : BitVec 20
  vidOfs : Word32
  deriving DecidableEq, Repr

/-- The counters of R279 as they stood when the open window began. -/
structure EnergyMark where
  mx : Nat
  mv : Nat
  vx : Nat
  glz : Nat
  ta : Nat
  boundary : Nat
  fab : Nat
  deriving DecidableEq, Repr

/-- The Ballast governor (R278 to R282, R405). -/
structure Ballast where
  /-- Parameters as the host wrote them, and as they are in force since the last update boundary. -/
  written : BalParams
  par : BalParams
  budget : BitVec 2
  d : BitVec 4
  tclass : BitVec 2
  eclass : BitVec 2
  trip : Bool
  vid : BitVec 8
  balance : BitVec 24
  tJ : Word32
  tP : Word32
  tM : Word32
  diodeBad : BitVec 4
  ewScale : Word32
  /-- Credit of the open window, and the credit latched by a strobe not yet followed by its boundary. -/
  credit : BitVec 16
  strobe : Option (BitVec 16)
  mark : EnergyMark
  /-- Boundary row accesses so far (R279). -/
  boundaryRows : Nat
  /-- T_M delivered since the last boundary (R280); the model has been initialised by a first T_M. -/
  tmNew : Bool
  tmSeen : Bool
  missRun : Nat
  /-- EW_SCALE formed by the Bridle, effective at the next boundary (R356). -/
  scaleNext : Word32
  /-- Unscaled weighted sum of R279 over the windows of the running tick (R356). -/
  eDyn : Word32
  deriving DecidableEq, Repr

/-- Drogue levels (R322). -/
inductive Drogue
  | none | s25 | s50
  deriving DecidableEq, Repr

/-- Clocks, Cones and Drogue (R311 to R325, R406). -/
structure Clocks where
  step : BitVec 4
  align : BitVec 24
  vidOfs : BitVec 4
  freqOfs : Bool
  drgHold : BitVec 16
  level : Drogue
  coneMin : BitVec 6
  /-- Codes of the last cycle reported, none for a Cone under calibration (R321, R324). -/
  coneLast : List (Option (BitVec 6))
  /-- The latest code of each Cone (Table 20.15). -/
  coneCodes : List (BitVec 6)
  /-- Frequency-step table in force, retunes included; empty before the Mould load. -/
  fsteps : List Word32
  /-- Target of a SET_STEP or WAKE in progress (R317, R327). -/
  target : Option (BitVec 4)
  /-- Step in force before RETAIN (R327). -/
  saved : BitVec 4
  /-- Consecutive cycles at or above the threshold of the present level (R322). -/
  good : Nat
  /-- Consecutive cycles below DRG_T50 at S50 (R323), and whether MARGIN_LOW was logged since NONE. -/
  low : Nat
  marginLogged : Bool
  /-- Lull cycles still to be taken (R12, R14). -/
  lull : Nat
  deriving DecidableEq, Repr

/-- A region record (R338). -/
structure Region where
  kind : BitVec 3
  mask : BitVec 24
  first : BitVec 12
  last : BitVec 12
  deriving DecidableEq, Repr

/-- The structure a Mould stream describes (Table 16.4). -/
structure MouldCfg where
  engines : BitVec 5
  half : Bool
  vxTwo : Bool
  qdir : BitVec 8
  kdir : BitVec 4
  depths : List Nat
  ports : BitVec 4
  bport : BitVec 3
  winUsed : BitVec 5
  sessUsed : BitVec 17
  regions : List Region
  fsteps : List Word32
  deriving DecidableEq, Repr

/-- The Mould loader (R336 to R340, R408). -/
structure Mould where
  cfg : MouldCfg
  pending : Option MouldCfg
  pendingFlag : Bool
  address : BitVec 48
  crc : Word32
  length : BitVec 13
  err : BitVec 8
  word : BitVec 12
  warn : BitVec 5
  /-- The stream as it is read, by 512-byte rows; the rows read a second time, and the row that failed twice. -/
  rows : Sparse Bytes
  retried : List Nat
  failed : Option Nat
  deriving DecidableEq, Repr

/-- The wear record (R359, R360, Table 18.2); no baseline before the first full calibration. -/
structure Wear where
  baseline : Option (List (BitVec 8))
  latest : List (BitVec 8)
  hours : Word32
  deriving DecidableEq, Repr

/-- The Bridle (R354 to R368). -/
structure Bridle where
  romVersion : Word32
  slot : BitVec 1
  svn : BitVec 16
  seq : Word32
  /-- A restart from ROM is in progress (R358); `activate` if UPDATE_ACTIVATE asked for it (R367). -/
  restarting : Bool
  activate : Bool
  /-- The slot whose image failed its self-check in this restart (R366). -/
  failedSlot : Option (BitVec 1)
  wear : Wear
  wearDue : Bool
  /-- A retune waits for the SET_STEP in progress (R325). -/
  retuneWait : Bool
  /-- A record was restored, or fresh baselines were taken in RUN, since the record was cleared (R360). -/
  restored : Bool
  diodes : List (BitVec 16)
  core : BitVec 12
  sram : BitVec 12
  ticks : Word32
  /-- CLK_STEP has changed since the last tick (R356), and the telemetry record of the last tick (R357). -/
  stepMoved : Bool
  record : List Word32
  nonce : Option (BitVec 64)
  /-- Ticket of R368 with its target state. -/
  ticket : Option (BitVec 3 × BitVec 64)
  deriving DecidableEq, Repr

/-- The Bridle mailbox (R364, R409). -/
structure Mailbox where
  op : BitVec 8
  status : CmdStatus
  arg0 : Word32
  arg1 : Word32
  arg2 : Word32
  arg3 : Word32
  data : Sparse Word32
  /-- The operation was accepted during a refire and has not started (R364). -/
  waits : Bool
  deriving DecidableEq, Repr

/-- Access of the serial monitor (R370). -/
inductive MonAccess
  | opened | locked | closed
  deriving DecidableEq, Repr

/-- A decoded log entry (Table 18.3). -/
structure LogEntry where
  code : BitVec 12
  sev : Severity
  seq : BitVec 16
  cycle : BitVec 48
  detail : BitVec 48
  deriving DecidableEq, Repr

/-- A reply of the serial monitor (R370, R371): a quoted word, the commands, the values the command reports in the
order of Table 18.5, or decoded log entries. -/
inductive MonReply
  | word (text : String)
  | commands (names : List String)
  | values (xs : List Nat)
  | entries (xs : List LogEntry)
  /-- The prompt alone. -/
  | prompt
  deriving DecidableEq, Repr

/-- The serial monitor and the UART (R369 to R371). -/
structure Monitor where
  access : MonAccess
  token : Option (BitVec 64)
  fails : Nat
  divisor : BitVec 16
  /-- The Bridle's copy of CONE_MIN for the CONES command. -/
  coneMin : BitVec 6
  /-- Replies sent, latest first: the UART's output. -/
  out : List MonReply
  deriving DecidableEq, Repr

/-- Instructions of the test access port (R388). -/
inductive TapInstr
  | bypass | idcode | sample | extest | clamp
  /-- A full-scan instruction of the manufacturer (Table 16.10). -/
  | fullScan
  deriving DecidableEq, Repr

/-- The data register the port selects: the one-bit bypass register, the identification register with
its value, or the boundary-scan register. -/
inductive TapReg
  | bypassReg
  | idReg (value : Word32)
  | boundary
  | scanChains
  deriving DecidableEq, Repr

/-- The states of the port's controller (IEEE 1149.1). -/
inductive TapState
  | testLogicReset | runTestIdle
  | selectDr | captureDr | shiftDr | exit1Dr | pauseDr | exit2Dr | updateDr
  | selectIr | captureIr | shiftIr | exit1Ir | pauseIr | exit2Ir | updateIr
  deriving DecidableEq, Repr

/-- The test access port (R388). -/
structure Tap where
  ir : TapInstr
  state : TapState
  /-- The cells of the boundary-scan register, in the order of Tables 19.2 to 19.5; missing ones are 0. -/
  cells : List Bool
  /-- Scans of SAMPLE/PRELOAD so far, the model's own count: Config.scanIn gives what each leaves in the cells. -/
  scans : Nat
  deriving DecidableEq, Repr

/-- Places that carry byte parity (R347, Table 17.6). -/
inductive ParityLoc
  /-- Byte `b` of row `r` of tile `t`, and of its copy in the operand cache. -/
  | tile (t r b : Nat)
  | sidecar (t r b : Nat)
  | cache (t r b : Nat)
  /-- Byte `b` of the row that a reuse latch holds. -/
  | latch (input b : Nat)
  | acc (set row : Nat)
  | stationary (half : Nat)
  /-- An entry of an operand queue by its place, oldest first; its error stands in the entry. -/
  | queue (q entry : Nat)
  deriving DecidableEq, Repr

/-- Physical upsets not yet met (R79, R112, R272, R347, R348). No row of the table makes one. -/
structure Upsets where
  sdmSingle : List Nat
  sdmDouble : List Nat
  sessSingle : List Nat
  sessDouble : List Nat
  spoolSingle : List (BitVec 48)
  spoolDouble : List (BitVec 48)
  parity : List ParityLoc
  /-- Rows whose tag has one disagreeing copy (R112). -/
  tags : List Nat
  /-- Entries of the triple-copied tables with one disagreeing copy, and the sweep's place (R347). -/
  cfg : List Nat
  sweep : Nat
  deriving DecidableEq, Repr

/-- The engines of R64 and R65. -/
inductive Engine
  | sequencer
  | dma
  | remote
  | session
  | mxe (half : Bool)
  | drain (half : Bool)
  | mvp
  | vxe (group : Bool)
  | glaze (ch : BitVec 2)
  deriving DecidableEq, Repr

/-- A write of part of a tile row: bytes at an offset of the row, and sidecar bytes by index. -/
structure TileWrite where
  tile : Nat
  row : Nat
  off : Nat
  bytes : Bytes
  side : List (Nat × Byte)
  /-- Expansion tag that the write leaves (R134). -/
  xtag : XTag
  deriving DecidableEq, Repr

/-- Part of a tile row that a load writes: `len` bytes of the data from byte `start` on, and sidecar bytes by
index, each from a byte of the scale row (R130, R132). -/
structure TilePart where
  tile : Nat
  row : Nat
  off : Nat
  start : Nat
  len : Nat
  side : List (Nat × Nat)
  xtag : XTag
  deriving DecidableEq, Repr

/-- What the return of a local-store read does besides the error check (R100, R133, R214). -/
inductive ReturnAct
  | hold
  /-- Rows of a TLD; `scale` is the place of the scale row among the instruction's reads. -/
  | tiles (parts : List TilePart) (scale : Option Nat)
  /-- The last source row of a transposed read delivers the lines, one for each part (R106). -/
  | lines (wide : Bool) (slice : Nat) (parts : List TilePart)
  /-- The header row of a tile context, its data rows and its sidecar rows (R137). -/
  | header
  | contextData (tile quarter : Nat)
  | contextSide (tiles : List Nat)
  | reservoir (i : Nat) (address : BitVec 48)
  | send (i : Nat)
  /-- The last row of an output group of MV.GEMV (R175). -/
  | group (g : Nat)
  deriving DecidableEq, Repr

/-- A local-store read whose data has not returned (R100): the row as it was read, its first uncorrectable word,
the cycle of its return. -/
structure DueRead where
  phys : Nat
  rel : Nat
  data : Bytes
  bad : Option Nat
  ready : Nat
  act : ReturnAct
  deriving DecidableEq, Repr

/-- What a scheduled write writes: a row that the instruction holds, a copy of its read `k` with some bytes
replaced, a state row of a Glaze item, a count row of Glaze. -/
inductive WriteData
  | given (i : Nat)
  | copied (k : Nat) (patch : List (Nat × Byte))
  | state (item k : Nat)
  | count (item : Nat)
  deriving DecidableEq, Repr

/-- What a scheduled access does: a read, with its tag action; a read of an expansion row, held under some
keys (R34); the reads of Glaze, of its curve row, of a state row of an item, of a count row (R246, R248); a
write, which fills a TAGGED row. -/
inductive AccessOp
  | read (clear : Bool) (act : ReturnAct)
  | expand (keys : List Nat)
  | curve
  | state (item : Nat) (last : Bool)
  | count (row : Nat)
  | write (tagged : Bool) (data : WriteData)
  deriving DecidableEq, Repr

/-- A scheduled access (R99): its port, the physical row and the relative one. -/
structure Access where
  port : BitVec 3
  phys : Nat
  rel : Nat
  op : AccessOp
  deriving DecidableEq, Repr

/-- A Glaze instruction as it runs: the tally, the counts of statuses and skews, the state rows read for the
present item with their first bad words, the rows that each decided item writes, the count rows held with their
first bad word and whether they change (R244 to R248). -/
structure GlzRun where
  t : Tally
  ok : Nat
  stale : Nat
  frozen : Nat
  denied : Nat
  skew : Nat
  reads : List (Bytes × Option Nat)
  outs : List (List (Nat × Bytes))
  counts : Sparse (Bytes × Option Nat × Bool)
  deriving DecidableEq, Repr

/-- Kinds of local tag test (R107). -/
inductive TestKind
  | write | keep | clear
  deriving DecidableEq, Repr

/-- A tag test of an instruction (R109). -/
structure TagTest where
  phys : Nat
  h : BitVec 8
  rel : Nat
  kind : TestKind
  passed : Bool
  deriving DecidableEq, Repr

/-- Where a row of a remote instruction stands (R216 to R219). -/
inductive RowPhase
  | todo
  | sent
  | retry (left : Nat)
  | landing
  | final (status : BitVec 8)
  deriving DecidableEq, Repr

/-- A row of a remote instruction. -/
structure RemRow where
  phase : RowPhase
  /-- Its place in the order in which rows leave: the number of its instruction, and of the next instruction when
  it is tried again (R291). -/
  stamp : Nat
  tries : Nat
  /-- The row offered (PUT), or received for a queue destination. -/
  data : Option Bytes
  /-- Physical row of a handle destination. -/
  dest : Option Nat
  deriving DecidableEq, Repr

/-- Request types (Table 13.2). -/
inductive ReqType
  | put | take | peek | fetch
  deriving DecidableEq, Repr

/-- The remote part of an instruction in flight (R216 to R219). -/
structure Remote where
  req : ReqType
  retry : Bool
  port : BitVec 2
  win : BitVec 4
  node : BitVec 19
  wr : BitVec 17
  key : Word32
  handle : BitVec 8
  tagged : Bool
  toQueue : Bool
  rows : List RemRow
  sd : Reg
  sa : Option Nat
  deriving DecidableEq, Repr

/-- The rows of a DMA.COPY RL or LR not yet done (R211, R214): physical row for RL. -/
structure DmaRow where
  phys : Nat
  done : Bool
  deriving DecidableEq, Repr

/-- A translation chosen at issue (R95, R206): the mapping slot, its epoch and the tag mode. -/
structure Xlate where
  h : BitVec 8
  map : Mapping
  epoch : BitVec 8
  tagged : Bool
  deriving DecidableEq, Repr

/-- What TENSOR_COMPLETION commits for an instruction (R44, R46, R48, R68, R148, R207). -/
structure Commit where
  sdm : List (Nat × Bytes)
  regs : List (Reg × Word64)
  /-- Rows for the entries reserved on each operand queue. -/
  push : List (Nat × List Bytes)
  token : Option Word64
  tiles : List TileWrite
  acc : List (Nat × Word32)
  accInt : Option (BitVec 4 × Bool)
  rows : List (Nat × Bytes)
  nstat : Nstat
  amax : Option (BitVec 3 × Bool × Word32)
  lfsr : Option Word32
  counters : List (Nat × Nat)
  events : List (BitVec 12 × BitVec 48)
  deriving DecidableEq, Repr

/-- The stationary loads and broadcasts of a product (R146, R155): passes, broadcast cycles of a pass, whether
each pass loads, and the cycles done. -/
structure MxRun where
  passes : Nat
  beats : Nat
  loads : Bool
  done : Nat
  deriving DecidableEq, Repr

/-- An instruction in flight. -/
structure Flight where
  id : Nat
  thread : Thread
  pc : BitVec 48
  instr : Instr
  engine : Engine
  /-- Counts against the limit of 8 and writes NSTAT (R64, R207, R232). -/
  tensor : Bool
  /-- Stopped by PAUSE (R86). -/
  tileOp : Bool
  /-- Holds its thread until it completes (R207). -/
  blocking : Bool
  sr : Bool
  rdTiles : BitVec 16
  wrTiles : BitVec 16
  rdAcc : BitVec 4
  wrAcc : BitVec 4
  dests : List Reg
  slot : Option (BitVec 3)
  /-- Tag tests in order; the accesses have begun once `begun` (R109). -/
  tests : List TagTest
  /-- Tests reached so far, 32 in a cycle (R109). -/
  tested : Nat
  begun : Bool
  tagWait : Nat
  /-- Cycle of its issue, and the first in which it may present an access (R99). -/
  issuedAt : Nat
  notBefore : Nat
  /-- Accesses still to be presented, cycle by cycle (R99). -/
  acts : List (List Access)
  /-- Rows read, in access order, with their first bad word. -/
  got : List (Bytes × Option Nat)
  /-- A Glaze instruction's run. -/
  glz : Option GlzRun
  /-- A product's cycles on the array, and the blocks and format code of the stationary that an MX instruction
  leaves (R151, R157). -/
  mxRun : Option MxRun
  stat : Option (Nat × BitVec 4)
  /-- What it found at its first issue (R87). -/
  snap : Snapshot
  /-- Handles translated at issue (R95, R206). -/
  xl : List Xlate
  /-- Rows sampled at issue (R208, R213) or popped from a queue (R68). -/
  rowsIn : List Bytes
  /-- Values of its s-register operands, read at issue (R230). -/
  opv : List Word64
  /-- Expansion rows held (R34): the row `r` of tile `t`'s expansion at 2^17 * t + r, of the handle of an
  instruction at 2^21 + r. -/
  held : Sparse Bytes
  due : List DueRead
  dma : List DmaRow
  remote : Option Remote
  commit : Commit
  faulted : Option FaultRec
  /-- The restart-list entry it was reissued from (R84, R86). -/
  reissued : Option RestartEntry
  /-- Threads whose binding a waiting BIND or UNBIND has still to release (R222, R224). -/
  releases : List Thread
  deriving DecidableEq, Repr

/-- The whole machine. `free` counts the free values drawn, `nextId` numbers instructions in flight
(both the model's own), `pending` is the queue of commands. -/
structure State where
  build : Build
  /-- The fuse bus as the host die drives it, and as it was read at the last release of por_n (R375). -/
  fuseBus : Fuses
  fuses : Fuses
  run : RunCtl
  cmd : CmdSlot
  csr : CsrPort
  evt : EvtState
  ta : ThreadState
  tx : ThreadState
  sdm : Mem
  preg : Sparse Word64
  stage : Stage
  queues : Queues
  spool : Spool
  tiles : Tiles
  toc : OperandCache
  amax : Sparse Word32
  mx : MxState
  vx : VxState
  glz : GlzState
  ls : LocalStore
  handles : Sparse Handle
  res : ResPort
  fab : Fabric
  sess : SessTable
  ballast : Ballast
  clk : Clocks
  mould : Mould
  brg : Bridle
  mbx : Mailbox
  mon : Monitor
  tap : Tap
  cycle : BitVec 64
  counters : Sparse Nat
  upsets : Upsets
  flights : List Flight
  nextId : Nat
  free : Nat
  pending : List Instr
  deriving DecidableEq, Repr

/-- Why the machine stops: for no reason. Every command has an effect, and one that reports an event the
spec says cannot happen in the present state changes nothing (log entry 12). -/
inductive Fault
  deriving DecidableEq, Repr

/-- Why a command has no meaning. -/
inductive Refusal
  /-- Raised by an arm of `exec` for a row that is not modelled. Safe. No arm is left with it. -/
  | notModelled (mnemonic : String)
  deriving DecidableEq, Repr

/-- What an entry past the end of a restart list reads as: zeros (Table 20.3). -/
def RestartEntry.zero : RestartEntry where
  pc := 0
  fc := 0
  detail := 0
  snap := { regs := [], bind := [], seen := [], first := 0, sr := false }

/-- A thread after reset (Table 03.1, R56). The PC is zero: DESIGN CHOICE, log entry 4. -/
def ThreadState.reset : ThreadState where
  regs := []
  pc := 0
  fc := 0
  hact := false
  halted := false
  c3 := false
  restart := []
  coil := []
  fpc := 0
  fnpc := 0
  fval := 0
  hvec := 0
  rstsel := 0
  hostRstsel := 0
  lfsr := 1
  nstat := { nsat := 0, nflush := 0, nnan := 0 }
  bind := []
  wait := .none
  atSync := false
  stopped := false
  phase := .normal
  paused := false
  reissuing := false
  nstatBy := 0
  nextIssue := 0

/-- The reference configuration (R5). DESIGN CHOICE, log entry 2: R4 allows others. -/
def Build.reference : Build where
  vxLanes := 128
  lsStacks := 24
  sessEntries := 65536
  spoolKib := 128
  serial := 0

/-- A fuse bus of zeros: grade TDC-4A, BLANK. DESIGN CHOICE, log entry 2. -/
def Fuses.zero : Fuses where
  grade := 0
  lc := 0
  cluster := 0
  slotBase := 0
  minSvn := 0
  keyhash := 0
  lckeyhash := 0
  jtagMfr := 0

/-- A tag that says a tile carries no expansion. -/
def XTag.none : XTag where
  xfmt := .none
  handle := 0
  epoch := 0
  port := 0
  xrow := 0
  offset := 0
  stride := 0
  r0 := 0

/-- A tile's configuration after reset (Table 05.1): 32 rows of 64 bytes, E4M3, empty. -/
def TileCfg.reset : TileCfg where
  rows1 := 31
  bytes1 := 63
  fmt := 3
  full := false
  valid := 0
  xtag := XTag.none

/-- A group after reset (Table 11.1). -/
def Group.reset : Group where
  rule := 0
  lr := 0
  wd := 0
  beta1 := 0
  beta2 := 0
  eps := 0
  curve := 0
  step := 0
  frozen := true
  lzy := false

/-- An empty mapping slot. -/
def Mapping.zero : Mapping where
  base := 0
  count := 0
  mask := 0

/-- A FREE handle with all fields reset (Table 20.7). -/
def Handle.reset : Handle where
  state := .free
  tagged := false
  rd := false
  wr := false
  glz := false
  xfmt := .none
  prevValid := false
  epoch := 0
  prevEpoch := 0
  refcount := 0
  lastuse := 0
  xrow := 0
  cur := Mapping.zero
  prev := Mapping.zero

/-- A fabric port before its first link reset (R382). No credits: DESIGN CHOICE, log entry 4. -/
def Port.reset : Port where
  down := false
  retrain := false
  txSeq := 0
  rxSeq := 0
  discarding := false
  discards := 0
  replay := []
  credits := 0
  returned := 0
  space := 0
  tracker := []
  outLink := []
  outRsp := []
  tx := []

/-- A window entry after reset (Table 13.3). -/
def Window.reset : Window where
  valid := false
  chipAny := false
  clusterAny := false
  put := false
  take := false
  peek := false
  fetch := false
  handle := 0
  srcChip := 0
  srcCluster := 0
  wbase := 0
  wrows := 1
  key := 0
  expiry := 0

/-- A session entry after reset (Table 12.1). -/
def Session.reset : Session where
  state := .free
  cls := 0
  model := 0
  credits := 0
  tenant := 0
  lang := 0
  slot := 0
  stamp := 0

/-- An empty stationary: multiplies as +0 (R151). -/
def Stationary.zero : Stationary where
  blocks := 1
  fmt := 0
  elems := []
  raw := []
  isInt := false
  four := false
  wide := false

/-- Ballast parameters after reset (Tables 12.3, 12.4, 20.14). The six energy weights are the FP32
values nearest to 0.54, 0.28, 0.11, 0.0026, 0.02 and 0.4. -/
def BalParams.reset : BalParams where
  fixed := false
  fixBudget := 0
  fixD := 8
  ewStatic := 0x46147000
  ewMx := 0x3F0A3D71
  ewMv := 0x3E8F5C29
  ewVx := 0x3DE147AE
  ewGlz := 0x3B2A64C3
  ewRow := 0x3CA3D70A
  ewFab := 0x3ECCCCCD
  rthJ := 0x40000000
  cthJ := 0x3A03126F
  rthP := 0x40C00000
  cthP := 0x3D4CCCCD
  tAmb := 0x42700000
  kObs := 0x3E800000
  tTh3 := 0x42AA0000
  tTh2 := 0x42B40000
  tTh1 := 0x42BE0000
  tTrip := 0x42D20000
  eTh3 := 0x005000
  eTh2 := 0x001400
  eTh1 := 0xFFD800
  eHyst := 0x002000
  balMax := 0x010000
  balMin := 0xFF0000
  duty := 0x8842
  batchCap := 0x84102
  vidOfs := 0

/-- The structure in force before the first Mould load (Table 20.17). -/
def MouldCfg.reset (sessEntries : Nat) : MouldCfg where
  engines := 0
  half := false
  vxTwo := false
  qdir := 0xC0
  kdir := 0xC
  depths := [16, 16, 16, 16, 16, 16, 16, 16]
  ports := 0
  bport := 7
  winUsed := 0
  sessUsed := BitVec.ofNat 17 sessEntries
  regions := []
  fsteps := []

/-- No result to commit. -/
def Commit.empty : Commit where
  sdm := []
  regs := []
  push := []
  token := none
  tiles := []
  acc := []
  accInt := none
  rows := []
  nstat := { nsat := 0, nflush := 0, nnan := 0 }
  amax := none
  lfsr := none
  counters := []
  events := []

/-- Energy counters at zero. -/
def EnergyMark.zero : EnergyMark where
  mx := 0
  mv := 0
  vx := 0
  glz := 0
  ta := 0
  boundary := 0
  fab := 0

/-- The Ballast governor after reset (R279, R280, R282, Table 20.14). -/
def Ballast.reset : Ballast where
  written := BalParams.reset
  par := BalParams.reset
  budget := 0
  d := 8
  tclass := 0
  eclass := 0
  trip := false
  vid := 0x40
  balance := 0
  tJ := 0
  tP := 0
  tM := 0
  diodeBad := 0
  ewScale := 0x3F800000
  credit := 0
  strobe := none
  mark := EnergyMark.zero
  boundaryRows := 0
  tmNew := false
  tmSeen := false
  missRun := 0
  scaleNext := 0x3F800000
  eDyn := 0

/-- Clocks and Cones after reset (Table 20.15). -/
def Clocks.reset : Clocks where
  step := 0
  align := 0
  vidOfs := 0
  freqOfs := false
  drgHold := 256
  level := .none
  coneMin := 63
  coneLast := List.replicate 12 (some 63)
  coneCodes := List.replicate 12 63
  fsteps := []
  target := none
  saved := 0
  good := 0
  low := 0
  marginLogged := false
  lull := 0

/-- The local store after reset (R91, Table 20.8). The scrub pointers are zero: DESIGN CHOICE, log
entry 4. -/
def LocalStore.reset : LocalStore where
  rows := []
  tags := []
  single := []
  double := []
  waitLimit := 0x01000000
  corrLast := 0
  ptr := []
  rewrites := []
  writeBacks := []
  boundary := []
  repairs := []
  round := 0
  busy := none
  starve := []

/-- The event block after reset (Table 20.5). -/
def EvtState.reset : EvtState where
  cause := 0
  enable := 0
  queue := []
  log := []
  head := 0
  sel := 0
  rdptr := 0
  entry := 0
  written := 0
  lostArmed := true

/-- The session block after reset (Table 20.11). -/
def SessTable.reset (sessEntries : Nat) : SessTable where
  entries := []
  idx := 0
  data := 0
  handle := 0
  rows := 1
  parkBase := 0
  used := BitVec.ofNat 17 sessEntries
  lists := []
  xfer := none

/-- Fabric ports and windows after reset (Table 20.10): the cluster number comes from the fuses,
the chip number is 0 (R283). -/
def Fabric.reset (cluster : BitVec 9) : Fabric where
  n := Port.reset
  e := Port.reset
  s := Port.reset
  w := Port.reset
  windows := []
  epoch := 0
  denyLast := 0
  nodeId := cluster.setWidth 19
  retryGap := 64
  retryLimit := 1024
  rspLimit := 0x01000000

/-- The Mould status block after reset (Table 20.17). -/
def Mould.reset (sessEntries : Nat) : Mould where
  cfg := MouldCfg.reset sessEntries
  pending := none
  pendingFlag := false
  address := 0
  crc := 0
  length := 0
  err := 0
  word := 0
  warn := 0
  rows := []
  retried := []
  failed := none

/-- The Bridle after reset (R360: the wear record is cleared). Image numbers: log entry 4. -/
def Bridle.reset : Bridle where
  romVersion := 0
  slot := 0
  svn := 0
  seq := 0
  restarting := false
  activate := false
  failedSlot := none
  wear := { baseline := none, latest := List.replicate 12 0, hours := 0 }
  wearDue := false
  retuneWait := false
  restored := false
  diodes := [0, 0, 0, 0]
  core := 0
  sram := 0
  ticks := 0
  stepMoved := false
  record := []
  nonce := none
  ticket := none

/-- The mailbox after reset (Table 20.18). -/
def Mailbox.reset : Mailbox where
  op := 0
  status := .idle
  arg0 := 0
  arg1 := 0
  arg2 := 0
  arg3 := 0
  data := []
  waits := false

/-- The monitor in each life-cycle state (Table 16.10, R370). -/
def MonAccess.ofLc (lc : BitVec 3) : MonAccess :=
  if lc = 2 then .locked else if 4 ≤ lc.toNat then .closed else .opened

/-- The monitor at power-good (R369, R370). -/
def Monitor.reset (lc : BitVec 3) : Monitor where
  access := MonAccess.ofLc lc
  token := none
  fails := 0
  divisor := 1736
  coneMin := 63
  out := []

/-- The value of the identification register (R388). -/
def Tap.idcode (mfr : BitVec 11) : Word32 := (0x1#4 ++ 0x7D04#16 ++ mfr ++ 1#1 : BitVec 32)

/-- The test port after test reset. PRESUMED (IEEE 1149.1: IDCODE is selected), log entry 7. -/
def Tap.reset : Tap where
  ir := .idcode
  state := .testLogicReset
  cells := []
  scans := 0

/-- The command slot after reset (Table 20.4). -/
def CmdSlot.reset : CmdSlot where
  op := 0
  status := .idle
  arg0 := 0
  arg1 := 0
  arg2 := 0
  arg3 := 0

/-- The CSR port after reset (Table 19.2). -/
def CsrPort.reset : CsrPort where
  status := .ok
  rdata := 0
  waiting := []
  held := none
  capture := []

/-- Run state after reset: BISQUE held at step 1 with rst_n asserted (R330, Table 20.3). -/
def RunCtl.reset (lc : BitVec 3) : RunCtl where
  porN := true
  rstN := false
  state := .bisque
  owner := .bridle
  epoch := 0
  retained := false
  step := 1
  west := { state := .bisque, owner := .bridle, epoch := 0 }
  east := { state := .bisque, owner := .bridle, epoch := 0 }
  safeCause := .none
  held := .ready
  safeDue := false
  startCode := 0
  entryTa := 0
  entryTx := 0
  started := false
  lc := lc

/-- No upset. -/
def Upsets.none : Upsets where
  sdmSingle := []
  sdmDouble := []
  sessSingle := []
  sessDouble := []
  spoolSingle := []
  spoolDouble := []
  parity := []
  tags := []
  cfg := []
  sweep := 0

/-- Matrix engine after reset (R151, R160, R396). -/
def MxState.reset : MxState where
  acc := []
  intTypes := 0
  stat0 := Stationary.zero
  stat1 := Stationary.zero
  full := 32
  h0 := 16
  h1 := 16
  win0 := 0
  win1 := 0

/-- The cluster after reset, for a given build and the fuses it has read. -/
def State.resetOf (b : Build) (z : Fuses) : State where
  build := b
  fuseBus := z
  fuses := z
  run := RunCtl.reset z.lc
  cmd := CmdSlot.reset
  csr := CsrPort.reset
  evt := EvtState.reset
  ta := ThreadState.reset
  tx := ThreadState.reset
  sdm := []
  preg := []
  stage := { vals := [], mask := 0, pending := false }
  queues := { q := [], k := [], idle := 0 }
  spool := { lines := [], fills := [] }
  tiles := { cfg := [], data := [], side := [] }
  toc := { rows := [], latch := [] }
  amax := []
  mx := MxState.reset
  vx := { slots := [] }
  glz := { groups := [], sel := 0, curve := 0 }
  ls := LocalStore.reset
  handles := []
  res := { reads := [], writes := [] }
  fab := Fabric.reset z.cluster
  sess := SessTable.reset b.sessEntries
  ballast := Ballast.reset
  clk := Clocks.reset
  mould := Mould.reset b.sessEntries
  brg := Bridle.reset
  mbx := Mailbox.reset
  mon := Monitor.reset z.lc
  tap := Tap.reset
  cycle := 0
  counters := []
  upsets := Upsets.none
  flights := []
  nextId := 0
  free := 0
  pending := []

/-- The cluster right after reset: the reference build (R5), held at step 1 of a bisque start. -/
def State.reset : State := State.resetOf Build.reference Fuses.zero

end Sys2Proof.Machine
end

