-- ==== Sys2Proof/Machine/Num.lean ====
section
/-! DEFINITION. Exact numbers and their rounding: little-endian bytes, the element formats of chapter 2,
exact sums, products, quotients and roots, the five rounding modes and the outcomes of Table 02.4. -/

namespace Sys2Proof.Machine

/-- The number a byte string spells, byte 0 least significant (R9). -/
def leNat : Bytes → Nat
  | [] => 0
  | b :: bs => b.toNat + 256 * leNat bs

/-- The `n` low bytes of a number, least significant first (R9). -/
def leBytes : Nat → Nat → Bytes
  | 0, _ => []
  | n + 1, v => BitVec.ofNat 8 v :: leBytes n (v / 256)

/-- Exactly `n` bytes: cut, or filled up with zeros. -/
def fitBytes (n : Nat) (bs : Bytes) : Bytes := (bs ++ List.replicate (n - bs.length) 0).take n

/-- A row of 512 zero bytes. -/
def zeroRow : Bytes := List.replicate 512 0

/-- The value of a two's-complement field of `w` bits. -/
def toSigned (w n : Nat) : Int := if n < 2 ^ (w - 1) then (n : Int) else (n : Int) - 2 ^ w

/-- The field of `w` bits that holds an integer in two's complement. -/
def ofSigned (w : Nat) (i : Int) : Nat := (i % (2 ^ w : Int)).toNat

/-- The element formats of Table 02.1 (R23). -/
inductive Fmt
  | fp32 | fp16 | bf16 | e4m3 | e5m2 | e3m2 | e2m3 | e2m1 | int8 | int4 | int32
  deriving DecidableEq, Repr

/-- The format of a code; a reserved code names none (R23). -/
def fmtOfCode (c : BitVec 4) : Option Fmt :=
  match c.toNat with
  | 0 => some .fp32
  | 1 => some .fp16
  | 2 => some .bf16
  | 3 => some .e4m3
  | 4 => some .e5m2
  | 5 => some .e3m2
  | 6 => some .e2m3
  | 7 => some .e2m1
  | 8 => some .int8
  | 9 => some .int4
  | 10 => some .int32
  | _ => none

/-- The code of a format (Table 02.1). -/
def fmtCode : Fmt → BitVec 4
  | .fp32 => 0
  | .fp16 => 1
  | .bf16 => 2
  | .e4m3 => 3
  | .e5m2 => 4
  | .e3m2 => 5
  | .e2m3 => 6
  | .e2m1 => 7
  | .int8 => 8
  | .int4 => 9
  | .int32 => 10

/-- Bits of an element (Table 02.1). -/
def fmtBits : Fmt → Nat
  | .fp32 => 32
  | .fp16 => 16
  | .bf16 => 16
  | .e4m3 => 8
  | .e5m2 => 8
  | .e3m2 => 6
  | .e2m3 => 6
  | .e2m1 => 4
  | .int8 => 8
  | .int4 => 4
  | .int32 => 32

/-- The three MX formats (R26). -/
def fmtIsMx (f : Fmt) : Bool := f == .e3m2 || f == .e2m3 || f == .e2m1

/-- The integer formats. -/
def fmtIsInt (f : Fmt) : Bool := f == .int8 || f == .int4 || f == .int32

/-- Packing unit in bytes, the element-size unit of a tile configuration (Table 02.1, R28). -/
def fmtUnit : Fmt → Nat
  | .fp32 => 4
  | .fp16 => 2
  | .bf16 => 2
  | .e4m3 => 1
  | .e5m2 => 1
  | .e3m2 => 24
  | .e2m3 => 24
  | .e2m1 => 16
  | .int8 => 1
  | .int4 => 1
  | .int32 => 4

/-- Elements in one packing unit. -/
def fmtUnitElems (f : Fmt) : Nat := if fmtIsMx f then 32 else if f == .int4 then 2 else 1

/-- Elements in `n` bytes of packed data. -/
def fmtElemsIn (f : Fmt) (n : Nat) : Nat := n / fmtUnit f * fmtUnitElems f

/-- What the encodings with all exponent bits set stand for (Table 02.2). -/
inductive Special
  | ieee
  | nanOnly
  | none
  deriving DecidableEq, Repr

/-- Layout of a floating-point format (Tables 02.1, 02.2). -/
structure FloatFmt where
  ebits : Nat
  mbits : Nat
  bias : Nat
  special : Special
  deriving DecidableEq, Repr

/-- binary32. -/
def fpS : FloatFmt := { ebits := 8, mbits := 23, bias := 127, special := .ieee }

/-- binary64, of the scalar instructions. -/
def fpD : FloatFmt := { ebits := 11, mbits := 52, bias := 1023, special := .ieee }

/-- FP16. -/
def fpH : FloatFmt := { ebits := 5, mbits := 10, bias := 15, special := .ieee }

/-- BF16. -/
def fpB : FloatFmt := { ebits := 8, mbits := 7, bias := 127, special := .ieee }

/-- The layout of a floating-point element format; integers have none. -/
def floatFmt : Fmt → Option FloatFmt
  | .fp32 => some fpS
  | .fp16 => some fpH
  | .bf16 => some fpB
  | .e4m3 => some { ebits := 4, mbits := 3, bias := 7, special := .nanOnly }
  | .e5m2 => some { ebits := 5, mbits := 2, bias := 15, special := .ieee }
  | .e3m2 => some { ebits := 3, mbits := 2, bias := 3, special := .none }
  | .e2m3 => some { ebits := 2, mbits := 3, bias := 1, special := .none }
  | .e2m1 => some { ebits := 2, mbits := 1, bias := 1, special := .none }
  | _ => none

/-- A zero of a sign. -/
def Val.zero (s : Bool) : Val := .fin s 0 0

/-- The canonical NaN (R37). -/
def Val.canonNan : Val := .nan false (2 ^ 51)

/-- A quiet NaN with the same payload (R37). -/
def Val.quiet : Val → Val
  | .nan s p => .nan s (p ||| 2 ^ 51)
  | v => v

/-- Is it a NaN. -/
def Val.isNan : Val → Bool
  | .nan _ _ => true
  | _ => false

/-- Is it an infinity. -/
def Val.isInf : Val → Bool
  | .inf _ => true
  | _ => false

/-- Is it a zero. -/
def Val.isZero : Val → Bool
  | .fin _ m _ => m == 0
  | _ => false

/-- The sign bit. -/
def Val.sign : Val → Bool
  | .nan s _ => s
  | .inf s => s
  | .fin s _ _ => s

/-- The same value with the other sign. -/
def Val.neg : Val → Val
  | .nan s p => .nan (!s) p
  | .inf s => .inf (!s)
  | .fin s m e => .fin (!s) m e

/-- The magnitude. -/
def Val.abs : Val → Val
  | .nan _ p => .nan false p
  | .inf _ => .inf false
  | .fin _ m e => .fin false m e

/-- An integer as a value; integer zero is +0 (R35). -/
def Val.ofInt (i : Int) : Val := .fin (decide (i < 0)) i.natAbs 0

/-- Decode one floating-point encoding exactly (R25, R29). The payload of a NaN is its mantissa field
at the left of 52 bits. -/
def decodeFloat (f : FloatFmt) (w : Nat) : Val :=
  let m := w % 2 ^ f.mbits
  let e := (w / 2 ^ f.mbits) % 2 ^ f.ebits
  let s := (w / 2 ^ (f.mbits + f.ebits)) % 2 == 1
  if f.special = .ieee ∧ e = 2 ^ f.ebits - 1 then
    if m = 0 then .inf s else .nan s (m * 2 ^ (52 - f.mbits))
  else if f.special = .nanOnly ∧ e = 2 ^ f.ebits - 1 ∧ m = 2 ^ f.mbits - 1 then
    .nan s (m * 2 ^ (52 - f.mbits))
  else if e = 0 then .fin s m (1 - (f.bias : Int) - f.mbits)
  else .fin s (m + 2 ^ f.mbits) ((e : Int) - f.bias - f.mbits)

/-- A subnormal encoding (R25): exponent field zero, mantissa field not. -/
def isSubnormal (f : FloatFmt) (w : Nat) : Bool :=
  (w / 2 ^ f.mbits) % 2 ^ f.ebits == 0 && w % 2 ^ f.mbits != 0

/-- Decode one element (R25, R29). -/
def decodeElem (f : Fmt) (w : Nat) : Val :=
  match floatFmt f with
  | some g => decodeFloat g w
  | none => Val.ofInt (toSigned (fmtBits f) w)

/-- `⌊log2 |x|⌋` of a non-zero finite value. -/
def leadExp (m : Nat) (e : Int) : Int := (Nat.log2 m : Int) + e

/-- Largest finite magnitude of a format as mantissa and exponent (Table 02.2). -/
def maxFinite (f : FloatFmt) : Nat × Int :=
  match f.special with
  | .ieee => (2 ^ (f.mbits + 1) - 1, (2 ^ f.ebits - 2 : Int) - f.bias - f.mbits)
  | .nanOnly => (2 ^ (f.mbits + 1) - 2, (2 ^ f.ebits - 1 : Int) - f.bias - f.mbits)
  | .none => (2 ^ (f.mbits + 1) - 1, (2 ^ f.ebits - 1 : Int) - f.bias - f.mbits)

/-- Encode a value that the format holds exactly; a NaN is cut to the format's mantissa (R37). -/
def encodeFloat (f : FloatFmt) (v : Val) : Nat :=
  let sgn := fun (s : Bool) => if s then 2 ^ (f.mbits + f.ebits) else 0
  match v with
  | .nan s p =>
    match f.special with
    | .ieee => sgn s + (2 ^ f.ebits - 1) * 2 ^ f.mbits
        + ((p ||| 2 ^ 51) % 2 ^ 52) / 2 ^ (52 - f.mbits)
    | _ => sgn s + 2 ^ (f.mbits + f.ebits) - 1
  | .inf s => sgn s + (2 ^ f.ebits - 1) * 2 ^ f.mbits
  | .fin s m e =>
    if m = 0 then sgn s
    else
      let q := max (leadExp m e) (1 - (f.bias : Int)) - f.mbits
      let k := if e ≥ q then m * 2 ^ (e - q).toNat else m / 2 ^ (q - e).toNat
      if k < 2 ^ f.mbits then sgn s + k
      else sgn s + (q + f.mbits + f.bias).toNat * 2 ^ f.mbits + (k - 2 ^ f.mbits)

/-- Rounding modes (R38). -/
inductive Rnd
  | rne | rtz | rdn | rup | sr
  deriving DecidableEq, Repr

/-- The mode of an RND field (chapter 21); codes 5 to 7 are reserved. -/
def rndOfCode (c : BitVec 3) : Option Rnd :=
  match c.toNat with
  | 0 => some .rne
  | 1 => some .rtz
  | 2 => some .rdn
  | 3 => some .rup
  | 4 => some .sr
  | _ => none

/-- One step of the LFSR (R40). -/
def lfsrStep (x : Word32) : Word32 :=
  if x.getLsbD 0 then (x >>> 1) ^^^ 0x80200003#32 else x >>> 1

/-- `n` steps of the LFSR. -/
def lfsrSteps : Nat → Word32 → Word32
  | 0, x => x
  | n + 1, x => lfsrSteps n (lfsrStep x)

/-- Nothing counted yet. -/
def tallyFrom (l : Word32) : Tally := { nsat := 0, nflush := 0, nnan := 0, lfsr := l }

/-- Count saturations. -/
def Tally.sat (t : Tally) : Tally := { t with nsat := t.nsat + 1 }

/-- Count flushes. -/
def Tally.flush (t : Tally) : Tally := { t with nflush := t.nflush + 1 }

/-- Count `n` NaN results. -/
def Tally.nans (t : Tally) (n : Nat) : Tally := { t with nnan := t.nnan + n }

/-- Round `m * 2^e` to a whole number of `2^q` (R38, R39): the multiple, and the tally, which an
inexact stochastic rounding advances by 16 LFSR steps (R40). -/
def roundQuantum (rnd : Rnd) (s : Bool) (m : Nat) (e q : Int) (t : Tally) : Nat × Tally :=
  if e ≥ q then (m * 2 ^ (e - q).toNat, t)
  else
    let k := (q - e).toNat
    let lo := m / 2 ^ k
    let rem := m % 2 ^ k
    if rem = 0 then (lo, t)
    else
      match rnd with
      | .rne =>
        (if 2 * rem > 2 ^ k then lo + 1 else if 2 * rem = 2 ^ k then lo + lo % 2 else lo, t)
      | .rtz => (lo, t)
      | .rdn => (if s then lo + 1 else lo, t)
      | .rup => (if s then lo else lo + 1, t)
      | .sr =>
        let f := rem * 2 ^ 16 / 2 ^ k
        (if f + t.lfsr.toNat % 2 ^ 16 ≥ 2 ^ 16 then lo + 1 else lo,
         { t with lfsr := lfsrSteps 16 t.lfsr })

/-- Is `m * 2^e` above `n * 2^g`. -/
def magGt (m : Nat) (e : Int) (n : Nat) (g : Int) : Bool :=
  if e ≥ g then decide (m * 2 ^ (e - g).toNat > n) else decide (m > n * 2 ^ (g - e).toNat)

/-- How results of an instruction are rounded: mode, FTZ, SATMODE (IEEE or not), and whether SATMODE governs FP32
results too, as it does for the conversions of MX.DRAIN, MV.GEMV and Glaze parameters, which R42 does not except
(DEDUCED, log entry 58). -/
structure RCtx where
  rnd : Rnd
  ftz : Bool
  ieee : Bool
  sat32 : Bool := false
  deriving DecidableEq, Repr

/-- Does a finite overflow give an infinity under IEEE in this mode (R42). -/
def overflowInf (rnd : Rnd) (s : Bool) : Bool :=
  match rnd with
  | .rne => true
  | .sr => true
  | .rtz => false
  | .rup => !s
  | .rdn => s

/-- The outcome that is an infinity under IEEE: a NaN counted in NNAN where the format has no Inf. That NaN keeps
the sign of the value: DESIGN CHOICE, log entry 55. -/
def infOutcome (f : FloatFmt) (s : Bool) (t : Tally) : Val × Tally :=
  if f.special = .ieee then (.inf s, t) else (.nan s (2 ^ 52 - 1), t.nans 1)

/-- The largest finite value of a sign. -/
def maxVal (f : FloatFmt) (s : Bool) : Val := .fin s (maxFinite f).1 (maxFinite f).2

/-- Round a value to a floating-point format without a block scale (R38, R41, R42, Table 02.4).
binary64 results, and binary32 ones that `sat32` does not put under SATMODE, are always IEEE. An infinity stays
infinite in a format of 23 mantissa bits or more; to any other it is saturated under SAT, a format no narrower than
its source included: DESIGN CHOICE, log entry 55. The answer is a value of the format. -/
def roundVal (f : FloatFmt) (c : RCtx) (v : Val) (t : Tally) : Val × Tally :=
  let ieee := c.ieee || decide (23 ≤ f.mbits) && !c.sat32
  match v with
  | .nan s p => (.nan s ((p ||| 2 ^ 51) / 2 ^ (52 - f.mbits) * 2 ^ (52 - f.mbits)), t.nans 1)
  | .inf s => if c.ieee || decide (23 ≤ f.mbits) then infOutcome f s t else (maxVal f s, t.sat)
  | .fin s m e =>
    if m = 0 then (Val.zero s, t)
    else
      let emin : Int := 1 - (f.bias : Int)
      let q := max (leadExp m e) emin - f.mbits
      let (k, t) := roundQuantum c.rnd s m e q t
      if k = 0 then (Val.zero s, t)
      else if magGt k q (maxFinite f).1 (maxFinite f).2 then
        if ieee then
          if overflowInf c.rnd s then infOutcome f s t else (maxVal f s, t)
        else (maxVal f s, t.sat)
      else if c.ftz && decide (q = emin - f.mbits) && decide (k < 2 ^ f.mbits) then (Val.zero s, t.flush)
      else (.fin s k q, t)

/-- Round a value to an integer format (R38, Table 02.4): clamped to the range, a NaN gives 0. Under SR a value that
is no integer draws before it is clamped: DESIGN CHOICE, log entry 55. -/
def roundInt (bits : Nat) (rnd : Rnd) (v : Val) (t : Tally) : Int × Tally :=
  let hi : Int := 2 ^ (bits - 1) - 1
  let lo : Int := -(2 ^ (bits - 1))
  match v with
  | .nan _ _ => (0, t.nans 1)
  | .inf s => (if s then lo else hi, t.sat)
  | .fin s m e =>
    let (k, t) := roundQuantum rnd s m e 0 t
    let i : Int := if s then -(k : Int) else k
    if i > hi then (hi, t.sat) else if i < lo then (lo, t.sat) else (i, t)

/-- The signed mantissa of a finite value at exponent `g`, which is no higher than its own. -/
def alignTo (g : Int) : Val → Int
  | .fin s m e =>
    let k : Int := (m : Int) * 2 ^ (e - g).toNat
    if s then -k else k
  | _ => 0

/-- The exponent of a value; 0 for those without one. -/
def Val.expOf : Val → Int
  | .fin _ _ e => e
  | _ => 0

/-- The first NaN of a list, quieted (R37). -/
def firstNan : List Val → Option Val
  | [] => none
  | .nan s p :: _ => some (Val.quiet (.nan s p))
  | _ :: vs => firstNan vs

/-- The sign of an exact zero sum (R35). -/
def zeroSumSign (rnd : Rnd) (vs : List Val) : Bool :=
  if vs.all (fun v => v.isZero && v.sign) then !vs.isEmpty
  else if vs.all (fun v => v.isZero && !v.sign) then false
  else decide (rnd = .rdn)

/-- The exact sum of a list of addends that holds no NaN (R35, R50). -/
def sumNoNan (rnd : Rnd) (vs : List Val) : Val :=
  let pos := vs.any (fun v => v.isInf && !v.sign)
  let neg := vs.any (fun v => v.isInf && v.sign)
  if pos && neg then Val.canonNan
  else if pos then .inf false
  else if neg then .inf true
  else
    let g := vs.foldl (fun g v => min g v.expOf) 0
    let i := vs.foldl (fun a v => a + alignTo g v) 0
    if i = 0 then Val.zero (zeroSumSign rnd vs) else .fin (decide (i < 0)) i.natAbs g

/-- The exact sum of a list of addends (R35, R37). -/
def sumExact (rnd : Rnd) (vs : List Val) : Val := (firstNan vs).getD (sumNoNan rnd vs)

/-- Exact sum of two values. -/
def addExact (rnd : Rnd) (a b : Val) : Val := sumExact rnd [a, b]

/-- The product of two values that are not NaN. -/
def mulNoNan (a b : Val) : Val :=
  let s := a.sign != b.sign
  match a, b with
  | .inf _, .fin _ m _ => if m = 0 then Val.canonNan else .inf s
  | .fin _ m _, .inf _ => if m = 0 then Val.canonNan else .inf s
  | .fin _ m e, .fin _ n g => .fin s (m * n) (e + g)
  | _, _ => .inf s

/-- Exact product (R37). -/
def mulExact (a b : Val) : Val := (firstNan [a, b]).getD (mulNoNan a b)

/-- Exact `a * b + c` (R37, R52). -/
def fmaExact (rnd : Rnd) (a b c : Val) : Val :=
  match firstNan [a, b, c] with
  | some v => v
  | none =>
    let p := mulNoNan a b
    if p.isNan then p else sumExact rnd [p, c]

/-- The exact sum of products of one block (R49, R50): a NaN input wins, then an invalid product. Of several NaN inputs
the first in term order gives the payload, the first factor before the second: DESIGN CHOICE, log entry 55. -/
def dotExact (rnd : Rnd) (ps : List (Val × Val)) : Val :=
  match firstNan (ps.flatMap (fun p => [p.1, p.2])) with
  | some v => v
  | none => sumExact rnd (ps.map (fun p => mulNoNan p.1 p.2))

/-- `m` with a sticky bit put below it. -/
def jam (m : Nat) (sticky : Bool) : Nat := 2 * m + (if sticky then 1 else 0)

/-- Quotient, exact up to a sticky bit far below any format's last place (IEEE 754-2019). -/
def divExact (a b : Val) : Val :=
  match firstNan [a, b] with
  | some v => v
  | none =>
    let s := a.sign != b.sign
    match a, b with
    | .inf _, .inf _ => Val.canonNan
    | .inf _, _ => .inf s
    | .fin _ _ _, .inf _ => Val.zero s
    | .fin _ m e, .fin _ n g =>
      if n = 0 then (if m = 0 then Val.canonNan else .inf s)
      else if m = 0 then Val.zero s
      else
        let k := 160 + Nat.log2 n - Nat.log2 m
        .fin s (jam (m * 2 ^ k / n) (decide (m * 2 ^ k % n ≠ 0))) (e - g - k - 1)
    | _, _ => Val.canonNan

/-- The integer square root, one bit at a time from bit `i - 1` down. -/
def isqrtFrom : Nat → Nat → Nat → Nat
  | 0, _, r => r
  | i + 1, x, r => isqrtFrom i x (if (r + 2 ^ i) * (r + 2 ^ i) ≤ x then r + 2 ^ i else r)

/-- Square root, exact up to a sticky bit (IEEE 754-2019). -/
def sqrtExact (a : Val) : Val :=
  match a with
  | .nan s p => Val.quiet (.nan s p)
  | .inf s => if s then Val.canonNan else .inf false
  | .fin s m e =>
    if m = 0 then Val.zero s
    else if s then Val.canonNan
    else
      let k : Nat := 240 + (e % 2).toNat
      let x := m * 2 ^ k
      let r := isqrtFrom (Nat.log2 x / 2 + 1) x 0
      .fin false (jam r (decide (r * r ≠ x))) ((e - k) / 2 - 1)

/-- Order of two values that are not NaN, -0 equal to +0 (R35): negative, zero or positive. -/
def cmpVal (a b : Val) : Int :=
  match a, b with
  | .inf s, .inf r => if s = r then 0 else if s then -1 else 1
  | .inf s, _ => if s then -1 else 1
  | _, .inf r => if r then 1 else -1
  | _, _ =>
    let g := min a.expOf b.expOf
    alignTo g a - alignTo g b

/-- `a = b`, false with a NaN (R35). -/
def eqVal (a b : Val) : Bool := !a.isNan && !b.isNan && decide (cmpVal a b = 0)

/-- `a < b`, false with a NaN (R35). -/
def ltVal (a b : Val) : Bool := !a.isNan && !b.isNan && decide (cmpVal a b < 0)

/-- `a ≤ b`, false with a NaN (R35). -/
def leVal (a b : Val) : Bool := !a.isNan && !b.isNan && decide (cmpVal a b ≤ 0)

/-- Is `a` below `b` in the order of R36, where -0 is less than +0. -/
def belowVal (a b : Val) : Bool :=
  if cmpVal a b = 0 then a.sign && !b.sign else decide (cmpVal a b < 0)

/-- Minimum or maximum (R36). `num` is the NUM bit. -/
def minMaxVal (isMax num : Bool) (a b : Val) : Val :=
  match a.isNan, b.isNan with
  | true, false => if num then b else a.quiet
  | false, true => if num then a else b.quiet
  | true, true => a.quiet
  | false, false => if belowVal a b != isMax then a else b

/-- A value of binary32 from its bits. -/
def valOfF32 (w : Word32) : Val := decodeFloat fpS w.toNat

/-- The bits of a value that binary32 holds. -/
def f32OfVal (v : Val) : Word32 := BitVec.ofNat 32 (encodeFloat fpS v)

/-- A value of binary64 from its bits. -/
def valOfF64 (w : Word64) : Val := decodeFloat fpD w.toNat

/-- The bits of a value that binary64 holds. -/
def f64OfVal (v : Val) : Word64 := BitVec.ofNat 64 (encodeFloat fpD v)

/-- Round to nearest even with nothing flushed and IEEE overflow. -/
def rneCtx : RCtx := { rnd := .rne, ftz := false, ieee := true }

/-- The binary32 value nearest to a value (R49, R52, R261). -/
def rneS (v : Val) : Val := (roundVal fpS rneCtx v (tallyFrom 1)).1

/-- Multiply by a power of two. -/
def scalePow2 (k : Int) : Val → Val
  | .fin s m e => .fin s m (e + k)
  | v => v

/-- Split packed bytes into element encodings in ascending index (R24). -/
def unpack (bits : Nat) : Bytes → List Nat
  | [] => []
  | a :: r =>
    if bits = 8 then a.toNat :: unpack bits r
    else if bits = 4 then a.toNat % 16 :: a.toNat / 16 :: unpack bits r
    else
      match r with
      | [] => []
      | b :: r =>
        if bits = 16 then (a.toNat + 256 * b.toNat) :: unpack bits r
        else
          match r with
          | [] => []
          | c :: r =>
            if bits = 6 then
              let w := a.toNat + 256 * b.toNat + 65536 * c.toNat
              w % 64 :: w / 64 % 64 :: w / 4096 % 64 :: w / 262144 :: unpack bits r
            else
              match r with
              | [] => []
              | d :: r =>
                (a.toNat + 256 * b.toNat + 65536 * c.toNat + 16777216 * d.toNat) :: unpack bits r

/-- Pack element encodings into bytes in ascending index (R24). -/
def pack (bits : Nat) : List Nat → Bytes
  | [] => []
  | a :: r =>
    if bits = 6 then
      match r with
      | b :: c :: d :: r => leBytes 3 (a + 64 * b + 4096 * c + 262144 * d) ++ pack bits r
      | _ => leBytes 3 (a + 64 * r.headD 0 + 4096 * r.tail.headD 0)
    else if bits = 4 then
      match r with
      | b :: r => BitVec.ofNat 8 (a + 16 * b) :: pack bits r
      | [] => [BitVec.ofNat 8 a]
    else leBytes (bits / 8) a ++ pack bits r

/-- The scale of an MX block as a power of two; none if the scale byte is 0xFF (R26). -/
def mxScale (x : Byte) : Option Int := if x = 0xFF then none else some ((x.toNat : Int) - 127)

/-- Decode one element under FTZ (R41): a subnormal element becomes a zero of its sign and counts. -/
def decodeFtz (f : Fmt) (ftz : Bool) (w : Nat) (t : Tally) : Val × Tally :=
  match floatFmt f with
  | some g =>
    if ftz && isSubnormal g w then (Val.zero (decodeFloat g w).sign, t.flush) else (decodeFloat g w, t)
  | none => (Val.ofInt (toSigned (fmtBits f) w), t)

/-- Decode a list of elements of a format without block scale. -/
def decodeList (f : Fmt) (ftz : Bool) : List Nat → Tally → List Val × Tally
  | [], t => ([], t)
  | w :: ws, t =>
    let (v, t) := decodeFtz f ftz w t
    let (vs, t) := decodeList f ftz ws t
    (v :: vs, t)

/-- Decode the elements of one MX block (R26). -/
def decodeBlock (f : Fmt) (ftz : Bool) (x : Byte) (ws : List Nat) (t : Tally) : List Val × Tally :=
  match mxScale x with
  | none => (ws.map (fun _ => Val.canonNan), t)
  | some k =>
    let (vs, t) := decodeList f ftz ws t
    (vs.map (scalePow2 k), t)

/-- Cut a list into pieces of `n`, at most `fuel` of them. -/
def chunks {α : Type} (n : Nat) : Nat → List α → List (List α)
  | 0, _ => []
  | fuel + 1, xs => if xs.isEmpty then [] else xs.take n :: chunks n fuel (xs.drop n)

/-- Decode MX blocks with their scales. -/
def decodeBlocks (f : Fmt) (ftz : Bool) : List (List Nat) → List Byte → Tally → List Val × Tally
  | [], _, t => ([], t)
  | b :: bs, xs, t =>
    let (vs, t) := decodeBlock f ftz (xs.headD 0) b t
    let (ws, t) := decodeBlocks f ftz bs xs.tail t
    (vs ++ ws, t)

/-- Decode packed bytes with the scales of their blocks (R24 to R29). -/
def decodeRow (f : Fmt) (ftz : Bool) (bs : Bytes) (scales : Bytes) (t : Tally) : List Val × Tally :=
  let ws := unpack (fmtBits f) bs
  if fmtIsMx f then decodeBlocks f ftz (chunks 32 ws.length ws) scales t
  else decodeList f ftz ws t

/-- Round one element to a format without a block scale and give its encoding. -/
def encodeElem (f : Fmt) (c : RCtx) (v : Val) (t : Tally) : Nat × Tally :=
  match floatFmt f with
  | some g =>
    let (r, t) := roundVal g c v t
    (encodeFloat g r, t)
  | none =>
    let (i, t) := roundInt (fmtBits f) c.rnd v t
    (ofSigned (fmtBits f) i, t)

/-- Round a list of elements in ascending order (R40). -/
def encodeElems (f : Fmt) (c : RCtx) : List Val → Tally → List Nat × Tally
  | [], t => ([], t)
  | v :: vs, t =>
    let (w, t) := encodeElem f c v t
    let (ws, t) := encodeElems f c vs t
    (w :: ws, t)

/-- The larger of two magnitudes. -/
def maxMag (a b : Val) : Val := if ltVal a b then b else a

/-- The largest exponent of an MX element format (R43). -/
def mxEmax (f : Fmt) : Int := if f == .e3m2 then 4 else 2

/-- The elements of an MX block: rounded, saturated at the format's maximum (R43 step 4). An infinity, under SAT
the largest finite FP32 value, counts one saturation whether or not its element saturates (Table 02.4). -/
def encodeMxElems (g : FloatFmt) (c : RCtx) (k : Int) : List Val → Tally → List Nat × Tally
  | [], t => ([], t)
  | v :: vs, t =>
    let u := if v.isInf then maxVal fpS v.sign else v
    let (r, t') := roundVal g { c with ieee := false } (scalePow2 (-k) u) t
    let t := if v.isInf then { t' with nsat := t.nsat + 1 } else t'
    let (ws, t) := encodeMxElems g c k vs t
    (encodeFloat g r :: ws, t)

/-- The scale of a block (R43): clamped to 0 at the low end, and a free value above 254, where the rule
gives no byte. -/
def blockScale (x : Int) : Int :=
  if 254 < x then ((Config.mxScaleBeyond x).toNat : Int) else max 0 x

/-- Convert one block to an MX format (R43): the scale byte and the element encodings. The list holds
the elements present; the caller fills the block up with +0. -/
def encodeBlock (f : Fmt) (c : RCtx) (vs : List Val) (t : Tally) : Byte × List Nat × Tally :=
  match floatFmt f with
  | none => (0, [], t)
  | some g =>
    if vs.any Val.isNan || (c.ieee && vs.any Val.isInf) then
      (0xFF, vs.map (fun _ => 0), t.nans vs.length)
    else
      let us := vs.map (fun v => if v.isInf then maxVal fpS v.sign else v)
      match us.foldl (fun a v => maxMag a v.abs) (Val.zero false) with
      | .fin _ m e =>
        if m = 0 then
          let (ws, t) := encodeMxElems g c 0 vs t
          (0, ws, t)
        else
          let x := blockScale (127 + leadExp m e - mxEmax f)
          let (ws, t) := encodeMxElems g c (x - 127) vs t
          (BitVec.ofNat 8 x.toNat, ws, t)
      | _ => (0, [], t)

/-- Convert blocks to an MX format: the scale bytes and the encodings, each block filled up to 32. -/
def encodeBlocks (f : Fmt) (c : RCtx) : List (List Val) → Tally → Bytes × List Nat × Tally
  | [], t => ([], [], t)
  | b :: bs, t =>
    let (x, ws, t) := encodeBlock f c b t
    let (xs, vs, t) := encodeBlocks f c bs t
    (x :: xs, ws ++ List.replicate (32 - ws.length) 0 ++ vs, t)

/-- Convert a list of elements to packed bytes and, for an MX format, its scale bytes. -/
def encodeRow (f : Fmt) (c : RCtx) (vs : List Val) (t : Tally) : Bytes × Bytes × Tally :=
  if fmtIsMx f then
    let (xs, ws, t) := encodeBlocks f c (chunks 32 vs.length vs) t
    (pack (fmtBits f) ws, xs, t)
  else
    let (ws, t) := encodeElems f c vs t
    (pack (fmtBits f) ws, [], t)

/-- The running maximum of R47 over source elements, as binary32: magnitudes rounded upwards, NaN
elements left out unless `naninc`. The register then keeps the NaN element's sign and quieted payload: DESIGN CHOICE,
log entry 55. -/
def amaxGather (naninc : Bool) (start : Val) : List Val → Val
  | [] => start
  | v :: vs =>
    let next :=
      if start.isNan then start
      else if v.isNan then (if naninc then v.quiet else start)
      else maxMag start (roundVal fpS { rnd := .rup, ftz := false, ieee := true } v.abs (tallyFrom 1)).1
    amaxGather naninc next vs

/-- A saturating sum of a 24-bit or 48-bit counter. -/
def satAdd (bits n k : Nat) : Nat := min (2 ^ bits - 1) (n + k)

/-- NSTAT from the counts of an instruction (R44). -/
def Tally.nstat (t : Tally) : Nstat where
  nsat := BitVec.ofNat 24 (satAdd 24 t.nsat 0)
  nflush := BitVec.ofNat 24 (satAdd 24 t.nflush 0)
  nnan := BitVec.ofNat 24 (satAdd 24 t.nnan 0)

/-- An exact widening of a binary32 value to binary64, NaN sign and payload kept (R48, R76). -/
def widenF32 (w : Word32) : Word64 :=
  match valOfF32 w with
  | .nan s p => (if s then 0xFFF0000000000000#64 else 0x7FF0000000000000#64) ||| BitVec.ofNat 64 p
  | v => f64OfVal v

end Sys2Proof.Machine
end

