-- ==== Sys2Proof/Machine/Ops.lean ====
section
/-! DEFINITION. The operations every meaning shares: thread registers, counters, events, the fetch from the
Spool, the issue of an instruction, and what a fault does to its thread. -/

namespace Sys2Proof.Machine

/-- The outcome of a command. -/
abbrev Out := Host.Outcome State Fault Refusal

/-- A thread. -/
def getThread (t : Thread) (s : State) : ThreadState :=
  match t with
  | .ta => s.ta
  | .tx => s.tx

/-- Replace a thread. -/
def setThread (t : Thread) (th : ThreadState) (s : State) : State :=
  match t with
  | .ta => { s with ta := th }
  | .tx => { s with tx := th }

/-- Change a thread. -/
def modThread (t : Thread) (f : ThreadState → ThreadState) (s : State) : State :=
  setThread t (f (getThread t s)) s

/-- The other thread. -/
def otherThread : Thread → Thread
  | .ta => .tx
  | .tx => .ta

/-- Number of a thread in THREADID and event details (Tables 03.1, 17.6). -/
def threadNum : Thread → Nat
  | .ta => 0
  | .tx => 1

/-- Read an s-register; s0 reads as zero (R54). -/
def readReg (th : ThreadState) (r : Reg) : Word64 :=
  if r = 0 then 0 else Sparse.get 0 th.regs r.toNat

/-- Write an s-register; a write to s0 is discarded (R54). -/
def writeReg (th : ThreadState) (r : Reg) (v : Word64) : ThreadState :=
  if r = 0 then th else { th with regs := Sparse.set 0 th.regs r.toNat v }

/-- Read a register of a thread. -/
def sreg (t : Thread) (r : Reg) (s : State) : Word64 := readReg (getThread t s) r

/-- Write a register of a thread. -/
def setSreg (t : Thread) (r : Reg) (v : Word64) (s : State) : State :=
  modThread t (fun th => writeReg th r v) s

/-- Read a parameter register (R59). -/
def readParam (s : State) (n : Nat) : Word64 := Sparse.get 0 s.preg n

/-- Counters of Table 20.16, named by their CSR address. -/
def cntLullEcc : Nat := 0x6002
/-- LULL_PORT. -/
def cntLullPort : Nat := 0x6004
/-- LULL_SCRUB. -/
def cntLullScrub : Nat := 0x6006
/-- LULL_DROGUE. -/
def cntLullDrogue : Nat := 0x6008
/-- DROGUE_50. -/
def cntDrogue50 : Nat := 0x600A
/-- BOUNDARY_WAIT. -/
def cntBoundaryWait : Nat := 0x600C
/-- BOUNDARY_CORR. -/
def cntBoundaryCorr : Nat := 0x600E
/-- TAG_CORR. -/
def cntTagCorr : Nat := 0x6010
/-- SPOOL_CORR. -/
def cntSpoolCorr : Nat := 0x6012
/-- SPOOL_UNCORR. -/
def cntSpoolUncorr : Nat := 0x6014
/-- SDM_CORR. -/
def cntSdmCorr : Nat := 0x6016
/-- SESS_CORR. -/
def cntSessCorr : Nat := 0x6018
/-- CFG_CORR. -/
def cntCfgCorr : Nat := 0x601A
/-- CLK_DRIFT. -/
def cntClkDrift : Nat := 0x601C
/-- CLK_SWITCHES. -/
def cntClkSwitches : Nat := 0x601E
/-- NSAT_TOTAL of a thread; NFLUSH_TOTAL and NNAN_TOTAL follow at +2 and +4, FAULT at +6. -/
def cntNsat (t : Thread) : Nat := 0x6020 + 8 * threadNum t
/-- FAULT of a thread. -/
def cntFault (t : Thread) : Nat := cntNsat t + 6
/-- TOC_HIT. -/
def cntTocHit : Nat := 0x6030
/-- TREUSE. -/
def cntTreuse : Nat := 0x6032
/-- MX_VALID_BEATS. -/
def cntMxValid : Nat := 0x6040
/-- MX_LOAD_CYCLES. -/
def cntMxLoad : Nat := 0x6042
/-- MX_CAP_BUBBLES. -/
def cntMxCap : Nat := 0x6044
/-- MX_IDLE_CYCLES. -/
def cntMxIdle : Nat := 0x6046
/-- MV_PAIRS. -/
def cntMvPairs : Nat := 0x6048
/-- MV_IDLE_CYCLES. -/
def cntMvIdle : Nat := 0x604A
/-- VX_BEATS of a lane group. -/
def cntVxBeats (g : Bool) : Nat := if g then 0x6050 else 0x604C
/-- VX_IDLE_CYCLES of a lane group. -/
def cntVxIdle (g : Bool) : Nat := if g then 0x6052 else 0x604E
/-- GLZ_UPDATES. -/
def cntGlzUpdates : Nat := 0x6060
/-- STEP_SKEW. -/
def cntStepSkew : Nat := 0x6062
/-- FROZEN_DROPS. -/
def cntFrozenDrops : Nat := 0x6064
/-- GLZ_STALE. -/
def cntGlzStale : Nat := 0x6066
/-- GLZ_DENIED. -/
def cntGlzDenied : Nat := 0x6068
/-- TA_LS_ROWS. -/
def cntTaRows : Nat := 0x6080
/-- DMA_ROWS_IN. -/
def cntDmaIn : Nat := 0x6082
/-- DMA_ROWS_OUT. -/
def cntDmaOut : Nat := 0x6084
/-- DMA_RES_ERR. -/
def cntDmaErr : Nat := 0x6086
/-- FAB_ROWS_OUT. -/
def cntFabOut : Nat := 0x6088
/-- FAB_ROWS_IN. -/
def cntFabIn : Nat := 0x608A
/-- FAB_REFUSED. -/
def cntFabRefused : Nat := 0x608C
/-- MSG_RETRIES. -/
def cntMsgRetries : Nat := 0x608E
/-- SESS_CREDIT_SAT. -/
def cntSessCredit : Nat := 0x6090
/-- SESS_XFER_ERR. -/
def cntSessXfer : Nat := 0x6092
/-- BALLAST_MISSED. -/
def cntBallastMissed : Nat := 0x6094
/-- BRG_RESTARTS. -/
def cntBrgRestarts : Nat := 0x6096
/-- EVT_LOST. -/
def cntEvtLost : Nat := 0x6098
/-- FAB_CRC_ERR of a port; the other counters of the port follow by twos. -/
def cntFabCrc (p : Nat) : Nat := 0x6100 + 16 * p
/-- FAB_RESENDS of a port. -/
def cntFabResends (p : Nat) : Nat := cntFabCrc p + 2
/-- FAB_BAD_TYPE of a port. -/
def cntFabBadType (p : Nat) : Nat := cntFabCrc p + 4
/-- FAB_MISROUTE of a port. -/
def cntFabMisroute (p : Nat) : Nat := cntFabCrc p + 6
/-- FAB_ORPHAN of a port. -/
def cntFabOrphan (p : Nat) : Nat := cntFabCrc p + 8
/-- FAB_RSP_TIMEOUT of a port. -/
def cntFabTimeout (p : Nat) : Nat := cntFabCrc p + 10
/-- WIN_DENIED of a window; SERVED, EMPTY and FULL follow by twos. -/
def cntWinDenied (w : Nat) : Nat := 0x6200 + 8 * w
/-- WIN_SERVED of a window. -/
def cntWinServed (w : Nat) : Nat := cntWinDenied w + 2
/-- WIN_EMPTY of a window. -/
def cntWinEmpty (w : Nat) : Nat := cntWinDenied w + 4
/-- WIN_FULL of a window. -/
def cntWinFull (w : Nat) : Nat := cntWinDenied w + 6
/-- LS_CORR of a stack. -/
def cntLsCorr (k : Nat) : Nat := 0x6300 + 4 * k
/-- SCRUB_PASS of a stack. -/
def cntScrubPass (k : Nat) : Nat := cntLsCorr k + 2

/-- The value of a counter. -/
def counter (s : State) (a : Nat) : Nat := Sparse.get 0 s.counters a

/-- Add to a 48-bit saturating counter (R407). -/
def bump (a n : Nat) (s : State) : State :=
  { s with counters := Sparse.set 0 s.counters a (satAdd 48 (counter s a) n) }

/-- Severity of an event code and whether it raises EVT_IRQ whatever the enables (Table 17.3). -/
def eventSeverity (code : BitVec 12) : Severity × Bool :=
  match code.toNat with
  | 0x001 => (.note, false)
  | 0x002 => (.fatal, true)
  | 0x003 => (.warn, false)
  | 0x004 => (.fatal, true)
  | 0x005 => (.note, false)
  | 0x006 => (.note, false)
  | 0x007 => (.note, false)
  | 0x008 => (.warn, true)
  | 0x101 => (.note, false)
  | 0x105 => (.note, false)
  | 0x203 => (.warn, false)
  | 0x302 => (.warn, false)
  | 0x303 => (.warn, false)
  | 0x304 => (.warn, false)
  | 0x305 => (.warn, false)
  | 0x403 => (.note, false)
  | 0x405 => (.warn, false)
  | 0x501 => (.warn, false)
  | 0x502 => (.fatal, true)
  | 0x505 => (.note, false)
  | 0x506 => (.warn, true)
  | 0x601 => (.note, false)
  | 0x602 => (.warn, false)
  | 0x603 => (.warn, false)
  | 0x604 => (.warn, false)
  | 0x605 => (.warn, false)
  | _ => (.error, true)

/-- The bit of EVT_CAUSE of a severity (Table 20.5). -/
def severityBit : Severity → BitVec 4
  | .note => 1
  | .warn => 2
  | .error => 4
  | .fatal => 8

/-- Does an event of this severity raise EVT_IRQ (R350). -/
def raisesIrq (s : State) (sev : Severity) (always : Bool) : Bool :=
  always ||
    match sev with
    | .note => s.evt.enable.getLsbD 0
    | .warn => s.evt.enable.getLsbD 1
    | _ => true

/-- Place an event behind those before it, ascending in code among events of one cycle (R350). The
queue is given latest first. -/
def insertEvent (e : Event) : List Event → List Event
  | [] => [e]
  | x :: xs => if x.cycle = e.cycle ∧ e.code < x.code then x :: insertEvent e xs else e :: x :: xs

/-- Log an event (R350, R354, R361, R362): its cause bit, its place in the 64-entry queue, or EVT_LOST. -/
def logAt (place : Event → List Event → List Event) (cycle : BitVec 48) (code : BitVec 12) (detail : Nat) (s : State) :
    State :=
  let (sev, always) := eventSeverity code
  let cause := if raisesIrq s sev always then s.evt.cause ||| severityBit sev else s.evt.cause
  let s := { s with evt := { s.evt with cause := cause } }
  if s.evt.queue.length < 64 then
    let e : Event := { code := code, sev := sev, cycle := cycle, detail := BitVec.ofNat 48 detail }
    { s with evt := { s.evt with queue := place e s.evt.queue } }
  else bump cntEvtLost 1 s

/-- An event of this cycle takes its place among those of the cycle by its code (R350). -/
def byCode (e : Event) (q : List Event) : List Event := (insertEvent e q.reverse).reverse

/-- An event detected in this cycle. -/
def logEvent (code : BitVec 12) (detail : Nat) (s : State) : State :=
  logAt byCode (s.cycle.setWidth 48) code detail s

/-- The EVT_IRQ output (R350, R380). -/
def evtIrq (s : State) : Bool := s.evt.cause != 0

/-- What an instruction comes to at issue (R64, R80): it waits, raises an issue fault, issues and goes on
with the next word, or issues and goes on elsewhere. -/
inductive Verdict
  | wait (w : Wait)
  | fault (fc : BitVec 8) (fval : Word64)
  | go (s : State)
  | jump (s : State) (target : BitVec 48)
  deriving DecidableEq, Repr

/-- Fault codes (Table 03.5). -/
def fcIllegal : BitVec 8 := 0x01
/-- ENGINE_ABSENT. -/
def fcAbsent : BitVec 8 := 0x02
/-- TCFG_INVALID. -/
def fcTcfg : BitVec 8 := 0x03
/-- SHAPE_MISMATCH. -/
def fcShape : BitVec 8 := 0x04
/-- TILE_EMPTY. -/
def fcTileEmpty : BitVec 8 := 0x05
/-- HANDLE_INVALID. -/
def fcHandle : BitVec 8 := 0x06
/-- ROW_RANGE. -/
def fcRow : BitVec 8 := 0x07
/-- LS_UNCORR. -/
def fcLsUncorr : BitVec 8 := 0x08
/-- TAG_TIMEOUT. -/
def fcTagTimeout : BitVec 8 := 0x09
/-- QUEUE_DIR. -/
def fcQueue : BitVec 8 := 0x0A
/-- COIL_DEPTH. -/
def fcCoil : BitVec 8 := 0x0B
/-- FORMAT_ENGINE. -/
def fcFormat : BitVec 8 := 0x0C
/-- PARAM_RANGE. -/
def fcParam : BitVec 8 := 0x0D
/-- SDM_RANGE. -/
def fcSdm : BitVec 8 := 0x0E
/-- SPOOL_FETCH. -/
def fcSpool : BitVec 8 := 0x0F
/-- LINK_UNRECOVERED. -/
def fcLink : BitVec 8 := 0x10
/-- RIGHTS. -/
def fcRights : BitVec 8 := 0x11
/-- EPOCH_STALE. -/
def fcStale : BitVec 8 := 0x12

/-- ILLEGAL_OP, without detail. -/
def illegal : Verdict := .fault fcIllegal 0

/-- PARAM_RANGE at an operand position (R420). -/
def paramRange (pos : Nat) : Verdict := .fault fcParam (BitVec.ofNat 64 pos)

/-- The port accepts requests and CLK runs: neither reset is low (R379). -/
def portOpen (s : State) : Bool := s.run.porN && s.run.rstN && s.run.state != .off

/-! Lulls (R12 to R15). -/

/-- DRG_T25 of a table entry (Table 15.2). -/
def stepT25 (e : Word32) : Nat := e.toNat / 2 ^ 20 % 2 ^ 6

/-- DRG_T50 of a table entry. -/
def stepT50 (e : Word32) : Nat := e.toNat / 2 ^ 26

/-- The least code of the Cones that monitor; 63, the greatest code, of none (R321, R324). -/
def leastCode (codes : List (Option (BitVec 6))) : BitVec 6 :=
  (codes.filterMap id).foldl (fun m c => if c < m then c else m) 63

/-- Thresholds of the step in force, DRG_T25 and DRG_T50; there are none before the Mould load. -/
def drogueLimits (s : State) : Option (Nat × Nat) :=
  (s.clk.fsteps[s.clk.step.toNat]?).map (fun e => (stepT25 e, stepT50 e))

/-- Threshold of a level, at or above which its cycles are good. -/
def drogueLimit (limits : Nat × Nat) : Drogue → Nat
  | .none => 0
  | .s25 => limits.1
  | .s50 => limits.2

/-- What a cycle of CLK adds to the Drogue's counts (R13, R322, R323). -/
def drogueTick (s : State) : State :=
  let s := if s.clk.level = .none then s else bump cntLullDrogue 1 s
  let s := if s.clk.level = .s50 then bump cntDrogue50 1 s else s
  match drogueLimits s with
  | none => s
  | some l =>
    let least := (leastCode s.clk.coneLast).toNat
    let good := if s.clk.level != .none && decide (drogueLimit l s.clk.level ≤ least) then s.clk.good + 1 else 0
    let low := if s.clk.level == .s50 && decide (least < l.2) then s.clk.low + 1 else 0
    { s with clk := { s.clk with good := good, low := low } }

/-- A lull cycle: CYCLE and the Drogue count it, everything else holds (R12, R13, R15). -/
def lullTick (s : State) : State :=
  let s := drogueTick { s with cycle := s.cycle + 1 }
  { s with clk := { s.clk with lull := s.clk.lull - 1 } }

/-- The lull cycles still to be taken pass: what happens inside the cluster happens after them (R12). -/
def passLull (s : State) : State :=
  if portOpen s then (List.range s.clk.lull).foldl (fun s _ => lullTick s) s else s

/-! Tag tests (R107, R109). -/

/-- The tag of a physical row (R107). -/
def getTag (s : State) (p : Nat) : Tag := Sparse.get .empty s.ls.tags p

/-- Set the tag of a physical row. -/
def setTag (p : Nat) (g : Tag) (s : State) : State :=
  { s with ls := { s.ls with tags := Sparse.set .empty s.ls.tags p g } }

/-- Release a claim (Table 04.3): W-CLAIM becomes EMPTY, R-CLAIM becomes FULL. -/
def releaseClaim (p : Nat) (s : State) : State :=
  match getTag s p with
  | .wclaim => setTag p .empty s
  | .rclaim => setTag p .full s
  | _ => s

/-- Release the claims that a waiting instruction has taken (Table 04.3). -/
def releaseTests (tests : List TagTest) (s : State) : State :=
  tests.foldl (fun s x => if x.passed && x.kind != .keep then releaseClaim x.phys s else s) s

/-- Repair a tag of which one copy disagrees (R112). -/
def repairTag (p : Nat) (s : State) : State :=
  if s.upsets.tags.contains p then
    bump cntTagCorr 1 { s with upsets := { s.upsets with tags := s.upsets.tags.filter (fun q => q != p) } }
  else s

/-- One tag test (R107, Table 04.3): passed, with its claim, or not. -/
def tagTest (x : TagTest) (s : State) : TagTest × State :=
  if x.passed then (x, s)
  else
    let s := repairTag x.phys s
    match x.kind, getTag s x.phys with
    | .write, .empty => ({ x with passed := true }, setTag x.phys .wclaim s)
    | .keep, .full => ({ x with passed := true }, s)
    | .keep, .rclaim => ({ x with passed := true }, s)
    | .clear, .full => ({ x with passed := true }, setTag x.phys .rclaim s)
    | _, _ => (x, s)

/-- Tag tests in order; tests already passed keep their claims. -/
def runTests : List TagTest → State → List TagTest × State
  | [], s => ([], s)
  | x :: xs, s =>
    let (x, s) := tagTest x s
    let (xs, s) := runTests xs s
    (x :: xs, s)

/-- Every tag test of an instruction has passed. -/
def allPassed (f : Flight) : Bool := f.tests.all (fun x => x.passed)

/-- A test that the instruction has reached has failed. -/
def testFailed (f : Flight) : Bool := (f.tests.take f.tested).any (fun x => !x.passed)

/-- One cycle of tag tests: those that failed again, and up to 32 that were not yet reached (R109). Tests after
the first 32 delay the first access. -/
def testCycle (f : Flight) (s : State) : Flight × State :=
  let (xs, s) := runTests (f.tests.take (f.tested + 32)) s
  ({ f with
      tests := xs ++ f.tests.drop (f.tested + 32)
      tested := min (f.tested + 32) f.tests.length
      notBefore := if f.tested = 0 then f.notBefore else max f.notBefore (f.issuedAt + f.tested / 32 + 1) }, s)

/-- The tests of an instruction that no cycle has reached are made, 32 a cycle, until one fails. -/
def reachTests : Nat → Flight → State → Flight × State
  | 0, f, s => (f, s)
  | n + 1, f, s =>
    if testFailed f || f.tests.length ≤ f.tested then (f, s)
    else
      let (f, s) := testCycle f s
      reachTests n f s

/-- An instruction in flight by its number. -/
def findFlight (fid : Nat) (s : State) : Option Flight := s.flights.find? (fun f => f.id == fid)

/-- Change an instruction in flight. -/
def modFlight (fid : Nat) (g : Flight → Flight) (s : State) : State :=
  { s with flights := s.flights.map (fun f => if f.id == fid then g f else f) }

/-- Take an instruction out of flight. -/
def dropFlight (fid : Nat) (s : State) : State :=
  { s with flights := s.flights.filter (fun f => f.id != fid) }

/-- The flights of a thread, in issue order. -/
def flightsOf (t : Thread) (s : State) : List Flight := s.flights.filter (fun f => f.thread == t)

/-- A TCTX.LOAD whose header row has not yet been found FULL, so that its descriptors are not yet checked (R138). -/
def unjudged (f : Flight) : Bool :=
  match f.instr with
  | .tctxLoad _ _ => f.opv.isEmpty
  | _ => false

/-- An instruction waits on its tag tests, so that its thread is held (R66). -/
def waitsOnTags (f : Flight) : Bool := !f.begun && f.faulted.isNone && (!allPassed f || unjudged f)

/-- Does an instruction in flight hold its thread: it waits on tags (R66) or blocks (R207). -/
def heldByFlight (t : Thread) (s : State) : Bool := (flightsOf t s).any (fun f => waitsOnTags f || f.blocking)

/-- What has to pass before a thread can issue its next instruction: the lull, and the cycles in which the rows
of an earlier instruction are tested (R12, R109). -/
def settle (t : Thread) (s : State) : State :=
  let s := passLull s
  ((flightsOf t s).filter waitsOnTags).foldl (fun s f =>
    let (f, s) := reachTests f.tests.length f s
    modThread t (fun th => { th with nextIssue := max th.nextIssue f.notBefore })
      (modFlight f.id (fun _ => f) s)) s

/-- A thread issues: the cluster runs outside a lull and is not about to enter SAFE, and the thread is neither
stopped nor held (R12, R22, R56, R61, R63, R81 to R86, R66, R207). An active handler runs on, and a restart list
is reissued, before the wait at REPLAY.SYNC goes on. -/
def mayIssue (t : Thread) (s : State) : Bool :=
  let th := getThread t s
  s.run.state == .run && s.clk.lull == 0 && (!s.run.safeDue || th.hact) &&
    !th.halted && !th.stopped && !th.paused && (!th.atSync || th.reissuing || th.hact) &&
    th.phase == .normal && !heldByFlight t s

/-- Record an issue fault (R81): the thread issues nothing further. While a handler is active or a
restart list is being reissued the record is made at handler entry (R84, R85). -/
def issueFault (t : Thread) (fc : BitVec 8) (fval : Word64) (s : State) : State :=
  modThread t (fun th =>
    let f : FaultRec := { fc := fc, pc := th.pc, fval := fval }
    let th := { th with phase := .issueFault f, wait := .none }
    if th.hact || th.reissuing then th
    else { th with fc := fc, fpc := th.pc, fval := fval, fnpc := th.pc, restart := [] }) s

/-- A PC: 48 bits of which [2:0] are zero (R54). -/
def alignPc (a : BitVec 48) : BitVec 48 := a &&& 0xFFFFFFFFFFF8#48

/-- Issue goes on `n` words further; a reissued entry is taken off the restart list (R84, R86). -/
def advance (t : Thread) (n : Nat) (s : State) : State :=
  modThread t (fun th =>
    let th := { th with nextIssue := max th.nextIssue s.ls.round + 1 }
    if th.reissuing then
      match th.restart.tail with
      | [] => { th with wait := .none, restart := [], reissuing := false, pc := alignPc th.fnpc }
      | e :: es => { th with wait := .none, restart := e :: es, pc := alignPc e.pc }
    else { th with wait := .none, pc := alignPc (th.pc + BitVec.ofNat 48 (8 * n)) }) s

/-- Issue goes on at an address. -/
def jumpTo (t : Thread) (a : BitVec 48) (s : State) : State :=
  modThread t (fun th =>
    { th with wait := .none, pc := alignPc a, nextIssue := max th.nextIssue s.ls.round + 1 }) s

/-- The thread waits instead of issuing (R11). -/
def setWait (t : Thread) (w : Wait) (s : State) : State :=
  modThread t (fun th => { th with wait := w }) s

/-- The 128-byte line of an address (R77). -/
def spoolLineOf (a : BitVec 48) : BitVec 48 := BitVec.ofNat 48 (a.toNat / 128 * 128)

/-- Number of sets of the Spool (R77 and the text before it). -/
def spoolSets (s : State) : Nat := 2 * s.build.spoolKib

/-- Set of a line. -/
def spoolSet (s : State) (line : BitVec 48) : Nat := (line.toNat / 128) % spoolSets s

/-- Is a line resident. -/
def spoolHit (s : State) (line : BitVec 48) : Bool := s.spool.lines.any (fun l => l.tag == line)

/-- Make a line the most recently used. -/
def spoolTouch (line : BitVec 48) (s : State) : State :=
  let hit := s.spool.lines.filter (fun l => l.tag == line)
  let rest := s.spool.lines.filter (fun l => l.tag != line)
  { s with spool := { s.spool with lines := hit ++ rest } }

/-- Ask the reservoir for something; the port gives it an identifier when it sends it (R384). Fills go
before all other reads (chapter 3, "The Spool"). -/
def reservoirRead (fill : Bool) (r : ResReq) (s : State) : State :=
  if fill then
    let sent := s.res.reads.filter (fun x => x.id.isSome)
    let fills := s.res.reads.filter (fun x => x.id.isNone && match x.use with | .fill _ => true | _ => false)
    let rest := s.res.reads.filter (fun x => x.id.isNone && match x.use with | .fill _ => false | _ => true)
    { s with res := { s.res with reads := sent ++ fills ++ [r] ++ rest } }
  else { s with res := { s.res with reads := s.res.reads ++ [r] } }

/-- The least identifier below 64 that no request of a channel holds (R384, R385). -/
def freeResId (l : List ResReq) : Option (BitVec 6) :=
  ((List.range 64).find? (fun i => !l.any (fun r => r.id == some (BitVec.ofNat 6 i)))).map (BitVec.ofNat 6 ·)

/-- Give identifiers to waiting requests of a channel while fewer than 64 are outstanding. -/
def assignIds : Nat → List ResReq → List ResReq
  | 0, l => l
  | n + 1, l =>
    match freeResId l with
    | none => l
    | some i =>
      let (sent, waiting) := l.span (fun r => r.id.isSome)
      match waiting with
      | [] => l
      | r :: rs => assignIds n (sent ++ { r with id := some i } :: rs)

/-- Send the reservoir requests that wait, in order, while identifiers are free. -/
def reservoirPump (s : State) : State :=
  { s with res :=
    { reads := assignIds s.res.reads.length s.res.reads
      writes := assignIds s.res.writes.length s.res.writes } }

/-- Start a fill of a line, or join the one in flight (R77, R78). -/
def spoolFill (line : BitVec 48) (t : Option Thread) (ahead pin : Bool) (s : State) : State :=
  let join (f : SpoolFill) : SpoolFill :=
    if f.tag == line && !f.discard then
      { f with
        demandTa := f.demandTa || t == some .ta
        demandTx := f.demandTx || t == some .tx
        ahead := f.ahead || ahead
        pin := f.pin || pin }
    else f
  if s.spool.fills.any (fun f => f.tag == line && !f.discard) then
    { s with spool := { s.spool with fills := s.spool.fills.map join } }
  else
    let f : SpoolFill :=
      { tag := line, pin := pin, demandTa := t == some .ta, demandTx := t == some .tx,
        ahead := ahead, discard := false }
    let s := { s with spool := { s.spool with fills := s.spool.fills ++ [f] } }
    reservoirPump (reservoirRead true { id := none, address := line, use := .fill line, data := [] } s)

/-- Fetch the words of an instruction that one line holds (R77, R79). -/
def fetchLine (t : Thread) (line : BitVec 48) (words : List (BitVec 48)) (s : State) : State × Bool :=
  if spoolHit s line then
    if s.upsets.spoolDouble.any (fun a => words.contains a && spoolLineOf a == line) then
      -- An uncorrectable word invalidates its line, which is fetched again and keeps its pin (R79).
      let pin := s.spool.lines.any (fun l => l.tag == line && l.pinned)
      let s := { s with
        spool := { s.spool with lines := s.spool.lines.filter (fun l => l.tag != line) }
        upsets := { s.upsets with
          spoolDouble := s.upsets.spoolDouble.filter (fun a => spoolLineOf a != line)
          spoolSingle := s.upsets.spoolSingle.filter (fun a => spoolLineOf a != line) } }
      (spoolFill line (some t) false pin (bump cntSpoolUncorr 1 s), false)
    else (spoolTouch line s, true)
  else (spoolFill line (some t) false false s, false)

/-- A corrected instruction word is rewritten and counted (R79). -/
def fetchWord (a : BitVec 48) (s : State) : State :=
  if s.upsets.spoolSingle.contains a then
    bump cntSpoolCorr 1
      { s with upsets := { s.upsets with spoolSingle := s.upsets.spoolSingle.filter (fun b => b != a) } }
  else s

/-- Fetch the `n` words of the instruction at a thread's PC (R77, R79, R410): are they all there. -/
def fetch (t : Thread) (n : Nat) (s : State) : State × Bool :=
  let pc := (getThread t s).pc
  let first := spoolLineOf pc
  let last := spoolLineOf (pc + BitVec.ofNat 48 (8 * n - 8))
  let words := (List.range n).map (fun i => pc + BitVec.ofNat 48 (8 * i))
  let (s, a) := fetchLine t first words s
  let (s, b) := if last = first then (s, true) else fetchLine t last words s
  if a && b then (words.foldl (fun s a => fetchWord a s) s, true)
  else (setWait t .spool s, false)

/-- A handle-table entry. -/
def getHandle (s : State) (h : BitVec 8) : Handle := Sparse.get Handle.reset s.handles h.toNat

/-- An epoch of a handle that is still readable (R95). -/
def readable (s : State) (b : Binding) : Bool :=
  let e := getHandle s b.h
  b.epoch == e.epoch || (e.prevValid && b.epoch == e.prevEpoch)

/-- A reissued instruction sees what it found at its first issue (R87): its s-registers, its bindings, and the
epochs through which it translated while they can still be read. -/
def firstView (t : Thread) (s : State) : State :=
  match (getThread t s).reissuing, (getThread t s).restart.head? with
  | true, some e =>
    modThread t (fun th => { th with regs := e.snap.regs, bind := e.snap.bind ++ e.snap.seen.filter (readable s) }) s
  | _, _ => s

/-- After a reissue the thread has its own s-registers and bindings again. -/
def liveView (t : Thread) (old s : State) : State :=
  if (getThread t old).reissuing then
    modThread t (fun th => { th with regs := (getThread t old).regs, bind := (getThread t old).bind }) s
  else s

/-- Issue an instruction of `n` words: if the thread issues and has its words, do what the instruction's
own rules say (R64, R80, R81, R87). -/
def issue (t : Thread) (n : Nat) (f : State → Verdict) (s : State) : State :=
  if mayIssue t (settle t s) then
    let r := fetch t n (settle t s)
    if r.2 then
      match f (firstView t r.1) with
      | .wait w => setWait t w r.1
      | .fault fc fval => issueFault t fc fval r.1
      | .go s' => advance t n (liveView t r.1 s')
      | .jump s' a => jumpTo t a (liveView t r.1 s')
    else r.1
  else s

/-- The registers that an instruction in flight of a thread still has to write. -/
def pendingDests (t : Thread) (s : State) : List Reg :=
  ((flightsOf t s).filter (fun f => f.faulted.isNone)).flatMap (fun f => f.dests)

/-- The scoreboard holds an instruction that names these s-registers (R64). s0 is never held. -/
def regsHeld (t : Thread) (rs : List Reg) (s : State) : Bool :=
  rs.any (fun r => r != 0 && (pendingDests t s).contains r)

/-- A scalar instruction: it waits for its registers, then does its work. -/
def scalar (t : Thread) (regs : List Reg) (f : State → Verdict) (s : State) : State :=
  issue t 1 (fun s => if regsHeld t regs s then .wait .scoreboard else f s) s

/-- A scalar instruction that writes one register. -/
def scalarWrite (t : Thread) (rd : Reg) (srcs : List Reg) (v : State → Word64) (s : State) : State :=
  scalar t (rd :: srcs) (fun s => .go (setSreg t rd (v s) s)) s

/-- Reserve nothing more on the queues for an instruction: its producer entries go, its consumer
reservations are lifted (R68, R69). -/
def releaseQueues (fid : Nat) (s : State) : State :=
  { s with queues :=
    { s.queues with
      q := s.queues.q.map (fun p =>
        (p.1, (p.2.filter (fun e => !(e.prod == fid && e.data.isNone))).map
          (fun e => if e.cons = some fid then { e with cons := none } else e)))
      k := s.queues.k.map (fun p => (p.1, p.2.filter (fun e => !(e.prod == some fid && e.val.isNone)))) } }

/-- Drop empty lists from the queue maps, so that equal queues are equal data. -/
def trimQueues (s : State) : State :=
  { s with queues :=
    { s.queues with
      q := s.queues.q.filter (fun p => !p.2.isEmpty)
      k := s.queues.k.filter (fun p => !p.2.isEmpty) } }

/-- The claims of the accesses that an instruction has not made (Table 04.3): W-CLAIM of a write, R-CLAIM of a
read with CLEAR. -/
def claimsLeft (f : Flight) : List Nat :=
  f.acts.flatten.filterMap (fun a => match a.op with
    | .read true _ => some a.phys
    | .write true _ => some a.phys
    | _ => none)

/-- The claims of an instruction that faults or is stopped are released (Table 04.3). -/
def releaseLeft (f : Flight) (s : State) : State :=
  if f.begun then (claimsLeft f).foldl (fun s p => releaseClaim p s) s else releaseTests f.tests s

/-- An instruction in flight meets an execution fault (R80, R82): its thread issues nothing further, and
its queue reservations and its claims are released (R68, Table 04.3). Of a thread that has stopped already (R85,
R348) the fault is counted (R83) and nothing is recorded: DESIGN CHOICE, log entry 51. -/
def execFault (fid : Nat) (fc : BitVec 8) (fval : Word64) (s : State) : State :=
  match findFlight fid s with
  | none => s
  | some f =>
    let s := trimQueues (releaseQueues fid (releaseLeft f s))
    if (getThread f.thread s).stopped then dropFlight fid (bump (cntFault f.thread) 1 s)
    else
      let rec_ : FaultRec := { fc := fc, pc := f.pc, fval := fval }
      let s := modFlight fid (fun f =>
        { f with faulted := some (f.faulted.getD rec_), due := [], acts := [], remote := none }) s
      modThread f.thread (fun th =>
        match th.phase with
        | .issueFault r => if th.reissuing then { th with phase := .issueFault r } else { th with phase := .execFault }
        | _ => { th with phase := .execFault, wait := .none }) s

/-- Stop a thread as under R85 (R348), with its state intact. -/
def stopThread (t : Thread) (s : State) : State :=
  modThread t (fun th => { th with stopped := true, phase := .normal, wait := .none }) s

/-- What a restart of an instruction in flight needs (R87). -/
def flightSnap (f : Flight) : Snapshot :=
  { f.snap with
    sr := f.sr
    seen := (f.xl.filter (fun x => !f.snap.bind.any (fun b => b.h == x.h))).map (fun x =>
      { h := x.h, epoch := x.epoch }) }

/-- The restart-list entry of an instruction in flight, with its fault or FC 0x00 (R82, R86). -/
def flightEntry (f : Flight) : RestartEntry :=
  match f.faulted with
  | some r => { pc := r.pc, fc := r.fc, detail := r.fval, snap := flightSnap f }
  | none => { pc := f.pc, fc := 0, detail := 0, snap := flightSnap f }

/-- Entry to a fault handler after R81 or R82, or a fault that cannot be handled (R82 to R85). `new` is
the restart list that the fault gives, oldest first; `fnpc` where issue goes on after it. -/
def enterHandler (t : Thread) (faults : List FaultRec) (new : Option (List RestartEntry))
    (fnpc : BitVec 48) (s : State) : State :=
  let th := getThread t s
  let oldest : FaultRec := faults.headD { fc := 0, pc := th.pc, fval := 0 }
  let detail := threadNum t + 256 * oldest.fc.toNat
  let s := bump (cntFault t) faults.length s
  if th.hact then
    -- The values of the fault being handled stay; T_PC shows the second faulting instruction (R85).
    logEvent 0x102 detail
      (modThread t (fun th => { th with stopped := true, phase := .normal, pc := alignPc oldest.pc }) s)
  else
    let s := modThread t (fun th =>
      match new with
      | some l =>
        match l with
        | o :: _ =>
          { th with fc := o.fc, fpc := o.pc, fval := o.detail, fnpc := fnpc, restart := l,
                    phase := .normal, reissuing := false }
        | [] =>
          { th with fc := oldest.fc, fpc := oldest.pc, fval := oldest.fval, fnpc := fnpc, restart := [],
                    phase := .normal, reissuing := false }
      | none =>
        { th with fc := oldest.fc, fpc := oldest.pc, fval := oldest.fval, fnpc := fnpc, restart := [],
                  phase := .normal, reissuing := false }) s
    if th.hvec = 0 then logEvent 0x103 detail (modThread t (fun th => { th with stopped := true }) s)
    else modThread t (fun th => { th with hact := true, pc := alignPc th.hvec }) s

/-- The faulted instructions of a thread leave flight; their faults and restart-list entries are given in issue
order. -/
def takeFaulted (t : Thread) (s : State) : List FaultRec × List RestartEntry × State :=
  let fs := (flightsOf t s).filter (fun f => f.faulted.isSome)
  (fs.filterMap (fun f => f.faulted), fs.map flightEntry,
   { s with flights := s.flights.filter (fun f => !(f.thread == t && f.faulted.isSome)) })

/-- FAULT_HANDLER_ENTRY (R81 to R85): possible once the thread has met a fault and, for an execution
fault or one in a reissue, its other tensor instructions have completed or faulted. -/
def faultEntryStep (t : Thread) (s : State) : Option State :=
  let th := getThread t s
  let drained := (flightsOf t s).all (fun f => f.faulted.isSome || !f.tensor)
  match th.phase with
  | .normal => none
  | .issueFault f =>
    if th.reissuing then
      if drained then
        let (fs, es, s) := takeFaulted t s
        let head := (th.restart.take 1).map (fun e => { e with pc := f.pc, fc := f.fc, detail := f.fval })
        some (enterHandler t (fs ++ [f]) (some (es ++ head ++ th.restart.tail)) th.fnpc s)
      else none
    else some (enterHandler t [f] none th.pc s)
  | .execFault =>
    if drained then
      let (fs, es, s) := takeFaulted t s
      if th.reissuing then some (enterHandler t fs (some (es ++ th.restart)) th.fnpc s)
      else some (enterHandler t fs (some es) th.pc s)
    else none

/-- A PAUSE or an entry to SAFE waits for the threads to stop (R86, R335). -/
def pauseDue (s : State) : Bool :=
  (s.cmd.status == .busy && s.cmd.op == 2) || s.run.safeDue

/-- Stop a thread at an instruction boundary (R86): its tile operations in flight enter the restart list
with FC 0x00, in issue order, before the entries not yet reissued. A stopped thread waits on nothing (R20). -/
def pauseThread (t : Thread) (s : State) : State :=
  let th := getThread t s
  let stop := (flightsOf t s).filter (fun f => f.tileOp && f.faulted.isNone)
  let s := stop.foldl (fun s f => trimQueues (releaseQueues f.id (dropFlight f.id (releaseLeft f s)))) s
  let entries := stop.map flightEntry
  modThread t (fun th' =>
    let th' := { th' with wait := .none }
    if th.stopped then { th' with restart := th.restart ++ entries, paused := true }
    else
      let l := entries ++ (if th.reissuing then th.restart else [])
      let fnpc := if th.reissuing then th.fnpc else th.pc
      match l with
      | [] => { th' with paused := true }
      | e :: _ =>
        { th' with paused := true, restart := l, fnpc := fnpc, reissuing := true, pc := alignPc e.pc }) s

/-- Draw a free value's number. -/
def drawFree (s : State) : Nat × State := (s.free, { s with free := s.free + 1 })

end Sys2Proof.Machine
end

