-- ==== Sys2Proof/Machine/Scalar.lean ====
section
/-! DEFINITION. The scalar instructions of both threads: integer and FP64 arithmetic, comparisons, branches,
scalar data memory, parameters, tokens, status and Coil loops (chapter 3, R54 to R76, R412). -/

namespace Sys2Proof.Machine

/-- The value of an instruction with two register sources. -/
def alu2 (t : Thread) (rd rs1 rs2 : Reg) (f : Word64 → Word64 → Word64) (s : State) : State :=
  scalarWrite t rd [rs1, rs2] (fun s => f (sreg t rs1 s) (sreg t rs2 s)) s

/-- The value of an instruction with one register source and an immediate sign-extended to 64 bits. -/
def aluImm (t : Thread) (rd rs1 : Reg) (imm : BitVec 32) (f : Word64 → Word64 → Word64) (s : State) :
    State :=
  scalarWrite t rd [rs1] (fun s => f (sreg t rs1 s) (imm.signExtend 64)) s

/-- A shift count: bits [5:0] (R62). -/
def shiftCount (v : Word64) : Nat := v.toNat % 64

/-- 1 or 0. -/
def flag64 (b : Bool) : Word64 := if b then 1 else 0

/-- The high 64 bits of a 128-bit product. -/
def mulHigh (isSigned : Bool) (a b : Word64) : Word64 :=
  let w (x : Word64) : BitVec 128 := if isSigned then x.signExtend 128 else x.setWidth 128
  ((w a * w b) >>> 64).setWidth 64

/-- DIVS: truncated quotient; -1 for a zero divisor (Table 03.2). -/
def divSigned (a b : Word64) : Word64 := if b = 0 then BitVec.allOnes 64 else a.sdiv b

/-- DIVU: all ones for a zero divisor. -/
def divUnsigned (a b : Word64) : Word64 := if b = 0 then BitVec.allOnes 64 else a / b

/-- REMS: the sign of the dividend; the dividend for a zero divisor. -/
def remSigned (a b : Word64) : Word64 := if b = 0 then a else a.srem b

/-- REMU: the dividend for a zero divisor. -/
def remUnsigned (a b : Word64) : Word64 := if b = 0 then a else a % b

/-- A word offset of branches and jumps, -2^20 to 2^20 (R412). -/
def offsetOk (off : BitVec 32) : Bool := decide (-(2 ^ 20) ≤ off.toInt) && decide (off.toInt ≤ 2 ^ 20)

/-- The target `off` words from the instruction at `pc`. -/
def branchTarget (pc : BitVec 48) (off : BitVec 32) : BitVec 48 := pc + (off.signExtend 48 <<< 3)

/-- A conditional branch (R63, R412). -/
def branch (t : Thread) (rs1 rs2 : Reg) (off : BitVec 32) (c : Word64 → Word64 → Bool) (s : State) :
    State :=
  issue t 1 (fun s =>
    if !offsetOk off then illegal
    else if regsHeld t [rs1, rs2] s then .wait .scoreboard
    else if c (sreg t rs1 s) (sreg t rs2 s) then .jump s (branchTarget (getThread t s).pc off)
    else .go s) s

/-- Earlier instructions of the thread with stochastic rounding are still in flight (R40). -/
def srBusy (t : Thread) (s : State) : Bool := (flightsOf t s).any (fun f => f.sr)

/-- Round a scalar FP64 result under a mode and write it (R38 to R42): always IEEE, nothing counted. -/
def writeF64 (t : Thread) (rd : Reg) (rnd : Rnd) (v : Val) (s : State) : State :=
  let (r, tl) := roundVal fpD { rnd := rnd, ftz := false, ieee := true } v (tallyFrom (getThread t s).lfsr)
  setSreg t rd (f64OfVal r) (modThread t (fun th => { th with lfsr := tl.lfsr }) s)

/-- A scalar instruction that rounds (R40, R62): a reserved RND code is ILLEGAL_OP. -/
def fpRound (t : Thread) (rd : Reg) (srcs : List Reg) (rnd : BitVec 3) (f : Rnd → State → State)
    (s : State) : State :=
  issue t 1 (fun s =>
    match rndOfCode rnd with
    | none => illegal
    | some m =>
      if regsHeld t (rd :: srcs) s then .wait .scoreboard
      else if m = .sr && srBusy t s then .wait .srOrder
      else .go (f m s)) s

/-- A binary64 operand. -/
def fpReg (t : Thread) (r : Reg) (s : State) : Val := valOfF64 (sreg t r s)

/-- A binary64 result from two operands. -/
def fp2 (t : Thread) (rd rs1 rs2 : Reg) (rnd : BitVec 3) (f : Rnd → Val → Val → Val) (s : State) : State :=
  fpRound t rd [rs1, rs2] rnd
    (fun m s => writeF64 t rd m (f m (fpReg t rs1 s) (fpReg t rs2 s)) s) s

/-- A comparison of two binary64 operands. -/
def fpCmp (t : Thread) (rd rs1 rs2 : Reg) (f : Val → Val → Bool) (s : State) : State :=
  scalarWrite t rd [rs1, rs2] (fun s => flag64 (f (fpReg t rs1 s) (fpReg t rs2 s))) s

/-- A binary64 operand rounded to a signed integer of `bits` bits, sign-extended (Table 03.2). -/
def fpToInt (t : Thread) (rd rs1 : Reg) (rnd : BitVec 3) (bits : Nat) (s : State) : State :=
  fpRound t rd [rs1] rnd
    (fun m s =>
      let (i, tl) := roundInt bits m (fpReg t rs1 s) (tallyFrom (getThread t s).lfsr)
      setSreg t rd (BitVec.ofInt 64 i) (modThread t (fun th => { th with lfsr := tl.lfsr }) s)) s

/-- Outcome of reading SDM bytes: the value, or the 8-byte word that cannot be corrected. -/
def sdmBad (s : State) (a n : Nat) : Option Nat :=
  s.upsets.sdmDouble.find? (fun w => decide (a / 8 ≤ w) && decide (w * 8 < a + n))

/-- Corrected words under a read are rewritten and counted (R347). -/
def sdmCorrect (a n : Nat) (s : State) : State :=
  let hit (w : Nat) : Bool := decide (a / 8 ≤ w) && decide (w * 8 < a + n)
  bump cntSdmCorr (s.upsets.sdmSingle.filter hit).length
    { s with upsets := { s.upsets with sdmSingle := s.upsets.sdmSingle.filter (fun w => !hit w) } }

/-- An uncorrectable SDM word stops the reading thread (R348). -/
def sdmUncorr (t : Thread) (word : Nat) (s : State) : State :=
  logEvent 0x104 (threadNum t + 256 * (8 * word)) (stopThread t s)

/-- Bytes written to SDM; words written whole get new check bits. -/
def sdmWrite (a : Nat) (bs : Bytes) (s : State) : State :=
  let covered (w : Nat) : Bool := decide (a ≤ 8 * w) && decide (8 * w + 8 ≤ a + bs.length)
  { s with
    sdm := Mem.writeBytes s.sdm a bs
    upsets := { s.upsets with
      sdmSingle := s.upsets.sdmSingle.filter (fun w => !covered w)
      sdmDouble := s.upsets.sdmDouble.filter (fun w => !covered w) } }

/-- An SDM offset, -2^15 to 2^15 - 1 (R57, R412). -/
def sdmOffsetOk (imm : BitVec 32) : Bool :=
  decide (-(2 ^ 15) ≤ imm.toInt) && decide (imm.toInt < 2 ^ 15)

/-- An SDM address is in range and aligned (R57). -/
def sdmAddrOk (a : Word64) (n : Nat) : Bool := decide (a.toNat < 0x40000) && a.toNat % n == 0

/-- An SDM load of `n` bytes (R57). -/
def sdmLoad (t : Thread) (rd rs1 : Reg) (imm : BitVec 32) (n : Nat) (isSigned : Bool) (s : State) : State :=
  issue t 1 (fun s =>
    if !sdmOffsetOk imm then illegal
    else if regsHeld t [rd, rs1] s then .wait .scoreboard
    else
      let a := sreg t rs1 s + imm.signExtend 64
      if !sdmAddrOk a n then .fault fcSdm a
      else
        match sdmBad s a.toNat n with
        | some w => .jump (sdmUncorr t w s) (getThread t s).pc
        | none =>
          let v := leNat (Mem.readBytes s.sdm a.toNat n)
          let w : Word64 := if isSigned then BitVec.ofInt 64 (toSigned (8 * n) v) else BitVec.ofNat 64 v
          .go (setSreg t rd w (sdmCorrect a.toNat n s))) s

/-- An SDM store of `n` bytes (R57). -/
def sdmStore (t : Thread) (rs1 rs2 : Reg) (imm : BitVec 32) (n : Nat) (s : State) : State :=
  issue t 1 (fun s =>
    if !sdmOffsetOk imm then illegal
    else if regsHeld t [rs1, rs2] s then .wait .scoreboard
    else
      let a := sreg t rs1 s + imm.signExtend 64
      if !sdmAddrOk a n then .fault fcSdm a
      else .go (sdmWrite a.toNat (leBytes n (sreg t rs2 s).toNat) s)) s

/-- The queue detail of a fault (R420): 0 to 7 operand queues, 8 to 11 token queues. -/
def queueFault (q : Nat) : Verdict := .fault fcQueue (BitVec.ofNat 64 q)

/-- The thread that pushes to an operand queue (R67, Table 20.17). -/
def queueProducer (s : State) (q : Nat) : Thread := if s.mould.cfg.qdir.getLsbD q then .tx else .ta

/-- The thread that pushes to a token queue. -/
def tokenProducer (s : State) (k : Nat) : Thread := if s.mould.cfg.kdir.getLsbD k then .tx else .ta

/-- Configured depth of an operand queue. -/
def queueDepth (s : State) (q : Nat) : Nat := s.mould.cfg.depths.getD q 0

/-- Entries of an operand queue, oldest first. -/
def queueEntries (s : State) (q : Nat) : List QEntry := Sparse.get [] s.queues.q q

/-- Entries of a token queue, oldest first. -/
def tokenEntries (s : State) (k : Nat) : List KEntry := Sparse.get [] s.queues.k k

/-- The visible entries of an operand queue: those before the first reservation not yet filled (R68). -/
def visibleRows (s : State) (q : Nat) : List QEntry := (queueEntries s q).takeWhile (fun e => e.data.isSome)

/-- The visible tokens (R69). -/
def visibleTokens (s : State) (k : Nat) : List KEntry := (tokenEntries s k).takeWhile (fun e => e.val.isSome)

/-- Replace an operand queue; a push or pop restarts the count of R20. -/
def setQueue (q : Nat) (l : List QEntry) (s : State) : State :=
  { s with queues := { s.queues with q := Sparse.set [] s.queues.q q l } }

/-- Replace a token queue. -/
def setTokens (k : Nat) (l : List KEntry) (s : State) : State :=
  { s with queues := { s.queues with k := Sparse.set [] s.queues.k k l } }

/-- A push or pop took effect (R20). -/
def queueMoved (s : State) : State := { s with queues := { s.queues with idle := 0 } }

/-- The selected restart-list entry; zeros where the list is shorter. -/
def selectedEntry (th : ThreadState) (sel : BitVec 3) : RestartEntry :=
  th.restart.getD sel.toNat RestartEntry.zero

/-- RSTINFO: FC in [7:0], detail in [63:8] (Table 20.3). -/
def rstInfo (e : RestartEntry) : Word64 := (e.detail <<< 8) ||| e.fc.setWidth 64

/-- Run-to-completion instructions of a thread in flight (R86). -/
def inflightCount (t : Thread) (s : State) : Nat :=
  ((flightsOf t s).filter (fun f => f.tensor && !f.tileOp)).length

/-- TSTAT (Table 20.3). -/
def tstat (t : Thread) (s : State) : Word64 :=
  let th := getThread t s
  let b (x : Bool) : Nat := if x then 1 else 0
  BitVec.ofNat 64 (th.fc.toNat + 2 ^ 8 * b th.hact + 2 ^ 9 * b th.halted + 2 ^ 10 * b th.c3
    + 2 ^ 11 * th.restart.length + 2 ^ 15 * th.coil.length + 2 ^ 18 * inflightCount t s)

/-- The special register of a number (Table 03.1); none for an unassigned one. -/
def specialReg (t : Thread) (n : Nat) (s : State) : Option Word64 :=
  let th := getThread t s
  match n with
  | 0x00 => some (tstat t s)
  | 0x01 => some (th.fpc.setWidth 64)
  | 0x02 => some (th.fnpc.setWidth 64)
  | 0x03 => some th.fval
  | 0x04 => some (th.hvec.setWidth 64)
  | 0x05 => some (th.rstsel.setWidth 64)
  | 0x06 => some ((selectedEntry th th.rstsel).pc.setWidth 64)
  | 0x07 => some (rstInfo (selectedEntry th th.rstsel))
  | 0x08 => some s.cycle
  | 0x09 => some (s.ballast.budget.setWidth 64)
  | 0x0A => some (th.lfsr.setWidth 64)
  | 0x0B => some (BitVec.ofNat 64 (threadNum t))
  | _ => none

/-- The LFSR state that a write loads (R40). -/
def seedOf (v : Word64) : Word32 := if v.setWidth 32 = (0 : Word32) then 1 else v.setWidth 32

/-- Write a special register (Table 03.1, R55); none for an unassigned or read-only one. -/
def writeSpecial (n : Nat) (v : Word64) (th : ThreadState) : Option ThreadState :=
  match n with
  | 0x00 =>
    let th := { th with c3 := v.getLsbD 10 }
    some (if (v >>> 11).toNat % 16 = 0 then { th with restart := [] } else th)
  | 0x01 => some { th with fpc := v.setWidth 48 }
  | 0x02 => some { th with fnpc := v.setWidth 48 }
  | 0x04 => some { th with hvec := v.setWidth 48 }
  | 0x05 => some { th with rstsel := v.setWidth 3 }
  | 0x0A => some { th with lfsr := seedOf v }
  | _ => none

/-- The innermost Coil levels dropped up to and including a level. -/
def coilLevel (th : ThreadState) (n : Nat) : Option CoilLevel := th.coil[n]?

/-- A Coil level number (R412). -/
def levelOk (imm : BitVec 32) : Bool := decide (imm.toNat < 4)

/-- NOP (R62). -/
def execNop (t : Thread) (s : State) : Out :=
  .next (issue t 1 .go s)

/-- ADD (R62). -/
def execAdd (t : Thread) (rd rs1 rs2 : Reg) (s : State) : Out :=
  .next (alu2 t rd rs1 rs2 (fun a b => a + b) s)

/-- SUB (R62). -/
def execSub (t : Thread) (rd rs1 rs2 : Reg) (s : State) : Out :=
  .next (alu2 t rd rs1 rs2 (fun a b => a - b) s)

/-- AND (R62). -/
def execAnd (t : Thread) (rd rs1 rs2 : Reg) (s : State) : Out :=
  .next (alu2 t rd rs1 rs2 (fun a b => a &&& b) s)

/-- OR (R62). -/
def execOr (t : Thread) (rd rs1 rs2 : Reg) (s : State) : Out :=
  .next (alu2 t rd rs1 rs2 (fun a b => a ||| b) s)

/-- XOR (R62). -/
def execXor (t : Thread) (rd rs1 rs2 : Reg) (s : State) : Out :=
  .next (alu2 t rd rs1 rs2 (fun a b => a ^^^ b) s)

/-- SHL (R62). -/
def execShl (t : Thread) (rd rs1 rs2 : Reg) (s : State) : Out :=
  .next (alu2 t rd rs1 rs2 (fun a b => a <<< shiftCount b) s)

/-- SHR (R62). -/
def execShr (t : Thread) (rd rs1 rs2 : Reg) (s : State) : Out :=
  .next (alu2 t rd rs1 rs2 (fun a b => a >>> shiftCount b) s)

/-- SRA (R62). -/
def execSra (t : Thread) (rd rs1 rs2 : Reg) (s : State) : Out :=
  .next (alu2 t rd rs1 rs2 (fun a b => a.sshiftRight (shiftCount b)) s)

/-- ADDI (R62, R412). -/
def execAddi (t : Thread) (rd rs1 : Reg) (imm : BitVec 32) (s : State) : Out :=
  .next (aluImm t rd rs1 imm (fun a b => a + b) s)

/-- ANDI (R62, R412). -/
def execAndi (t : Thread) (rd rs1 : Reg) (imm : BitVec 32) (s : State) : Out :=
  .next (aluImm t rd rs1 imm (fun a b => a &&& b) s)

/-- ORI (R62, R412). -/
def execOri (t : Thread) (rd rs1 : Reg) (imm : BitVec 32) (s : State) : Out :=
  .next (aluImm t rd rs1 imm (fun a b => a ||| b) s)

/-- XORI (R62, R412). -/
def execXori (t : Thread) (rd rs1 : Reg) (imm : BitVec 32) (s : State) : Out :=
  .next (aluImm t rd rs1 imm (fun a b => a ^^^ b) s)

/-- SHLI: the count is bits [5:0] of any immediate (R62, R412). -/
def execShli (t : Thread) (rd rs1 : Reg) (imm : BitVec 32) (s : State) : Out :=
  .next (aluImm t rd rs1 imm (fun a b => a <<< shiftCount b) s)

/-- SHRI (R62, R412). -/
def execShri (t : Thread) (rd rs1 : Reg) (imm : BitVec 32) (s : State) : Out :=
  .next (aluImm t rd rs1 imm (fun a b => a >>> shiftCount b) s)

/-- SRAI (R62, R412). -/
def execSrai (t : Thread) (rd rs1 : Reg) (imm : BitVec 32) (s : State) : Out :=
  .next (aluImm t rd rs1 imm (fun a b => a.sshiftRight (shiftCount b)) s)

/-- LI loads a sign-extended immediate (R62). -/
def execLi (t : Thread) (rd : Reg) (imm : BitVec 32) (s : State) : Out :=
  .next (scalarWrite t rd [] (fun _ => imm.signExtend 64) s)

/-- LIH replaces bits [63:32] of rd (R62, R412). -/
def execLih (t : Thread) (rd : Reg) (imm : BitVec 32) (s : State) : Out :=
  .next (scalarWrite t rd [rd] (fun s => imm ++ (sreg t rd s).setWidth 32) s)

/-- MUL (R62). -/
def execMul (t : Thread) (rd rs1 rs2 : Reg) (s : State) : Out :=
  .next (alu2 t rd rs1 rs2 (fun a b => a * b) s)

/-- MULH (R62). -/
def execMulh (t : Thread) (rd rs1 rs2 : Reg) (s : State) : Out :=
  .next (alu2 t rd rs1 rs2 (mulHigh true) s)

/-- MULHU (R62). -/
def execMulhu (t : Thread) (rd rs1 rs2 : Reg) (s : State) : Out :=
  .next (alu2 t rd rs1 rs2 (mulHigh false) s)

/-- DIVS (R62). -/
def execDivs (t : Thread) (rd rs1 rs2 : Reg) (s : State) : Out :=
  .next (alu2 t rd rs1 rs2 divSigned s)

/-- DIVU (R62). -/
def execDivu (t : Thread) (rd rs1 rs2 : Reg) (s : State) : Out :=
  .next (alu2 t rd rs1 rs2 divUnsigned s)

/-- REMS (R62). -/
def execRems (t : Thread) (rd rs1 rs2 : Reg) (s : State) : Out :=
  .next (alu2 t rd rs1 rs2 remSigned s)

/-- REMU (R62). -/
def execRemu (t : Thread) (rd rs1 rs2 : Reg) (s : State) : Out :=
  .next (alu2 t rd rs1 rs2 remUnsigned s)

/-- CMP.EQ (R62). -/
def execCmpEq (t : Thread) (rd rs1 rs2 : Reg) (s : State) : Out :=
  .next (alu2 t rd rs1 rs2 (fun a b => flag64 (a == b)) s)

/-- CMP.NE (R62). -/
def execCmpNe (t : Thread) (rd rs1 rs2 : Reg) (s : State) : Out :=
  .next (alu2 t rd rs1 rs2 (fun a b => flag64 (a != b)) s)

/-- CMP.LT (R62). -/
def execCmpLt (t : Thread) (rd rs1 rs2 : Reg) (s : State) : Out :=
  .next (alu2 t rd rs1 rs2 (fun a b => flag64 (a.slt b)) s)

/-- CMP.LTU (R62). -/
def execCmpLtu (t : Thread) (rd rs1 rs2 : Reg) (s : State) : Out :=
  .next (alu2 t rd rs1 rs2 (fun a b => flag64 (a.ult b)) s)

/-- CMP.GE (R62). -/
def execCmpGe (t : Thread) (rd rs1 rs2 : Reg) (s : State) : Out :=
  .next (alu2 t rd rs1 rs2 (fun a b => flag64 (!a.slt b)) s)

/-- CMP.GEU (R62). -/
def execCmpGeu (t : Thread) (rd rs1 rs2 : Reg) (s : State) : Out :=
  .next (alu2 t rd rs1 rs2 (fun a b => flag64 (!a.ult b)) s)

/-- BEQ (R63). -/
def execBeq (t : Thread) (rs1 rs2 : Reg) (off : BitVec 32) (s : State) : Out :=
  .next (branch t rs1 rs2 off (fun a b => a == b) s)

/-- BNE (R63). -/
def execBne (t : Thread) (rs1 rs2 : Reg) (off : BitVec 32) (s : State) : Out :=
  .next (branch t rs1 rs2 off (fun a b => a != b) s)

/-- BLT (R63). -/
def execBlt (t : Thread) (rs1 rs2 : Reg) (off : BitVec 32) (s : State) : Out :=
  .next (branch t rs1 rs2 off (fun a b => a.slt b) s)

/-- BGE (R63). -/
def execBge (t : Thread) (rs1 rs2 : Reg) (off : BitVec 32) (s : State) : Out :=
  .next (branch t rs1 rs2 off (fun a b => !a.slt b) s)

/-- BLTU (R63). -/
def execBltu (t : Thread) (rs1 rs2 : Reg) (off : BitVec 32) (s : State) : Out :=
  .next (branch t rs1 rs2 off (fun a b => a.ult b) s)

/-- BGEU (R63). -/
def execBgeu (t : Thread) (rs1 rs2 : Reg) (off : BitVec 32) (s : State) : Out :=
  .next (branch t rs1 rs2 off (fun a b => !a.ult b) s)

/-- JMP (R63). -/
def execJmp (t : Thread) (off : BitVec 32) (s : State) : Out :=
  .next (issue t 1 (fun s =>
    if !offsetOk off then illegal else .jump s (branchTarget (getThread t s).pc off)) s)

/-- JAL writes the address past the instruction to rd (R63, R410). -/
def execJal (t : Thread) (rd : Reg) (off : BitVec 32) (s : State) : Out :=
  .next (issue t 1 (fun s =>
    if !offsetOk off then illegal
    else if regsHeld t [rd] s then .wait .scoreboard
    else
      let pc := (getThread t s).pc
      .jump (setSreg t rd ((pc + 8).setWidth 64) s) (branchTarget pc off)) s)

/-- JR: bits [2:0] not zero ILLEGAL_OP, bits [63:48] not zero PARAM_RANGE (Table 03.2). -/
def execJr (t : Thread) (rs1 : Reg) (s : State) : Out :=
  .next (issue t 1 (fun s =>
    if regsHeld t [rs1] s then .wait .scoreboard
    else
      let a := sreg t rs1 s
      if a.toNat % 8 ≠ 0 then illegal
      else if 2 ^ 48 ≤ a.toNat then paramRange 1
      else .jump s (a.setWidth 48)) s)

/-- FADD (R62). -/
def execFadd (t : Thread) (rd rs1 rs2 : Reg) (rnd : BitVec 3) (s : State) : Out :=
  .next (fp2 t rd rs1 rs2 rnd (fun m a b => addExact m a b) s)

/-- FSUB (R62). -/
def execFsub (t : Thread) (rd rs1 rs2 : Reg) (rnd : BitVec 3) (s : State) : Out :=
  .next (fp2 t rd rs1 rs2 rnd (fun m a b => addExact m a (if b.isNan then b else b.neg)) s)

/-- FMUL (R62). -/
def execFmul (t : Thread) (rd rs1 rs2 : Reg) (rnd : BitVec 3) (s : State) : Out :=
  .next (fp2 t rd rs1 rs2 rnd (fun _ a b => mulExact a b) s)

/-- FDIV (R62). -/
def execFdiv (t : Thread) (rd rs1 rs2 : Reg) (rnd : BitVec 3) (s : State) : Out :=
  .next (fp2 t rd rs1 rs2 rnd (fun _ a b => divExact a b) s)

/-- FMA rounds once (R62). -/
def execFma (t : Thread) (rd rs1 rs2 rs3 : Reg) (rnd : BitVec 3) (s : State) : Out :=
  .next (fpRound t rd [rs1, rs2, rs3] rnd (fun m s =>
    writeF64 t rd m (fmaExact m (fpReg t rs1 s) (fpReg t rs2 s) (fpReg t rs3 s)) s) s)

/-- FSQRT (R62). -/
def execFsqrt (t : Thread) (rd rs1 : Reg) (rnd : BitVec 3) (s : State) : Out :=
  .next (fpRound t rd [rs1] rnd (fun m s => writeF64 t rd m (sqrtExact (fpReg t rs1 s)) s) s)

/-- FMIN (R36). -/
def execFmin (t : Thread) (rd rs1 rs2 : Reg) (num : Bool) (s : State) : Out :=
  .next (scalarWrite t rd [rs1, rs2] (fun s =>
    f64OfVal (minMaxVal false num (fpReg t rs1 s) (fpReg t rs2 s))) s)

/-- FMAX (R36). -/
def execFmax (t : Thread) (rd rs1 rs2 : Reg) (num : Bool) (s : State) : Out :=
  .next (scalarWrite t rd [rs1, rs2] (fun s =>
    f64OfVal (minMaxVal true num (fpReg t rs1 s) (fpReg t rs2 s))) s)

/-- FCMP.EQ (R35, R62). -/
def execFcmpEq (t : Thread) (rd rs1 rs2 : Reg) (s : State) : Out :=
  .next (fpCmp t rd rs1 rs2 eqVal s)

/-- FCMP.LT (R35, R62). -/
def execFcmpLt (t : Thread) (rd rs1 rs2 : Reg) (s : State) : Out :=
  .next (fpCmp t rd rs1 rs2 ltVal s)

/-- FCMP.LE (R35, R62). -/
def execFcmpLe (t : Thread) (rd rs1 rs2 : Reg) (s : State) : Out :=
  .next (fpCmp t rd rs1 rs2 leVal s)

/-- FCMP.UN (R35, R62). -/
def execFcmpUn (t : Thread) (rd rs1 rs2 : Reg) (s : State) : Out :=
  .next (fpCmp t rd rs1 rs2 (fun a b => a.isNan || b.isNan) s)

/-- FCVT.D.L converts a signed 64-bit integer to binary64 (R62). -/
def execFcvtDL (t : Thread) (rd rs1 : Reg) (rnd : BitVec 3) (s : State) : Out :=
  .next (fpRound t rd [rs1] rnd (fun m s => writeF64 t rd m (Val.ofInt (sreg t rs1 s).toInt) s) s)

/-- FCVT.L.D converts binary64 to a signed 64-bit integer (R62). -/
def execFcvtLD (t : Thread) (rd rs1 : Reg) (rnd : BitVec 3) (s : State) : Out :=
  .next (fpToInt t rd rs1 rnd 64 s)

/-- FCVT.D.W converts the signed 32-bit integer of bits [31:0], always exactly (R62). -/
def execFcvtDW (t : Thread) (rd rs1 : Reg) (s : State) : Out :=
  .next (scalarWrite t rd [rs1] (fun s =>
    f64OfVal (roundVal fpD rneCtx (Val.ofInt ((sreg t rs1 s).setWidth 32).toInt) (tallyFrom 1)).1) s)

/-- FCVT.W.D converts binary64 to a signed 32-bit integer, sign-extended (R62). -/
def execFcvtWD (t : Thread) (rd rs1 : Reg) (rnd : BitVec 3) (s : State) : Out :=
  .next (fpToInt t rd rs1 rnd 32 s)

/-- LD.B (R57). -/
def execLdB (t : Thread) (rd rs1 : Reg) (imm : BitVec 32) (s : State) : Out :=
  .next (sdmLoad t rd rs1 imm 1 true s)

/-- LD.BU (R57). -/
def execLdBU (t : Thread) (rd rs1 : Reg) (imm : BitVec 32) (s : State) : Out :=
  .next (sdmLoad t rd rs1 imm 1 false s)

/-- LD.H (R57). -/
def execLdH (t : Thread) (rd rs1 : Reg) (imm : BitVec 32) (s : State) : Out :=
  .next (sdmLoad t rd rs1 imm 2 true s)

/-- LD.HU (R57). -/
def execLdHU (t : Thread) (rd rs1 : Reg) (imm : BitVec 32) (s : State) : Out :=
  .next (sdmLoad t rd rs1 imm 2 false s)

/-- LD.W (R57). -/
def execLdW (t : Thread) (rd rs1 : Reg) (imm : BitVec 32) (s : State) : Out :=
  .next (sdmLoad t rd rs1 imm 4 true s)

/-- LD.WU (R57). -/
def execLdWU (t : Thread) (rd rs1 : Reg) (imm : BitVec 32) (s : State) : Out :=
  .next (sdmLoad t rd rs1 imm 4 false s)

/-- LD.D (R57). -/
def execLdD (t : Thread) (rd rs1 : Reg) (imm : BitVec 32) (s : State) : Out :=
  .next (sdmLoad t rd rs1 imm 8 false s)

/-- ST.B (R57). -/
def execStB (t : Thread) (rs1 rs2 : Reg) (imm : BitVec 32) (s : State) : Out :=
  .next (sdmStore t rs1 rs2 imm 1 s)

/-- ST.H (R57). -/
def execStH (t : Thread) (rs1 rs2 : Reg) (imm : BitVec 32) (s : State) : Out :=
  .next (sdmStore t rs1 rs2 imm 2 s)

/-- ST.W (R57). -/
def execStW (t : Thread) (rs1 rs2 : Reg) (imm : BitVec 32) (s : State) : Out :=
  .next (sdmStore t rs1 rs2 imm 4 s)

/-- ST.D (R57). -/
def execStD (t : Thread) (rs1 rs2 : Reg) (imm : BitVec 32) (s : State) : Out :=
  .next (sdmStore t rs1 rs2 imm 8 s)

/-- PMOV (R59). -/
def execPmov (t : Thread) (rd : Reg) (imm : BitVec 32) (s : State) : Out :=
  .next (issue t 1 (fun s =>
    if 64 ≤ imm.toNat then illegal
    else if regsHeld t [rd] s then .wait .scoreboard
    else .go (setSreg t rd (readParam s imm.toNat) s)) s)

/-- PSET (R59). -/
def execPset (t : Thread) (rs1 : Reg) (imm : BitVec 32) (s : State) : Out :=
  .next (issue t 1 (fun s =>
    if 64 ≤ imm.toNat then illegal
    else if regsHeld t [rs1] s then .wait .scoreboard
    else .go { s with preg := Sparse.set 0 s.preg imm.toNat (sreg t rs1 s) }) s)

/-- KPUSH takes an entry and fills it at once (R69). -/
def execKpush (t : Thread) (rs1 : Reg) (imm : BitVec 32) (s : State) : Out :=
  .next (issue t 1 (fun s =>
    if 4 ≤ imm.toNat then illegal
    else if regsHeld t [rs1] s then .wait .scoreboard
    else if tokenProducer s imm.toNat != t then queueFault (8 + imm.toNat)
    else if 32 ≤ (tokenEntries s imm.toNat).length then .wait (.queue (BitVec.ofNat 4 (8 + imm.toNat)))
    else
      .go (queueMoved (setTokens imm.toNat
        (tokenEntries s imm.toNat ++ [{ prod := none, val := some (sreg t rs1 s) }]) s))) s)

/-- KPOP removes the oldest visible token (R69). -/
def execKpop (t : Thread) (rd : Reg) (imm : BitVec 32) (s : State) : Out :=
  .next (issue t 1 (fun s =>
    if 4 ≤ imm.toNat then illegal
    else if regsHeld t [rd] s then .wait .scoreboard
    else if tokenProducer s imm.toNat == t then queueFault (8 + imm.toNat)
    else
      match tokenEntries s imm.toNat with
      | { prod := _, val := some v } :: rest =>
        .go (queueMoved (setTokens imm.toNat rest (setSreg t rd v s)))
      | _ => .wait (.queue (BitVec.ofNat 4 (8 + imm.toNat)))) s)

/-- QDEPTH returns the visible entries of a queue (R70); a disabled one faults (R67). -/
def execQdepth (t : Thread) (rd : Reg) (imm : BitVec 32) (s : State) : Out :=
  .next (issue t 1 (fun s =>
    if 12 ≤ imm.toNat then illegal
    else if regsHeld t [rd] s then .wait .scoreboard
    else if imm.toNat < 8 ∧ queueDepth s imm.toNat = 0 then queueFault imm.toNat
    else
      let n := if imm.toNat < 8 then (visibleRows s imm.toNat).length
        else (visibleTokens s (imm.toNat - 8)).length
      .go (setSreg t rd (BitVec.ofNat 64 n) s)) s)

/-- BUDGET (R21, R62). -/
def execBudget (t : Thread) (rd : Reg) (s : State) : Out :=
  .next (scalarWrite t rd [] (fun s => s.ballast.budget.setWidth 64) s)

/-- SRD (R55). -/
def execSrd (t : Thread) (rd : Reg) (imm : BitVec 32) (s : State) : Out :=
  .next (issue t 1 (fun s =>
    match specialReg t imm.toNat s with
    | none => illegal
    | some v => if regsHeld t [rd] s then .wait .scoreboard else .go (setSreg t rd v s)) s)

/-- SWR (R55). A write of the LFSR waits like SRSEED (R40). -/
def execSwr (t : Thread) (rs1 : Reg) (imm : BitVec 32) (s : State) : Out :=
  .next (issue t 1 (fun s =>
    if (writeSpecial imm.toNat 0 (getThread t s)).isNone then illegal
    else if regsHeld t [rs1] s then .wait .scoreboard
    else if imm.toNat = 0x0A && srBusy t s then .wait .srOrder
    else .go (modThread t (fun th => (writeSpecial imm.toNat (sreg t rs1 s) th).getD th) s)) s)

/-- SRSEED (R40). -/
def execSrseed (t : Thread) (rs1 : Reg) (s : State) : Out :=
  .next (issue t 1 (fun s =>
    if regsHeld t [rs1] s then .wait .scoreboard
    else if srBusy t s then .wait .srOrder
    else .go (modThread t (fun th => { th with lfsr := seedOf (sreg t rs1 s) }) s)) s)

/-- SRREAD (R40). -/
def execSrread (t : Thread) (rd : Reg) (s : State) : Out :=
  .next (issue t 1 (fun s =>
    if regsHeld t [rd] s then .wait .scoreboard
    else if srBusy t s then .wait .srOrder
    else .go (setSreg t rd ((getThread t s).lfsr.setWidth 64) s)) s)

/-- NSTAT.RD waits for the earlier tensor instructions of the thread (R45). -/
def execNstatRd (t : Thread) (rd : Reg) (imm : BitVec 32) (s : State) : Out :=
  .next (issue t 1 (fun s =>
    if 3 ≤ imm.toNat then illegal
    else if regsHeld t [rd] s then .wait .scoreboard
    else if (flightsOf t s).any (fun f => f.tensor) then .wait .earlier
    else
      let n := (getThread t s).nstat
      let v := if imm.toNat = 0 then n.nsat else if imm.toNat = 1 then n.nflush else n.nnan
      .go (setSreg t rd (v.setWidth 64) s)) s)

/-- The AMAX register that a conversion names (R47). -/
def convNames (c : ConvBlk) : Option (BitVec 3) := if c.amx.getLsbD 3 then none else some (c.amx.setWidth 3)

/-- The AMAX register that an instruction's conversion names; a TDC-3 form names AMAX7 (R48, R252). -/
def namedAmax : Instr → Option (BitVec 3)
  | .mxDrain _ a => convNames a.conv
  | .mvGemv _ a => convNames a.conv
  | .vxEw _ a => convNames a.conv
  | .epRun _ a => convNames a.conv
  | .vxScan _ a => convNames a.conv
  | .vxSegscan _ a => convNames a.conv
  | .cvt _ a => convNames a.conv
  | .tdc3MvGemv _ _ _ => some 7
  | .tdc3VxEw _ _ _ => some 7
  | .tdc3Cvt _ _ _ => some 7
  | _ => none

/-- AMAX.RD belongs to TX and waits for earlier conversions that name the register (R48). -/
def execAmaxRd (t : Thread) (rd : Reg) (imm : BitVec 32) (s : State) : Out :=
  .next (issue t 1 (fun s =>
    if t = .ta || 8 ≤ imm.toNat then illegal
    else if regsHeld t [rd] s then .wait .scoreboard
    else if (flightsOf t s).any (fun f => namedAmax f.instr == some (imm.setWidth 3)) then .wait .earlier
    else .go (setSreg t rd (widenF32 (Sparse.get 0 s.amax imm.toNat)) s)) s)

/-- COIL.BEGIN (R71). An empty body pushes no level. -/
def execCoilBegin (t : Thread) (rs1 : Reg) (imm : BitVec 32) (s : State) : Out :=
  .next (issue t 1 (fun s =>
    let th := getThread t s
    if imm.toNat = 0 || 2 ^ 20 < imm.toNat then illegal
    else if regsHeld t [rs1] s then .wait .scoreboard
    else if 4 ≤ th.coil.length then .fault fcCoil 0
    else
      let n := sreg t rs1 s
      let stop := th.pc + BitVec.ofNat 48 (8 * imm.toNat)
      if 2 ^ 32 ≤ n.toNat then paramRange 1
      else if n = 0 || imm.toNat = 1 then .jump s (stop + 8)
      else
        let l : CoilLevel :=
          { remaining := n.setWidth 32, index := 0, body := th.pc + 8, stop := stop, setTo := none }
        .go (modThread t (fun th => { th with coil := l :: th.coil }) s)) s)

/-- COIL.END: an iteration boundary (R72, R73, R74). -/
def execCoilEnd (t : Thread) (s : State) : Out :=
  .next (issue t 1 (fun s =>
    let th := getThread t s
    match th.coil with
    | [] => illegal
    | l :: outer =>
      if th.pc ≠ l.stop then illegal
      else
        let left := l.setTo.getD (l.remaining - 1)
        if left = 0 then .jump (modThread t (fun th => { th with coil := outer }) s) (l.stop + 8)
        else
          let l := { l with remaining := left, index := l.index + 1, setTo := none }
          .jump (modThread t (fun th => { th with coil := l :: outer }) s) l.body) s)

/-- COIL.SET (R73). -/
def execCoilSet (t : Thread) (rs1 : Reg) (imm : BitVec 32) (s : State) : Out :=
  .next (issue t 1 (fun s =>
    if !levelOk imm || (coilLevel (getThread t s) imm.toNat).isNone then illegal
    else if regsHeld t [rs1] s then .wait .scoreboard
    else
      let n := sreg t rs1 s
      if 2 ^ 32 ≤ n.toNat then paramRange 1
      else
        .go (modThread t (fun th =>
          { th with coil := th.coil.modify imm.toNat (fun l => { l with setTo := some (n.setWidth 32) }) }) s)) s)

/-- COIL.BREAK (R74). -/
def execCoilBreak (t : Thread) (imm : BitVec 32) (s : State) : Out :=
  .next (issue t 1 (fun s =>
    match if levelOk imm then coilLevel (getThread t s) imm.toNat else none with
    | none => illegal
    | some l =>
      .jump (modThread t (fun th => { th with coil := th.coil.drop (imm.toNat + 1) }) s) (l.stop + 8)) s)

/-- COIL.IDX (R74). -/
def execCoilIdx (t : Thread) (rd : Reg) (imm : BitVec 32) (s : State) : Out :=
  .next (issue t 1 (fun s =>
    match if levelOk imm then coilLevel (getThread t s) imm.toNat else none with
    | none => illegal
    | some l => if regsHeld t [rd] s then .wait .scoreboard else .go (setSreg t rd l.index s)) s)

/-- FENCE waits for every earlier instruction of the thread (R63). -/
def execFence (t : Thread) (s : State) : Out :=
  .next (issue t 1 (fun s => if (flightsOf t s).isEmpty then .go s else .wait .earlier) s)

/-- HALT waits like FENCE, sets HALTED and stops the thread (R63). -/
def execHalt (t : Thread) (s : State) : Out :=
  .next (issue t 1 (fun s =>
    if (flightsOf t s).isEmpty then
      .go (logEvent 0x101 (threadNum t + (getThread t s).pc.toNat)
        (modThread t (fun th => { th with halted := true }) s))
    else .wait .earlier) s)

/-- FRET (R84); a due PAUSE then stops the thread before any reissue (R86). -/
def execFret (t : Thread) (s : State) : Out :=
  .next (issue t 1 (fun s =>
    let th := getThread t s
    if !th.hact then illegal
    else
      let s := modThread t (fun th =>
        { th with
          hact := false, reissuing := !th.restart.isEmpty,
          pc := alignPc (match th.restart with
            | e :: _ => e.pc
            | [] => if th.fnpc = th.fpc then th.fpc else th.fnpc) }) s
      let s := if pauseDue s then pauseThread t s else s
      .jump s (getThread t s).pc) s)

end Sys2Proof.Machine
end

