-- ==== Sys2Proof/Machine/Store.lean ====
section
/-! DEFINITION. The local store, the handle table and the tile register file: rows and their errors, tags
and their tests, address translation and its checks, tile rows (chapters 4 and 5). -/

namespace Sys2Proof.Machine

/-- Bytes of a physical row (R89). -/
def readRow (s : State) (p : Nat) : Bytes := Mem.readBytes s.ls.rows (512 * p) 512

/-- First word of a row that cannot be corrected (R114). -/
def rowBad (s : State) (p : Nat) : Option Nat :=
  (List.range 64).find? (fun i => (Sparse.get 0 s.ls.double p).getLsbD i)

/-- A row with single-bit errors only (R113). -/
def rowCorrectable (s : State) (p : Nat) : Bool :=
  (rowBad s p).isNone && Sparse.get 0 s.ls.single p != 0

/-- Write a whole row: new check bits, and no scrub write-back of what it held (R113, R116, R349). -/
def writeRow (p : Nat) (bs : Bytes) (s : State) : State :=
  { s with ls := { s.ls with
      rows := Mem.writeBytes s.ls.rows (512 * p) (fitBytes 512 bs)
      single := Sparse.set 0 s.ls.single p 0
      double := Sparse.set 0 s.ls.double p 0
      rewrites := s.ls.rewrites.filter (fun q => q != p)
      writeBacks := s.ls.writeBacks.filter (fun q => q != p) } }

/-- Stack of a physical row (R89). -/
def stackOf (p : Nat) : Nat := p / 4096

/-- Places of the triple-copied tables in the order of the sweep (R347): the handle table, the windows, the Glaze
groups, the frequency steps, the Mould settings in force, NODE_ID. DESIGN CHOICE (the order), log entry 43. -/
def cfgWindow (w : Nat) : Nat := 256 + w
/-- A Glaze group. -/
def cfgGroup (g : Nat) : Nat := 272 + g
/-- A frequency step. -/
def cfgStep (n : Nat) : Nat := 336 + n
/-- The Mould settings. -/
def cfgMould : Nat := 352
/-- NODE_ID. -/
def cfgNode : Nat := 353

/-- Entries that the configuration sweep visits. -/
def sweepLength : Nat := 354

/-- An entry of the triple-copied tables is read: a copy that disagrees is repaired by majority (R347). -/
def readCfg (n : Nat) (s : State) : State :=
  if s.upsets.cfg.contains n then
    bump cntCfgCorr 1 { s with upsets := { s.upsets with cfg := s.upsets.cfg.filter (fun m => m != n) } }
  else s

/-- Replace a handle-table entry. -/
def setHandle (h : BitVec 8) (e : Handle) (s : State) : State :=
  { s with handles := Sparse.set Handle.reset s.handles h.toNat e }

/-- Positions of the set bits of a stack mask, ascending (R96). -/
def maskStacks (m : BitVec 24) : List Nat := (List.range 24).filter (fun i => m.getLsbD i)

/-- The physical row of a relative row in a mapping (R96). -/
def physRow (m : Mapping) (r : Nat) : Nat :=
  let st := maskStacks m.mask
  4096 * st.getD (r % st.length) 0 + (m.base.toNat + r / st.length) % 4096

/-- The binding of a handle in a thread's table (R220). -/
def bindingOf (th : ThreadState) (h : BitVec 8) : Option Binding := th.bind.find? (fun b => b.h == h)

/-- The right an access needs (R97). -/
inductive Need
  | rd | wr | glz
  deriving DecidableEq, Repr

/-- Does a handle grant a right. -/
def grants (e : Handle) : Need → Bool
  | .rd => e.rd
  | .wr => e.wr
  | .glz => e.glz

/-- FVAL of a handle number with a relative row (Table 03.6). -/
def rowDetail (h : BitVec 8) (r : Int) : Word64 :=
  BitVec.ofNat 64 (h.toNat + 256 * ofSigned 17 r)

/-- The slot through which a thread translates a handle (R95); an error is the fault of R95 or R97. -/
def chooseSlot (t : Thread) (h : BitVec 8) (s : State) : Except Verdict Xlate :=
  let e := getHandle s h
  if e.state = .free then .error (.fault fcHandle (h.setWidth 64))
  else
    match bindingOf (getThread t s) h with
    | none => .ok { h := h, map := e.cur, epoch := e.epoch, tagged := e.tagged }
    | some b =>
      if b.epoch = e.epoch then .ok { h := h, map := e.cur, epoch := e.epoch, tagged := e.tagged }
      else if e.prevValid && b.epoch == e.prevEpoch then
        .ok { h := h, map := e.prev, epoch := e.prevEpoch, tagged := e.tagged }
      else .error (.fault fcStale (BitVec.ofNat 64 (h.toNat + 256 * b.epoch.toNat)))

/-- The handle checks of R97 over the relative rows an instruction will access, in the order of R97. -/
def checkHandle (t : Thread) (h : BitVec 8) (need : Need) (rels : List Int) (s : State) :
    Except Verdict Xlate :=
  match chooseSlot t h s with
  | .error v => .error v
  | .ok x =>
    if !grants (getHandle s h) need then .error (.fault fcRights (h.setWidth 64))
    else
      match rels.find? (fun r => decide (r < 0) || decide ((x.map.count.toNat : Int) ≤ r)) with
      | some r => .error (.fault fcRow (rowDetail h r))
      | none => .ok x

/-- A use of a handle by an instruction: the rights it needs and the relative rows it will access; `epoch` is
the one recorded in a tile's expansion tag, through which R134 translates instead of a binding. -/
structure HandleUse where
  h : BitVec 8
  epoch : Option (BitVec 8)
  needs : List Need
  rels : List Int
  deriving DecidableEq, Repr

/-- The slot of a recorded epoch (R134); an error is EPOCH_STALE. -/
def epochSlot (h e : BitVec 8) (s : State) : Except Verdict Xlate :=
  let c := getHandle s h
  if e = c.epoch then .ok { h := h, map := c.cur, epoch := e, tagged := false }
  else if c.prevValid && e == c.prevEpoch then .ok { h := h, map := c.prev, epoch := e, tagged := false }
  else .error (.fault fcStale (BitVec.ofNat 64 (h.toNat + 256 * e.toNat)))

/-- The slot of a use. -/
def useSlot (t : Thread) (s : State) (u : HandleUse) : Except Verdict Xlate :=
  match u.epoch with
  | none => chooseSlot t u.h s
  | some e => epochSlot u.h e s

/-- The handle checks of an instruction that uses several handles: each check over all of them before the next
check, in operand order within a check (R97, R127, R206). -/
def handlesOk (t : Thread) (us : List HandleUse) (s : State) : Except Verdict (List Xlate) := do
  match us.find? (fun u => (getHandle s u.h).state == .free) with
  | some u => .error (.fault fcHandle (u.h.setWidth 64))
  | none => .ok ()
  let xs ← us.mapM (useSlot t s)
  match us.find? (fun u => !u.needs.all (fun n => grants (getHandle s u.h) n)) with
  | some u => .error (.fault fcRights (u.h.setWidth 64))
  | none => .ok ()
  match (us.zip xs).flatMap (fun p =>
      (p.1.rels.filter (fun r => decide (r < 0) || decide ((p.2.map.count.toNat : Int) ≤ r))).map
        (fun r => (p.1.h, r))) with
  | (h, r) :: _ => .error (.fault fcRow (rowDetail h r))
  | [] => .ok xs

/-- The tests that accesses to these rows need: none through an UNTAGGED handle (R107). -/
def testsFor (x : Xlate) (kind : TestKind) (rels : List Int) : List TagTest :=
  if x.tagged then
    rels.map (fun r =>
      { phys := physRow x.map r.toNat, h := x.h, rel := r.toNat, kind := kind, passed := false })
  else []

/-- TAGACT of a read: CLEAR or KEEP (R107). -/
def readKind (clear : Bool) : TestKind := if clear then .clear else .keep

/-- A scheduled read of a relative row (R99); CLEAR empties a row of a TAGGED handle (R107). -/
def readAccess (x : Xlate) (port : BitVec 3) (clear : Bool) (act : ReturnAct) (rel : Int) : Access :=
  { port := port, phys := physRow x.map rel.toNat, rel := rel.toNat, op := .read (x.tagged && clear) act }

/-- A scheduled write of a relative row (R99); a TAGGED row becomes FULL (R107). -/
def writeAccess (x : Xlate) (port : BitVec 3) (data : WriteData) (rel : Int) : Access :=
  { port := port, phys := physRow x.map rel.toNat, rel := rel.toNat, op := .write x.tagged data }

/-- Reads of rows on one port, one in a cycle. -/
def readPlan (x : Xlate) (port : BitVec 3) (clear : Bool) (rels : List Int) : List (List Access) :=
  rels.map (fun r => [readAccess x port clear .hold r])

/-- Writes of the rows that an instruction holds on one port, one in a cycle. -/
def writePlan (x : Xlate) (port : BitVec 3) (rels : List Int) : List (List Access) :=
  rels.zipIdx.map (fun p => [writeAccess x port (.given p.2) p.1])

/-- Configuration of a tile. -/
def tileCfg (s : State) (n : Nat) : TileCfg := Sparse.get TileCfg.reset s.tiles.cfg n

/-- Replace the configuration of a tile. -/
def setTileCfg (n : Nat) (c : TileCfg) (s : State) : State :=
  { s with tiles := { s.tiles with cfg := Sparse.set TileCfg.reset s.tiles.cfg n c } }

/-- Configured rows of a tile. -/
def tileRows (c : TileCfg) : Nat := c.rows1.toNat + 1

/-- Configured bytes per row of a tile. -/
def tileBytes (c : TileCfg) : Nat := c.bytes1.toNat + 1

/-- The 64 bytes of a physical tile row; zeros where its VALID bit is clear (R119). -/
def tileRow (s : State) (n r : Nat) : Bytes :=
  if (tileCfg s n).valid.getLsbD r then Mem.readBytes s.tiles.data (2048 * n + 64 * r) 64
  else List.replicate 64 0

/-- The sidecar of a tile row (R28, R119). -/
def tileSide (s : State) (n r : Nat) : Bytes :=
  if (tileCfg s n).valid.getLsbD r then Mem.readBytes s.tiles.side (128 * n + 4 * r) 4
  else List.replicate 4 0

/-- Replace the operand cache and the reuse latches; the parity errors of copies that go, go with them. -/
def setCopies (c : OperandCache) (s : State) : State :=
  { s with
    toc := c
    upsets := { s.upsets with parity := s.upsets.parity.filter (fun l => match l with
      | .cache n r _ => c.rows.contains (n, r)
      | .latch i _ => Sparse.get (16, 0) c.latch i == Sparse.get (16, 0) s.toc.latch i
      | _ => true) } }

/-- Discard the copies of a tile row (R139). -/
def dropCopies (n r : Nat) (s : State) : State :=
  setCopies
    { rows := s.toc.rows.filter (fun x => x != (n, r))
      latch := s.toc.latch.filter (fun x => x.2 != (n, r)) } s

/-- Discard the copies of every row of a tile. -/
def dropTileCopies (n : Nat) (s : State) : State :=
  setCopies
    { rows := s.toc.rows.filter (fun x => x.1 != n)
      latch := s.toc.latch.filter (fun x => x.2.1 != n) } s

/-- A byte of a tile row or of its sidecar that a write replaces: all of them where the row was not valid. -/
def overwrites (w : TileWrite) (fresh : Bool) : ParityLoc → Bool
  | .tile n r b => n == w.tile && r == w.row && (fresh || (decide (w.off ≤ b) && decide (b < w.off + w.bytes.length)))
  | .sidecar n r b => n == w.tile && r == w.row && (fresh || w.side.any (fun x => x.1 == b))
  | _ => false

/-- Write part of a tile row (R119, R134). -/
def writeTile (w : TileWrite) (s : State) : State :=
  let c := tileCfg s w.tile
  let a := 2048 * w.tile + 64 * w.row
  let b := 128 * w.tile + 4 * w.row
  let fresh := !c.valid.getLsbD w.row
  let data := if fresh then Mem.writeBytes s.tiles.data a (List.replicate 64 0) else s.tiles.data
  let side := if fresh then Mem.writeBytes s.tiles.side b (List.replicate 4 0) else s.tiles.side
  let c := { c with full := true, valid := c.valid ||| (1 <<< w.row), xtag := w.xtag }
  let s := { s with tiles :=
    { cfg := Sparse.set TileCfg.reset s.tiles.cfg w.tile c
      data := Mem.writeBytes data (a + w.off) w.bytes
      side := w.side.foldl (fun (m : Mem) (x : Nat × Byte) => Mem.write m (b + x.1) x.2) side } }
  dropCopies w.tile w.row
    { s with upsets := { s.upsets with parity := s.upsets.parity.filter (fun l => !overwrites w fresh l) } }

/-- Writes of tile rows in order. -/
def writeTiles (ws : List TileWrite) (s : State) : State := ws.foldl (fun s w => writeTile w s) s

/-- Empty a tile (R119): FULL and VALID clear, XTAG NONE. -/
def emptyTile (n : Nat) (s : State) : State :=
  dropTileCopies n (setTileCfg n { tileCfg s n with full := false, valid := 0, xtag := XTag.none } s)

/-- A tile row is read on an engine input (R139, R140): the reuse latch, the operand cache, their
counters. -/
def touchRow (input n r : Nat) (s : State) : State :=
  if Sparse.get (16, 0) s.toc.latch input = (n, r) then bump cntTreuse 1 s
  else
    let hit := s.toc.rows.contains (n, r)
    let s := setCopies
      { rows := ((n, r) :: s.toc.rows.filter (fun x => x != (n, r))).take 8
        latch := Sparse.put s.toc.latch input (n, r) } s
    if hit then bump cntTocHit 1 s else s

/-- The tiles of a 6-bit tile group: first tile and count; none past T15 (Table 21.4). -/
def tileGroup (g : BitVec 6) : Option (List Nat) :=
  let n := g.toNat % 16
  let c := g.toNat / 16 + 1
  if n + c ≤ 16 then some ((List.range c).map (n + ·)) else none

/-- A mask of tiles. -/
def tileMask (ts : List Nat) : BitVec 16 := ts.foldl (fun m n => m ||| (1 <<< n)) 0

/-- The tiles of a mask, ascending. -/
def tilesOf (m : BitVec 16) : List Nat := (List.range 16).filter (fun i => m.getLsbD i)

/-- The instructions in flight that count for holds: those that have not faulted (R125). -/
def liveFlights (s : State) : List Flight := s.flights.filter (fun f => f.faulted.isNone)

/-- The tile ordering of R123 holds an instruction that reads and writes these tiles. -/
def tilesHeld (rd wr : BitVec 16) (s : State) : Bool :=
  (liveFlights s).any (fun f => (f.wrTiles &&& (rd ||| wr)) != 0 || (f.rdTiles &&& wr) != 0)

/-- The scoreboard holds an instruction that reads these accumulator sets (R64). -/
def accsHeld (rd : BitVec 4) (s : State) : Bool := (liveFlights s).any (fun f => (f.wrAcc &&& rd) != 0)

/-- Bytes of one element unit of a tile's format; 1 for a reserved code. -/
def codeUnit (c : BitVec 4) : Nat := ((fmtOfCode c).map fmtUnit).getD 1

/-- A shape is consistent (R121). -/
def shapeOk (rows bytes : Nat) (fmt : BitVec 4) : Bool :=
  decide (1 ≤ rows) && decide (rows ≤ 32) && decide (1 ≤ bytes) && decide (bytes ≤ 64) &&
    decide (rows * bytes ≤ 2048) && (fmtOfCode fmt).isSome && bytes % codeUnit fmt == 0

end Sys2Proof.Machine
end

