-- ==== Sys2Proof/Machine/Tensor.lean ====
section
/-! DEFINITION. Instructions in flight: what every tensor instruction does at issue, on its tag tests, when
its data returns and when it completes (R44, R46, R48, R64 to R70, R100, R107, R113, R114, R348). -/

namespace Sys2Proof.Machine

/-- A check at issue: an error is what the instruction comes to instead. -/
abbrev Chk (α : Type) := Except Verdict α

/-- Fail with a verdict unless a condition holds. -/
def need (b : Bool) (v : Verdict) : Chk Unit := if b then .ok () else .error v

/-- The verdict of a chain of checks. -/
def verdict (c : Chk Verdict) : Verdict :=
  match c with
  | .ok v => v
  | .error v => v

/-- An instruction of one thread only (R19). -/
def onlyThread (t want : Thread) : Chk Unit := need (t == want) illegal

/-- The scoreboard passes these s-registers (R64). -/
def regsReady (t : Thread) (rs : List Reg) (s : State) : Chk Unit :=
  need (!regsHeld t rs s) (.wait .scoreboard)

/-- The tile ordering passes these tiles (R123). -/
def tilesReady (rd wr : BitVec 16) (s : State) : Chk Unit :=
  need (!tilesHeld rd wr s) (.wait .scoreboard)

/-- The scoreboard passes these accumulator sets (R64). -/
def accsReady (rd : BitVec 4) (s : State) : Chk Unit := need (!accsHeld rd s) (.wait .scoreboard)

/-- The engines, which queue what they accept (R65). The port transfers of the access stream all run from their issue
on, so that none is accepted without being executed, and R64 alone bounds them: DEDUCED, log entry 52. -/
def queuesInstructions : Engine → Bool
  | .sequencer => false
  | .dma => true
  | .remote => true
  | .session => true
  | .mxe _ => true
  | .drain _ => true
  | .mvp => true
  | .vxe _ => true
  | .glaze _ => true

/-- The engine accepts an instruction, at most two beyond the one it executes, and the thread has fewer
than 8 tensor instructions in flight (R64, R65). -/
def engineReady (t : Thread) (e : Engine) (s : State) : Chk Unit := do
  need (!queuesInstructions e || decide (((liveFlights s).filter (fun f => f.engine == e)).length < 3)) (.wait .engine)
  need (((flightsOf t s).filter (fun f => f.tensor)).length < 8) (.wait .limit)

/-- The least of some numbers. -/
def least : List Nat → Option Nat
  | [] => none
  | x :: xs => some (xs.foldl min x)

/-- The PARAM_RANGE checks of an instruction, each with its operand position; the first failing position is
reported (R127, R420). -/
def paramsOk (checks : List (Bool × Nat)) : Chk Unit :=
  match least ((checks.filter (fun p => !p.1)).map (fun p => p.2)) with
  | some pos => .error (paramRange pos)
  | none => .ok ()

/-- The lowest-numbered tile that fails a shape check (R126, R127). -/
def shapesOk (bad : List Nat) : Chk Unit :=
  match least bad with
  | some n => .error (.fault fcShape (BitVec.ofNat 64 n))
  | none => .ok ()

/-- An RS operand: bits [16:0] 0 to 98,303, [63:17] zero (R205). -/
def rsOk (v : Word64) : Bool := decide (v.toNat < 98304)

/-- A STRIDE operand: -2,048 to 2,047, not 0 (R105, R205). -/
def strideOk (v : Word64) : Bool := decide (-2048 ≤ v.toInt) && decide (v.toInt ≤ 2047) && v != 0

/-- A row port that is not the boundary port (R98). -/
def portOk (p : BitVec 3) (s : State) : Bool := p != s.mould.cfg.bport

/-- An SDM byte address that is a multiple of 64 (R205). -/
def saOk (v : Word64) : Bool := decide (v.toNat < 0x40000) && v.toNat % 64 == 0

/-- A reservoir byte address of a row (R205). -/
def raOk (v : Word64) : Bool := decide (v.toNat < 2 ^ 48) && v.toNat % 512 == 0

/-- An s-register as an instruction found it at its first issue (R87). -/
def snapReg (f : Flight) (r : Reg) : Word64 := if r = 0 then 0 else Sparse.get 0 f.snap.regs r.toNat

/-- An SDM range of an instruction stays below 0x4_0000 (R208, R225). -/
def sdmRange (a n : Nat) : Chk Unit := need (decide (a + n ≤ 0x40000)) (.fault fcSdm (BitVec.ofNat 64 a))

/-- The rows of a strided access (R105). -/
def strided (r0 n : Nat) (stride : Int) : List Int :=
  (List.range n).map (fun i => Int.ofNat r0 + Int.ofNat i * stride)

/-- The checks of R67 on a queue: enabled, in its direction, no more rows than its depth. -/
def queueOk (t : Thread) (q : Nat) (push : Bool) (n : Nat) (s : State) : Chk Unit :=
  need (queueDepth s q != 0 && (queueProducer s q == t) == push && decide (n ≤ queueDepth s q)) (queueFault q)

/-- Room for the rows of a push (R68). -/
def pushReady (q n : Nat) (s : State) : Chk Unit :=
  need (decide ((queueEntries s q).length + n ≤ queueDepth s q)) (.wait (.queue (BitVec.ofNat 4 q)))

/-- Visible entries that no consumer has reserved. -/
def poppable (s : State) (q : Nat) : List QEntry := (visibleRows s q).filter (fun e => e.cons.isNone)

/-- Rows to pop are there (R68). -/
def popReady (q n : Nat) (s : State) : Chk Unit :=
  need (decide (n ≤ (poppable s q).length)) (.wait (.queue (BitVec.ofNat 4 q)))

/-- Reserve the entries of a push (R68). -/
def reservePush (fid q n : Nat) (s : State) : State :=
  setQueue q (queueEntries s q ++ List.replicate n { prod := fid, data := none, cons := none, bad := false }) s

/-- Mark the first `n` entries without a consumer as reserved. -/
def markPop (fid : Nat) : Nat → List QEntry → List QEntry
  | 0, l => l
  | _, [] => []
  | n + 1, e :: l =>
    if e.cons.isNone then { e with cons := some fid } :: markPop fid n l else e :: markPop fid (n + 1) l

/-- Reserve the entries of a pop (R68). -/
def reservePop (fid q n : Nat) (s : State) : State := setQueue q (markPop fid n (queueEntries s q)) s

/-- The rows that a pop of `n` will take. -/
def popRows (s : State) (q n : Nat) : List Bytes := ((poppable s q).take n).map (fun e => e.data.getD zeroRow)

/-- Fill the entries reserved by a producer, in order (R68). -/
def fillRows (fid : Nat) : List Bytes → List QEntry → List QEntry
  | _, [] => []
  | [], l => l
  | r :: rs, e :: l =>
    if e.prod == fid && e.data.isNone then { e with data := some r } :: fillRows fid rs l
    else e :: fillRows fid (r :: rs) l

/-- Remove the entries reserved by a consumer (R68). -/
def removePopped (fid : Nat) (s : State) : State :=
  let hit := s.queues.q.any (fun p => p.2.any (fun e => e.cons == some fid))
  let s := { s with queues :=
    { s.queues with q := s.queues.q.map (fun p => (p.1, p.2.filter (fun e => e.cons != some fid))) } }
  trimQueues (if hit then queueMoved s else s)

/-- Fill the token entry reserved by an instruction (R69). -/
def fillToken (fid : Nat) (v : Word64) (s : State) : State :=
  queueMoved { s with queues :=
    { s.queues with k := s.queues.k.map (fun p =>
        (p.1, p.2.map (fun e => if e.prod == some fid && e.val.isNone then { e with val := some v } else e))) } }

/-- An instruction about to issue: nothing claimed, nothing read, nothing to commit. -/
def newFlight (t : Thread) (i : Instr) (e : Engine) (s : State) : Flight where
  id := s.nextId
  thread := t
  pc := (getThread t s).pc
  instr := i
  engine := e
  tensor := true
  tileOp := false
  blocking := false
  sr := false
  rdTiles := 0
  wrTiles := 0
  rdAcc := 0
  wrAcc := 0
  dests := []
  slot := none
  tests := []
  tested := 0
  begun := false
  tagWait := 0
  issuedAt := 0
  notBefore := 0
  acts := []
  got := []
  glz := none
  mxRun := none
  stat := none
  snap :=
    match (getThread t s).reissuing, (getThread t s).restart.head? with
    | true, some e => e.snap
    | _, _ =>
      { regs := (getThread t s).regs, bind := (getThread t s).bind, seen := [], first := s.nextId, sr := false }
  xl := []
  rowsIn := []
  opv := []
  held := []
  due := []
  dma := []
  remote := none
  commit := Commit.empty
  faulted := none
  reissued := if (getThread t s).reissuing then (getThread t s).restart.head? else none
  releases := []

/-- Structure, index and event detail of a parity error (Table 17.6). -/
def parityDetail (l : ParityLoc) (t : Thread) : Nat :=
  let d := match l with
    | .tile n r _ => 0 + 256 * (n + 16 * r)
    | .sidecar n r _ => 1 + 256 * (n + 16 * r)
    | .cache _ _ _ => 2
    | .latch _ _ => 3
    | .acc st r => 4 + 256 * (st + 4 * r)
    | .stationary _ => 5
    | .queue q e => 6 + 256 * (q + 8 * e)
  d + 2 ^ 47 * threadNum t

/-- The inputs of an engine, each with its reuse latch. -/
def engineInputs : Engine → List Nat
  | .sequencer => []
  | .dma => []
  | .remote => []
  | .session => []
  | .mxe half => if half then [2, 3] else [0, 1]
  | .drain _ => []
  | .mvp => [4, 5]
  | .vxe g => if g then [9, 10, 11] else [6, 7, 8]
  | .glaze _ => []

/-- The bytes with a parity error: the recorded ones, and the rows of the operand queues. -/
def parityErrors (s : State) : List ParityLoc :=
  s.upsets.parity ++ s.queues.q.flatMap (fun p =>
    (p.2.zipIdx.filter (fun e => e.1.bad)).map (fun e => ParityLoc.queue p.1 e.2))

/-- The parity error that a read of an engine meets (R347, R348). A tile row is read from the engine's reuse latch or
from the operand cache where they hold it, else from the tile file: DEDUCED, log entry 61. -/
def meets (s : State) (e : Engine) (reads : ParityLoc → Bool) : Option ParityLoc :=
  let latched (n r : Nat) : Bool := (engineInputs e).any (fun i => Sparse.get (16, 0) s.toc.latch i == (n, r))
  (parityErrors s).find? (fun l => match l with
    | .tile n r _ => (tileCfg s n).valid.getLsbD r && reads l && !s.toc.rows.contains (n, r) && !latched n r
    | .sidecar n r _ => (tileCfg s n).valid.getLsbD r && reads l
    | .cache n r b => reads (.tile n r b) && s.toc.rows.contains (n, r) && !latched n r
    | .latch i b =>
      let x := Sparse.get (16, 0) s.toc.latch i
      (engineInputs e).contains i && reads (.tile x.1 x.2 b)
    | _ => reads l)

/-- An instruction that would read a byte with a parity error stops its thread and writes nothing (R348);
otherwise its accesses begin. -/
def beginWith (f : Flight) (reads : ParityLoc → Bool) (k : State → State) (s : State) : State :=
  match meets s f.engine reads with
  | some l =>
    let s := trimQueues (releaseQueues f.id (releaseTests f.tests (dropFlight f.id s)))
    logEvent 0x204 (parityDetail l f.thread) (stopThread f.thread s)
  | none => k (modFlight f.id (fun g => { g with begun := true }) s)

/-- An instruction that faults at issue after all leaves flight, and an entry of a restart list goes back on it
(R84). -/
def unissue (f : Flight) (s : State) : State :=
  let s := trimQueues (releaseQueues f.id (dropFlight f.id s))
  modThread f.thread (fun th =>
    match f.reissued with
    | some e => { th with restart := e :: th.restart, reissuing := true, pc := alignPc f.pc }
    | none => { th with pc := alignPc f.pc }) s

/-- Parity errors in the queue entries that an instruction has reserved. -/
def readsQueue (s : State) (fid : Nat) : ParityLoc → Bool
  | .queue q e => match (queueEntries s q)[e]? with
    | some x => x.cons == some fid
    | none => false
  | _ => false

/-- An instruction issues: it is in flight, its first tag tests are made in its issue cycle, and its accesses
begin if all pass (R66, R99, R109); otherwise it holds its thread. -/
def launch (f : Flight) (start : Flight → State → State) (s : State) : Verdict :=
  let s := f.xl.foldl (fun s x => readCfg x.h.toNat s) s
  let now := max s.ls.round (getThread f.thread s).nextIssue
  let (f, s) := testCycle
    { f with issuedAt := now, notBefore := if f.thread = .tx then now + 1 else now } s
  let f := { f with tagWait := if testFailed f then 1 else 0 }
  let s := { s with flights := s.flights ++ [f], nextId := s.nextId + 1 }
  .go (if waitsOnTags f then s else start f s)

/-- An instruction's accesses, cycle by cycle. -/
def setActs (fid : Nat) (acts : List (List Access)) (s : State) : State :=
  modFlight fid (fun f => { f with acts := acts }) s

/-- What a corrected scheduled read costs and records (R113). -/
def correctedRead (p : Nat) (s : State) : State :=
  let s := bump (cntLsCorr (stackOf p)) 1 (bump cntLullEcc 1 s)
  { s with
    clk := { s.clk with lull := s.clk.lull + 3 }
    ls := { s.ls with
      corrLast := BitVec.ofNat 17 p
      rewrites := if s.ls.rewrites.contains p then s.ls.rewrites else s.ls.rewrites ++ [p] } }

/-- NSTAT and the cumulative counters of a completed tensor instruction (R44, R46). NSTAT keeps the counts of the
last one issued, `first` being its number (R45). -/
def commitNstat (t : Thread) (first : Nat) (n : Nstat) (s : State) : State :=
  let s := modThread t (fun th => if first < th.nstatBy then th else { th with nstat := n, nstatBy := first }) s
  bump (cntNsat t + 4) n.nnan.toNat (bump (cntNsat t + 2) n.nflush.toNat (bump (cntNsat t) n.nsat.toNat s))

/-- An AMAX register takes a gathered value (R47, R48). -/
def commitAmax (r : BitVec 3) (isNew : Bool) (v : Word32) (s : State) : State :=
  let old := valOfF32 (Sparse.get 0 s.amax r.toNat)
  let x := valOfF32 v
  let w := if isNew then x else if old.isNan then old else if x.isNan then x else maxMag old x
  { s with amax := Sparse.set 0 s.amax r.toNat (f32OfVal w) }

/-- Everything that a completing instruction commits, in one step (R44, R46, R48, R68, R69, R207). -/
def commitAll (f : Flight) (s : State) : State :=
  let c := f.commit
  let s := c.sdm.foldl (fun s p => sdmWrite p.1 p.2 s) s
  let s := c.regs.foldl (fun s p => setSreg f.thread p.1 p.2 s) s
  let s := c.push.foldl (fun s p => queueMoved (setQueue p.1 (fillRows f.id p.2 (queueEntries s p.1)) s)) s
  let s := removePopped f.id s
  let s := match c.token with
    | some v => fillToken f.id v s
    | none => s
  let s := writeTiles c.tiles s
  let s := { s with mx := { s.mx with acc := c.acc.foldl (fun (m : Sparse Word32) (p : Nat × Word32) => Sparse.set 0 m p.1 p.2) s.mx.acc } }
  let s := match c.accInt with
    | some (m, b) => { s with mx := { s.mx with intTypes := if b then s.mx.intTypes ||| m else s.mx.intTypes &&& ~~~m } }
    | none => s
  let s := c.rows.foldl (fun s p => writeRow p.1 p.2 s) s
  let s := if f.tensor then commitNstat f.thread f.snap.first c.nstat s else s
  let s := match c.amax with
    | some (r, b, v) => commitAmax r b v s
    | none => s
  let s := match c.lfsr with
    | some l => modThread f.thread (fun th => { th with lfsr := l }) s
    | none => s
  let s := c.counters.foldl (fun s p => bump p.1 p.2 s) s
  c.events.foldl (fun s p => logEvent p.1 p.2.toNat s) s

/-- Engines that finish their instructions in the order they accepted them (R65); port transfers complete at the
times of Table 09.3. -/
def inOrderEngine : Engine → Bool
  | .sequencer => false
  | .dma => false
  | .remote => false
  | .drain _ => false
  | _ => true

/-- An earlier drain still has to read a set that the instruction commits to (R148). -/
def drainPending (f : Flight) (s : State) : Bool :=
  (liveFlights s).any (fun g => decide (g.id < f.id) && (g.rdAcc &&& f.wrAcc) != 0)

/-- An earlier instruction of the thread with RND = SR has not completed (R40): it is in flight, or PAUSE has put
it on the restart list (R192). One that faulted holds no later one that is in flight: DESIGN CHOICE, log entry 53. -/
def srPending (f : Flight) (s : State) : Bool :=
  let th := getThread f.thread s
  let stopped := if th.hact || th.stopped || th.phase != .normal then [] else th.restart
  f.sr &&
    ((liveFlights s).any (fun g => g.thread == f.thread && g.sr && decide (g.snap.first < f.snap.first)) ||
      stopped.any (fun e => e.snap.sr && decide (e.snap.first < f.snap.first)))

/-- An instruction has done all its accesses and may complete. -/
def isDone (f : Flight) (s : State) : Bool :=
  f.begun && f.faulted.isNone && !drainPending f s && !srPending f s && f.acts.isEmpty && f.due.isEmpty &&
    f.dma.all (fun d => d.done) && f.releases.isEmpty &&
    (match f.remote with
     | none => true
     | some r => r.rows.all (fun x => match x.phase with | .final _ => true | _ => false)) &&
    (!inOrderEngine f.engine ||
      ((liveFlights s).find? (fun g => g.engine == f.engine)).map (fun g => g.id) == some f.id)

end Sys2Proof.Machine
end

