-- ==== Sys2Proof/Machine/Access.lean ====
section
/-! DEFINITION. The instructions of the access stream that stay inside the cluster: local-store transfers,
tile loads and stores, tile context, DMA.COPY, epoch binding and Spool control (chapter 9, R105, R106, R110,
R130 to R138, R205 to R224, R78). -/

namespace Sys2Proof.Machine

/-- Row count of an N1 field. -/
def rowCount (n1 : BitVec 6) : Nat := n1.toNat + 1

/-- The translation of an instruction in flight, by place. -/
def xlate (f : Flight) (i : Nat) : Xlate :=
  f.xl.getD i { h := 0, map := Mapping.zero, epoch := 0, tagged := false }

/-- The rows that an instruction has read, in access order. -/
def gotRows (f : Flight) : List Bytes := f.got.map (fun p => p.1)

/-- No parity-protected structure is read. -/
def readsNothing (_ : ParityLoc) : Bool := false

/-- The accesses of an instruction that reads no tile, accumulator or queue begin. -/
def startPlain (f : Flight) (s : State) : State := beginWith f readsNothing (fun s => s) s

/-! LS.RD and LS.WR (R208). -/

/-- The relative rows of LS.RD and LS.WR. -/
def lsRows (a : LsArgs) (v : Word64) : List Int := strided v.toNat (rowCount a.n1) 1

/-- The operand checks of LS.RD and LS.WR. -/
def lsParams (a : LsArgs) (t : Thread) (s : State) : Chk Unit :=
  paramsOk [(saOk (sreg t a.sa s), 0), (rsOk (sreg t a.rs s), 2), (decide (rowCount a.n1 ≤ 8), 3), (portOk a.port s, 4)]

/-- LS.RD at issue. -/
def issueLsRd (t : Thread) (a : LsArgs) (s : State) : Verdict := verdict do
  onlyThread t .ta
  regsReady t [a.sa, a.rs] s
  lsParams a t s
  engineReady t .sequencer s
  sdmRange (sreg t a.sa s).toNat (512 * rowCount a.n1)
  let rels := lsRows a (sreg t a.rs s)
  let x ← checkHandle t a.h .rd rels s
  let f := { newFlight t (.lsRd t a) .sequencer s with
    blocking := true, xl := [x], tests := testsFor x (readKind a.clear) rels
    acts := readPlan x a.port a.clear rels }
  return launch f startPlain s

/-- LS.RD completes: its rows reach SDM. -/
def finishLsRd (a : LsArgs) (f : Flight) (s : State) : State :=
  commitAll { f with commit := { f.commit with sdm := [((snapReg f a.sa).toNat, (gotRows f).flatten)] } } s

/-- LS.WR at issue; the SDM bytes are those of the issue cycle. -/
def issueLsWr (t : Thread) (a : LsArgs) (s : State) : Verdict := verdict do
  onlyThread t .ta
  regsReady t [a.sa, a.rs] s
  lsParams a t s
  engineReady t .sequencer s
  let n := rowCount a.n1
  let sa := (sreg t a.sa s).toNat
  sdmRange sa (512 * n)
  let rels := lsRows a (sreg t a.rs s)
  let x ← checkHandle t a.h .wr rels s
  match sdmBad s sa (512 * n) with
  | some w => return .jump (sdmUncorr t w s) (getThread t s).pc
  | none =>
    let rows := (List.range n).map (fun i => Mem.readBytes s.sdm (sa + 512 * i) 512)
    let f := { newFlight t (.lsWr t a) .sequencer s with
      blocking := true, xl := [x], rowsIn := rows, tests := testsFor x .write rels
      acts := writePlan x a.port rels }
    return launch f startPlain (sdmCorrect sa (512 * n) s)

/-! LS.RQ and LS.WQ (R209). -/

/-- The stride of an instruction of two forms. -/
def strideOf (isStrided : Bool) (v : Word64) : Int := if isStrided then v.toInt else 1

/-- LS.RQ and LS.RQ.S at issue. -/
def issueLsRq (i : Instr) (isStrided : Bool) (t : Thread) (a : LsqArgs) (s : State) : Verdict := verdict do
  onlyThread t .ta
  regsReady t (if isStrided then [a.rs, a.stride] else [a.rs]) s
  paramsOk [(rsOk (sreg t a.rs s), 2), (portOk a.port s, 4), (!isStrided || strideOk (sreg t a.stride s), 6)]
  let n := rowCount a.n1
  queueOk t a.q.toNat true n s
  pushReady a.q.toNat n s
  engineReady t .sequencer s
  let rels := strided (sreg t a.rs s).toNat n (strideOf isStrided (sreg t a.stride s))
  let x ← checkHandle t a.h .rd rels s
  let f := { newFlight t i .sequencer s with 
    xl := [x], tests := testsFor x (readKind a.clear) rels, acts := readPlan x a.port a.clear rels }
  return launch f startPlain (reservePush f.id a.q.toNat n s)

/-- LS.RQ completes: its rows are pushed. -/
def finishLsRq (a : LsqArgs) (f : Flight) (s : State) : State :=
  commitAll { f with commit := { f.commit with push := [(a.q.toNat, gotRows f)] } } s

/-- LS.WQ reads the rows it pops. -/
def startLsWq (f : Flight) (s : State) : State := beginWith f (readsQueue s f.id) (fun s => s) s

/-- LS.WQ at issue. -/
def issueLsWq (t : Thread) (a : LsqArgs) (s : State) : Verdict := verdict do
  onlyThread t .ta
  regsReady t [a.rs] s
  paramsOk [(rsOk (sreg t a.rs s), 2), (portOk a.port s, 4)]
  let n := rowCount a.n1
  queueOk t a.q.toNat false n s
  popReady a.q.toNat n s
  engineReady t .sequencer s
  let rels := strided (sreg t a.rs s).toNat n 1
  let x ← checkHandle t a.h .wr rels s
  let f := { newFlight t (.lsWq t a) .sequencer s with
    xl := [x], rowsIn := popRows s a.q.toNat n, tests := testsFor x .write rels
    acts := writePlan x a.port rels }
  return launch f startLsWq (reservePop f.id a.q.toNat n s)

/-! LS.TAG (R110). -/

/-- LS.TAG at issue: it waits until no row of its range is claimed. -/
def issueLsTag (t : Thread) (a : LsTagArgs) (s : State) : Verdict := verdict do
  onlyThread t .ta
  regsReady t [a.rs, a.n] s
  let n := (sreg t a.n s).toNat
  let e := getHandle s a.h
  paramsOk [(e.state == .free || e.tagged, 0), (rsOk (sreg t a.rs s), 1), (decide (1 ≤ n) && decide (n ≤ 98304), 2)]
  let rels := strided (sreg t a.rs s).toNat n 1
  let x ← checkHandle t a.h .wr rels s
  let rows := rels.map (fun r => physRow x.map r.toNat)
  need (rows.all (fun p => getTag s p == .empty || getTag s p == .full)) (.wait .earlier)
  return .go (rows.foldl (fun s p => setTag p (if a.full then .full else .empty) (repairTag p s)) s)

/-! TLD and TST (R130 to R135). -/

/-- A tile row's place in the byte stream of a transfer: tile, row, first byte, bytes. -/
structure Seg where
  tile : Nat
  row : Nat
  start : Nat
  len : Nat
  deriving DecidableEq, Repr

/-- The tile rows of a group in stream order, from byte `o` on (R130). -/
def tileSegs (s : State) : List Nat → Nat → List Seg
  | [], _ => []
  | n :: ns, o =>
    let c := tileCfg s n
    let b := tileBytes c
    (List.range (tileRows c)).map (fun r => { tile := n, row := r, start := o + r * b, len := b }) ++
      tileSegs s ns (o + tileRows c * b)

/-- Parity errors in tile rows of a format, and in their sidecars where the format has them (R348). -/
def readsSegs (f : Fmt) (gs : List Seg) : ParityLoc → Bool
  | .tile n r b => gs.any (fun g => g.tile == n && g.row == r && decide (b < g.len))
  | .sidecar n r b => fmtIsMx f && gs.any (fun g => g.tile == n && g.row == r && decide (b < g.len / fmtUnit f))
  | _ => false

/-- Bytes that a group takes (the S of R130). -/
def groupBytes (s : State) (ts : List Nat) : Nat :=
  (ts.map (fun n => tileRows (tileCfg s n) * tileBytes (tileCfg s n))).sum

/-- Data bytes of a local-store row of a format: 480 for MXFP6 element rows, else 512 (R27). -/
def rowData (f : Fmt) : Nat := if f == .e3m2 || f == .e2m3 then 480 else 512

/-- Blocks of an element row (R27). -/
def rowBlocks (f : Fmt) : Nat := rowData f / fmtUnit f

/-- The format of a tile; E4M3 for a code that no configuration holds. -/
def tileFmt (s : State) (n : Nat) : Fmt := (fmtOfCode (tileCfg s n).fmt).getD .e4m3

/-- The tiles of a group of which one is an MX tile that differ in format from the first (R132). -/
def mixedTiles (s : State) (ts : List Nat) : List Nat :=
  let f := tileFmt s (ts.headD 0)
  ts.filter (fun n => tileFmt s n != f && (fmtIsMx f || fmtIsMx (tileFmt s n)))

/-- None of these tiles is empty (R120). -/
def tilesFull (ts : List Nat) (s : State) : Chk Unit :=
  match ts.find? (fun n => !(tileCfg s n).full) with
  | some n => .error (.fault fcTileEmpty (BitVec.ofNat 64 n))
  | none => .ok ()

/-- The scale row of the group of an element row (R27). -/
def scaleRowOf (rel : Int) : Int := rel / 17 * 17

/-- The scale byte of block `b` of element row `rel` in its scale row (R27). -/
def scaleIndex (f : Fmt) (rel : Int) (b : Nat) : Nat := rowBlocks f * ((rel % 17).toNat - 1) + b

/-- What chunk `i` of the stream, element row `rel`, writes to the tiles. -/
def chunkParts (f : Fmt) (segs : List Seg) (i : Nat) (rel : Int) (xt : Nat → XTag) : List TilePart :=
  let c := rowData f
  segs.filterMap (fun g =>
    let lo := max g.start (i * c)
    let hi := min (g.start + g.len) (i * c + c)
    if lo < hi then
      let u := fmtUnit f
      let side := if fmtIsMx f then
          (List.range ((hi - lo) / u)).map (fun k =>
            ((lo - g.start) / u + k, scaleIndex f rel ((lo - i * c) / u + k)))
        else []
      some { tile := g.tile, row := g.row, off := lo - g.start, start := lo - i * c, len := hi - lo, side := side,
             xtag := xt g.tile }
    else none)

/-- The expansion tag that a load of INT8 or INT4 elements leaves in a tile (R134). A load through a handle with
XFMT NONE leaves the whole tag zero, and XROW is recorded for RECORDS too: DESIGN CHOICE, log entry 54. -/
def loadTag (s : State) (x : Xlate) (port : BitVec 3) (r0 : Nat) (stride : Int) (segs : List Seg)
    (n : Nat) : XTag :=
  let e := getHandle s x.h
  let f := tileFmt s n
  if (f == .int8 || f == .int4) && e.xfmt != .none then
    let o := ((segs.find? (fun g => g.tile == n)).map (fun g => g.start)).getD 0
    { xfmt := e.xfmt, handle := x.h, epoch := x.epoch, port := port, xrow := e.xrow,
      offset := BitVec.ofNat 32 (if f == .int4 then 2 * o else o),
      stride := BitVec.ofInt 12 stride, r0 := BitVec.ofNat 17 r0 }
  else XTag.none

/-- The accesses of a TLD: each element row, its scale row before the first of its group (R132). -/
def tldRows (f : Fmt) (rels : List Int) : List Int :=
  if fmtIsMx f then
    (rels.zipIdx).flatMap (fun p =>
      let g := scaleRowOf p.1
      if (rels.take p.2).any (fun r => scaleRowOf r == g) then [p.1] else [g, p.1])
  else rels

/-- The reads of a TLD: a scale row is held, an element row writes its tile rows when it returns (R80, R133).
`all` are the rows read, `i` counts the element rows. -/
def tldPlan (x : Xlate) (port : BitVec 3) (clear : Bool) (f : Fmt) (segs : List Seg) (xt : Nat → XTag)
    (all : List Int) : Nat → List Int → List (List Access)
  | _, [] => []
  | i, r :: rs =>
    if fmtIsMx f && r % 17 == 0 then
      [readAccess x port clear .hold r] :: tldPlan x port clear f segs xt all i rs
    else
      let scale := if fmtIsMx f then some (all.idxOf (scaleRowOf r)) else none
      [readAccess x port clear (.tiles (chunkParts f segs i r xt) scale) r] ::
        tldPlan x port clear f segs xt all (i + 1) rs

/-- The tile operands of TLD and TST (R126, R130, R132). -/
def tileMoveShapes (rels : List Int) (ts : List Nat) (s : State) : Chk Unit :=
  let c := rowData (tileFmt s (ts.headD 0))
  shapesOk (match mixedTiles s ts with
    | [] => if (groupBytes s ts + c - 1) / c == rels.length then [] else ts.take 1
    | bad => bad)

/-- The PARAM_RANGE checks of TLD and TST; `stridePos` is the position of STRIDE. A named row that is a scale row
is out of range (R132). -/
def tileMoveParams (isStrided : Bool) (a : TileMoveArgs) (stridePos : Nat) (t : Thread) (s : State) : Chk Unit :=
  let ts := (tileGroup a.tg).getD []
  let r0 := (sreg t a.rs s).toNat
  let strideVal := sreg t a.stride s
  let rels := strided r0 (rowCount a.n1) (strideOf isStrided strideVal)
  let strideFits := !isStrided || strideOk strideVal
  let rsFits := rsOk (sreg t a.rs s)
  let mxFits := !(rsFits && strideFits && fmtIsMx (tileFmt s (ts.headD 0))) || rels.all (fun r => r % 17 != 0)
  paramsOk [((tileGroup a.tg).isSome, 0), (rsFits && mxFits, 2), (portOk a.port s, 4), (strideFits, stridePos)]

/-- TLD and TLD.S at issue. -/
def issueTld (i : Instr) (isStrided : Bool) (t : Thread) (a : TileMoveArgs) (s : State) : Verdict :=
  verdict do
    onlyThread t .ta
    let ts := (tileGroup a.tg).getD []
    regsReady t (if isStrided then [a.rs, a.stride] else [a.rs]) s
    tilesReady 0 (tileMask ts) s
    tileMoveParams isStrided a 6 t s
    engineReady t .sequencer s
    let rels := strided (sreg t a.rs s).toNat (rowCount a.n1) (strideOf isStrided (sreg t a.stride s))
    tileMoveShapes rels ts s
    let all := tldRows (tileFmt s (ts.headD 0)) rels
    let x ← checkHandle t a.h .rd all s
    let segs := tileSegs s ts 0
    let f := { newFlight t i .sequencer s with
      tileOp := true, wrTiles := tileMask ts, xl := [x], tests := testsFor x (readKind a.clear) all
      acts := tldPlan x a.port a.clear (tileFmt s (ts.headD 0)) segs
        (loadTag s x a.port (sreg t a.rs s).toNat (strideOf isStrided (sreg t a.stride s)) segs) all 0 all }
    return launch f startPlain s

/-- Output line `k` of a transposed read of column slice `j` (R106). -/
def transposedLine (wide : Bool) (j k : Nat) (src : List Bytes) : Bytes :=
  if wide then src.flatMap (fun b => [b.getD (64 * j + 2 * k) 0, b.getD (64 * j + 2 * k + 1) 0])
  else src.map (fun b => b.getD (64 * j + k) 0)

/-- Output lines of a transposed read: 64 in the 8-bit width, 32 in the 16-bit width. -/
def transposedLines (wide : Bool) (j : Nat) (src : List Bytes) : List Bytes :=
  (List.range (if wide then 32 else 64)).map (fun k => transposedLine wide j k src)

/-- Source rows of a transposed read. -/
def transposedRows (wide : Bool) : Nat := if wide then 32 else 64

/-- The reads of a TLD.T; the lines are written when the last of them has returned. -/
def tldTPlan (x : Xlate) (a : TldTArgs) (parts : List TilePart) (rels : List Int) : List (List Access) :=
  rels.zipIdx.map (fun p =>
    [readAccess x a.port a.clear
      (if p.2 + 1 = rels.length then .lines a.wide a.j.toNat parts else .hold) p.1])

/-- TLD.T at issue (R106, R131). -/
def issueTldT (t : Thread) (a : TldTArgs) (s : State) : Verdict := verdict do
  onlyThread t .ta
  let ts := (tileGroup a.tg).getD []
  regsReady t [a.rs, a.stride] s
  tilesReady 0 (tileMask ts) s
  paramsOk [((tileGroup a.tg).isSome, 0), (rsOk (sreg t a.rs s), 2), (portOk a.port s, 4),
    (strideOk (sreg t a.stride s), 6)]
  engineReady t .sequencer s
  match ts.find? (fun n => fmtIsMx (tileFmt s n) || tileFmt s n == .int4) with
  | some n => .error (.fault fcFormat (BitVec.ofNat 64 (256 * (tileCfg s n).fmt.toNat)))
  | none => .ok ()
  let n := transposedRows a.wide
  shapesOk (ts.filter (fun k => tileBytes (tileCfg s k) != 64) ++
    (if (ts.map (fun k => tileRows (tileCfg s k))).sum == n then [] else ts.take 1))
  let rels := strided (sreg t a.rs s).toNat n (sreg t a.stride s).toInt
  let x ← checkHandle t a.h .rd rels s
  let segs := tileSegs s ts 0
  let parts := segs.map (fun g =>
    ({ tile := g.tile, row := g.row, off := 0, start := 0, len := g.len, side := [],
       xtag := loadTag s x a.port (sreg t a.rs s).toNat (sreg t a.stride s).toInt segs g.tile } : TilePart))
  let f := { newFlight t (.tldT t a) .sequencer s with
    tileOp := true, wrTiles := tileMask ts, xl := [x], tests := testsFor x (readKind a.clear) rels
    acts := tldTPlan x a parts rels }
  return launch f startPlain s

/-- The byte stream of a tile group (R130). -/
def groupStream (s : State) (segs : List Seg) : Bytes :=
  segs.flatMap (fun g => (tileRow s g.tile g.row).take g.len)

/-- The scales of a tile group's blocks, in stream order. -/
def groupScales (s : State) (f : Fmt) (segs : List Seg) : Bytes :=
  segs.flatMap (fun g => (tileSide s g.tile g.row).take (g.len / fmtUnit f))

/-- The scale bytes that a TST writes in the scale row `g`: its own blocks' (R132). -/
def scalePatch (f : Fmt) (rels : List Int) (scales : Bytes) (g : Int) : List (Nat × Byte) :=
  let n := rowBlocks f
  (rels.zipIdx).flatMap (fun p =>
    if scaleRowOf p.1 == g then
      (((scales.drop (p.2 * n)).take n).zipIdx).map (fun q => (scaleIndex f p.1 q.2, q.1))
    else [])

/-- The accesses of a TST: element rows, and for an MX format the read of each group's scale row before its first
element row and the write of that row, with the transfer's own scales in it, after its last (R132). -/
def tstPlan (x : Xlate) (port : BitVec 3) (f : Fmt) (rels : List Int) (scales : Bytes) : List (List Access) :=
  let groups := (rels.map scaleRowOf).eraseDups
  (rels.zipIdx).flatMap (fun p =>
    let elem := [writeAccess x port (.given p.2) p.1]
    if fmtIsMx f then
      let g := scaleRowOf p.1
      let first := !(rels.take p.2).any (fun r => scaleRowOf r == g)
      let last := !(rels.drop (p.2 + 1)).any (fun r => scaleRowOf r == g)
      (if first then [[readAccess { x with tagged := false } port false .hold g]] else []) ++ [elem] ++
        (if last then [[writeAccess x port (.copied (groups.idxOf g) (scalePatch f rels scales g)) g]] else [])
    else [elem])

/-- A tile row read by TST goes through the operand cache only (R139, R140). -/
def cacheRow (n r : Nat) (s : State) : State :=
  let hit := s.toc.rows.contains (n, r)
  let s := setCopies { s.toc with rows := ((n, r) :: s.toc.rows.filter (fun x => x != (n, r))).take 8 } s
  if hit then bump cntTocHit 1 s else s

/-- The tiles of a transfer. -/
def moveTiles (a : TileMoveArgs) : List Nat := (tileGroup a.tg).getD []

/-- TST and TST.S read their tiles. -/
def startTst (a : TileMoveArgs) (f : Flight) (s : State) : State :=
  let segs := tileSegs s (moveTiles a) 0
  beginWith f (readsSegs (tileFmt s ((moveTiles a).headD 0)) segs)
    (fun s => segs.foldl (fun s g => cacheRow g.tile g.row s) s) s

/-- TST and TST.S at issue. The scale rows of an MX group are read too and need RD. -/
def issueTst (i : Instr) (isStrided : Bool) (t : Thread) (a : TileMoveArgs) (s : State) : Verdict :=
  verdict do
    onlyThread t .ta
    let ts := (tileGroup a.tg).getD []
    regsReady t (if isStrided then [a.rs, a.stride] else [a.rs]) s
    tilesReady (tileMask ts) 0 s
    tileMoveParams isStrided a 5 t s
    engineReady t .sequencer s
    tilesFull ts s
    let rels := strided (sreg t a.rs s).toNat (rowCount a.n1) (strideOf isStrided (sreg t a.stride s))
    tileMoveShapes rels ts s
    let fm := tileFmt s (ts.headD 0)
    let mx := fmtIsMx fm
    let all := tldRows fm rels
    let xs ← handlesOk t
      [{ h := a.h, epoch := none, needs := if mx then [.wr, .rd] else [.wr], rels := all }] s
    let segs := tileSegs s ts 0
    let c := rowData fm
    let stream := groupStream s segs
    let f := { newFlight t i .sequencer s with
      tileOp := true, rdTiles := tileMask ts, xl := xs
      rowsIn := (List.range rels.length).map (fun i => fitBytes 512 ((stream.drop (i * c)).take c)) }
    return launch { f with
      tests := testsFor (xlate f 0) .write all
      acts := tstPlan (xlate f 0) a.port fm rels (groupScales s fm segs) } (startTst a) s

/-! TCTX.SAVE and TCTX.LOAD (R137, R138). -/

/-- XFMT code (Table 05.3). -/
def xfmtCode : Xfmt → Nat
  | .none => 0
  | .tableFp16 => 1
  | .tableBf16 => 2
  | .records => 3

/-- XFMT of a code. -/
def xfmtOf (n : Nat) : Xfmt :=
  if n % 4 = 0 then .none else if n % 4 = 1 then .tableFp16 else if n % 4 = 2 then .tableBf16 else .records

/-- The 32-byte descriptor of a tile (Table 05.3). -/
def tileDescriptor (c : TileCfg) : Bytes :=
  let w := c.rows1.toNat + 2 ^ 5 * c.bytes1.toNat + 2 ^ 11 * c.fmt.toNat + 2 ^ 15 * (if c.full then 1 else 0)
  leBytes 2 w ++ [0, 0] ++ leBytes 4 c.valid.toNat ++
    [BitVec.ofNat 8 (xfmtCode c.xtag.xfmt), c.xtag.handle, c.xtag.epoch, c.xtag.port.setWidth 8] ++
    leBytes 4 c.xtag.xrow.toNat ++ leBytes 4 c.xtag.offset.toNat ++ leBytes 2 c.xtag.stride.toNat ++
    leBytes 3 c.xtag.r0.toNat ++ List.replicate 7 0

/-- The configuration in a descriptor; none for an inconsistent shape or a RES0 field not zero (R138). -/
def readDescriptor (b : Bytes) : Option TileCfg :=
  let field (o n : Nat) : Nat := leNat ((b.drop o).take n)
  let w := field 0 2
  let c : TileCfg :=
    { rows1 := BitVec.ofNat 5 w, bytes1 := BitVec.ofNat 6 (w / 2 ^ 5), fmt := BitVec.ofNat 4 (w / 2 ^ 11),
      full := decide (2 ^ 15 ≤ w), valid := BitVec.ofNat 32 (field 4 4),
      xtag :=
        { xfmt := xfmtOf (field 8 1), handle := BitVec.ofNat 8 (field 9 1),
          epoch := BitVec.ofNat 8 (field 10 1), port := BitVec.ofNat 3 (field 11 1),
          xrow := BitVec.ofNat 17 (field 12 4), offset := BitVec.ofNat 32 (field 16 4),
          stride := BitVec.ofNat 12 (field 20 2), r0 := BitVec.ofNat 17 (field 22 3) } }
  if field 2 2 = 0 ∧ field 8 1 < 4 ∧ field 11 1 < 8 ∧ field 12 4 < 2 ^ 17 ∧ field 20 2 < 2 ^ 12 ∧
      field 22 3 < 2 ^ 17 ∧ field 25 7 = 0 ∧ shapeOk (tileRows c) (tileBytes c) c.fmt then some c
  else none

/-- The tiles whose rows a context holds, and those of them that are MX tiles. -/
def contextTiles (cs : List TileCfg) : List Nat × List Nat :=
  let full := (List.range 16).filter (fun n => ((cs[n]?).map (fun c => c.full)).getD false)
  (full, full.filter (fun n =>
    ((cs[n]?).map (fun c => fmtIsMx ((fmtOfCode c.fmt).getD .e4m3))).getD false))

/-- The number of rows of a context: 1 + 4k + ⌈m / 4⌉ (R137). -/
def contextRows (cs : List TileCfg) : Nat :=
  let (full, mx) := contextTiles cs
  1 + 4 * full.length + (mx.length + 3) / 4

/-- The configurations of the sixteen tiles. -/
def allCfgs (s : State) : List TileCfg := (List.range 16).map (fun n => tileCfg s n)

/-- The rows of the tile context (R137). -/
def contextImage (s : State) : List Bytes :=
  let cs := allCfgs s
  let (full, mx) := contextTiles cs
  let header := (cs.map tileDescriptor).flatten
  let data := full.flatMap (fun n =>
    chunks 512 4 ((List.range 32).flatMap (fun r => tileRow s n r)))
  let side := (mx.flatMap (fun n => (List.range 32).flatMap (fun r => tileSide s n r)))
  header :: data ++ (chunks 512 4 side).map (fitBytes 512)

/-- Parity errors in what TCTX.SAVE reads: the full tiles, with their sidecars where they hold scales. -/
def readsContext (s : State) : ParityLoc → Bool
  | .tile n _ _ => (tileCfg s n).full
  | .sidecar n _ _ => (tileCfg s n).full && fmtIsMx (tileFmt s n)
  | _ => false

/-- TCTX.SAVE reads the tiles. -/
def startTctxSave (f : Flight) (s : State) : State := beginWith f (readsContext s) (fun s => s) s

/-- TCTX.SAVE at issue. -/
def issueTctxSave (t : Thread) (a : TctxArgs) (s : State) : Verdict := verdict do
  onlyThread t .ta
  regsReady t [a.rs, a.sd] s
  tilesReady 0xFFFF 0 s
  paramsOk [(rsOk (sreg t a.rs s), 1), (portOk a.port s, 2)]
  engineReady t .sequencer s
  let rows := contextImage s
  let rels := strided (sreg t a.rs s).toNat rows.length 1
  let x ← checkHandle t a.h .wr rels s
  let f := { newFlight t (.tctxSave t a) .sequencer s with
    tileOp := true, rdTiles := 0xFFFF, dests := [a.sd], xl := [x], rowsIn := rows
    tests := testsFor x .write rels, acts := writePlan x a.port rels
    commit := { Commit.empty with regs := [(a.sd, BitVec.ofNat 64 rows.length)] } }
  return launch f startTctxSave s

/-- The descriptors of a header row; an error is the number of the first tile refused. -/
def readHeader (b : Bytes) : Nat → Nat → Except Nat (List TileCfg)
  | _, 0 => .ok []
  | i, k + 1 =>
    match readDescriptor ((b.drop (32 * i)).take 32) with
    | none => .error i
    | some c =>
      match readHeader b (i + 1) k with
      | .error j => .error j
      | .ok cs => .ok (c :: cs)

/-- What the data row `i` of a tile writes: 8 physical rows, those of them that are valid. -/
def contextDataWrites (c : TileCfg) (n i : Nat) (b : Bytes) : List TileWrite :=
  (List.range 8).filterMap (fun k =>
    let r := 8 * i + k
    if c.valid.getLsbD r then
      some { tile := n, row := r, off := 0, bytes := (b.drop (64 * k)).take 64, side := [], xtag := c.xtag }
    else none)

/-- What a sidecar row writes: the sidecars of up to four MX tiles, zero beyond the blocks of a tile row (R28). -/
def contextSideWrites (cfg : Nat → TileCfg) (ns : List Nat) (b : Bytes) : List TileWrite :=
  (ns.zipIdx).flatMap (fun p =>
    let c := cfg p.1
    let blocks := tileBytes c / codeUnit c.fmt
    (List.range 32).filterMap (fun r =>
      if c.valid.getLsbD r then
        some { tile := p.1, row := r, off := 0, bytes := [],
               side := (List.range 4).map (fun k => (k, if k < blocks then b.getD (128 * p.2 + 4 * r + k) 0 else 0)),
               xtag := c.xtag }
      else none))

/-- The reads of a context load from relative row `r0` on. -/
def contextPlan (x : Xlate) (port : BitVec 3) (r0 : Nat) (cs : List TileCfg) : List (List Access) :=
  let (full, mx) := contextTiles cs
  let acts := ReturnAct.header ::
    full.flatMap (fun n => (List.range 4).map (fun i => ReturnAct.contextData n i)) ++
      (chunks 4 4 mx).map ReturnAct.contextSide
  acts.zipIdx.map (fun p => [readAccess x port false p.1 ((r0 : Int) + p.2)])

/-- The descriptors that the header row at a relative row now holds; a row that cannot be read gives none. -/
def standingHeader (s : State) (x : Xlate) (r0 : Nat) : Except Nat (List TileCfg) :=
  let p := physRow x.map r0
  if (rowBad s p).isSome then .ok [] else readHeader (readRow s p) 0 16

/-- The plan of a context load and the tests of the rows after its header, or the fault that the header gives (R97,
R138). -/
def contextJudged (x : Xlate) (port : BitVec 3) (r0 : Nat) (s : State) : Chk (List (List Access) × List TagTest) :=
  match standingHeader s x r0 with
  | .error i => .error (.fault fcTcfg (BitVec.ofNat 64 i))
  | .ok cs =>
    let rels := strided r0 (contextRows cs) 1
    match rels.find? (fun r => decide ((x.map.count.toNat : Int) ≤ r)) with
    | some r => .error (.fault fcRow (rowDetail x.h r))
    | none => .ok (contextPlan x port r0 cs, testsFor x .keep (rels.drop 1))

/-- A TCTX.LOAD whose header row was not FULL at issue finds it FULL: its descriptors are checked now, before any
access, and the tests of the other rows follow (R109, R138). -/
def judgeHeader (a : TctxArgs) (f : Flight) (s : State) : State :=
  match contextJudged (xlate f 0) a.port (snapReg f a.rs).toNat s with
  | .error (.fault fc fval) => issueFault f.thread fc fval (unissue f (releaseTests f.tests s))
  | .error _ => s
  | .ok (acts, tests) =>
    modFlight f.id (fun g => { g with tests := f.tests ++ tests, acts := acts, opv := [1] }) s

/-- TCTX.LOAD at issue: the descriptors are checked on the header row, once its tag test has passed (R138). -/
def issueTctxLoad (t : Thread) (a : TctxArgs) (s : State) : Verdict := verdict do
  onlyThread t .ta
  need (a.sd == 0) illegal
  regsReady t [a.rs] s
  tilesReady 0 0xFFFF s
  paramsOk [(rsOk (sreg t a.rs s), 1), (portOk a.port s, 2)]
  engineReady t .sequencer s
  let r0 := (sreg t a.rs s).toNat
  let x ← checkHandle t a.h .rd [(r0 : Int)] s
  let header := testsFor x .keep [(r0 : Int)]
  let fl := { newFlight t (.tctxLoad t a) .sequencer s with
    tileOp := true, wrTiles := 0xFFFF, xl := [x], tests := header, acts := contextPlan x a.port r0 [] }
  if (runTests header s).1.all (fun y => y.passed) then
    let p ← contextJudged x a.port r0 s
    return launch { fl with tests := header ++ p.2, acts := p.1, opv := [1] } startPlain s
  else return launch fl startPlain s

/-! DMA.COPY (R211 to R215). -/

/-- The accesses of a batch of an LL copy, its first row being row `i` of the copy: reads in 8 cycles, then each
row's write 8 cycles after its read (R212). -/
def llBatch (src dst : Xlate) (port : BitVec 3) (clear : Bool) (i : Nat) (rows : List (Int × Int)) :
    List (List Access) :=
  rows.map (fun p => [readAccess src port clear .hold p.1]) ++ List.replicate (8 - rows.length) [] ++
    rows.zipIdx.map (fun p => [writeAccess dst port (.copied (i + p.2) []) p.1.2])

/-- The batches of an LL copy in order. -/
def llPlan (src dst : Xlate) (port : BitVec 3) (clear : Bool) (rows : List (Int × Int)) : List (List Access) :=
  ((chunks 8 rows.length rows).zipIdx).flatMap (fun p => llBatch src dst port clear (8 * p.2) p.1)

/-- The raw stream of a tile group: 4 local-store rows per tile (R213). -/
def rawRows (s : State) (ts : List Nat) : List Bytes :=
  ts.flatMap (fun n => chunks 512 4 ((List.range 32).flatMap (fun r => tileRow s n r)))

/-- The tile rows in the first `n` raw rows of tiles. -/
def rawSegs (ts : List Nat) (n : Nat) : List (Nat × Nat) :=
  (ts.flatMap (fun k => (List.range 32).map (fun r => (k, r)))).take (8 * n)

/-- Parity errors in the first `n` raw rows of tiles. -/
def readsRaw (ts : List Nat) (n : Nat) : ParityLoc → Bool
  | .tile k r _ => (rawSegs ts n).contains (k, r)
  | _ => false

/-- Rows of a DMA.COPY. -/
def dmaCount (a : DmaArgs) : Nat := a.ndma.toNat + 1

/-- The accesses of a DMA.COPY begin; the form RL sends its reservoir reads (R214). -/
def startDma (a : DmaArgs) (f : Flight) (s : State) : State :=
  let s := startPlain f s
  if a.form = 2 then
    reservoirPump ((List.range (dmaCount a)).foldl (fun s i =>
      reservoirRead false
        { id := none, address := BitVec.ofNat 48 ((snapReg f a.src).toNat + 512 * i), use := .dmaIn f.id i,
          data := [] } s) s)
  else s

/-- Rows of a DMA.COPY that the reservoir still has to take or to give. -/
def dmaRows (x : Xlate) (rels : List Int) : List DmaRow :=
  rels.map (fun r => { phys := physRow x.map r.toNat, done := false })

/-- DMA.COPY of the form LL at issue (R212). -/
def issueDmaLl (t : Thread) (a : DmaArgs) (s : State) : Verdict := verdict do
  regsReady t [a.src, a.dst] s
  paramsOk [(rsOk (sreg t a.src s), 2), (rsOk (sreg t a.dst s), 4), (portOk a.port s, 6)]
  engineReady t .dma s
  let from_ := strided (sreg t a.src s).toNat (dmaCount a) 1
  let to_ := strided (sreg t a.dst s).toNat (dmaCount a) 1
  let xs ← handlesOk t [{ h := a.ha, epoch := none, needs := [.rd], rels := from_ },
    { h := a.hb, epoch := none, needs := [.wr], rels := to_ }] s
  let f := { newFlight t (.dmaCopy t a) .dma s with xl := xs }
  let tests := testsFor (xlate f 0) (readKind a.clear) from_ ++ testsFor (xlate f 1) .write to_
  return launch { f with
    tests := tests
    acts := llPlan (xlate f 0) (xlate f 1) a.port a.clear (from_.zip to_) } (startDma a) s

/-- DMA.COPY of the form LR at issue (R214). -/
def issueDmaLr (t : Thread) (a : DmaArgs) (s : State) : Verdict := verdict do
  need (a.hb == 0) illegal
  regsReady t [a.src, a.dst] s
  paramsOk [(rsOk (sreg t a.src s), 2), (raOk (sreg t a.dst s), 3), (portOk a.port s, 5)]
  engineReady t .dma s
  let rels := strided (sreg t a.src s).toNat (dmaCount a) 1
  let x ← checkHandle t a.ha .rd rels s
  let f := { newFlight t (.dmaCopy t a) .dma s with
    xl := [x], tests := testsFor x (readKind a.clear) rels, dma := dmaRows x rels
    acts := rels.zipIdx.map (fun p =>
      [readAccess x a.port a.clear
        (.reservoir p.2 (BitVec.ofNat 48 ((sreg t a.dst s).toNat + 512 * p.2))) p.1]) }
  return launch f (startDma a) s

/-- DMA.COPY of the form RL at issue (R214). -/
def issueDmaRl (t : Thread) (a : DmaArgs) (s : State) : Verdict := verdict do
  need (a.hb == 0) illegal
  regsReady t [a.src, a.dst] s
  paramsOk [(raOk (sreg t a.src s), 1), (rsOk (sreg t a.dst s), 3)]
  engineReady t .dma s
  let rels := strided (sreg t a.dst s).toNat (dmaCount a) 1
  let x ← checkHandle t a.ha .wr rels s
  let f := { newFlight t (.dmaCopy t a) .dma s with
    xl := [x], tests := testsFor x .write rels, dma := dmaRows x rels }
  return launch f (startDma a) s

/-- DMA.COPY of the form TL at issue: it reads its tiles in the issue cycle (R213). -/
def issueDmaTl (t : Thread) (a : DmaArgs) (s : State) : Verdict := verdict do
  need (a.src == 0 && decide (a.hb.toNat < 64)) illegal
  let group := tileGroup (a.hb.setWidth 6)
  let ts := group.getD []
  regsReady t [a.dst] s
  tilesReady (tileMask ts) 0 s
  let n := dmaCount a
  paramsOk [(group.isSome, 1), (rsOk (sreg t a.dst s), 3), (!group.isSome || decide (n ≤ 4 * ts.length), 4),
    (portOk a.port s, 5)]
  engineReady t .dma s
  tilesFull ts s
  let rels := strided (sreg t a.dst s).toNat n 1
  let x ← checkHandle t a.ha .wr rels s
  match meets s .dma (readsRaw ts n) with
  | some l => return .jump (logEvent 0x204 (parityDetail l t) (stopThread t s)) (getThread t s).pc
  | none =>
    let f := { newFlight t (.dmaCopy t a) .dma s with
      tileOp := true, xl := [x], rowsIn := (rawRows s ts).take n, tests := testsFor x .write rels
      acts := writePlan x a.port rels }
    return launch f (startDma a) ((rawSegs ts n).foldl (fun s g => cacheRow g.1 g.2 s) s)

/-- DMA.COPY at issue, by form (Table 09.4, Table 21.7). -/
def issueDma (t : Thread) (a : DmaArgs) (s : State) : Verdict :=
  verdict (do
    onlyThread t .ta
    return match a.form.toNat with
      | 0 => issueDmaLl t a s
      | 1 => issueDmaLr t a s
      | 2 => issueDmaRl t a s
      | _ => issueDmaTl t a s)

/-! Epoch binding (R220 to R224). -/

/-- A mapping slot is consistent (R93). -/
def mappingOk (s : State) (m : Mapping) : Bool :=
  let k := (maskStacks m.mask).length
  k != 0 && (maskStacks m.mask).all (fun i => decide (i < s.build.lsStacks)) &&
    decide (1 ≤ m.count.toNat) && decide (m.count.toNat ≤ 98304) &&
    decide (m.base.toNat + (m.count.toNat + k - 1) / k - 1 ≤ 4095)

/-- The whole entry is consistent (R93). -/
def entryOk (s : State) (e : Handle) : Bool :=
  mappingOk s e.cur &&
    (match e.xfmt with
     | .none => true
     | .records => decide (e.xrow.toNat < e.cur.count.toNat)
     | _ => decide (e.xrow.toNat / 4096 < s.build.lsStacks))

/-- CYCLE[41:10], the stamp of LASTUSE (R220, R306). -/
def cycleStamp (s : State) : Word32 := BitVec.ofNat 32 (s.cycle.toNat / 1024)

/-- Bindings of a handle at an epoch in both tables. -/
def bindingsAt (s : State) (h e : BitVec 8) : Nat :=
  ((s.ta.bind ++ s.tx.bind).filter (fun b => b.h == h && b.epoch == e)).length

/-- A thread binds a handle at the epoch of CURRENT (R220). -/
def takeBinding (t : Thread) (h : BitVec 8) (s : State) : State :=
  let e := getHandle s h
  let s := modThread t (fun th => { th with bind := th.bind ++ [{ h := h, epoch := e.epoch }] }) s
  setHandle h { e with
    refcount := if e.prevValid then e.refcount else e.refcount + 1
    lastuse := cycleStamp s } s

/-- An instruction of the thread that translated the handle through its binding is in flight (R222). -/
def releaseWaits (t : Thread) (h : BitVec 8) (s : State) : Bool :=
  match bindingOf (getThread t s) h with
  | none => false
  | some b => (flightsOf t s).any (fun f =>
      f.xl.any (fun x => x.h == h && x.epoch == b.epoch) && f.snap.bind.any (fun c => c.h == h && c.epoch == b.epoch))

/-- A binding is released (R222). -/
def releaseBinding (t : Thread) (h : BitVec 8) (s : State) : State :=
  match bindingOf (getThread t s) h with
  | none => s
  | some b =>
    let s := modThread t (fun th => { th with bind := th.bind.filter (fun c => c.h != h) }) s
    let e := getHandle s h
    let counted := if e.prevValid then e.prevEpoch else e.epoch
    if b.epoch = counted then
      let n := e.refcount - 1
      if n = 0 ∧ e.prevValid then
        setHandle h { e with prevValid := false, refcount := BitVec.ofNat 16 (bindingsAt s h e.epoch) } s
      else setHandle h { e with refcount := n } s
    else s

/-- The threads of a TMASK. -/
def maskThreads (m : BitVec 2) : List Thread :=
  (if m.getLsbD 0 then [.ta] else []) ++ (if m.getLsbD 1 then [.tx] else [])

/-- Release the bindings that can be released and, for a BIND, take the new ones; the threads whose
release has to wait are left (R220 to R222). -/
def bindRun (bind : Bool) (h : BitVec 8) : List Thread → State → List Thread × State
  | [], s => ([], s)
  | t :: ts, s =>
    if releaseWaits t h s then
      let (ws, s) := bindRun bind h ts s
      (t :: ws, s)
    else
      let s := releaseBinding t h s
      bindRun bind h ts (if bind then takeBinding t h s else s)

/-- BIND and UNBIND at issue (R220, R221, R224): TMASK, the handle and the binding tables are checked in this order. -/
def issueBind (i : Instr) (bind : Bool) (t : Thread) (h : BitVec 8) (m : BitVec 2) (s : State) : Verdict :=
  verdict do
    onlyThread t .ta
    let e := getHandle s h
    paramsOk [(m != 0, 1)]
    need (!bind || (e.state != .free && e.state != .draining)) (.fault fcHandle (h.setWidth 64))
    let room := !bind || (maskThreads m).all (fun u =>
      (bindingOf (getThread u s) h).isSome || decide ((getThread u s).bind.length < 16))
    paramsOk [(room, 0)]
    let f := newFlight t i .sequencer s
    let (ws, s) := bindRun bind h (maskThreads m) s
    if ws.isEmpty then return .go s
    else
      let f := { f with tensor := false, blocking := true, begun := true, releases := ws }
      return .go { s with flights := s.flights ++ [f], nextId := s.nextId + 1 }

/-- A waiting release takes effect (R222, R224); none where no release of this binding is due. -/
def bindingReleaseStep (t : Thread) (h : BitVec 8) (s : State) : Option State :=
  let want (f : Flight) : Option Bool :=
    match f.instr with
    | .bind _ k _ => if k = h ∧ f.releases.contains t then some true else none
    | .unbind _ k _ => if k = h ∧ f.releases.contains t then some false else none
    | _ => none
  match s.flights.find? (fun f => (want f).isSome) with
  | none => none
  | some f =>
    if releaseWaits t h s then none
    else
      let s := releaseBinding t h s
      let s := if want f = some true then takeBinding t h s else s
      let rest := f.releases.filter (fun u => u != t)
      some (if rest.isEmpty then dropFlight f.id s
        else modFlight f.id (fun g => { g with releases := rest }) s)

/-- A mapping descriptor (R223). -/
def descriptorMap (v : Word64) : Mapping :=
  { base := v.setWidth 12, count := (v >>> 12).setWidth 17, mask := (v >>> 29).setWidth 24 }

/-- The descriptor of a mapping (R223). -/
def mapDescriptor (m : Mapping) : Word64 :=
  BitVec.ofNat 64 (m.base.toNat + 2 ^ 12 * m.count.toNat + 2 ^ 29 * m.mask.toNat)

/-- HSWAP at issue (R223): the handle, the descriptor and PREV_VALID are checked in this order. -/
def issueHswap (t : Thread) (ss : Reg) (h : BitVec 8) (s : State) : Verdict := verdict do
  onlyThread t .ta
  regsReady t [ss] s
  let e := getHandle s h
  need (e.state != .free && e.state != .draining) (.fault fcHandle (h.setWidth 64))
  let v := sreg t ss s
  let m := descriptorMap v
  paramsOk [(decide (v.toNat < 2 ^ 53) && entryOk s { e with cur := m }, 1)]
  paramsOk [(!e.prevValid, 0)]
  return .go (setHandle h { e with
    prev := e.cur, prevEpoch := e.epoch, prevValid := e.refcount != 0, cur := m, epoch := e.epoch + 1 } s)

/-! Spool control (R78). -/

/-- The lines that a Spool instruction names. -/
def spoolNamed (a : Word64) (n : Nat) : List (BitVec 48) :=
  (List.range n).map (fun i => BitVec.ofNat 48 (a.toNat + 128 * i))

/-- The address operand of the Spool instructions. -/
def spoolOperand (t : Thread) (ss : Reg) (s : State) : Chk Word64 := do
  onlyThread t .ta
  regsReady t [ss] s
  let v := sreg t ss s
  need (v.toNat % 128 == 0 && decide (v.toNat < 2 ^ 48)) (paramRange 0)
  return v

/-- The pinned lines of a set, resident or being filled. -/
def pinnedIn (s : State) (set : Nat) : List (BitVec 48) :=
  ((s.spool.lines.filter (fun l => l.pinned)).map (fun l => l.tag) ++
    (s.spool.fills.filter (fun f => f.pin && !f.discard)).map (fun f => f.tag)).filter
      (fun a => spoolSet s a == set)

/-- SPOOL.PREFETCH and SPOOL.PIN at issue. A SPOOL.PIN that would leave a set with four pinned ways reports
operand position 0: DESIGN CHOICE, log entry 56. -/
def issueSpoolFill (t : Thread) (pin : Bool) (ss : Reg) (n1 : BitVec 6) (s : State) : Verdict := verdict do
  let v ← spoolOperand t ss s
  let ls := spoolNamed v (rowCount n1)
  need (!pin || ls.all (fun a =>
    decide (((pinnedIn s (spoolSet s a) ++ ls.filter (fun b => spoolSet s b == spoolSet s a)).eraseDups).length < 4)))
    (paramRange 0)
  return .go (ls.foldl (fun s a =>
    if spoolHit s a then
      if pin then
        let lines := s.spool.lines.map (fun l => if l.tag == a then { l with pinned := true } else l)
        { s with spool := { s.spool with lines := lines } }
      else s
    else spoolFill a none true pin s) s)

/-- SPOOL.UNPIN at issue. -/
def issueSpoolUnpin (t : Thread) (ss : Reg) (n1 : BitVec 6) (s : State) : Verdict := verdict do
  let v ← spoolOperand t ss s
  let ls := spoolNamed v (rowCount n1)
  return .go { s with spool :=
    { lines := s.spool.lines.map (fun l => if ls.contains l.tag then { l with pinned := false } else l)
      fills := s.spool.fills.map (fun f => if ls.contains f.tag then { f with pin := false } else f) } }

/-- SPOOL.INV at issue. -/
def issueSpoolInv (t : Thread) (s : State) : Verdict := verdict do
  onlyThread t .ta
  return .go { s with
    spool := { lines := [], fills := s.spool.fills.map (fun f => { f with discard := true, pin := false }) }
    upsets := { s.upsets with spoolSingle := [], spoolDouble := [] } }

/-- Remove lines from the Spool, with the upsets of their words. -/
def dropLines (gone : BitVec 48 → Bool) (s : State) : State :=
  { s with
    spool := { s.spool with lines := s.spool.lines.filter (fun m => !gone m.tag) }
    upsets := { s.upsets with
      spoolSingle := s.upsets.spoolSingle.filter (fun a => !gone (spoolLineOf a))
      spoolDouble := s.upsets.spoolDouble.filter (fun a => !gone (spoolLineOf a)) } }

/-- Install a filled line (R77): an invalid way first, else the least recently used unpinned way. -/
def installLine (l : SpoolLine) (s : State) : State :=
  let inSet := s.spool.lines.filter (fun m => spoolSet s m.tag == spoolSet s l.tag)
  let s :=
    if inSet.length < 4 then s
    else
      match (inSet.reverse).find? (fun m => !m.pinned) with
      | some victim => dropLines (fun a => a == victim.tag) s
      | none => s
  { s with spool := { s.spool with lines := l :: s.spool.lines } }

/-- A fill that a thread's fetch waits for is still in flight: an instruction may span two lines. -/
def fetchOutstanding (t : Thread) (s : State) : Bool :=
  s.spool.fills.any (fun f => (match t with
    | .ta => f.demandTa
    | .tx => f.demandTx) && !f.discard)

/-- A thread that waits for a fill goes on once all its lines are there, or faults with SPOOL_FETCH (R77, R79).
FVAL is the address of the line: DESIGN CHOICE, log entry 56. -/
def wakeFetch (t : Thread) (demand err : Bool) (line : BitVec 48) (s : State) : State :=
  if demand && (getThread t s).wait == .spool then
    if err then issueFault t fcSpool (line.setWidth 64) s
    else if fetchOutstanding t s then s else setWait t .none s
  else s

/-- Fill data of a line arrives (R77 to R79); none if no fill of it is outstanding. -/
def spoolArrival (line : BitVec 48) (err : Bool) (data : Bytes) (s : State) : Option State :=
  match s.res.reads.find? (fun r => r.id.isSome && r.use == .fill line) with
  | none => none
  | some r =>
    match s.spool.fills.find? (fun f => f.tag == line) with
    | none => none
    | some f =>
      let s := reservoirPump { s with
        res := { s.res with reads := s.res.reads.erase r }
        spool := { s.spool with fills := s.spool.fills.erase f } }
      let s := if err && f.ahead then logEvent 0x105 line.toNat s else s
      let s := if !err && !f.discard then
          installLine { tag := line, pinned := f.pin, data := fitBytes 128 data } s
        else s
      let err := err && !f.discard
      some (wakeFetch .tx f.demandTx err line (wakeFetch .ta f.demandTa err line s))

/-! The meanings. -/

/-- LS.RD (R208). -/
def execLsRd (t : Thread) (a : LsArgs) (s : State) : Out := .next (issue t 1 (issueLsRd t a) s)

/-- LS.WR (R208). -/
def execLsWr (t : Thread) (a : LsArgs) (s : State) : Out := .next (issue t 1 (issueLsWr t a) s)

/-- LS.RQ (R209). -/
def execLsRq (t : Thread) (a : LsqArgs) (s : State) : Out :=
  .next (issue t 1 (issueLsRq (.lsRq t a) false t a) s)

/-- LS.RQ.S (R105, R209). -/
def execLsRqS (t : Thread) (a : LsqArgs) (s : State) : Out :=
  .next (issue t 1 (issueLsRq (.lsRqS t a) true t a) s)

/-- LS.WQ (R209). -/
def execLsWq (t : Thread) (a : LsqArgs) (s : State) : Out := .next (issue t 1 (issueLsWq t a) s)

/-- LS.TAG (R110). -/
def execLsTag (t : Thread) (a : LsTagArgs) (s : State) : Out := .next (issue t 1 (issueLsTag t a) s)

/-- TLD (R130, R132). -/
def execTld (t : Thread) (a : TileMoveArgs) (s : State) : Out :=
  .next (issue t 1 (issueTld (.tld t a) false t a) s)

/-- TLD.S (R105, R130). -/
def execTldS (t : Thread) (a : TileMoveArgs) (s : State) : Out :=
  .next (issue t 1 (issueTld (.tldS t a) true t a) s)

/-- TLD.T (R106, R131). -/
def execTldT (t : Thread) (a : TldTArgs) (s : State) : Out := .next (issue t 1 (issueTldT t a) s)

/-- TST (R130, R132). -/
def execTst (t : Thread) (a : TileMoveArgs) (s : State) : Out :=
  .next (issue t 1 (issueTst (.tst t a) false t a) s)

/-- TST.S (R105, R130). -/
def execTstS (t : Thread) (a : TileMoveArgs) (s : State) : Out :=
  .next (issue t 1 (issueTst (.tstS t a) true t a) s)

/-- TCTX.SAVE (R137). -/
def execTctxSave (t : Thread) (a : TctxArgs) (s : State) : Out := .next (issue t 1 (issueTctxSave t a) s)

/-- TCTX.LOAD (R138). -/
def execTctxLoad (t : Thread) (a : TctxArgs) (s : State) : Out := .next (issue t 1 (issueTctxLoad t a) s)

/-- DMA.COPY (R211 to R214). -/
def execDmaCopy (t : Thread) (a : DmaArgs) (s : State) : Out := .next (issue t 1 (issueDma t a) s)

/-- BIND (R220). -/
def execBind (t : Thread) (h : BitVec 8) (tmask : BitVec 2) (s : State) : Out :=
  .next (issue t 1 (issueBind (.bind t h tmask) true t h tmask) s)

/-- UNBIND (R221). -/
def execUnbind (t : Thread) (h : BitVec 8) (tmask : BitVec 2) (s : State) : Out :=
  .next (issue t 1 (issueBind (.unbind t h tmask) false t h tmask) s)

/-- HSWAP (R223). -/
def execHswap (t : Thread) (ss : Reg) (h : BitVec 8) (s : State) : Out :=
  .next (issue t 1 (issueHswap t ss h) s)

/-- SPOOL.PREFETCH (R78). -/
def execSpoolPrefetch (t : Thread) (ss : Reg) (n1 : BitVec 6) (s : State) : Out :=
  .next (issue t 1 (issueSpoolFill t false ss n1) s)

/-- SPOOL.PIN (R78). -/
def execSpoolPin (t : Thread) (ss : Reg) (n1 : BitVec 6) (s : State) : Out :=
  .next (issue t 1 (issueSpoolFill t true ss n1) s)

/-- SPOOL.UNPIN (R78). -/
def execSpoolUnpin (t : Thread) (ss : Reg) (n1 : BitVec 6) (s : State) : Out :=
  .next (issue t 1 (issueSpoolUnpin t ss n1) s)

/-- SPOOL.INV (R78). -/
def execSpoolInv (t : Thread) (s : State) : Out := .next (issue t 1 (issueSpoolInv t) s)

/-- BINDING_RELEASE (R222, R224). -/
def execBindingRelease (t : Thread) (h : BitVec 8) (s : State) : Out :=
  .next ((bindingReleaseStep t h (passLull s)).getD s)

/-- SPOOL_FILL_ARRIVAL (R77 to R79). -/
def execSpoolFillArrival (line : BitVec 48) (err : Bool) (data : Bytes) (s : State) : Out :=
  .next ((spoolArrival line err data (passLull s)).getD s)

end Sys2Proof.Machine
end

