-- ==== Sys2Proof/Machine/Session.lean ====
section
/-! DEFINITION. The session table and its sequencer, and the replay boundary that retires its lists
(R271 to R277, R225, R61). -/

namespace Sys2Proof.Machine

/-- A command of the command slot ends OK (R331). -/
def cmdOk (s : State) : State := { s with cmd := { s.cmd with status := .ok } }

/-- A command ends FAIL; CMD_ARG3 holds the code of the event the failure logged (R331). -/
def cmdFail (code : Word32) (s : State) : State :=
  { s with cmd := { s.cmd with status := .fail, arg3 := code } }

/-- An entry of the session table. -/
def getSess (s : State) (i : Nat) : Session := Sparse.get Session.reset s.sess.entries i

/-- Replace an entry. -/
def setSess (i : Nat) (e : Session) (s : State) : State :=
  { s with sess := { s.sess with entries := Sparse.set Session.reset s.sess.entries i e } }

/-- Does a session hold a slot (Table 12.1). -/
def holdsSlot (e : Session) : Bool :=
  e.state == .resident || e.state == .ready || e.state == .running || e.state == .draining

/-- A word of an entry that cannot be corrected sets it FREE (R272); a corrected word counts (R347). -/
def sessTouch (i : Nat) (s : State) : State :=
  let s :=
    if s.upsets.sessDouble.contains i then
      let s := { s with upsets := { s.upsets with sessDouble := s.upsets.sessDouble.filter (fun j => j != i) } }
      if (getSess s i).state = .free then s
      else logEvent 0x401 i (setSess i Session.reset s)
    else s
  if s.upsets.sessSingle.contains i then
    bump cntSessCorr 1
      { s with upsets := { s.upsets with sessSingle := s.upsets.sessSingle.filter (fun j => j != i) } }
  else s

/-- Every entry with an upset is met when the sequencer reads the table. -/
def sessScan (s : State) : State :=
  (s.upsets.sessDouble ++ s.upsets.sessSingle).foldl (fun s i => sessTouch i s) s

/-- State code (Table 20.12). -/
def sessCode : SessState → Nat
  | .free => 0
  | .parked => 1
  | .resident => 2
  | .ready => 3
  | .running => 4
  | .draining => 5

/-- The 128-bit image of an entry (Table 20.12). -/
def sessImage (e : Session) : BitVec 128 :=
  BitVec.ofNat 128 (sessCode e.state + 2 ^ 3 * e.cls.toNat + 2 ^ 8 * e.model.toNat + 2 ^ 16 * e.credits.toNat
    + 2 ^ 32 * (e.tenant.toNat + 2 ^ 16 * e.lang.toNat) + 2 ^ 64 * e.slot.toNat + 2 ^ 96 * e.stamp.toNat)

/-- Age of an entry (R275). -/
def sessAge (s : State) (e : Session) : Nat := (cycleStamp s - e.stamp).toNat

/-- The oldest of a list of entries, the lowest index among equals. The list rises in index. -/
def oldest (s : State) : List (Nat × Session) → Option (Nat × Session)
  | [] => none
  | x :: xs =>
    match oldest s xs with
    | none => some x
    | some y => if sessAge s x.2 ≥ sessAge s y.2 then some x else some y

/-- Up to `n` entries, oldest first. -/
def oldestFirst (s : State) : Nat → List (Nat × Session) → List (Nat × Session)
  | 0, _ => []
  | n + 1, l =>
    match oldest s l with
    | none => []
    | some x => x :: oldestFirst s n (l.filter (fun y => y.1 != x.1))

/-- BATCH_CAP of a budget class (Table 20.14). -/
def batchCap (s : State) (c : BitVec 2) : Nat := (s.ballast.par.batchCap.toNat / 2 ^ (5 * c.toNat)) % 32

/-- The sessions that SESS.NEXT selects, oldest first (R275). -/
def selectSessions (s : State) : List (Nat × Session) :=
  let cands := s.sess.entries.filter (fun p => p.2.state == .ready && decide (p.2.cls ≤ s.ballast.budget))
  match oldest s cands with
  | none => []
  | some x => oldestFirst s (batchCap s s.ballast.budget) (cands.filter (fun p => p.2.model == x.2.model))

/-- A session leaves RUNNING at retirement (Table 12.2). The table does not say what a decrement of no credits
leaves (a host WRITE may have left none): a free value, log entry 47. -/
def retireSession (i : Nat) (s : State) : State :=
  let e := getSess s i
  if e.state = .running then
    let (c, s) : BitVec 8 × State :=
      if e.credits = 0 then (Config.noCredit s.free, { s with free := s.free + 1 }) else (e.credits - 1, s)
    setSess i { e with credits := c, state := if c = 0 then .resident else .ready } s
  else s

/-- Retire a list (R276). -/
def retireList (l : SessList) (s : State) : State :=
  l.sessions.foldl (fun s i => retireSession i s) (sessScan s)

/-- SESS.NEXT with two lists outstanding retires the older one first (R276). -/
def retireOldest (s : State) : State :=
  match s.sess.lists with
  | a :: b :: rest => retireList a { s with sess := { s.sess with lists := b :: rest } }
  | _ => s

/-- A replay boundary passes for the outstanding lists (R276). -/
def listsBoundary (s : State) : State :=
  let ls := s.sess.lists.map (fun l => { l with boundaries := l.boundaries + 1 })
  let done := ls.filter (fun l => decide (2 ≤ l.boundaries))
  let s := { s with sess := { s.sess with lists := ls.filter (fun l => decide (l.boundaries < 2)) } }
  done.foldl (fun s l => retireList l s) s

/-- A list that SESS.NEXT writes is outstanding; with no candidate it writes none (R275, R276). -/
def addList (sel : List Nat) (s : State) : State :=
  if sel.isEmpty then s
  else { s with sess := { s.sess with lists := s.sess.lists ++ [{ sessions := sel, boundaries := 0 }] } }

/-- The 32-byte record of a selected session (R225). -/
def sessRecord (i : Nat) (e : Session) : Bytes :=
  leBytes 16 (sessImage e).toNat ++ leBytes 2 i ++ List.replicate 14 0

/-- SESS.NEXT at issue (R225, R275, R276). -/
def issueSessNext (t : Thread) (sa sd : Reg) (s : State) : Verdict := verdict do
  onlyThread t .ta
  need (s.mould.cfg.engines.getLsbD 4) (.fault fcAbsent 4)
  regsReady t [sa, sd] s
  paramsOk [(saOk (sreg t sa s), 0)]
  engineReady t .session s
  let a := (sreg t sa s).toNat
  sdmRange a 512
  let s := retireOldest (sessScan s)
  let sel := selectSessions s
  match sdmBad s a (32 * sel.length) with
  | some w => return .jump (sdmUncorr t w s) (getThread t s).pc
  | none =>
    let f := newFlight t (.sessNext t sa sd) .session s
    let run (p : Nat × Session) : Session := { p.2 with state := .running, stamp := cycleStamp s }
    let recs := (sel.map (fun p => sessRecord p.1 (run p))).flatten
    let f := { f with
      dests := [sd], begun := true,
      commit := { Commit.empty with sdm := [(a, recs)], regs := [(sd, BitVec.ofNat 64 sel.length)] } }
    let s := addList (sel.map (fun p => p.1)) (sel.foldl (fun s p => setSess p.1 (run p) s) s)
    return .go { s with flights := s.flights ++ [f], nextId := s.nextId + 1 }

/-- The staged parameters take effect (R61). -/
def commitStaged (s : State) : State :=
  if s.stage.pending then
    let ns := (List.range 64).filter (fun n => s.stage.mask.getLsbD n)
    { s with
      preg := ns.foldl (fun m n => Sparse.set 0 m n (Sparse.get 0 s.stage.vals n)) s.preg
      stage := { s.stage with mask := 0, pending := false } }
  else s

/-- REPLAY.SYNC: the boundary is reached when the second thread issues it (R61). -/
def issueReplaySync (t : Thread) (s : State) : Verdict :=
  if (getThread (otherThread t) s).atSync then
    .go (listsBoundary (commitStaged
      (modThread (otherThread t) (fun th => { th with atSync := false }) s)))
  else .go (modThread t (fun th => { th with atSync := true }) s)

/-! Resume and park (R277). -/

/-- Usable slots (R273). -/
def usableSlots (s : State) : Nat :=
  min 4096 ((getHandle s s.sess.handle).cur.count.toNat / s.sess.rows.toNat)

/-- The lowest free slot. -/
def freeSlot (s : State) : Option Nat :=
  (List.range (usableSlots s)).find? (fun k =>
    !s.sess.entries.any (fun p => holdsSlot p.2 && p.2.slot.toNat == k))

/-- Reservoir address of row `i` of a session's parked image (R273). -/
def parkAddress (s : State) (idx i : Nat) : BitVec 48 :=
  s.sess.parkBase + BitVec.ofNat 48 ((idx * s.sess.rows.toNat + i) * 512)

/-- Physical row of row `i` of a transfer. -/
def xferRow (s : State) (x : SessXfer) (i : Nat) : Nat :=
  physRow x.map ((getSess s x.index).slot.toNat * s.sess.rows.toNat + i)

/-- SESS_RESUME is refused unless these hold (R277). -/
def resumeOk (s : State) (idx : Nat) : Bool :=
  let h := getHandle s s.sess.handle
  (getSess s idx).state == .parked && (freeSlot s).isSome && h.state != .free && !h.tagged

/-- SESS_PARK is refused unless this holds (R277). -/
def parkOk (s : State) (idx : Nat) : Bool :=
  (getSess s idx).state == .resident || (getSess s idx).state == .ready

/-- An accepted SESS_RESUME: the slot is allocated and the image's rows are requested. -/
def startResume (idx : Nat) (s : State) : State :=
  let e := getSess s idx
  let x : SessXfer :=
    { index := idx, park := false, done := 0, prior := e.state, map := (getHandle s s.sess.handle).cur }
  let s := setSess idx { e with state := .draining, slot := BitVec.ofNat 12 ((freeSlot s).getD 0) } s
  let s := { s with sess := { s.sess with xfer := some x } }
  reservoirPump ((List.range s.sess.rows.toNat).foldl (fun s i =>
    reservoirRead false { id := none, address := parkAddress s idx i, use := .sessIn i, data := [] } s) s)

/-- Queue a boundary access (R104). -/
def queueBoundary (b : BAccess) (s : State) : State :=
  { s with ls := { s.ls with boundary := s.ls.boundary ++ [b] } }

/-- An accepted SESS_PARK: the slot's rows are read on the boundary port. -/
def startPark (idx : Nat) (s : State) : State :=
  let e := getSess s idx
  let x : SessXfer :=
    { index := idx, park := true, done := 0, prior := e.state, map := (getHandle s s.sess.handle).cur }
  let s := setSess idx { e with state := .draining } s
  let s := { s with sess := { s.sess with xfer := some x } }
  (List.range s.sess.rows.toNat).foldl (fun s i =>
    queueBoundary
      { phys := xferRow s x i, handle := s.sess.handle, tagged := false, row := none, use := .sessOut i,
        buffer := none, taken := none } s) s

/-- The requests of a transfer that ended early are forgotten. -/
def dropXfer (s : State) : State :=
  let isSess (u : ResUse) : Bool := match u with
    | .sessIn _ => true
    | .sessOut _ => true
    | _ => false
  let keep (l : List ResReq) : List ResReq :=
    (l.filter (fun r => r.id.isSome || !isSess r.use)).map (fun r =>
      if isSess r.use then { r with use := .discard } else r)
  { s with
    res := { reads := keep s.res.reads, writes := keep s.res.writes }
    ls := { s.ls with boundary := s.ls.boundary.filter (fun b => match b.use with
      | .sessIn => false
      | .sessOut _ => false
      | _ => true) }
    sess := { s.sess with xfer := none } }

/-- The entry of a failed transfer goes back (Table 12.2). -/
def backOut (x : SessXfer) (s : State) : State :=
  let e := getSess s x.index
  if e.state = .draining then
    setSess x.index { e with state := x.prior, slot := if x.park then e.slot else 0 } s
  else s

/-- A reservoir error ends a transfer (R277). -/
def xferError (s : State) : State :=
  match s.sess.xfer with
  | none => s
  | some x =>
    let s := dropXfer (backOut x s)
    cmdFail 0x402 (logEvent 0x402 (x.index + 2 ^ 16 * (if x.park then 1 else 0)) (bump cntSessXfer 1 s))

/-- One row of a transfer is done; the last one ends it (R277, Table 12.2). -/
def xferRowDone (s : State) : State :=
  match s.sess.xfer with
  | none => s
  | some x =>
    if x.done + 1 < s.sess.rows.toNat then
      { s with sess := { s.sess with xfer := some { x with done := x.done + 1 } } }
    else
      let e := getSess s x.index
      let s := { s with sess := { s.sess with xfer := none } }
      let next := if x.park then SessState.parked else if e.credits = 0 then .resident else .ready
      let s := if e.state = .draining then
          setSess x.index { e with state := next, slot := if x.park then 0 else e.slot } s
        else s
      cmdOk s

/-- SESS.NEXT (R225, R275). -/
def execSessNext (t : Thread) (sa sd : Reg) (s : State) : Out :=
  .next (issue t 1 (issueSessNext t sa sd) s)

/-- REPLAY.SYNC (R61). -/
def execReplaySync (t : Thread) (s : State) : Out := .next (issue t 1 (issueReplaySync t) s)

end Sys2Proof.Machine
end

