-- ==== Sys2Proof/Machine/Fabric.lean ====
section
/-! DEFINITION. The fabric ports and their links, Sagger windows, boundary accesses, the remote instructions
and the reservoir port (chapter 13, R104, R108, R115, R211 to R219, R381 to R385). -/

namespace Sys2Proof.Machine

/-! Status codes of Table 09.5. -/

/-- OK. -/
def stOk : BitVec 8 := 0
/-- EMPTY. -/
def stEmpty : BitVec 8 := 1
/-- FULL. -/
def stFull : BitVec 8 := 2
/-- DENIED. -/
def stDenied : BitVec 8 := 3

/-- A fabric port: 0 N, 1 E, 2 S, 3 W (Table 03.6). -/
def getPort (s : State) (p : BitVec 2) : Port :=
  match p.toNat with
  | 0 => s.fab.n
  | 1 => s.fab.e
  | 2 => s.fab.s
  | _ => s.fab.w

/-- Replace a port. -/
def setPort (p : BitVec 2) (q : Port) (s : State) : State :=
  match p.toNat with
  | 0 => { s with fab := { s.fab with n := q } }
  | 1 => { s with fab := { s.fab with e := q } }
  | 2 => { s with fab := { s.fab with s := q } }
  | _ => { s with fab := { s.fab with w := q } }

/-- Change a port. -/
def modPort (p : BitVec 2) (g : Port → Port) (s : State) : State := setPort p (g (getPort s p)) s

/-- The Mould stream in force enables the port (R382, R383). -/
def portEnabled (s : State) (p : BitVec 2) : Bool := s.mould.cfg.ports.getLsbD p.toNat

/-- The port sends and accepts: enabled, not DOWN (R289), not in a link reset (R382). -/
def portLive (s : State) (p : BitVec 2) : Bool :=
  portEnabled s p && !(getPort s p).down && !(getPort s p).retrain

/-- Flits of a block (R286). -/
def flitsOf (b : Block) : Nat := if b.data then 18 else 2

/-- Space in the inbound buffer is freed and its credits go back (R293, R381). -/
def freeFlits (p : BitVec 2) (n : Nat) (s : State) : State :=
  modPort p (fun q => { q with returned := q.returned + n, space := q.space + n }) s

/-- A block takes its place in the inbound buffer; the partner has spent its credits (R381). -/
def takeFlits (p : BitVec 2) (n : Nat) (s : State) : State :=
  modPort p (fun q => { q with space := q.space - n }) s

/-- Queue an ACK or a NAK (R287, R288). -/
def sendLink (p : BitVec 2) (ack : Bool) (seq : BitVec 8) (s : State) : State :=
  modPort p (fun q => { q with outLink := q.outLink ++ [TxUnit.link ack seq] }) s

/-- Queue a response; a port that is DOWN or disabled discards it (R289). -/
def sendResponse (p : BitVec 2) (b : Block) (s : State) : State :=
  if portLive s p then modPort p (fun q => { q with outRsp := q.outRsp ++ [b] }) s else s

/-- A response block (R286). WR and KEY of a response are zero: DESIGN CHOICE, log entry 9. -/
def responseBlock (s : State) (dst : BitVec 19) (txn : BitVec 6) (win : BitVec 4) (status : BitVec 8)
    (row : Option Bytes) : Block :=
  { typ := if row.isSome then 5 else 6, data := row.isSome, seq := 0, dst := dst, src := s.fab.nodeId,
    win := win, wr := 0, key := 0, txn := txn, status := status, row := row.getD [] }

/-- Send a block already numbered: it spends its credits (R381). -/
def transmit (p : BitVec 2) (b : Block) (s : State) : State :=
  modPort p (fun q => { q with credits := q.credits - flitsOf b, tx := TxUnit.block b :: q.tx }) s

/-- May a new block start: room in the replay buffer and credits for all of its flits (R288, R381). -/
def canStart (q : Port) (b : Block) : Bool :=
  decide (q.replay.length < 16) && decide (flitsOf b ≤ q.credits)

/-- Send a new block: it takes the next SEQ and a place in the replay buffer (R288); its SRC is NODE_ID, which is
read (R347). -/
def startBlock (p : BitVec 2) (b : Block) (s : State) : State :=
  let s := readCfg cfgNode s
  let q := getPort s p
  let b := { b with seq := q.txSeq }
  transmit p b (setPort p
    { q with txSeq := q.txSeq + 1, replay := q.replay ++ [{ b := b, resends := 0, resend := false }] } s)

/-- Link units need no credit and go first (R291, R381). -/
def sendLinkUnits (p : BitVec 2) (s : State) : State :=
  modPort p (fun q => { q with tx := q.outLink.reverse ++ q.tx, outLink := [] }) s

/-- Resends, in order, while credits last (R288, R291). -/
def sendResends : Nat → BitVec 2 → State → State
  | 0, _, s => s
  | n + 1, p, s =>
    let q := getPort s p
    match q.replay.find? (fun x => x.resend) with
    | none => s
    | some x =>
      if flitsOf x.b ≤ q.credits then
        let mark (y : Sent) : Sent :=
          if y.b.seq = x.b.seq then { y with resend := false, resends := y.resends + 1 } else y
        sendResends n p (bump (cntFabResends p.toNat) 1
          (transmit p x.b (modPort p (fun q => { q with replay := q.replay.map mark }) s)))
      else s

/-- Responses, in order, while they may start. -/
def sendResponses : Nat → BitVec 2 → State → State
  | 0, _, s => s
  | n + 1, p, s =>
    let q := getPort s p
    match q.outRsp with
    | [] => s
    | b :: bs => if canStart q b then sendResponses n p (startBlock p b (setPort p { q with outRsp := bs } s)) else s

/-- Row `i` of a remote instruction in flight. -/
def remoteRow (s : State) (fid i : Nat) : Option (Flight × Remote × RemRow) :=
  match findFlight fid s with
  | none => none
  | some f =>
    match f.remote with
    | none => none
    | some r => (r.rows[i]?).map (fun x => (f, r, x))

/-- Change row `i` of a remote instruction. -/
def modRemRow (fid i : Nat) (g : RemRow → RemRow) (s : State) : State :=
  modFlight fid (fun f => { f with remote := f.remote.map (fun r => { r with rows := r.rows.modify i g }) }) s

/-- Type of a request (Table 13.2). -/
def reqTypeCode : ReqType → BitVec 4
  | .put => 1
  | .take => 2
  | .peek => 3
  | .fetch => 4

/-- A row with a lower stamp leaves first; among equal stamps the earlier instruction's, then the lower (R291). -/
def leavesFirst (x y : Flight × Remote × Nat × RemRow) : Bool :=
  let a := x.2.2.2.stamp
  let b := y.2.2.2.stamp
  decide (a < b) || (a == b && (decide (x.1.id < y.1.id) || (x.1.id == y.1.id && decide (x.2.2.1 < y.2.2.1))))

/-- The rows of an instruction that wait to be sent on a port. -/
def waitingRows (s : State) (p : BitVec 2) (f : Flight) : List (Flight × Remote × Nat × RemRow) :=
  match f.remote with
  | none => []
  | some r =>
    if f.begun && f.faulted.isNone && r.port == p && r.node != s.fab.nodeId then
      ((r.rows.zipIdx).filter (fun x => x.1.phase == .todo)).map (fun x => (f, r, x.2, x.1))
    else []

/-- The next row that a port has to send: rows of one instruction in ascending order, instructions in issue order, a
row tried again after the rows issued before it was due (R291); none while the data of that row has not been read. -/
def nextRequest (s : State) (p : BitVec 2) : Option (Flight × Remote × Nat × RemRow) :=
  match s.flights.flatMap (waitingRows s p) with
  | [] => none
  | x :: xs =>
    let x := xs.foldl (fun m y => if leavesFirst y m then y else m) x
    if x.2.1.req == .put && x.2.2.2.data.isNone then none else some x

/-- The least tracker entry that is free (R294). -/
def freeTxn (l : List Track) : Option (BitVec 6) :=
  ((List.range 64).find? (fun i => !l.any (fun t => t.txn.toNat == i))).map (BitVec.ofNat 6 ·)

/-- The block of a row request (Table 13.1). -/
def requestBlock (s : State) (r : Remote) (i : Nat) (x : RemRow) (txn : BitVec 6) : Block :=
  { typ := reqTypeCode r.req, data := r.req == .put, seq := 0, dst := r.node, src := s.fab.nodeId,
    win := r.win, wr := r.wr + BitVec.ofNat 17 i, key := r.key, txn := txn, status := 0,
    row := if r.req == .put then x.data.getD zeroRow else [] }

/-- Requests, in order, while they may start and a tracker entry is free; a repeated row keeps its entry
until its final status (R291, R294). -/
def sendRequests : Nat → BitVec 2 → State → State
  | 0, _, s => s
  | n + 1, p, s =>
    match nextRequest s p with
    | none => s
    | some (f, r, i, x) =>
      let q := getPort s p
      let held := q.tracker.find? (fun t => t.fid == f.id && t.row == i)
      let txn? := match held with
        | some t => some t.txn
        | none => freeTxn q.tracker
      match txn? with
      | none => s
      | some txn =>
        let b := requestBlock s r i x txn
        if canStart q b then
          let tr : Track := { txn := txn, node := r.node, fid := f.id, row := i, age := 0 }
          let q := { q with tracker := q.tracker.filter (fun t => t.txn != txn) ++ [tr] }
          let s := modRemRow f.id i (fun y => { y with phase := .sent, tries := y.tries + 1 }) (setPort p q s)
          let s := if r.req == .put && x.tries == 0 then bump cntFabOut 1 s else s
          sendRequests n p (startBlock p b s)
        else s

/-- A port sends what it can, in the order of R291. -/
def pump (p : BitVec 2) (s : State) : State :=
  if portLive s p then
    let s := sendLinkUnits p s
    let s := sendResends (getPort s p).replay.length p s
    if (getPort s p).replay.any (fun x => x.resend) then s
    else
      let s := sendResponses 16 p s
      if (getPort s p).outRsp.isEmpty then sendRequests 16 p s else s
  else s

/-! Rows of remote instructions. -/

/-- Free the tracker entry of a row (R294). -/
def freeTrack (p : BitVec 2) (fid i : Nat) (s : State) : State :=
  modPort p (fun q => { q with tracker := q.tracker.filter (fun t => !(t.fid == fid && t.row == i)) }) s

/-- Is a refused row tried again (R218). -/
def retryDue (s : State) (r : Remote) (x : RemRow) (status : BitVec 8) : Bool :=
  r.retry && ((r.req == .put && status == stFull) || (r.req == .take && status == stEmpty)) &&
    (s.fab.retryLimit == 0 || decide (x.tries < s.fab.retryLimit.toNat))

/-- A row receives a status without data (R216 to R218). -/
def rowStatus (fid i : Nat) (status : BitVec 8) (s : State) : State :=
  match remoteRow s fid i with
  | none => s
  | some (_, r, x) =>
    if retryDue s r x status then modRemRow fid i (fun y => { y with phase := .retry s.fab.retryGap.toNat }) s
    else
      let s := freeTrack r.port fid i (modRemRow fid i (fun y => { y with phase := .final status }) s)
      let s := match x.dest with
        | some p => if r.tagged then releaseClaim p s else s
        | none => s
      if status = stEmpty ∨ status = stFull ∨ status = stDenied then bump cntFabRefused 1 s else s

/-- A row receives its data with OK: it goes to the queue's row or to a boundary write (R217). `buffer` is
the port whose inbound buffer holds the block. -/
def rowArrived (fid i : Nat) (buffer : Option (BitVec 2)) (row : Bytes) (s : State) : State :=
  let free (s : State) : State := match buffer with
    | some p => freeFlits p 18 s
    | none => s
  match remoteRow s fid i with
  | none => free s
  | some (_, r, x) =>
    if r.req = .put then free (rowStatus fid i stOk s)
    else
      let s := bump cntFabIn 1 (freeTrack r.port fid i s)
      match x.dest with
      | some p =>
        queueBoundary
          { phys := p, handle := r.handle, tagged := r.tagged, row := some row,
            use := .remote fid i, buffer := buffer, taken := none }
          (modRemRow fid i (fun y => { y with phase := .landing }) s)
      | none => free (modRemRow fid i (fun y => { y with phase := .final stOk, data := some row }) s)

/-! Sagger windows (R295 to R300). -/

/-- A window entry. -/
def getWindow (s : State) (w : Nat) : Window := Sparse.get Window.reset s.fab.windows w

/-- The window's right for a request type (Table 09.6). -/
def windowRight (w : Window) : ReqType → Bool
  | .put => w.put
  | .take => w.take
  | .peek => w.peek
  | .fetch => w.fetch

/-- Checks 1 to 8 of Table 13.4: the reason of the first that fails, or the relative row. -/
def windowCheck (s : State) (req : ReqType) (win : BitVec 4) (wr : BitVec 17) (key : Word32)
    (src : BitVec 19) : Except Nat Nat :=
  let w := getWindow s win.toNat
  let h := getHandle s w.handle
  let row := w.wbase.toNat + wr.toNat
  if !(s.run.state == .ready || s.run.state == .run || s.run.state == .pause) then .error 1
  else if s.mould.cfg.winUsed.toNat ≤ win.toNat ∨ !w.valid then .error 2
  else if w.expiry < s.fab.epoch then .error 3
  else if (!w.chipAny ∧ src.extractLsb' 9 10 ≠ w.srcChip) ∨ (!w.clusterAny ∧ src.setWidth 9 ≠ w.srcCluster) then .error 4
  else if key ≠ w.key then .error 5
  else if !windowRight w req then .error 6
  else if w.wrows.toNat ≤ wr.toNat then .error 7
  else if h.state = .free ∨ h.cur.count.toNat ≤ row then .error 8
  else .ok row

/-- A request is DENIED (R298). -/
def denyRequest (win : BitVec 4) (reason : Nat) (src : BitVec 19) (s : State) : State :=
  let s := bump (cntWinDenied win.toNat) 1 s
  let last := BitVec.ofNat 32 (win.toNat + 16 * reason + 256 * src.toNat)
  let s := { s with fab := { s.fab with denyLast := last } }
  if reason = 5 then logEvent 0x305 (win.toNat + 256 * src.toNat) s else s

/-- What a target does with a request: a status at once, or a boundary read that will answer it (R299). -/
inductive Served
  | status (code : BitVec 8)
  | read
  deriving DecidableEq, Repr

/-- Serve a request (R298, R299): `wuse` is the use of a boundary write of `row`, `ruse` of a read; `buffer` is the
port whose inbound buffer holds the block until then (R293). -/
def serveRequest (req : ReqType) (win : BitVec 4) (wr : BitVec 17) (key : Word32) (src : BitVec 19)
    (row : Bytes) (wuse ruse : BUse) (buffer : Option (BitVec 2)) (s : State) : Served × State :=
  let s := readCfg (getWindow s win.toNat).handle.toNat (readCfg (cfgWindow win.toNat) s)
  match windowCheck s req win wr key src with
  | .error r => (.status stDenied, denyRequest win r src s)
  | .ok rel =>
    let hn := (getWindow s win.toNat).handle
    let h := getHandle s hn
    let p := physRow h.cur rel
    let s := if h.tagged && req != .fetch then repairTag p s else s
    let g := getTag s p
    let read (taken : Option (Bytes × Option Nat)) (s : State) : Served × State :=
      (.read, queueBoundary
        { phys := p, handle := hn, tagged := h.tagged, row := none, use := ruse, buffer := none, taken := taken } s)
    let accept (s : State) : Served × State :=
      (.status stOk, queueBoundary
        { phys := p, handle := hn, tagged := h.tagged, row := some row, use := wuse, buffer := buffer, taken := none }
        (bump (cntWinServed win.toNat) 1 s))
    match req with
    | .put =>
      if !h.tagged then accept s
      else if g = .empty then accept (setTag p .wclaim s)
      else (.status stFull, bump (cntWinFull win.toNat) 1 s)
    | .take =>
      if !h.tagged then read none s
      else if g = .full then read (some (readRow s p, rowBad s p)) (setTag p .empty s)
      else (.status stEmpty, bump (cntWinEmpty win.toNat) 1 s)
    | .peek =>
      if !h.tagged ∨ g = .full ∨ g = .rclaim then read none s
      else (.status stEmpty, bump (cntWinEmpty win.toNat) 1 s)
    | .fetch => read none s

/-- A row request to the cluster's own node is served by its own windows; no block leaves (R284). -/
def serveSelf (fid i : Nat) (s : State) : State :=
  match remoteRow s fid i with
  | none => s
  | some (_, r, x) =>
    let s := modRemRow fid i (fun y => { y with phase := .sent, tries := y.tries + 1 }) s
    let s := if r.req == .put && x.tries == 0 then bump cntFabOut 1 s else s
    match serveRequest r.req r.win (r.wr + BitVec.ofNat 17 i) r.key s.fab.nodeId (x.data.getD zeroRow)
        (.selfPut r.win) (.selfAnswer fid i r.win) none s with
    | (.status c, s) => rowStatus fid i c s
    | (.read, s) => s

/-- Rows that are ready go out: on the port, or to the own windows (R284, R291). -/
def offerRows (fid : Nat) (s : State) : State :=
  match (findFlight fid s).bind (fun f => f.remote) with
  | none => s
  | some r =>
    if r.node = s.fab.nodeId then
      ((r.rows.zipIdx).filter (fun x => x.1.phase == .todo && (r.req != .put || x.1.data.isSome))).foldl
        (fun s x => serveSelf fid x.2 s) s
    else pump r.port s

/-! A port that goes DOWN (R289). -/

/-- A remote instruction whose link is unrecovered: it faults, and the claims of its rows without a final
status are released (R219, Table 04.3). -/
def linkFault (f : Flight) (r : Remote) (s : State) : State :=
  let open_ := r.rows.filter (fun x => x.phase != .landing && (match x.phase with
    | .final _ => false
    | _ => true))
  let s := open_.foldl (fun s x => match x.dest with
    | some p => if r.tagged then releaseClaim p s else s
    | none => s) s
  execFault f.id fcLink (BitVec.ofNat 64 (r.port.toNat + 16 * r.win.toNat)) s

/-- The port enters DOWN (R289). -/
def goDown (p : BitVec 2) (s : State) : State :=
  let s := modPort p (fun q => { q with down := true, outLink := [], outRsp := [], tracker := [] }) s
  let s := logEvent 0x301 p.toNat s
  let hit (f : Flight) : Option (Flight × Remote) :=
    match f.remote with
    | none => none
    | some r =>
      if f.faulted.isNone && f.begun && r.port == p && r.node != s.fab.nodeId && r.rows.any (fun x => match x.phase with
        | .final _ => false
        | .landing => false
        | _ => true) then some (f, r) else none
  (s.flights.filterMap hit).foldl (fun s x => linkFault x.1 x.2 s) s

/-- The named block and every later block held are to be resent; a block that failed on its eighth resend
takes the port DOWN (R288, R289). None if the block is not held. -/
def resendFrom (p : BitVec 2) (seq : BitVec 8) (s : State) : Option State :=
  let q := getPort s p
  let keep := q.replay.takeWhile (fun x => x.b.seq != seq)
  match q.replay.drop keep.length with
  | [] => none
  | x :: xs =>
    if 8 ≤ x.resends then some (goDown p s)
    else
      let marked := (x :: xs).map (fun y => { y with resend := true })
      some (pump p (setPort p { q with replay := keep ++ marked } s))

/-- ACK acknowledges its block and every earlier one (R288). -/
def ackBlock (p : BitVec 2) (seq : BitVec 8) (s : State) : State :=
  let q := getPort s p
  let keep := q.replay.dropWhile (fun x => x.b.seq != seq)
  if keep.isEmpty then s else pump p (setPort p { q with replay := keep.tail } s)

/-- An ACK or a NAK arrives, or a block stays without an answer, which is resent as though it had been NAKed
(R288). -/
def linkUnit (p : BitVec 2) (ack : Bool) (seq : BitVec 8) (s : State) : State :=
  if portLive s p then
    if ack then ackBlock p seq s else (resendFrom p seq s).getD s
  else s

/-- The partner returns a credit; the port holds 1,023 at most (R381). -/
def creditReturned (p : BitVec 2) (s : State) : State :=
  if portLive s p then pump p (modPort p (fun q => { q with credits := min 1023 (q.credits + 1) }) s) else s

/-! Arrivals (R286, R288, R290, R292). -/

/-- Requests by type (Table 13.2). -/
def reqOfType (t : BitVec 4) : Option ReqType :=
  match t.toNat with
  | 1 => some .put
  | 2 => some .take
  | 3 => some .peek
  | 4 => some .fetch
  | _ => none

/-- A request is accepted (R292, R299). A PUT_REQ that queues a write stays in the buffer until then. -/
def acceptRequest (p : BitVec 2) (b : Block) (req : ReqType) (s : State) : State :=
  match serveRequest req b.win b.wr b.key b.src (fitBytes 512 b.row) (.putRow b.win)
      (.answer p b.win b.src b.txn) (some p) s with
  | (.status c, s) =>
    let s := if req = .put ∧ c = stOk then s else freeFlits p (flitsOf b) s
    sendResponse p (responseBlock s b.src b.txn b.win c none) s
  | (.read, s) => freeFlits p (flitsOf b) s

/-- A tracker entry waits for a response: its row has been sent, or its instruction has faulted since (R294). -/
def awaits (s : State) (t : Track) : Bool :=
  match remoteRow s t.fid t.row with
  | some (_, _, x) => x.phase == .sent
  | none => true

/-- A response is matched to its tracker entry by TXN and SRC; others are orphans (R294). -/
def acceptResponse (p : BitVec 2) (b : Block) (s : State) : State :=
  match (getPort s p).tracker.find? (fun t => t.txn == b.txn && t.node == b.src && awaits s t) with
  | none => freeFlits p (flitsOf b) (bump (cntFabOrphan p.toNat) 1 s)
  | some t =>
    if b.data then
      rowArrived t.fid t.row (some p) (fitBytes 512 b.row)
        (if (remoteRow s t.fid t.row).isNone then freeTrack p t.fid t.row s else s)
    else
      freeFlits p 2 (if (remoteRow s t.fid t.row).isNone then freeTrack p t.fid t.row s
        else rowStatus t.fid t.row b.status s)

/-- A block that passed the link check (R286, R290); its DST is compared with NODE_ID, which is read (R347). -/
def acceptBlock (p : BitVec 2) (b : Block) (s : State) : State :=
  let s := readCfg cfgNode s
  let fits := if b.typ = 1 ∨ b.typ = 5 then b.data
    else (b.typ == 2 || b.typ == 3 || b.typ == 4 || b.typ == 6) && !b.data
  if !fits then
    logEvent 0x302 (p.toNat + 256 * b.typ.toNat) (bump (cntFabBadType p.toNat) 1 (freeFlits p (flitsOf b) s))
  else if b.dst ≠ s.fab.nodeId then
    logEvent 0x303 (p.toNat + 256 * b.dst.toNat) (bump (cntFabMisroute p.toNat) 1 (freeFlits p (flitsOf b) s))
  else
    match reqOfType b.typ with
    | some req => acceptRequest p b req s
    | none => acceptResponse p b s

/-- A block is discarded after its arrival: its space is free again (R293). 18 or 2 flits; DEDUCED, log entry 9. -/
def discardFlits (p : BitVec 2) (n : Nat) (s : State) : State :=
  if n ≤ (getPort s p).space then freeFlits p n (takeFlits p n s) else s

/-- A block fails: it is NAKed with the SEQ expected, and after nine discards of one SEQ the port is DOWN
(R288, R289). -/
def blockFailure (p : BitVec 2) (seq : BitVec 8) (s : State) : State :=
  let q := getPort s p
  let n := if seq = q.rxSeq then q.discards + 1 else q.discards
  let s := bump (cntFabCrc p.toNat) 1 (setPort p { q with discarding := true, discards := n } s)
  if 9 ≤ n then goDown p s else pump p (sendLink p false q.rxSeq s)

/-- A block arrives intact (R288). One that the partner has no credit for is a CRC failure (R381). In sequence it is
accepted and acknowledged. While the receiver discards, any other block is discarded; otherwise a block out of
sequence is one already accepted, and is acknowledged again: DESIGN CHOICE, log entry 9. -/
def arrive (p : BitVec 2) (b : Block) (s : State) : State :=
  if portLive s p then
    let q := getPort s p
    if q.space < flitsOf b then blockFailure p b.seq s
    else if b.seq = q.rxSeq then
      let s := takeFlits p (flitsOf b) (setPort p { q with rxSeq := q.rxSeq + 1, discarding := false, discards := 0 } s)
      pump p (acceptBlock p b (sendLink p true b.seq s))
    else if q.discarding then discardFlits p (flitsOf b) s
    else pump p (sendLink p true (q.rxSeq - 1) (discardFlits p (flitsOf b) s))
  else s

/-- Flits of a block that came as a data block or as a control block. -/
def flitCount (data : Bool) : Nat := if data then 18 else 2

/-- A failed arrival (R288, R381). -/
def crcFailure (p : BitVec 2) (kind : LinkFailure) (seq : BitVec 8) (s : State) : State :=
  if portLive s p then
    match kind with
    | .unitCrc => bump (cntFabCrc p.toNat) 1 s
    | .outOfSeq data => discardFlits p (flitCount data) s
    | .blockCrc data => blockFailure p seq (discardFlits p (flitCount data) s)
    | .noCredit => blockFailure p seq s
  else s

/-! Link resets (R382). -/

/-- Rows that wait for a response on a link that is reset can no longer be answered: they take the final status
DENIED. DESIGN CHOICE, log entry 9. -/
def dropOutstanding (p : BitVec 2) (s : State) : State :=
  ((getPort s p).tracker.filter (awaits s)).foldl (fun s t => rowStatus t.fid t.row stDenied s) s

/-- Clear a port's link state. Accesses already queued at the boundary port stay (R289), but the inbound buffer
that held their blocks is empty: they return no credits (R382). -/
def clearLink (p : BitVec 2) (retrain : Bool) (s : State) : State :=
  let tx := (getPort s p).tx
  let s := setPort p { Port.reset with tx := tx, retrain := retrain } (dropOutstanding p s)
  { s with ls := { s.ls with boundary := s.ls.boundary.map (fun b =>
    if b.buffer = some p then { b with buffer := none } else b) } }

/-! Boundary accesses (R104). -/

/-- Performing a boundary access counts for the Ballast window (R279). -/
def countBoundary (s : State) : State :=
  { s with ballast := { s.ballast with boundaryRows := s.ballast.boundaryRows + 1 } }

/-- A boundary write is performed (Table 04.3, R293). -/
def boundaryWrite (b : BAccess) (row : Bytes) (s : State) : State :=
  let s := writeRow b.phys row s
  let s := if b.tagged then setTag b.phys .full s else s
  let s := match b.buffer with
    | some p => freeFlits p 18 s
    | none => s
  match b.use with
  | .dma fid i =>
    bump cntDmaIn 1 (modFlight fid (fun f => { f with dma := f.dma.modify i (fun d => { d with done := true }) }) s)
  | .remote fid i => modRemRow fid i (fun y => { y with phase := .final stOk }) s
  | .sessIn => xferRowDone s
  | _ => s

/-- A boundary read meets an uncorrectable word (R115, R300). -/
def boundaryBad (b : BAccess) (word : Nat) (s : State) : State :=
  let win := match b.use with
    | .answer _ w _ _ => w.toNat
    | .selfAnswer _ _ w => w.toNat
    | _ => 0
  let s := logEvent 0x202 (b.phys + 2 ^ 17 * word + 2 ^ 24 * win) s
  match b.use with
  | .answer p w dst txn =>
    let s := denyRequest w 9 dst s
    pump p (sendResponse p (responseBlock s dst txn w stDenied none) s)
  | .selfAnswer fid i w => rowStatus fid i stDenied (denyRequest w 9 s.fab.nodeId s)
  | .sessOut _ => xferError s
  | _ => s

/-- What a corrected boundary read counts (R113); it records LS_CORR_LAST and asks for a rewrite as a scheduled one
does: DEDUCED, log entry 57. -/
def boundaryCorrected (p : Nat) (s : State) : State :=
  let s := bump (cntLsCorr (stackOf p)) 1 (bump cntBoundaryCorr 1 s)
  { s with ls := { s.ls with
      corrLast := BitVec.ofNat 17 p
      rewrites := if s.ls.rewrites.contains p then s.ls.rewrites else s.ls.rewrites ++ [p] } }

/-- A boundary read is performed. A TAKE delivers the row as it stood at its acceptance (R108). -/
def boundaryRead (b : BAccess) (s : State) : State :=
  let (row, bad) := b.taken.getD (readRow s b.phys, rowBad s b.phys)
  match bad with
  | some w => boundaryBad b w s
  | none =>
    let s := if rowCorrectable s b.phys then boundaryCorrected b.phys s else s
    match b.use with
    | .answer p w dst txn =>
      let s := bump (cntWinServed w.toNat) 1 s
      pump p (sendResponse p (responseBlock s dst txn w stOk (some row)) s)
    | .selfAnswer fid i w => rowArrived fid i none row (bump (cntWinServed w.toNat) 1 s)
    | .sessOut i =>
      match s.sess.xfer with
      | none => s
      | some x =>
        let r : ResReq := { id := none, address := parkAddress s x.index i, use := .sessOut i, data := row }
        reservoirPump { s with res := { s.res with writes := s.res.writes ++ [r] } }
    | _ => s

/-- The oldest waiting boundary access is performed (R104). -/
def boundaryStep (s : State) : State :=
  match s.ls.boundary with
  | [] => s
  | b :: bs =>
    let s := countBoundary { s with ls := { s.ls with boundary := bs } }
    match b.row with
    | some row => boundaryWrite b row s
    | none => boundaryRead b s

/-! The remote instructions (R216 to R219). -/

/-- The accesses of a remote instruction begin. A port that is DOWN faults it (R289). -/
def startRemoteWith (k : State → State) (f : Flight) (s : State) : State :=
  match f.remote with
  | none => s
  | some r =>
    beginWith f (readsQueue s f.id) (fun s =>
      if (getPort s r.port).down then
        execFault f.id fcLink (BitVec.ofNat 64 (r.port.toNat + 16 * r.win.toNat)) (releaseTests f.tests s)
      else k s) s

/-- TAKE, MSG.RECV, PEEK and FETCH send their requests. -/
def startRemote (f : Flight) (s : State) : State := startRemoteWith (offerRows f.id) f s

/-- PUT and MSG.SEND read a handle source, whose rows leave as they return; a queue's rows leave at once. -/
def startPut (a : RemoteArgs) (f : Flight) (s : State) : State :=
  startRemoteWith (fun s => if a.le.getLsbD 8 then offerRows f.id s else s) f s

/-- NODE, FP, WR of a remote instruction (Table 09.1); `pos` is the position of NODE. -/
def remoteParams (t : Thread) (node wr : Reg) (fp : BitVec 2) (pos : Nat) (s : State) : List (Bool × Nat) :=
  [(decide ((sreg t node s).toNat < 2 ^ 19), pos), (portEnabled s fp, pos + 1),
    (decide ((sreg t wr s).toNat % 2 ^ 32 < 2 ^ 17), pos + 3)]

/-- A row of the instruction about to issue, not yet sent. -/
def newRow (s : State) (data : Option Bytes) (dest : Option Nat) : RemRow :=
  { phase := .todo, stamp := s.nextId, tries := 0, data := data, dest := dest }

/-- The remote part of an instruction. -/
def newRemote (t : Thread) (req : ReqType) (retry : Bool) (fp : BitVec 2) (win : BitVec 4) (node wr key : Reg)
    (h : BitVec 8) (tagged toQueue : Bool) (rows : List RemRow) (sd : Reg) (sa : Option Nat) (s : State) : Remote :=
  { req := req, retry := retry, port := fp, win := win, node := (sreg t node s).setWidth 19,
    wr := (sreg t wr s).setWidth 17, key := (sreg t key s).setWidth 32, handle := h, tagged := tagged,
    toQueue := toQueue, rows := rows, sd := sd, sa := sa }

/-- A local end that is a queue has bits [7:3] zero (Table 21.7). -/
def localEndOk (le : BitVec 9) : Chk Unit := need (!le.getLsbD 8 || decide (le.toNat % 256 < 8)) illegal

/-- The SA operand of a remote instruction (R216). -/
def statusArea (t : Thread) (saen : Bool) (sa : Reg) (n : Nat) (s : State) : Chk (Option Nat) :=
  let a := (sreg t sa s).toNat
  if saen then do
    sdmRange a n
    return some a
  else return none

/-- The s-registers of a remote instruction. -/
def remoteRegs (a : RemoteArgs) : List Reg :=
  (if a.le.getLsbD 8 then [] else [a.rs]) ++ [a.node, a.wr, a.key, a.sd] ++ (if a.saen then [a.sa] else [])

/-- The relative rows of a handle end. -/
def remoteRels (t : Thread) (a : RemoteArgs) (s : State) : List Int := strided (sreg t a.rs s).toNat (rowCount a.n1) 1

/-- PUT and MSG.SEND at issue. -/
def issuePut (i : Instr) (retry : Bool) (t : Thread) (a : RemoteArgs) (s : State) : Verdict := verdict do
  onlyThread t .ta
  localEndOk a.le
  let isQ := a.le.getLsbD 8
  let n := rowCount a.n1
  regsReady t (remoteRegs a) s
  paramsOk ([(isQ || rsOk (sreg t a.rs s), 0)] ++ remoteParams t a.node a.wr a.fp 1 s ++
    [(isQ || portOk a.port s, 7), (!a.saen || saOk (sreg t a.sa s), 10)])
  let q := a.le.toNat % 8
  if isQ then queueOk t q false n s else .ok ()
  if isQ then popReady q n s else .ok ()
  engineReady t .remote s
  let sa ← statusArea t a.saen a.sa n s
  let fl := { newFlight t i .remote s with dests := [a.sd] }
  if isQ then
    let rows := popRows s q n
    let r := newRemote t .put retry a.fp a.win a.node a.wr a.key 0 false false
      (rows.map (fun b => newRow s (some b) none)) a.sd sa s
    return launch { fl with rowsIn := rows, remote := some r } (startPut a) (reservePop fl.id q n s)
  else
    let h := a.le.setWidth 8
    let rels := remoteRels t a s
    let x ← checkHandle t h .rd rels s
    let r := newRemote t .put retry a.fp a.win a.node a.wr a.key h x.tagged false
      (rels.map (fun _ => newRow s none none)) a.sd sa s
    let f := { fl with
      xl := [x], tests := testsFor x (readKind a.clear) rels, remote := some r
      acts := rels.zipIdx.map (fun p => [readAccess x a.port a.clear (.send p.2) p.1]) }
    return launch f (startPut a) s

/-- TAKE, MSG.RECV and PEEK at issue. -/
def issueTake (i : Instr) (req : ReqType) (retry : Bool) (t : Thread) (a : RemoteArgs) (s : State) : Verdict :=
  verdict do
    onlyThread t .ta
    localEndOk a.le
    let isQ := a.le.getLsbD 8
    let n := rowCount a.n1
    regsReady t (remoteRegs a) s
    paramsOk ([(isQ || rsOk (sreg t a.rs s), 0)] ++ remoteParams t a.node a.wr a.fp 1 s ++
      [(!a.saen || saOk (sreg t a.sa s), 8)])
    let q := a.le.toNat % 8
    if isQ then queueOk t q true n s else .ok ()
    if isQ then pushReady q n s else .ok ()
    engineReady t .remote s
    let sa ← statusArea t a.saen a.sa n s
    let fl := { newFlight t i .remote s with dests := [a.sd] }
    if isQ then
      let r := newRemote t req retry a.fp a.win a.node a.wr a.key 0 false true
        (List.replicate n (newRow s none none)) a.sd sa s
      return launch { fl with remote := some r } startRemote (reservePush fl.id q n s)
    else
      let h := a.le.setWidth 8
      let rels := remoteRels t a s
      let x ← checkHandle t h .wr rels s
      let r := newRemote t req retry a.fp a.win a.node a.wr a.key h x.tagged false
        (rels.map (fun k => newRow s none (some (physRow x.map k.toNat)))) a.sd sa s
      let f := { fl with xl := [x], tests := testsFor x .write rels, remote := some r }
      return launch f startRemote s

/-- FETCH at issue. -/
def issueFetch (t : Thread) (a : FetchArgs) (s : State) : Verdict := verdict do
  onlyThread t .ta
  localEndOk a.le
  regsReady t [a.rs, a.node, a.wr, a.key, a.sd, a.n] s
  let n := (sreg t a.n s).toNat
  paramsOk ([(!a.le.getLsbD 8, 0), (rsOk (sreg t a.rs s), 1)] ++ remoteParams t a.node a.wr a.fp 2 s ++
    [(decide (1 ≤ n) && decide (n ≤ 65535), 7)])
  engineReady t .remote s
  let h := a.le.setWidth 8
  let rels := strided (sreg t a.rs s).toNat n 1
  let x ← checkHandle t h .wr rels s
  let r := newRemote t .fetch false a.fp a.win a.node a.wr a.key h x.tagged false
    (rels.map (fun k => newRow s none (some (physRow x.map k.toNat)))) a.sd none s
  let f := { newFlight t (.fetch t a) .remote s with
    dests := [a.sd], xl := [x], tests := testsFor x .write rels, remote := some r }
  return launch f startRemote s

/-- Rows with a final status. -/
def countStatus (r : Remote) (c : BitVec 8) : Nat := (r.rows.filter (fun x => x.phase == .final c)).length

/-- Status byte of a row. -/
def rowCode (x : RemRow) : Byte :=
  match x.phase with
  | .final c => c
  | _ => 0

/-- What a completing remote instruction commits: the summary, the status bytes and the rows of a queue
destination, zeros for a row that is not OK (R216, R217). -/
def remoteCommit (f : Flight) (r : Remote) : Flight :=
  let summary := countStatus r stOk + 2 ^ 16 * countStatus r stEmpty + 2 ^ 32 * countStatus r stFull +
    2 ^ 48 * countStatus r stDenied
  let sdm := match r.sa with
    | some a => [(a, r.rows.map rowCode)]
    | none => []
  let q := match f.instr with
    | .take _ a => a.le.toNat % 8
    | .msgRecv _ a => a.le.toNat % 8
    | .peek _ a => a.le.toNat % 8
    | _ => 0
  let push := if r.toQueue then
      [(q, r.rows.map (fun x => if x.phase == .final stOk then x.data.getD zeroRow else zeroRow))]
    else []
  { f with commit := { f.commit with regs := [(r.sd, BitVec.ofNat 64 summary)], sdm := sdm, push := push } }

/-! The reservoir port (R214, R215, R277, R384, R385). -/

/-- A row of a DMA.COPY is done. -/
def dmaRowDone (fid i : Nat) (s : State) : State :=
  modFlight fid (fun f => { f with dma := f.dma.modify i (fun d => { d with done := true }) }) s

/-- A reservoir error on a DMA row (R215). -/
def dmaError (fid i : Nat) (address : BitVec 48) (s : State) : State :=
  let s := match findFlight fid s with
    | none => s
    | some f =>
      match f.instr, f.dma[i]? with
      | .dmaCopy _ a, some d => if a.form = 2 ∧ (xlate f 0).tagged then releaseClaim d.phys s else s
      | _, _ => s
  dmaRowDone fid i (logEvent 0x306 address.toNat (bump cntDmaErr 1 s))

/-- Rows of a stream of a number of words; none of more than 4,096 words is read (R336, R339). -/
def streamRows (words : Nat) : Nat := if words ≤ 4096 then (words + 63) / 64 else 1

/-- Request row `i` of a stream. -/
def requestStream (base : BitVec 48) (i : Nat) (s : State) : State :=
  reservoirRead false
    { id := none, address := base + BitVec.ofNat 48 (512 * i), use := .stream i, data := [] } s

/-- A read of a Mould stream. -/
def isStream (r : ResReq) : Bool :=
  match r.use with
  | .stream _ => true
  | _ => false

/-- The reads of an earlier stream are forgotten: those sent are discarded when they are answered. -/
def dropStream (l : List ResReq) : List ResReq :=
  (l.filter (fun r => r.id.isSome || !isStream r)).map (fun r => if isStream r then { r with use := .discard } else r)

/-- A Mould stream is read (R339): its first row says how many more follow. -/
def readStream (base : BitVec 48) (s : State) : State :=
  reservoirPump (requestStream base 0
    { s with
      res := { s.res with reads := dropStream s.res.reads }
      mould := { s.mould with rows := [], retried := [], failed := none } })

/-- Row `i` of a stream arrives; after an error it is read once more (R339). -/
def streamArrived (i : Nat) (address : BitVec 48) (err : Bool) (row : Bytes) (s : State) : State :=
  let base := address - BitVec.ofNat 48 (512 * i)
  if err then
    if s.mould.retried.contains i then
      { s with mould := { s.mould with failed := some (min i (s.mould.failed.getD i)) } }
    else
      reservoirPump (requestStream base i { s with mould := { s.mould with retried := s.mould.retried ++ [i] } })
  else
    let s := { s with mould := { s.mould with rows := Sparse.set zeroRow s.mould.rows i row } }
    if i = 0 then
      let n := streamRows (leNat ((row.drop 4).take 2))
      reservoirPump ((List.range (n - 1)).foldl (fun s k => requestStream base (k + 1) s) s)
    else s

/-- A stream is still being read. -/
def streamPending (s : State) : Bool := s.res.reads.any isStream

/-- The stream has been read, or a row of it has failed twice (R339). -/
def streamEnded (s : State) : Bool := s.mould.failed.isSome || !streamPending s

/-- The words of the stream that was read. -/
def streamWords (s : State) : List Word64 :=
  let row (i : Nat) : Bytes := Sparse.get zeroRow s.mould.rows i
  let n := leNat (((row 0).drop 4).take 2)
  let bytes := (List.range (streamRows n)).flatMap row
  (chunks 8 (min n 4096) bytes).map (fun b => BitVec.ofNat 64 (leNat b))

/-- A read response (R384). -/
def resReadStep (id : BitVec 6) (err : Bool) (data : Bytes) (s : State) : State :=
  match s.res.reads.find? (fun r => r.id == some id) with
  | none => s
  | some r =>
    let t := reservoirPump { s with res := { s.res with reads := s.res.reads.erase r } }
    let row := fitBytes 512 data
    match r.use with
    | .fill line => (spoolArrival line err data s).getD t
    | .dmaIn fid i =>
      match findFlight fid t with
      | none => t
      | some f =>
        if err then dmaError fid i r.address t
        else
          queueBoundary
            { phys := (f.dma[i]?.map (fun d => d.phys)).getD 0, handle := (xlate f 0).h,
              tagged := (xlate f 0).tagged, row := some row, use := .dma fid i,
              buffer := none, taken := none } t
    | .sessIn i =>
      match t.sess.xfer with
      | none => t
      | some x =>
        if err then xferError t
        else
          queueBoundary
            { phys := xferRow t x i, handle := t.sess.handle, tagged := false, row := some row, use := .sessIn,
              buffer := none, taken := none } t
    | .stream i => streamArrived i r.address err row t
    | _ => t

/-- The read of a stream that waits longest for its answer is answered. -/
def answerStreamRead (err : Bool) (row : Bytes) (s : State) : State :=
  if streamEnded s then s
  else
    match (s.res.reads.find? (fun r => isStream r && r.id.isSome)).bind (fun r => r.id) with
    | some i => resReadStep i err row s
    | none => s

/-- The reads of a stream that still wait are answered, oldest first: with the rows of `stream`, then, if `readErr`, with
errors until one has failed twice (R339, R384). -/
def streamAnswers (readErr : Bool) (stream : List Bytes) (s : State) : State :=
  let s := stream.foldl (fun s row => answerStreamRead false row s) s
  if readErr then (List.range 129).foldl (fun s _ => answerStreamRead true [] s) s else s

/-- A write is acknowledged (R385). -/
def resWriteStep (id : BitVec 6) (err : Bool) (s : State) : State :=
  match s.res.writes.find? (fun r => r.id == some id) with
  | none => s
  | some r =>
    let s := reservoirPump { s with res := { s.res with writes := s.res.writes.erase r } }
    match r.use with
    | .dmaOut fid i => if err then dmaError fid i r.address s else bump cntDmaOut 1 (dmaRowDone fid i s)
    | .sessOut _ => if err then xferError s else xferRowDone s
    | _ => s

/-- A refused row is tried again (R218); none unless its gap has passed. -/
def retryStep (fid i : Nat) (s : State) : Option State :=
  match remoteRow s fid i with
  | none => none
  | some (_, _, x) =>
    match x.phase with
    | .retry 0 =>
      some (offerRows fid (bump cntMsgRetries 1 (modRemRow fid i (fun y => { y with phase := .todo, stamp := s.nextId }) s)))
    | _ => none

/-- A row without a response within the limit takes DENIED (R294); none unless the limit has passed. -/
def rspTimeoutStep (p : BitVec 2) (txn : BitVec 6) (s : State) : Option State :=
  match (getPort s p).tracker.find? (fun t => t.txn == txn && awaits s t) with
  | none => none
  | some t =>
    if s.fab.rspLimit = 0 ∨ t.age < s.fab.rspLimit.toNat then none
    else
      let s := logEvent 0x304 (p.toNat + 256 * txn.toNat) (bump (cntFabTimeout p.toNat) 1 s)
      some (pump p (rowStatus t.fid t.row stDenied (freeTrack p t.fid t.row s)))

/-! The meanings. -/

/-- PUT (R217). -/
def execPut (t : Thread) (a : RemoteArgs) (s : State) : Out := .next (issue t 2 (issuePut (.put t a) false t a) s)

/-- MSG.SEND (R217, R218). -/
def execMsgSend (t : Thread) (a : RemoteArgs) (s : State) : Out :=
  .next (issue t 2 (issuePut (.msgSend t a) true t a) s)

/-- TAKE (R217). -/
def execTake (t : Thread) (a : RemoteArgs) (s : State) : Out :=
  .next (issue t 2 (issueTake (.take t a) .take false t a) s)

/-- MSG.RECV (R217, R218). -/
def execMsgRecv (t : Thread) (a : RemoteArgs) (s : State) : Out :=
  .next (issue t 2 (issueTake (.msgRecv t a) .take true t a) s)

/-- PEEK (R217). -/
def execPeek (t : Thread) (a : RemoteArgs) (s : State) : Out :=
  .next (issue t 2 (issueTake (.peek t a) .peek false t a) s)

/-- FETCH (R217). -/
def execFetch (t : Thread) (a : FetchArgs) (s : State) : Out := .next (issue t 2 (issueFetch t a) s)

/-- MSG_RETRY (R218). -/
def execMsgRetry (fid row : Nat) (s : State) : Out :=
  .next ((retryStep fid row (passLull s)).getD s)

/-- PUT_REQ (R299). -/
def execPutReq (port : BitVec 2) (b : Block) (s : State) : Out := .next (arrive port b (passLull s))

/-- TAKE_REQ (R299). -/
def execTakeReq (port : BitVec 2) (b : Block) (s : State) : Out := .next (arrive port b (passLull s))

/-- PEEK_REQ (R299). -/
def execPeekReq (port : BitVec 2) (b : Block) (s : State) : Out := .next (arrive port b (passLull s))

/-- FETCH_REQ (R299). -/
def execFetchReq (port : BitVec 2) (b : Block) (s : State) : Out := .next (arrive port b (passLull s))

/-- DATA_RSP (R217, R294). -/
def execDataRsp (port : BitVec 2) (b : Block) (s : State) : Out := .next (arrive port b (passLull s))

/-- STATUS_RSP (R216, R294). -/
def execStatusRsp (port : BitVec 2) (b : Block) (s : State) : Out := .next (arrive port b (passLull s))

/-- LINK (R288). -/
def execLink (port : BitVec 2) (ack : Bool) (seq : BitVec 8) (s : State) : Out :=
  .next (linkUnit port ack seq (passLull s))

/-- LINK_NO_ANSWER_RESEND (R288). -/
def execLinkNoAnswerResend (port : BitVec 2) (seq : BitVec 8) (s : State) : Out :=
  .next (linkUnit port false seq (passLull s))

/-- FABRIC_CREDIT_RETURN (R381). -/
def execFabricCreditReturn (port : BitVec 2) (s : State) : Out :=
  .next (creditReturned port (passLull s))

/-- FAB_RSP_TIMEOUT (R294). -/
def execFabRspTimeout (port : BitVec 2) (txn : BitVec 6) (s : State) : Out :=
  .next ((rspTimeoutStep port txn (passLull s)).getD s)

/-- RESERVOIR_READ_RESPONSE (R384). -/
def execReservoirReadResponse (id : BitVec 6) (err : Bool) (data : Bytes) (s : State) : Out :=
  .next (resReadStep id err data (passLull s))

/-- RESERVOIR_WRITE_ACK (R385). -/
def execReservoirWriteAck (id : BitVec 6) (err : Bool) (s : State) : Out := .next (resWriteStep id err (passLull s))

/-- LINK_CRC_FAILURE (R288, R289). -/
def execLinkCrcFailure (port : BitVec 2) (kind : LinkFailure) (seq : BitVec 8) (s : State) : Out :=
  .next (crcFailure port kind seq (passLull s))

end Sys2Proof.Machine
end

