-- ==== Sys2Proof/Machine/Control.lean ====
section
/-! DEFINITION. Run states, the command slot and the host commands that the cluster itself carries out
(R22, R60, R86, R277, R303 to R306, R317 to R319, R327, R329 to R335, R376 to R382). -/

namespace Sys2Proof.Machine

/-! Answers of the CSR port. -/

/-- A response (R377). It waits until the host takes it, behind those of earlier requests. A fifth request
transfers only after the host has taken the oldest of four (R376). -/
def answer (st : CsrStatus) (rdata : Word32) (s : State) : State :=
  let w := if 4 ≤ s.csr.waiting.length then s.csr.waiting.tail else s.csr.waiting
  { s with csr := { s.csr with status := st, rdata := rdata, waiting := w ++ [(st, rdata)] } }

/-- A held lower word is discarded (R393). -/
def dropHeld (s : State) : State := { s with csr := { s.csr with held := none } }

/-- The blocks that answer in the present run state (R379, Table 20.1). -/
def blockOpen (s : State) (a : Nat) : Bool :=
  let always := decide (a < 0x200) || (decide (0x400 ≤ a) && decide (a < 0x500)) ||
    (decide (0x7800 ≤ a) && decide (a < 0x7A00))
  let early := s.run.state == .refire || (s.run.state == .bisque && s.run.step != 8)
  if early then always
  else if s.run.state == .faulted then
    always || (decide (0x200 ≤ a) && decide (a < 0x300)) || (decide (0x7000 ≤ a) && decide (a < 0x7100))
  else true

/-! Ownership and the two halves (R22, R334). -/

/-- Code of a run state (Table 20.3). -/
def stateCode : RunState → Nat
  | .off => 0
  | .bisque => 1
  | .refire => 2
  | .ready => 3
  | .run => 4
  | .pause => 5
  | .maint => 6
  | .safe => 7
  | .faulted => 8

/-- Code of an owner (Table 20.3). -/
def ownerCode : Owner → Nat
  | .host => 0
  | .tether => 1
  | .bridle => 2

/-- Owner of a run state (Table 16.1); OFF has none and leaves the field. -/
def ownerOf (st : RunState) (old : Owner) : Owner :=
  match st with
  | .off => old
  | .bisque => .bridle
  | .refire => .bridle
  | .ready => .host
  | .run => .tether
  | .pause => .host
  | .maint => .host
  | .safe => .bridle
  | .faulted => .bridle

/-- RUN_STATE [15:0] of a copy (Table 20.3). -/
def copyImage (c : RunCopy) : Nat := stateCode c.state + 2 ^ 4 * ownerCode c.owner + 2 ^ 8 * c.epoch.toNat

/-- The run-control state as a half copies it. -/
def copyOf (r : RunCtl) : RunCopy := { state := r.state, owner := r.owner, epoch := r.epoch }

/-- The states from which the cluster enters SAFE (Table 16.2). -/
def canEnterSafe (st : RunState) : Bool := st == .ready || st == .run || st == .pause || st == .maint

/-- SAFE is to be entered; the first cause is kept until the cluster leaves SAFE (R334). -/
def requestSafe (cause : SafeCause) (s : State) : State :=
  let cause := if s.run.safeCause = .none then cause else s.run.safeCause
  if canEnterSafe s.run.state then { s with run := { s.run with safeDue := true, safeCause := cause } }
  else if s.run.state = .safe then { s with run := { s.run with safeCause := cause } }
  else s

/-- The copies differ (R22, R334): the Bridle becomes owner and writes both with an epoch one above the
greater of the two. -/
def splitAuthority (s : State) : State :=
  let s := logEvent 0x004 (copyImage s.run.west + 2 ^ 16 * copyImage s.run.east) s
  let top := if s.run.west.epoch < s.run.east.epoch then s.run.east.epoch else s.run.west.epoch
  let r := { s.run with owner := .bridle, epoch := top + 1 }
  requestSafe .splitAuthority { s with run := { r with west := copyOf r, east := copyOf r } }

/-- A run-control handshake: the halves compare their copies, then update them (R22, R334). -/
def handshake (s : State) : State :=
  if s.run.west = s.run.east then
    { s with run := { s.run with west := copyOf s.run, east := copyOf s.run } }
  else splitAuthority s

/-! Run-state changes. -/

/-- The states in which a command is legal (Table 16.3). -/
def legalIn (op : Nat) (st : RunState) : Bool :=
  let serving := st == .ready || st == .run || st == .pause || st == .maint
  match op with
  | 0x01 => st == .ready
  | 0x02 => st == .run
  | 0x03 => st == .pause || st == .safe
  | 0x04 => serving || st == .safe
  | 0x05 => st == .ready
  | 0x06 => st == .maint
  | 0x07 => st == .bisque || st == .maint
  | 0x08 => st == .maint
  | 0x10 => st == .run || st == .pause
  | 0x11 => serving
  | 0x12 => st == .ready || st == .pause
  | 0x13 => st == .ready || st == .pause
  | 0x18 => st == .run || st == .pause
  | 0x19 => st == .run || st == .pause
  | 0x20 => serving
  | 0x21 => serving
  | 0x22 => serving
  | 0x23 => serving
  | 0x28 => serving
  | _ => false

/-! The frequency-step table in force (R315, R325, R359). -/

/-- FREQ of a table entry (Table 15.2). -/
def stepFreq (e : Word32) : Nat := e.toNat % 2 ^ 12

/-- VID of a table entry. -/
def stepVid (e : Word32) : Nat := e.toNat / 2 ^ 12 % 2 ^ 8

/-- An entry with the retune offsets (R359): VID raised and clamped at 255, FREQ lowered in F1 to F15. -/
def retuned (vidOfs : Nat) (freqOfs : Bool) (i : Nat) (e : Word32) : Word32 :=
  let f := if freqOfs && i != 0 then stepFreq e - 10 else stepFreq e
  BitVec.ofNat 32 (f + 2 ^ 12 * min 255 (stepVid e + vidOfs) + 2 ^ 20 * stepT25 e + 2 ^ 26 * stepT50 e)

/-- No Mould stream has been applied since the start (R361): the cluster is in BISQUE, or a step failed there. -/
def beforeMould (s : State) : Bool := s.run.state == .bisque || s.run.state == .faulted

/-- An event that the Bridle raises carries CYCLE, or 0 before the Mould load of bisque start; these keep the order
in which they were detected (R361). -/
def bridleEvent (code : BitVec 12) (detail : Nat) (s : State) : State :=
  if beforeMould s then logAt (fun e q => q ++ [e]) 0 code detail s else logEvent code detail s

/-- Put the retune offsets in force on the Mould stream's table; each entry that changes is logged, and the
clock switches if the step in force loses frequency (R325, R359). -/
def retuneTable (s : State) : State :=
  let new := (s.mould.cfg.fsteps.zipIdx).map (fun x => retuned s.clk.vidOfs.toNat s.clk.freqOfs x.2 x.1)
  let pairs := (s.clk.fsteps.zip new).zipIdx
  let slower := (pairs.filter (fun x => x.2 == s.clk.step.toNat)).any (fun x => decide (stepFreq x.1.2 < stepFreq x.1.1))
  let s := pairs.foldl (fun s x =>
    if x.1.1 = x.1.2 then s
    else bridleEvent 0x505 (x.2 + 2 ^ 8 * stepFreq x.1.2 + 2 ^ 20 * stepVid x.1.2) s) s
  let s := if slower then bump cntClkSwitches 1 s else s
  { s with clk := { s.clk with fsteps := new } }

/-- Put new retune offsets in force; the table waits for a step change in progress (R325). -/
def applyRetune (vidOfs : BitVec 4) (freqOfs : Bool) (s : State) : State :=
  let s := { s with clk := { s.clk with vidOfs := vidOfs, freqOfs := freqOfs } }
  if s.clk.target.isSome then { s with brg := { s.brg with retuneWait := true } } else retuneTable s

/-- A step change ends; a retune that waited for it is made (R325). -/
def endStepChange (s : State) : State :=
  let s := { s with clk := { s.clk with target := none } }
  if s.brg.retuneWait then retuneTable { s with brg := { s.brg with retuneWait := false } } else s

/-- A BUSY command ends FAIL with the change of the run state (R333). -/
def endBusy (s : State) : State :=
  let s := match s.sess.xfer with
    | some x => dropXfer (backOut x s)
    | none => s
  cmdFail 0 (endStepChange s)

/-- The run state changes (R330, R333, R334). The Bridle stays owner of a cluster whose copies differed, which is
about to enter SAFE (R22). -/
def setRun (st : RunState) (s : State) : State :=
  let s := if s.cmd.status = .busy ∧ !legalIn s.cmd.op.toNat st then endBusy s else s
  let owner := if s.run.safeDue && s.run.owner == .bridle then .bridle else ownerOf st s.run.owner
  let epoch := if owner = s.run.owner then s.run.epoch else s.run.epoch + 1
  handshake { s with run := { s.run with state := st, owner := owner, epoch := epoch } }

/-! The command slot (R331, R332). -/

/-- A command is legal in the present state (R332, Tables 16.3 and 16.10). -/
def commandLegal (s : State) (op : Nat) : Bool :=
  legalIn op s.run.state &&
    (!s.run.retained || !(op == 0x01 || op == 0x03 || op == 0x05 || op == 0x08 || op == 0x11 || op == 0x12)) &&
    (match op with
     | 0x01 => decide (s.run.lc.toNat < 4)
     | 0x03 => s.run.state != .safe || s.run.safeCause == .splitAuthority
     | 0x07 => decide (s.run.lc.toNat < 4) && (s.run.state != .bisque || s.run.step == 8)
     | 0x13 => s.run.retained
     | _ => true)

/-- A CMD_OP write is refused (R331): it has no effect but the event, and CMD_STATUS reads IDLE unless a
command is BUSY. -/
def rejectCommand (op : Nat) (st : CsrStatus) (s : State) : State :=
  let s := logEvent 0x001 (op + 2 ^ 8 * stateCode s.run.state) s
  let status := if s.cmd.status = .busy then CmdStatus.busy else .idle
  answer st 0 { s with cmd := { s.cmd with status := status } }

/-- A CMD_OP write is accepted (R331, R334). -/
def acceptCommand (op : Nat) (s : State) : State :=
  handshake (answer .ok 0 { s with cmd := { s.cmd with op := BitVec.ofNat 8 op, status := .busy } })

/-- The CSR write of CMD_OP (R331), in the first cycle after a lull (R15): the checks on the state, on the arguments,
on the engine and on the object named, in that order; then what the command does. -/
def postCommand (op : Nat) (args absent object : State → Bool) (run : State → State) (s : State) : State :=
  if !portOpen s then s
  else
    let s := dropHeld (passLull s)
    if !blockOpen s 0x200 ∨ s.cmd.status = .busy ∨ !commandLegal s op then rejectCommand op .errState s
    else if !args s then rejectCommand op .errAddr s
    else if absent s then rejectCommand op .errAbsent s
    else if !object s then rejectCommand op .errState s
    else run (acceptCommand op s)

/-- A command without arguments, engine or object. -/
def postPlain (op : Nat) (run : State → State) (s : State) : State :=
  postCommand op (fun _ => true) (fun _ => false) (fun _ => true) run s

/-- A command that takes a handle in CMD_ARG0 (R303). -/
def postHandle (op : Nat) (want : HState) (run : BitVec 8 → State → State) (s : State) : State :=
  postCommand op (fun s => decide (s.cmd.arg0.toNat < 256)) (fun _ => false)
    (fun s => (getHandle s (s.cmd.arg0.setWidth 8)).state == want)
    (fun s => run (s.cmd.arg0.setWidth 8) (readCfg (s.cmd.arg0.toNat % 256) s)) s

/-- The running command is this one. -/
def busyWith (s : State) (op : BitVec 8) : Bool := s.cmd.status == .busy && s.cmd.op == op

/-! START, PAUSE, RESUME, SAFE (R56, R86, R330, R335). -/

/-- START: both threads issue from their entry addresses (R56). -/
def runStart (s : State) : State :=
  let go (a : BitVec 48) (th : ThreadState) : ThreadState :=
    { th with pc := alignPc a, paused := false, wait := .none }
  let s := { s with ta := go s.run.entryTa s.ta, tx := go s.run.entryTx s.tx }
  setRun .run (cmdOk { s with run := { s.run with started := true } })

/-- A thread is at an instruction boundary at which PAUSE can stop it: not in a fault, and its handler is
not active (R86). -/
def mayPause (th : ThreadState) : Bool := th.stopped || th.halted || (th.phase == .normal && !th.hact)

/-- Stop a thread that can be stopped. -/
def pauseIfReady (t : Thread) (s : State) : State :=
  let th := getThread t s
  if !th.paused && mayPause th then pauseThread t s else s

/-- Stop both threads as far as they can be stopped. -/
def pauseBoth (s : State) : State := pauseIfReady .tx (pauseIfReady .ta s)

/-- Both threads have stopped. -/
def bothPaused (s : State) : Bool := s.ta.paused && s.tx.paused

/-- The threads may issue again. -/
def unpause (s : State) : State :=
  { s with ta := { s.ta with paused := false }, tx := { s.tx with paused := false } }

/-- PAUSE completes once both threads have stopped (R86). -/
def pauseCompleteStep (s : State) : Option State :=
  if busyWith s 0x02 then
    let s := pauseBoth s
    if bothPaused s then some (setRun .pause (cmdOk s)) else none
  else none

/-- A difference met before the cluster has left SAFE restarts the procedure of R334: RESUME ends FAIL with the code
of the event, and the cluster stays in SAFE (R335). DEDUCED, log entry 65. -/
def stayInSafe (s : State) : State := cmdFail 0x004 s

/-- RESUME in SAFE re-enters the state held before (R335). -/
def leaveSafe (s : State) : State :=
  if s.run.west ≠ s.run.east then stayInSafe (splitAuthority s)
  else
    let st := s.run.held
    let s := if st = .run then unpause s else s
    setRun st (cmdOk { s with run := { s.run with safeCause := .none, safeDue := false } })

/-- RESUME; in SAFE it waits for a Bridle that restarts (R358). `split` says that the copies differed when it was
accepted. -/
def runResume (split : Bool) (s : State) : State :=
  if s.run.state = .safe then
    if split then stayInSafe s else if s.brg.restarting then s else leaveSafe s
  else setRun .run (cmdOk (unpause s))

/-- The CSR write of RESUME. -/
def postResume (s : State) : State := postPlain 0x03 (runResume (s.run.west != s.run.east)) s

/-- SAFE is entered at the next instruction boundary (R22, R314, R335). -/
def safeEntryStep (s : State) : Option State :=
  if s.run.safeDue && canEnterSafe s.run.state then
    let t := if s.run.state = .run then pauseBoth s else s
    if s.run.state = .run ∧ !bothPaused t then none
    else some (setRun .safe { t with run := { t.run with safeDue := false, held := s.run.state } })
  else none

/-! REPLAY, SET_STEP, RETAIN, WAKE (R60, R317, R318, R327). -/

/-- REPLAY arms the staging bank (R60). -/
def runReplay (s : State) : State := cmdOk { s with stage := { s.stage with pending := true } }

/-- Lock the idle synthesiser to a step, or end at once where the step is in force (R317). -/
def lockStep (t : BitVec 4) (done : State → State) (s : State) : State :=
  if t = s.clk.step then done s else { s with clk := { s.clk with target := some t } }

/-- The cluster is in retention (R327). -/
def enterRetention (s : State) : State := handshake (cmdOk { s with run := { s.run with retained := true } })

/-- The cluster has left retention. -/
def leaveRetention (s : State) : State := handshake (cmdOk { s with run := { s.run with retained := false } })

/-- RETAIN saves the step and goes to F0. -/
def runRetain (s : State) : State :=
  lockStep 0 enterRetention { s with clk := { s.clk with saved := s.clk.step } }

/-! Handles (R303 to R306). -/

/-- A translation is outstanding on a handle (chapter 14, after Table 14.1). -/
def translationOut (s : State) (h : BitVec 8) : Bool :=
  s.flights.any (fun f => f.xl.any (fun x => x.h == h)) || s.ls.boundary.any (fun b => b.handle == h)

/-- A handle is read by nothing. -/
def handleIdle (s : State) (h : BitVec 8) : Bool :=
  let e := getHandle s h
  e.refcount == 0 && !e.prevValid && !translationOut s h

/-- The state of a handle changes. -/
def setHState (h : BitVec 8) (st : HState) (s : State) : State := setHandle h { getHandle s h with state := st } s

/-- HFREE (Table 14.1). -/
def runHfree (h : BitVec 8) (s : State) : State :=
  cmdOk (setHState h (if handleIdle s h then .free else .draining) s)

/-- A DRAINING handle that nothing reads any more (R303). -/
def drainStep (h : BitVec 8) (s : State) : Option State :=
  if (getHandle s h).state = .draining ∧ handleIdle s h then some (setHState h .free s) else none

/-- A handle that HEVICT may take (R306). -/
def evictable (s : State) (h : BitVec 8) : Bool :=
  (getHandle s h).state == .bound && handleIdle s h &&
    !(s.fab.windows.any (fun p => p.2.valid && p.2.handle == h)) && h != s.sess.handle && h != s.glz.curve

/-- Age of a handle (R306). -/
def handleAge (s : State) (h : BitVec 8) : Nat := (cycleStamp s - (getHandle s h).lastuse).toNat

/-- Every entry of the handle table is read (R347). -/
def readHandles (s : State) : State := (List.range 256).foldl (fun s h => readCfg h s) s

/-- The oldest candidate, the lowest number among equals. -/
def evictChoice (s : State) : Option (BitVec 8) :=
  (s.handles.map (fun p => BitVec.ofNat 8 p.1)).foldl (fun (best : Option (BitVec 8)) h =>
    if evictable s h then
      match best with
      | none => some h
      | some b => if handleAge s b < handleAge s h then some h else best
    else best) none

/-- HEVICT (R306). -/
def runHevict (s : State) : State :=
  let s := readHandles s
  match evictChoice s with
  | none => cmdFail 0 { s with cmd := { s.cmd with arg0 := 0xFFFF } }
  | some h =>
    let d := mapDescriptor (getHandle s h).cur
    cmdOk (setHState h .free
      { s with cmd := { s.cmd with
          arg0 := h.setWidth 32, arg1 := d.setWidth 32, arg2 := (d >>> 32).setWidth 32 } })

/-! LINK_RETRAIN (R289, R382). -/

/-- LINK_RETRAIN resets the link of an enabled port; of a disabled port it fails. -/
def runRetrain (s : State) : State :=
  let p := s.cmd.arg0.setWidth 2
  if portEnabled s p then clearLink p true s else cmdFail 0 s

/-- The LINK_RETRAIN of a port ends. -/
def endRetrain (p : BitVec 2) (done : State → State) (s : State) : State :=
  if busyWith s 0x28 && s.cmd.arg0.setWidth 2 == p then done s else s

/-- The partner acknowledges (R382): 288 credits go back, and the port sends again. -/
def retrainAckStep (p : BitVec 2) (s : State) : Option State :=
  if (getPort s p).retrain then
    some (endRetrain p cmdOk (pump p (freeFlits p 288 (modPort p (fun q => { q with retrain := false }) s))))
  else none

/-- No acknowledge within 10 µs: the port is DOWN (R382). -/
def retrainTimeoutStep (p : BitVec 2) (s : State) : Option State :=
  if (getPort s p).retrain then
    some (endRetrain p (cmdFail 0x301) (goDown p (modPort p (fun q => { q with retrain := false }) s)))
  else none

/-- MAINT_ENTER. -/
def runMaintEnter (s : State) : State := setRun .maint (cmdOk s)

/-- MAINT_EXIT. -/
def runMaintExit (s : State) : State := setRun .ready (cmdOk s)

/-- SET_STEP. -/
def runSetStep (s : State) : State := lockStep (s.cmd.arg0.setWidth 4) cmdOk s

/-- WAKE. -/
def runWake (s : State) : State := lockStep s.clk.saved leaveRetention s

/-- HPIN. -/
def runHpin (h : BitVec 8) (s : State) : State := cmdOk (setHState h .pinned s)

/-- HUNPIN. -/
def runHunpin (h : BitVec 8) (s : State) : State := cmdOk (setHState h .bound s)

/-- SET_STEP's argument. -/
def stepArgOk (s : State) : Bool := decide (s.cmd.arg0.toNat < 16)

/-- LINK_RETRAIN's argument. -/
def portArgOk (s : State) : Bool := decide (s.cmd.arg0.toNat < 4)

/-- The session index of CMD_ARG0 names an entry in use (R274). -/
def sessArgOk (s : State) : Bool := decide (s.cmd.arg0.toNat < s.sess.used.toNat)

/-- The session sequencer is removed (R3). -/
def sequencerAbsent (s : State) : Bool := !s.mould.cfg.engines.getLsbD 4

/-- The CMD_OP write reaches the check on the session entry it names. -/
def sessReached (op : Nat) (s : State) : Bool :=
  portOpen s && blockOpen s 0x200 && s.cmd.status != .busy && commandLegal s op && sessArgOk s && !sequencerAbsent s

/-- A command on a session entry (R277); an uncorrectable word of the entry is met when it is read (R272). -/
def postSession (op : Nat) (ok : State → Nat → Bool) (run : Nat → State → State) (s : State) : State :=
  postCommand op sessArgOk sequencerAbsent (fun s => ok s s.cmd.arg0.toNat) (fun s => run s.cmd.arg0.toNat s)
    (if sessReached op s then sessTouch s.cmd.arg0.toNat s else s)

/-! The meanings. -/

/-- START (R56, R330). -/
def execStart (s : State) : Out := .next (postPlain 0x01 runStart s)

/-- PAUSE (R86). -/
def execPause (s : State) : Out := .next (postPlain 0x02 pauseBoth s)

/-- PAUSE_COMPLETE (R86). -/
def execPauseComplete (s : State) : Out := .next ((pauseCompleteStep (passLull s)).getD s)

/-- RESUME (R86, R335). -/
def execResume (s : State) : Out := .next (postResume s)

/-- MAINT_ENTER (R330). -/
def execMaintEnter (s : State) : Out := .next (postPlain 0x05 runMaintEnter s)

/-- MAINT_EXIT (R332). -/
def execMaintExit (s : State) : Out :=
  .next (postCommand 0x06 (fun _ => true) (fun _ => false) (fun s => !s.mould.pendingFlag)
    runMaintExit s)

/-- REPLAY (R60). -/
def execReplay (s : State) : Out :=
  .next (postCommand 0x10 (fun _ => true) (fun _ => false) (fun s => !s.stage.pending) runReplay s)

/-- SET_STEP (R317). -/
def execSetStep (s : State) : Out :=
  .next (postCommand 0x11 stepArgOk (fun _ => false) (fun _ => true) runSetStep s)

/-- RETAIN (R327). -/
def execRetain (s : State) : Out := .next (postPlain 0x12 runRetain s)

/-- WAKE (R327). -/
def execWake (s : State) : Out := .next (postPlain 0x13 runWake s)

/-- SESS_RESUME (R277). -/
def execSessResume (s : State) : Out := .next (postSession 0x18 resumeOk startResume s)

/-- SESS_PARK (R277). -/
def execSessPark (s : State) : Out := .next (postSession 0x19 parkOk startPark s)

/-- HPIN (R303). -/
def execHpin (s : State) : Out := .next (postHandle 0x20 .bound runHpin s)

/-- HUNPIN (R303). -/
def execHunpin (s : State) : Out := .next (postHandle 0x21 .pinned runHunpin s)

/-- HFREE (R303). -/
def execHfree (s : State) : Out := .next (postHandle 0x22 .bound runHfree s)

/-- HEVICT (R306). -/
def execHevict (s : State) : Out := .next (postPlain 0x23 runHevict s)

/-- LINK_RETRAIN (R289, R382). -/
def execLinkRetrain (s : State) : Out :=
  .next (postCommand 0x28 portArgOk (fun _ => false) (fun _ => true) runRetrain s)

/-- RETRAIN_ACK (R382). -/
def execRetrainAck (port : BitVec 2) (s : State) : Out :=
  .next ((retrainAckStep port (passLull s)).getD s)

/-- RETRAIN_TIMEOUT (R382). -/
def execRetrainTimeout (port : BitVec 2) (s : State) : Out :=
  .next ((retrainTimeoutStep port (passLull s)).getD s)

/-- HANDLE_DRAIN_COMPLETE (R303). -/
def execHandleDrainComplete (h : BitVec 8) (s : State) : Out :=
  .next ((drainStep h (passLull s)).getD s)

/-- SAFE_ENTRY (R22, R314, R335). -/
def execSafeEntry (s : State) : Out := .next ((safeEntryStep (passLull s)).getD s)

end Sys2Proof.Machine
end

