-- ==== Sys2Proof/Machine/Ballast.lean ====
section
/-! DEFINITION. The Ballast governor: power windows, the energy account, the thermal model and the outputs
(R278 to R282, R355, R386, R405). -/

namespace Sys2Proof.Machine

/-! FP32 arithmetic under RNE (R279, R280). -/

/-- A sum. -/
def f32Add (a b : Word32) : Word32 := f32OfVal (rneS (addExact .rne (valOfF32 a) (valOfF32 b)))

/-- A difference. -/
def f32Sub (a b : Word32) : Word32 := f32OfVal (rneS (addExact .rne (valOfF32 a) (valOfF32 b).neg))

/-- A product. -/
def f32Mul (a b : Word32) : Word32 := f32OfVal (rneS (mulExact (valOfF32 a) (valOfF32 b)))

/-- A quotient. -/
def f32Div (a b : Word32) : Word32 := f32OfVal (rneS (divExact (valOfF32 a) (valOfF32 b)))

/-- The FP32 value of a quotient of an integer by a count. -/
def f32Ratio (n : Int) (d : Nat) : Word32 := f32OfVal (rneS (divExact (Val.ofInt n) (Val.ofInt d)))

/-- One FP32 value exceeds another. -/
def f32Gt (a b : Word32) : Bool := ltVal (valOfF32 b) (valOfF32 a)

/-- The integer nearest to a value, to even. -/
def nearestInt (v : Val) : Int := (roundInt 64 .rne v (tallyFrom 1)).1

/-- An FP32 temperature in units of 0.125 degrees, as a 16-bit field (R421). -/
def eighths (t : Word32) : Nat := ofSigned 16 (nearestInt (scalePow2 3 (valOfF32 t)))

/-! Diodes (R355). -/

/-- A reading lies within −40 °C to 150 °C. -/
def diodeGood (c : BitVec 16) : Bool := decide (-320 ≤ c.toInt) && decide (c.toInt ≤ 1200)

/-- T_M of four readings, in units of 0.125 degrees: the largest good one, or 150 °C. -/
def diodeMax (ds : List (BitVec 16)) : Int :=
  match (ds.filter diodeGood).map (fun c => c.toInt) with
  | [] => 1200
  | x :: xs => xs.foldl (fun m y => if m < y then y else m) x

/-- T_M as FP32. -/
def diodeTm (ds : List (BitVec 16)) : Word32 := f32Ratio (diodeMax ds) 8

/-! The energy account (R279, R405). -/

/-- The counters of R279. -/
def energyMark (s : State) : EnergyMark where
  mx := counter s cntMxValid
  mv := counter s cntMvPairs
  vx := counter s (cntVxBeats false) + counter s (cntVxBeats true)
  glz := counter s cntGlzUpdates
  ta := counter s cntTaRows
  boundary := s.ballast.boundaryRows
  fab := counter s cntFabOut + counter s cntFabIn

/-- One term of the sum: a weight times a counter's increase. -/
def energyTerm (w : Word32) (new old : Nat) : Word32 := f32Mul w (f32Ratio ((new - old : Nat) : Int) 1)

/-- The weighted sum of the window, unscaled, term by term from the left. -/
def energyDyn (p : BalParams) (a b : EnergyMark) : Word32 :=
  [energyTerm p.ewMv b.mv a.mv, energyTerm p.ewVx b.vx a.vx, energyTerm p.ewGlz b.glz a.glz,
    energyTerm p.ewRow (b.ta + b.boundary) (a.ta + a.boundary), energyTerm p.ewFab b.fab a.fab].foldl f32Add
    (energyTerm p.ewMx b.mx a.mx)

/-- E_used in nJ. -/
def energyUsed (p : BalParams) (scale dyn : Word32) : Word32 := f32Add p.ewStatic (f32Mul scale dyn)

/-- E_used in units of 2^-10 µJ. -/
def energyUnits (e : Word32) : Int := nearestInt (divExact (mulExact (valOfF32 e) (Val.ofInt 1024)) (Val.ofInt 1000))

/-- Clamp to a range; where the limits cross, the upper one holds. -/
def clampInt (lo hi x : Int) : Int :=
  let y := if x < lo then lo else x
  if hi < y then hi else y

/-- The account of a window is closed and the next opened with its credit; the second value is E_used in nJ. -/
def closeWindow (credit : BitVec 16) (s : State) : State × Word32 :=
  let b := s.ballast
  let now := energyMark s
  let dyn := energyDyn b.par b.mark now
  let used := energyUsed b.par b.ewScale dyn
  let bal := clampInt b.par.balMin.toInt b.par.balMax.toInt (b.balance.toInt + (b.credit.toNat : Int) - energyUnits used)
  ({ s with ballast := { b with
      balance := BitVec.ofInt 24 bal, credit := credit, strobe := none, mark := now, eDyn := f32Add b.eDyn dyn } }, used)

/-! The thermal model (R280, R281). -/

/-- The FP32 value nearest to 10 µs in seconds. -/
def windowDt : Word32 := 0x3727C5AC

/-- P in watts: E_used in nJ over 10 µs. -/
def windowPower (used : Word32) : Word32 := f32OfVal (rneS (divExact (valOfF32 used) (Val.ofInt 10000)))

/-- T_M is delivered: the first one sets both nodes, a later one corrects T_J. None is delivered while the Bridle
restarts (R358). -/
def deliverTm (s : State) : State :=
  let b := s.ballast
  if b.tmNew && !s.brg.restarting then
    let tm := diodeTm s.brg.diodes
    let b := { b with tM := tm, tmNew := false, tmSeen := true }
    let tj := f32Add b.tJ (f32Mul b.par.kObs (f32Sub tm b.tJ))
    { s with ballast := if s.ballast.tmSeen then { b with tJ := tj } else { b with tJ := tm, tP := tm } }
  else s

/-- One step of the model for a window that used `used` nJ. -/
def thermalStep (used : Word32) (s : State) : State :=
  let b := s.ballast
  let q := f32Div (f32Sub b.tJ b.tP) b.par.rthJ
  let out := f32Div (f32Sub b.tP b.par.tAmb) b.par.rthP
  { s with ballast := { b with
      tJ := f32Add b.tJ (f32Div (f32Mul (f32Sub (windowPower used) q) windowDt) b.par.cthJ)
      tP := f32Add b.tP (f32Div (f32Mul (f32Sub q out) windowDt) b.par.cthP) } }

/-- A threshold reached: T_J is at most a limit. -/
def coolerThan (b : Ballast) (limit : Word32) : Bool := leVal (valOfF32 b.tJ) (valOfF32 limit)

/-- Thermal class. -/
def thermalClass (b : Ballast) : BitVec 2 :=
  if coolerThan b b.par.tTh3 then 3
  else if coolerThan b b.par.tTh2 then 2
  else if coolerThan b b.par.tTh1 then 1
  else 0

/-- The thermal trip is set, holds or ends. -/
def tripStep (s : State) : State :=
  let b := s.ballast
  let hot := f32Gt b.tJ b.par.tTrip || f32Gt b.tM b.par.tTrip
  let cool := ltVal (valOfF32 b.tJ) (valOfF32 b.par.tTh1)
  let s := if hot && !b.trip then logEvent 0x507 (eighths b.tJ + 2 ^ 16 * eighths b.tM) s else s
  { s with ballast := { s.ballast with trip := hot || (b.trip && !cool) } }

/-! The outputs (R282). -/

/-- Threshold of an energy class. -/
def classLimit (p : BalParams) (c : Nat) : Int :=
  if c = 1 then p.eTh1.toInt else if c = 2 then p.eTh2.toInt else p.eTh3.toInt

/-- Energy class. -/
def energyClass (b : Ballast) : BitVec 2 :=
  if classLimit b.par 3 ≤ b.balance.toInt then 3
  else if classLimit b.par 2 ≤ b.balance.toInt then 2
  else if classLimit b.par 1 ≤ b.balance.toInt then 1
  else 0

/-- BUDGET in mode AUTO. -/
def nextBudget (b : Ballast) (c : BitVec 2) : BitVec 2 :=
  if c < b.budget then c
  else if b.budget < c ∧ classLimit b.par (b.budget.toNat + 1) + b.par.eHyst.toInt ≤ b.balance.toInt then b.budget + 1
  else b.budget

/-- DUTY of a class. -/
def dutyOf (p : BalParams) (c : BitVec 2) : BitVec 4 := (p.duty >>> (4 * c.toNat)).setWidth 4

/-- vid_req with a frequency-step table in force. -/
def vidCode (s : State) (budget : BitVec 2) : BitVec 8 :=
  match s.clk.fsteps[s.clk.step.toNat]? with
  | none => 0x40
  | some e =>
    let ofs : BitVec 8 := (s.ballast.par.vidOfs >>> (8 * budget.toNat)).setWidth 8
    BitVec.ofInt 8 (clampInt 0 255 ((stepVid e : Int) + ofs.toInt))

/-- BUDGET, D and vid_req are written together. -/
def writeOutputs (s : State) : State :=
  let b := s.ballast
  let tc := thermalClass b
  let ec := energyClass b
  let c := if ec < tc then ec else tc
  let budget : BitVec 2 :=
    if b.trip || !b.tmSeen then 0 else if b.par.fixed then b.par.fixBudget else nextBudget b c
  let d : BitVec 4 := if b.trip then 1 else if b.par.fixed then b.par.fixD else dutyOf b.par budget
  { s with ballast := { b with budget := budget, d := d, tclass := tc, eclass := ec, vid := vidCode s budget } }

/-- An update boundary (R278, R282): parameters and EW_SCALE come into force, the account is closed, the model
steps, the outputs are written. EW_SCALE stays as it was while the Bridle restarts (R358). -/
def updateStep (credit : BitVec 16) (s : State) : State :=
  let scale := if s.brg.restarting then s.ballast.ewScale else s.ballast.scaleNext
  let s := { s with ballast := { s.ballast with par := s.ballast.written, ewScale := scale } }
  let (s, used) := closeWindow credit s
  writeOutputs (tripStep (thermalStep used (deliverTm s)))

/-- The governor runs: power is on and no reset is asserted. -/
def governorRuns (s : State) : Bool := portOpen s

/-- A strobe latches the credit of the next window. -/
def strobeStep (credit : BitVec 16) (s : State) : State :=
  if governorRuns s then { s with ballast := { s.ballast with strobe := some credit } } else s

/-- The update boundary that follows a strobe; it ends a run of misses. -/
def strobedBoundary (s : State) : Option State :=
  match s.ballast.strobe with
  | some c =>
    if governorRuns s then some (updateStep c { s with ballast := { s.ballast with missRun := 0 } }) else none
  | none => none

/-- A missed strobe: a boundary of the governor's own, with a window of zero credit after it. -/
def missedStep (s : State) : Option State :=
  if governorRuns s ∧ s.ballast.strobe.isNone then
    let n := s.ballast.missRun + 1
    let s := bump cntBallastMissed 1 { s with ballast := { s.ballast with missRun := n } }
    some (updateStep 0 (if n = 4 then logEvent 0x506 n s else s))
  else none

/-! The meanings. -/

/-- WINDOW_STROBE (R278, R386). -/
def execWindowStrobe (credit : BitVec 16) (s : State) : Out := .next (strobeStep credit s)

/-- UPDATE_BOUNDARY (R278 to R282). -/
def execUpdateBoundary (s : State) : Out := .next ((strobedBoundary (passLull s)).getD s)

/-- BALLAST_MISSED (R278). -/
def execBallastMissed (s : State) : Out := .next ((missedStep (passLull s)).getD s)

end Sys2Proof.Machine
end

