-- ==== Sys2Proof/Machine/Approx.lean ====
section
/-! DEFINITION. The approximating micro-operations of the VXE (R53, Table 02.5): the exact cases, and otherwise a
free FP32 value inside the stated bound around a reference of far more than FP32's precision. -/

namespace Sys2Proof.Machine

/-- Fraction bits of the reference values. -/
def refBits : Nat := 512

/-- One in the fixed-point form of the references. -/
def refOne : Nat := 2 ^ refBits

/-- Sum of the terms `y^i / i!` from term `i` on, the current term being `term`. -/
def expSeries : Nat → Nat → Nat → Nat → Nat
  | 0, _, _, _ => 0
  | fuel + 1, y, i, term => term + expSeries fuel y (i + 1) (term * y / refOne / (i + 1))

/-- `e^y` for a fixed-point `y` below 1. -/
def expRef (y : Nat) : Nat := expSeries 100 y 0 refOne

/-- Sum of the terms `z^(2i+1) / (2i+1)` from term `i` on; `p` is the current power. -/
def atanhSeries : Nat → Nat → Nat → Nat → Nat
  | 0, _, _, _ => 0
  | fuel + 1, z2, i, p => p / (2 * i + 1) + atanhSeries fuel z2 (i + 1) (p * z2 / refOne)

/-- `2 atanh z` for a fixed-point `z` of at most 1/3, which is `ln ((1 + z) / (1 - z))`. -/
def lnRef (z : Nat) : Nat := 2 * atanhSeries 170 (z * z / refOne) 0 z

/-- The natural logarithm of 2. -/
def ln2Ref : Nat := lnRef (refOne / 3)

/-- A finite value as a fixed-point integer. -/
def fixedOf (v : Val) : Int := alignTo (-(refBits : Int)) v

/-- Reference of exp2 at a finite value between -150 and 128. -/
def exp2Ref (x : Val) : Val :=
  let i := fixedOf x
  let n := i / (refOne : Int)
  let f := (i % (refOne : Int)).toNat
  .fin false (jam (expRef (f * ln2Ref / refOne)) true) (n - refBits - 1)

/-- Reference of log2 at a positive finite value that is no power of two. -/
def log2Ref (m : Nat) (e : Int) : Val :=
  let k := Nat.log2 m
  let mm := m * 2 ^ refBits / 2 ^ k
  let frac := lnRef ((mm - refOne) * refOne / (mm + refOne)) * refOne / ln2Ref
  let v : Int := ((k : Int) + e) * (refOne : Int) + frac
  .fin (decide (v < 0)) (jam v.natAbs true) (-(refBits : Int) - 1)

/-- Reference of the reciprocal of a non-zero finite value. -/
def rcpRef (s : Bool) (m : Nat) (e : Int) : Val :=
  .fin s (jam (2 ^ refBits / m) (decide (2 ^ refBits % m ≠ 0))) (-e - refBits - 1)

/-- Reference of the reciprocal square root of a positive finite value. -/
def rsqRef (m : Nat) (e : Int) : Val :=
  let odd := (e % 2).toNat
  let q := 2 ^ (2 * refBits) / (m * 2 ^ odd)
  let r := isqrtFrom (refBits + 1) q 0
  .fin false (jam r (decide (r * r * (m * 2 ^ odd) ≠ 2 ^ (2 * refBits)))) (-((e - odd) / 2) - refBits - 1)

/-- Square a fixed-point value `n` times. -/
def squares : Nat → Nat → Nat
  | 0, y => y
  | n + 1, y => squares n (y * y / refOne)

/-- Reference of tanh at a non-zero finite value below 9.1 in magnitude: `(e^2x - 1) / (e^2x + 1)`. -/
def tanhRef (x : Val) : Val :=
  let y := (fixedOf x).natAbs * 2
  let ex := squares 5 (expRef (y / 32))
  .fin x.sign (jam ((ex - refOne) * refOne / (ex + refOne)) true) (-(refBits : Int) - 1)

/-- FP32 values in order, as integers: the magnitude's encoding with the value's sign. -/
def ordOfVal (v : Val) : Int :=
  let m : Int := (encodeFloat fpS v.abs : Nat)
  if v.sign then -m else m

/-- The FP32 value of an order number; zero takes the sign `s`. -/
def valOfOrd (s : Bool) (i : Int) : Val :=
  let v := decodeFloat fpS i.natAbs
  if i = 0 then Val.zero s else if i < 0 then v.neg else v

/-- Exponent of the last place of an FP32 value. -/
def ulpExp (v : Val) : Int :=
  match v with
  | .fin _ m e => if m = 0 then -149 else max (leadExp m e) (-126) - 23
  | _ => 0

/-- Is a finite FP32 value within `b` units of its last place of the reference, or within `2^g`. -/
def withinBound (b : Nat) (g : Option Int) (r v : Val) : Bool :=
  match v, addExact .rne v r.neg with
  | .fin _ _ _, .fin _ m e =>
    !magGt m e b (ulpExp v) ||
      (match g with
       | some g => !magGt m e 1 g
       | none => false)
  | _, _ => false

/-- The approximation: a value near the reference chosen by the free value of Config, if it meets the bound;
otherwise the value nearest to the reference. -/
def approxNear (op : Nat) (x : Val) (b : Nat) (g : Option Int) (r : Val) : Val :=
  let near := rneS r
  let i := ordOfVal near + Config.approxNudge op (f32OfVal x)
  if decide (i.natAbs < 0x7F800000) && withinBound b g r (valOfOrd r.sign i) then valOfOrd r.sign i else near

/-- A power of two, as its exponent. -/
def powerOfTwo (m : Nat) (e : Int) : Option Int := if m = 2 ^ Nat.log2 m then some ((Nat.log2 m : Int) + e) else none

/-- Is a value at least another. -/
def geVal (a b : Val) : Bool := leVal b a

/-- exp2 (Table 02.5). -/
def approxExp2 (x : Val) : Val :=
  match x with
  | .nan _ _ => x.quiet
  | .inf s => if s then Val.zero false else .inf false
  | .fin _ _ _ =>
    if geVal x (Val.ofInt 128) then .inf false
    else if ltVal x (Val.ofInt (-150)) then Val.zero false
    else
      let i := fixedOf x
      if decide (i % (refOne : Int) = 0) && geVal x (Val.ofInt (-149)) then .fin false 1 (i / (refOne : Int))
      else approxNear 0x10 x 2 none (exp2Ref x)

/-- log2 (Table 02.5). -/
def approxLog2 (x : Val) : Val :=
  match x with
  | .nan _ _ => x.quiet
  | .inf s => if s then Val.canonNan else .inf false
  | .fin s m e =>
    if m = 0 then .inf true
    else if s then Val.canonNan
    else
      match powerOfTwo m e with
      | some k => Val.ofInt k
      | none =>
        let near1 := geVal x (.fin false 1 (-1)) && leVal x (Val.ofInt 2)
        approxNear 0x11 x 2 (if near1 then some (-22) else none) (log2Ref m e)

/-- Reciprocal (Table 02.5). -/
def approxRcp (x : Val) : Val :=
  match x with
  | .nan _ _ => x.quiet
  | .inf s => Val.zero s
  | .fin s m e =>
    if m = 0 then .inf s
    else
      match powerOfTwo m e with
      | some k => rneS (.fin s 1 (-k))
      | none => approxNear 0x12 x 1 none (rcpRef s m e)

/-- Reciprocal square root (Table 02.5). -/
def approxRsq (x : Val) : Val :=
  match x with
  | .nan _ _ => x.quiet
  | .inf s => if s then Val.canonNan else Val.zero false
  | .fin s m e =>
    if m = 0 then .inf s
    else if s then Val.canonNan
    else approxNear 0x13 x 2 none (rsqRef m e)

/-- tanh (Table 02.5). -/
def approxTanh (x : Val) : Val :=
  match x with
  | .nan _ _ => x.quiet
  | .inf s => .fin s 1 0
  | .fin s m e =>
    if m = 0 then Val.zero s
    else if geVal (.fin false (10 * m) e) (Val.ofInt 91) then .fin s 1 0
    else approxNear 0x14 x 4 (if ltVal x.abs (.fin false 1 (-12)) then some (-24) else none) (tanhRef x)

/-- An approximating micro-operation by its code (Table 21.8). The input is taken in FP32. -/
def approx (code : Nat) (x : Val) : Val :=
  match code with
  | 0x10 => approxExp2 x
  | 0x11 => approxLog2 x
  | 0x12 => approxRcp x
  | 0x13 => approxRsq x
  | _ => approxTanh x

end Sys2Proof.Machine
end

