-- ==== Sys2Proof/Machine/Operands.lean ====
section
/-! DEFINITION. The operands of the execute stream: slots, tile-group and queue sources and destinations,
narrow-integer expansion, the conversion block with its running maximum (R24 to R34, R38 to R48, R134, R135,
R145, R228 to R238, R415). -/

namespace Sys2Proof.Machine

/-- What an operand slot names (Table 21.4); `past` is a tile group that runs past T15. -/
inductive SlotVal
  | tiles (ts : List Nat)
  | past
  | queue (q : Nat)
  | stat
  | absent
  | reserved
  deriving DecidableEq, Repr

/-- Read an operand slot (R415). -/
def slotVal (v : Slot) : SlotVal :=
  if v.getLsbD 6 then
    if v.toNat / 8 % 8 = 0 then .queue (v.toNat % 8)
    else if v.toNat % 64 = 8 then .stat
    else if v.toNat % 64 = 56 then .absent
    else .reserved
  else
    match tileGroup (v.setWidth 6) with
    | some ts => .tiles ts
    | none => .past

/-- No slot holds a reserved code (R411). -/
def slotsLegal (vs : List Slot) : Chk Unit := need (vs.all (fun v => slotVal v != .reserved)) illegal

/-- No format field holds a reserved code (R23, R229). -/
def codesLegal (cs : List (BitVec 4)) : Chk Unit := need (cs.all (fun c => (fmtOfCode c).isSome)) illegal

/-- The fields of a conversion block hold no reserved code (Table 10.1). -/
def convLegal (c : ConvBlk) : Chk Unit :=
  need ((fmtOfCode c.dfmt).isSome && (rndOfCode c.rnd).isSome && decide (c.amx.toNat ≤ 8)) illegal

/-- An engine is present: enabled by the Mould stream and the grade, and the MXE not disabled by failed
cube-columns (R2, R165, R337). Engines are numbered as in Table 03.6. -/
def enginePresent (n : Nat) (s : State) : Chk Unit :=
  need (s.mould.cfg.engines.getLsbD n && (n != 0 || s.mx.full != 0)) (.fault fcAbsent (BitVec.ofNat 64 n))

/-- A tile operand or a queue operand. The tiles carry the shape under which the instruction sees them: the
configured one, or that of a TDC-3 shape record (R129). -/
structure Opd where
  cfgs : List (Nat × TileCfg)
  queue : Option Nat
  fmt : Fmt
  deriving DecidableEq, Repr

/-- The tiles of an operand. -/
def opdTiles (o : Opd) : List Nat := o.cfgs.map (fun p => p.1)

/-- The tiles of an operand as a mask. -/
def opdMask (o : Opd) : BitVec 16 := tileMask (opdTiles o)

/-- The shape that a TDC-3 record carries (R418). -/
structure Carried where
  rows : Nat
  cols : Nat
  fmt : Fmt
  deriving DecidableEq, Repr

/-- A tile's configuration as the instruction sees it. -/
def seenCfg (s : State) (rec? : Option Carried) (n : Nat) : TileCfg :=
  match rec? with
  | none => tileCfg s n
  | some c =>
    { tileCfg s n with
      rows1 := BitVec.ofNat 5 (c.rows - 1), bytes1 := BitVec.ofNat 6 (c.cols * fmtUnit c.fmt - 1),
      fmt := fmtCode c.fmt }

/-- An operand of some tiles. The format is that of the first tile. -/
def tileOpd (s : State) (rec? : Option Carried) (ts : List Nat) : Opd :=
  let cs := ts.map (fun n => (n, seenCfg s rec? n))
  { cfgs := cs, queue := none,
    fmt := match cs with
      | [] => .e4m3
      | p :: _ => (fmtOfCode p.2.fmt).getD .e4m3 }

/-- An operand that is a queue, with its format. -/
def queueOpd (q : Nat) (f : Fmt) : Opd := { cfgs := [], queue := some q, fmt := f }

/-- The format of a code; E4M3 for a reserved one, which no instruction reaches. -/
def codeFmt (c : BitVec 4) : Fmt := (fmtOfCode c).getD .e4m3

/-- The operand of a slot that is a tile group or a queue; none for another. -/
def slotOpd (s : State) (rec? : Option Carried) (v : Slot) (code : BitVec 4) : Option Opd :=
  match slotVal v with
  | .tiles ts => some (tileOpd s rec? ts)
  | .queue q => some (queueOpd q ((rec?.map (fun c => c.fmt)).getD (codeFmt code)))
  | _ => none

/-- A slot is a tile group or a queue (R415). -/
def slotIsOpd (v : Slot) : Bool :=
  match slotVal v with
  | .tiles _ => true
  | .queue _ => true
  | _ => false

/-- A slot is a tile group. -/
def slotIsTiles (v : Slot) : Bool :=
  match slotVal v with
  | .tiles _ => true
  | _ => false

/-- A slot is a tile group or absent. -/
def slotIsOptTiles (v : Slot) : Bool := slotIsTiles v || slotVal v == .absent

/-- No operand. -/
def Opd.none : Opd := { cfgs := [], queue := Option.none, fmt := .e4m3 }

/-- The operand of a slot; none for a slot that is neither a tile group nor a queue. -/
def opdOf (s : State) (rec? : Option Carried) (v : Slot) (code : BitVec 4) : Opd :=
  (slotOpd s rec? v code).getD Opd.none

/-- The tile operand of a slot, if it is one. -/
def tilesOpd (s : State) (rec? : Option Carried) (v : Slot) : Option Opd :=
  match slotVal v with
  | .tiles ts => some (tileOpd s rec? ts)
  | _ => none

/-- Every tile of the operands is full; the lowest-numbered empty one is reported (R120, R127). -/
def sourcesFull (os : List Opd) (s : State) : Chk Unit :=
  tilesFull (tilesOf (os.foldl (fun m o => m ||| opdMask o) 0)) s

/-- FORMAT_ENGINE at an operand position with a format code (R420). -/
def formatFault (pos code : Nat) : Verdict := .fault fcFormat (BitVec.ofNat 64 (pos + 256 * code))

/-- The first format of an operand that its engine does not accept: a tile's, or the queue's (R31, R229). -/
def badFormat (ok : Fmt → Bool) (o : Opd) : Option Fmt :=
  if o.queue.isSome then (if ok o.fmt then none else some o.fmt)
  else ((o.cfgs.map (fun p => codeFmt p.2.fmt)).find? (fun f => !ok f))

/-- A format that is a field of the instruction. -/
def badCode (ok : Fmt → Bool) (f : Fmt) : Option Fmt := if ok f then none else some f

/-- The FORMAT_ENGINE checks of an instruction, by operand position; the first position is reported (R127). -/
def formatsOk (l : List (Nat × Option Fmt)) : Chk Unit :=
  match l.find? (fun p => p.2.isSome && some p.1 == least ((l.filter (fun q => q.2.isSome)).map (fun q => q.1))) with
  | some (pos, some f) => .error (formatFault pos (fmtCode f).toNat)
  | _ => .ok ()

/-- Elements that a tile holds under its configuration. -/
def cfgElems (c : TileCfg) : Nat := fmtElemsIn (codeFmt c.fmt) (tileRows c * tileBytes c)

/-- Elements that the tiles of an operand hold. -/
def opdElems (o : Opd) : Nat := (o.cfgs.map (fun p => cfgElems p.2)).sum

/-- The tiles for which a tile group fails a format, or its first tile if it holds too few elements. -/
def shapeBad (o : Opd) (f : Fmt) (n : Nat) : List Nat :=
  if o.queue.isSome then []
  else
    match (o.cfgs.filter (fun p => codeFmt p.2.fmt != f)).map (fun p => p.1) with
    | [] => if n ≤ opdElems o then [] else (opdTiles o).take 1
    | bad => bad

/-- The tiles of a source that fail R145: a group shares one format and holds enough elements. -/
def sourceBad (o : Opd) (n : Nat) : List Nat := shapeBad o o.fmt n

/-! Streams. -/

/-- Element rows and scale rows of a queue stream of `n` elements (R27). -/
def queueRows (f : Fmt) (n : Nat) : Nat :=
  if fmtIsMx f then
    let e := ((n + 31) / 32 + rowBlocks f - 1) / rowBlocks f
    e + (e + 15) / 16
  else (n * fmtBits f + 4095) / 4096

/-- The tile rows of an operand in stream order (R130). -/
def opdSegsFrom : List (Nat × TileCfg) → Nat → List Seg
  | [], _ => []
  | (n, c) :: cs, o =>
    let b := tileBytes c
    (List.range (tileRows c)).map (fun r => { tile := n, row := r, start := o + r * b, len := b }) ++
      opdSegsFrom cs (o + tileRows c * b)

/-- The tile rows of an operand in stream order. -/
def opdSegs (o : Opd) : List Seg := opdSegsFrom o.cfgs 0

/-- Bytes of `n` elements of a format, whole blocks for an MX format. -/
def elemBytes (f : Fmt) (n : Nat) : Nat :=
  if fmtIsMx f then (n + 31) / 32 * fmtUnit f else (n * fmtBits f + 7) / 8

/-- The tile rows that hold the first `n` elements. -/
def usedSegs (o : Opd) (n : Nat) : List Seg := (opdSegs o).filter (fun g => decide (g.start < elemBytes o.fmt n))

/-- Tile rows presented on an engine's input, in order (R139, R140). -/
def touchSegs (input : Nat) (gs : List Seg) (s : State) : State :=
  gs.foldl (fun s g => touchRow input g.tile g.row s) s

/-- Element rows and scales of a queue stream in the group layout of R27. -/
def splitGroups (f : Fmt) : List (List Bytes) → Bytes × Bytes
  | [] => ([], [])
  | g :: gs =>
    let rows := g.tail
    let data := (rows.map (fun r => r.take (rowData f))).flatten
    let scales := (g.headD []).take (rows.length * rowBlocks f)
    let (d, x) := splitGroups f gs
    (data ++ d, scales ++ x)

/-- The element bytes and block scales of rows in local-store layout (R27). -/
def rowsStream (f : Fmt) (rows : List Bytes) : Bytes × Bytes :=
  if fmtIsMx f then splitGroups f (chunks 17 rows.length rows) else (rows.flatten, [])

/-- Rows that an instruction in flight has reserved on a queue, in order (R68). -/
def reservedRows (s : State) (fid q : Nat) : List Bytes :=
  ((queueEntries s q).filter (fun e => e.cons == some fid)).map (fun e => e.data.getD zeroRow)

/-- The element bytes and block scales of a source; `rows` are the queue rows it takes. -/
def opdStream (s : State) (o : Opd) (rows : List Bytes) : Bytes × Bytes :=
  if o.queue.isSome then rowsStream o.fmt rows
  else (groupStream s (opdSegs o), groupScales s o.fmt (opdSegs o))

/-! Narrow-integer expansion (R32 to R34, R134). -/

/-- Key of a held expansion row of a tile. -/
def heldTile (t r : Nat) : Nat := 2 ^ 17 * t + r

/-- Key of a held expansion row of the instruction's own handle. -/
def heldHandle (r : Nat) : Nat := 2 ^ 21 + r

/-- Does a tile expand its integers. -/
def expands (c : TileCfg) : Bool :=
  (codeFmt c.fmt == .int8 || codeFmt c.fmt == .int4) && c.xtag.xfmt != .none

/-- The buffer element of element `i` of a tile (R134). -/
def bufferElem (c : TileCfg) (i : Nat) : Nat :=
  let e := if codeFmt c.fmt = .int4 then 1024 else 512
  let j := c.xtag.offset.toNat + i
  (((c.xtag.r0.toNat : Int) + (j / e : Nat) * c.xtag.stride.toInt).toNat) * e + j % e

/-- Record row, relative to the handle, of a buffer element (R33): 128 records a row, 32 elements each. -/
def recordRow (xrow elem : Nat) : Nat := xrow + elem / 4096

/-- A value of an expansion table (R32). -/
def tableValue (bf16 : Bool) (row : Bytes) (q : Nat) : Val :=
  decodeFloat (if bf16 then fpB else fpH) (leNat ((row.drop (2 * q)).take 2))

/-- A value under a scale record (R33): `(q - z) * s`. -/
def recordValue (row : Bytes) (elem : Nat) (q : Int) : Val :=
  let r := (row.drop (4 * (elem / 32 % 128))).take 4
  let s := decodeFloat fpH (leNat (r.take 2))
  mulExact (Val.ofInt (q - toSigned 8 (r.getD 2 0).toNat)) s

/-- Expand one element `w` of a tile, the element's index being `i`. -/
def expandElem (held : Sparse Bytes) (t : Nat) (c : TileCfg) (i w : Nat) : Val :=
  let q := toSigned (fmtBits (codeFmt c.fmt)) w
  match if expands c then c.xtag.xfmt else .none with
  | .none => Val.ofInt q
  | .tableFp16 => tableValue false (Sparse.get [] held (heldTile t c.xtag.xrow.toNat)) w
  | .tableBf16 => tableValue true (Sparse.get [] held (heldTile t c.xtag.xrow.toNat)) w
  | .records =>
    let e := bufferElem c i
    recordValue (Sparse.get [] held (heldTile t (recordRow c.xtag.xrow.toNat e))) e q

/-- An expansion row to read: the port of the read, the key under which it is held, its physical row, its relative
row. -/
structure ExpRow where
  port : BitVec 3
  key : Nat
  phys : Nat
  rel : Nat
  deriving DecidableEq, Repr

/-- The record rows of `n` elements of a tile from element `off` on. -/
def tileRecords (c : TileCfg) (off n : Nat) : List Nat :=
  ((List.range n).map (fun i => recordRow c.xtag.xrow.toNat (bufferElem c (off + i)))).eraseDups

/-- The use of its handle by the expansion of a tile: its records at their recorded epoch (R134). -/
def tileExpUses (c : TileCfg) (off n : Nat) : List HandleUse :=
  if expands c && n != 0 && c.xtag.xfmt == .records then
    [{ h := c.xtag.handle, epoch := some c.xtag.epoch, needs := [], rels := (tileRecords c off n).map Int.ofNat }]
  else []

/-- The expansion rows of `n` elements of a tile from element `off` on, once its handle has passed its checks. -/
def tileExpRows (s : State) (t : Nat) (c : TileCfg) (off n : Nat) : List ExpRow :=
  let x := c.xtag.xrow.toNat
  if !expands c || n == 0 then []
  else if c.xtag.xfmt == .records then
    match epochSlot c.xtag.handle c.xtag.epoch s with
    | .ok m => (tileRecords c off n).map (fun r =>
        { port := c.xtag.port, key := heldTile t r, phys := physRow m.map r, rel := r })
    | .error _ => []
  else [{ port := c.xtag.port, key := heldTile t x, phys := x, rel := 0 }]

/-- The tiles of a source with the part of its elements `off` to `off + n - 1` that each holds: first element and
count. -/
def tileSpans : List (Nat × TileCfg) → Nat → Nat → List (Nat × TileCfg × Nat × Nat)
  | [], _, _ => []
  | (t, c) :: cs, off, n =>
    let here := min n (cfgElems c - off)
    (t, c, off, here) :: tileSpans cs (off - cfgElems c) (n - here)

/-- The handle uses of the expansion of a source's elements. -/
def opdExpUses (o : Opd) (off n : Nat) : List HandleUse :=
  (tileSpans o.cfgs off n).flatMap (fun p => tileExpUses p.2.1 p.2.2.1 p.2.2.2)

/-- The expansion rows of a tile source's elements, in tile order (R135). -/
def opdExpRows (s : State) (o : Opd) (off n : Nat) : List ExpRow :=
  (tileSpans o.cfgs off n).flatMap (fun p => tileExpRows s p.1 p.2.1 p.2.2.1 p.2.2.2)

/-- The reads of expansion rows, each physical row once, in order (R34, R135). -/
def expansionReads (rows : List ExpRow) : List Access :=
  ((rows.map (fun r => r.phys)).eraseDups).filterMap (fun p =>
    let same := rows.filter (fun r => r.phys == p)
    same.head?.map (fun r =>
      { port := r.port, phys := p, rel := r.rel, op := .expand (same.map (fun x => x.key)) }))

/-- The reads of expansion rows, one in a cycle. -/
def expansionPlan (rows : List ExpRow) : List (List Access) := (expansionReads rows).map (fun a => [a])

/-! Element data of a source. -/

/-- A source's elements in stream order: encodings, block scales, and the values of integers. -/
structure SrcData where
  fmt : Fmt
  words : List Nat
  scales : Bytes
  ints : List Val
  deriving DecidableEq, Repr

/-- The integers of the tiles of a source as values, expanded. -/
def tileInts (s : State) (held : Sparse Bytes) : List (Nat × TileCfg) → List Val
  | [] => []
  | (t, c) :: cs =>
    let bs := groupStream s (opdSegsFrom [(t, c)] 0)
    ((unpack (fmtBits (codeFmt c.fmt)) bs).zipIdx).map (fun p => expandElem held t c p.2 p.1) ++
      tileInts s held cs

/-- The data of a source. -/
def srcData (s : State) (held : Sparse Bytes) (o : Opd) (rows : List Bytes) : SrcData :=
  let (bs, xs) := opdStream s o rows
  let ws := unpack (fmtBits o.fmt) bs
  let ints :=
    if fmtIsInt o.fmt then
      if o.queue.isSome then ws.map (fun w => Val.ofInt (toSigned (fmtBits o.fmt) w))
      else tileInts s held o.cfgs
    else []
  { fmt := o.fmt, words := ws, scales := xs, ints := ints }

/-- `n` elements from element `start` on, decoded; for an MX format within one block (R29, R41). -/
def elemsAt (d : SrcData) (ftz : Bool) (start n : Nat) (t : Tally) : List Val × Tally :=
  if fmtIsInt d.fmt then ((d.ints.drop start).take n, t)
  else
    let ws := (d.words.drop start).take n
    if fmtIsMx d.fmt then decodeBlock d.fmt ftz (d.scales.getD (start / 32) 0) ws t
    else decodeList d.fmt ftz ws t

/-- The integers of a source at their own value (R30). -/
def rawAt (d : SrcData) (start n : Nat) : List Int :=
  ((d.words.drop start).take n).map (fun w => toSigned (fmtBits d.fmt) w)

/-! Destinations. -/

/-- The tile writes of a destination: the bytes delivered, whole rows or part of one (R119, R130). -/
def destWrites (o : Opd) (bytes scales : Bytes) : List TileWrite :=
  (opdSegs o).filterMap (fun g =>
    let b := (bytes.drop g.start).take g.len
    if b.isEmpty then none
    else
      let u := fmtUnit o.fmt
      let side := if fmtIsMx o.fmt then
          (((scales.drop (g.start / u)).take (b.length / u)).zipIdx).map (fun p => (p.2, p.1))
        else []
      some { tile := g.tile, row := g.row, off := 0, bytes := b, side := side, xtag := XTag.none })

/-- Rows of one MX group: its scale row, then its element rows (R27). -/
def mxGroupRows (f : Fmt) (elems : List Bytes) (scales : Bytes) : List Bytes :=
  fitBytes 512 (scales.take (elems.length * rowBlocks f)) :: elems.map (fitBytes 512)

/-- The MX groups of a stream. -/
def mxStreamRows (f : Fmt) : List (List Bytes) → Bytes → List Bytes
  | [], _ => []
  | g :: gs, xs => mxGroupRows f g xs ++ mxStreamRows f gs (xs.drop (16 * rowBlocks f))

/-- A stream as queue rows, the last padded with zeros (R161, R27). -/
def destRows (f : Fmt) (bytes scales : Bytes) : List Bytes :=
  let rows := chunks (rowData f) bytes.length bytes
  if fmtIsMx f then mxStreamRows f (chunks 16 rows.length rows) scales else rows.map (fitBytes 512)

/-- Deliver a stream to its destination (R119, R68). -/
def deliver (o : Opd) (f : Fmt) (bytes scales : Bytes) (c : Commit) : Commit :=
  match o.queue with
  | some q => { c with push := c.push ++ [(q, destRows f bytes scales)] }
  | none => { c with tiles := c.tiles ++ destWrites o bytes scales }

/-- Room on the queue of a destination (R67, R68). -/
def destQueue (t : Thread) (o : Opd) (n : Nat) (s : State) : Chk Unit :=
  match o.queue with
  | some q => queueOk t q true n s
  | none => .ok ()

/-- A source queue's direction and depth (R67). -/
def sourceQueue (t : Thread) (o : Opd) (n : Nat) (s : State) : Chk Unit :=
  match o.queue with
  | some q => queueOk t q false n s
  | none => .ok ()

/-- Rows that sources pop, by queue, in operand order: sources of one queue add up. -/
def popTotals (srcs : List (Opd × Nat)) : List (Nat × Nat) :=
  (List.range 8).filterMap (fun q =>
    let n := ((srcs.filter (fun p => p.1.queue == some q)).map (fun p => p.2)).sum
    if n = 0 then none else some (q, n))

/-- The QUEUE_DIR checks of sources and destinations. -/
def queuesOk (t : Thread) (srcs dsts : List (Opd × Nat)) (s : State) : Chk Unit := do
  srcs.foldlM (fun _ p => sourceQueue t p.1 p.2 s) ()
  (popTotals srcs).foldlM (fun _ p => queueOk t p.1 false p.2 s) ()
  dsts.foldlM (fun _ p => destQueue t p.1 p.2 s) ()

/-- The rows to pop are visible and the entries to push are free (R68). -/
def queuesReady (srcs dsts : List (Opd × Nat)) (s : State) : Chk Unit := do
  (popTotals srcs).foldlM (fun _ p => popReady p.1 p.2 s) ()
  dsts.foldlM (fun _ p => match p.1.queue with
    | some q => pushReady q p.2 s
    | none => .ok ()) ()

/-- Reserve what an instruction pops and pushes (R68). -/
def reserveQueues (fid : Nat) (srcs dsts : List (Opd × Nat)) (s : State) : State :=
  let s := (popTotals srcs).foldl (fun s p => reservePop fid p.1 p.2 s) s
  dsts.foldl (fun s p => match p.1.queue with
    | some q => reservePush fid q p.2 s
    | none => s) s

/-- The queue rows that each source takes, in operand order (R68). -/
def takeRows (s : State) (fid : Nat) (srcs : List (Opd × Nat)) : Nat → List Bytes := fun i =>
  match srcs[i]? with
  | none => []
  | some (o, n) =>
    match o.queue with
    | none => []
    | some q =>
      let before := (((srcs.take i).filter (fun p => p.1.queue == some q)).map (fun p => p.2)).sum
      ((reservedRows s fid q).drop before).take n

/-! The conversion (R38, R41 to R43, R47, R161). -/

/-- Rounding context of a conversion block; `sat32` if SATMODE governs an FP32 destination (R42). -/
def convCtx (sat32 : Bool) (c : ConvBlk) : RCtx :=
  { rnd := (rndOfCode c.rnd).getD .rne, ftz := c.ftz, ieee := c.ieee, sat32 := sat32 }

/-- Convert values to the destination format after the exact scaling by 2^SCL. -/
def convertOut (sat32 : Bool) (c : ConvBlk) (f : Fmt) (vs : List Val) (t : Tally) : Bytes × Bytes × Tally :=
  encodeRow f (convCtx sat32 c) (vs.map (scalePow2 c.scl.toInt)) t

/-- The gather of a conversion over its source values (R47). -/
def convAmax (c : ConvBlk) (vs : List Val) : Option (BitVec 3 × Bool × Word32) :=
  if c.amx.getLsbD 3 then none
  else some (c.amx.setWidth 3, !c.gacc, f32OfVal (amaxGather c.naninc (Val.zero false) vs))

/-- Does a conversion block draw random bits. -/
def convSr (c : ConvBlk) : Bool := rndOfCode c.rnd == some .sr

/-- The commit of a conversion's tally: NSTAT, and the LFSR where random bits were drawn (R40, R44). -/
def tallyCommit (sr : Bool) (t : Tally) (c : Commit) : Commit :=
  { c with nstat := t.nstat, lfsr := if sr then some t.lfsr else none }

/-- Parity errors in what an instruction reads of its operands: given tile rows, and its queue entries (R348). -/
def readsOpds (s : State) (fid : Nat) (os : List (Opd × List Seg)) (l : ParityLoc) : Bool :=
  os.any (fun p => readsSegs p.1.fmt p.2 l) || readsQueue s fid l

/-- The tile rows that hold the first elements of operands. -/
def firstSegs (os : List (Opd × Nat)) : List (Opd × List Seg) := os.map (fun p => (p.1, usedSegs p.1 p.2))

end Sys2Proof.Machine
end

