-- ==== Sys2Proof/Machine/Mx.lean ====
section
/-! DEFINITION. The Matrix Engine: products onto the accumulators, stationary loads, convolution and drain
(chapter 6, R49, R50, R233 to R236). -/

namespace Sys2Proof.Machine

/-- Value of an operand register that an instruction in flight read at issue. -/
def opVal (f : Flight) (i : Nat) : Word64 := f.opv.getD i 0

/-- A bit field of a descriptor. -/
def field (v : Word64) (lo n : Nat) : Nat := v.toNat / 2 ^ lo % 2 ^ n

/-- Bits of a descriptor from `lo` up are zero (R230). -/
def zeroAbove (v : Word64) (lo : Nat) : Bool := decide (v.toNat < 2 ^ lo)

/-- Presented width of the array, or of a half (R165, R166). -/
def mxWidth (s : State) (half : Bool) : Nat :=
  if s.mould.cfg.half then (if half then s.mx.h1.toNat else s.mx.h0.toNat) else s.mx.full.toNat

/-- The engine of a half (R166). -/
def mxEngine (half : Bool) : Engine := .mxe half

/-- 4-bit and 16-bit operands (Table 06.1). -/
def isFour (f : Fmt) : Bool := f == .e2m1 || f == .int4

/-- 16-bit operands. -/
def isWide (f : Fmt) : Bool := f == .fp16 || f == .bf16

/-- Formats of the MXE's operands (Table 02.3). -/
def mxeFmt (f : Fmt) : Bool := f != .fp32 && f != .int32

/-- Formats of the RAW path (R30). -/
def rawFmt (f : Fmt) : Bool := f == .int8 || f == .int4

/-- A chunk of N (R146, R166): the accumulator set and first column it writes, the panel it reads and the
panel's first column, its first logical column. -/
structure Chunk where
  set : Nat
  col : Nat
  panel : Nat
  n0 : Nat
  deriving DecidableEq, Repr

/-- The chunks of an instruction. -/
def mxChunks (s : State) (half : Bool) (acc n : Nat) : List Chunk :=
  let w := mxWidth s half
  (List.range ((n + w - 1) / w)).map (fun j =>
    if s.mould.cfg.half then
      { set := 2 * (if half then 1 else 0) + j / 2, col := 16 * (j % 2), panel := j / 2, n0 := w * j }
    else { set := acc + j, col := 0, panel := j, n0 := w * j })

/-- Sets that chunks write, as a mask. -/
def chunkMask (cs : List Chunk) : BitVec 4 := cs.foldl (fun m c => m ||| (1 <<< c.set)) 0

/-- K blocks. -/
def kBlocks (k : Nat) : Nat := (k + 31) / 32

/-- Valid elements of K block `kb`. -/
def kValid (k kb : Nat) : Nat := min 32 (k - 32 * kb)

/-- Elements between panel blocks of a W source: MXFP6 rows of a queue hold 40 blocks a panel (R144). -/
def panelPitch (o : Opd) : Nat := if o.queue.isSome && rowData o.fmt == 480 && fmtIsMx o.fmt then 1280 else 1024

/-- Panels of the chunks. -/
def panelCount (cs : List Chunk) : Nat := (cs.map (fun c => c.panel + 1)).foldl max 0

/-- Decode segments given by first element and count. -/
def decodeSegs (d : SrcData) (ftz : Bool) : List (Nat × Nat) → Tally → List (List Val) × Tally
  | [], t => ([], t)
  | (a, n) :: xs, t =>
    let (v, t) := elemsAt d ftz a n t
    let (vs, t) := decodeSegs d ftz xs t
    (v :: vs, t)

/-- The A segments: K block outer, row inner (R143). -/
def aSegments (m k : Nat) : List (Nat × Nat) :=
  (List.range (kBlocks k)).flatMap (fun kb => (List.range m).map (fun i => (32 * (kb * m + i), kValid k kb)))

/-- The W columns of a chunk: K block outer, column inner (R144). -/
def wSegments (pitch k cols : Nat) (c : Chunk) : List (Nat × Nat) :=
  (List.range (kBlocks k)).flatMap (fun kb =>
    (List.range cols).map (fun n => (pitch * (c.panel * kBlocks k + kb) + 32 * (c.col + n), kValid k kb)))

/-- Accumulate block sums onto a value, or start with the first (R49, R50); FTZ flushes a block sum (R162). -/
def accumulate (ftz : Bool) : Option Val → List (List (Val × Val)) → Tally → Val × Tally
  | acc, [], t => (acc.getD (Val.zero false), t)
  | acc, b :: bs, t =>
    let (x, t') := roundVal fpS { rnd := .rne, ftz := ftz, ieee := true } (dotExact .rne b) t
    let t := { t with nflush := t'.nflush }
    accumulate ftz (some (match acc with
      | none => x
      | some a => rneS (addExact .rne a x))) bs t

/-- Accumulate integer block sums, saturating (R43). -/
def accumulateRaw : Option Int → List Int → Tally → Int × Tally
  | acc, [], t => (acc.getD 0, t)
  | acc, b :: bs, t =>
    let x := acc.getD 0 + b
    let hi : Int := 2 ^ 31 - 1
    let lo : Int := -(2 ^ 31)
    if x > hi then accumulateRaw (some hi) bs t.sat
    else if x < lo then accumulateRaw (some lo) bs t.sat
    else accumulateRaw (some x) bs t

/-- Index of an accumulator element. -/
def accIndex (set row col : Nat) : Nat := 8192 * set + 32 * row + col

/-- An accumulator element. -/
def accWord (s : State) (set row col : Nat) : Word32 := Sparse.get 0 s.mx.acc (accIndex set row col)

/-- The pairs of one output element, K block by K block. -/
def elementBlocks (m : Nat) (aSegs wSegs : List (List Val)) (cols kb row col : Nat) : List (List (Val × Val)) :=
  (List.range kb).map (fun b =>
    ((aSegs.getD (b * m + row) []).zip (wSegs.getD (b * cols + col) [])))

/-- The integer block sums of one output element. -/
def rawBlocks (m : Nat) (aSegs wSegs : List (List Int)) (cols kb row col : Nat) : List Int :=
  (List.range kb).map (fun b =>
    (((aSegs.getD (b * m + row) []).zip (wSegs.getD (b * cols + col) [])).map (fun p => p.1 * p.2)).sum)

/-- The floating-point elements of one chunk, row by row. -/
def chunkElems (s : State) (ftz start : Bool) (m kb cols : Nat) (aSegs wSegs : List (List Val)) (c : Chunk) :
    List (Nat × Nat) → Tally → List (Nat × Word32) × Tally
  | [], t => ([], t)
  | (r, n) :: xs, t =>
    let acc := if start then none else some (valOfF32 (accWord s c.set r (c.col + n)))
    let (v, t) := accumulate ftz acc (elementBlocks m aSegs wSegs cols kb r n) t
    let t := if v.isNan then t.nans 1 else t
    let (vs, t) := chunkElems s ftz start m kb cols aSegs wSegs c xs t
    ((accIndex c.set r (c.col + n), f32OfVal v) :: vs, t)

/-- The integer elements of one chunk. -/
def chunkRaw (s : State) (start : Bool) (m kb cols : Nat) (aSegs wSegs : List (List Int)) (c : Chunk) :
    List (Nat × Nat) → Tally → List (Nat × Word32) × Tally
  | [], t => ([], t)
  | (r, n) :: xs, t =>
    let acc := if start then none else some (accWord s c.set r (c.col + n)).toInt
    let (v, t) := accumulateRaw acc (rawBlocks m aSegs wSegs cols kb r n) t
    let (vs, t) := chunkRaw s start m kb cols aSegs wSegs c xs t
    ((accIndex c.set r (c.col + n), BitVec.ofInt 32 v) :: vs, t)

/-- Rows and columns of a block of output. -/
def grid (rows cols : Nat) : List (Nat × Nat) :=
  (List.range rows).flatMap (fun r => (List.range cols).map (fun n => (r, n)))

/-- Under START, columns of the last chunk at or beyond N are +0 (R147). -/
def zeroColumns (start : Bool) (m w cols : Nat) (c : Chunk) : List (Nat × Word32) :=
  if start then
    (List.range m).flatMap (fun r => (List.range (w - cols)).map (fun n => (accIndex c.set r (c.col + cols + n), 0)))
  else []

/-- W as an instruction takes it: a source's data with its pitch, or the stationary. -/
inductive WSource
  | data (d : SrcData) (pitch : Nat)
  | held (st : Stationary)
  deriving DecidableEq, Repr

/-- W columns of a chunk. -/
def wColumns (ftz : Bool) (w : WSource) (k cols : Nat) (c : Chunk) (t : Tally) : List (List Val) × Tally :=
  match w with
  | .data d pitch => decodeSegs d ftz (wSegments pitch k cols c) t
  | .held st =>
    ((List.range (kBlocks k)).flatMap (fun kb => (List.range cols).map (fun n =>
      (List.range (kValid k kb)).map (fun i => st.elems.getD (32 * (32 * kb + i) + n) (Val.zero false)))), t)

/-- W columns of a chunk as integers. -/
def wColumnsRaw (w : WSource) (k cols : Nat) (c : Chunk) : List (List Int) :=
  match w with
  | .data d pitch => (wSegments pitch k cols c).map (fun p => rawAt d p.1 p.2)
  | .held st =>
    (List.range (kBlocks k)).flatMap (fun kb => (List.range cols).map (fun n =>
      (List.range (kValid k kb)).map (fun i => st.raw.getD (32 * (32 * kb + i) + n) 0)))

/-- The accumulator elements that the chunks write, and the counts (R146, R147, R162). -/
def mxChunksOut (s : State) (ftz start : Bool) (m n k w : Nat) (aSegs : List (List Val)) (ws : WSource) :
    List Chunk → Tally → List (Nat × Word32) × Tally
  | [], t => ([], t)
  | c :: cs, t =>
    let cols := min w (n - c.n0)
    let (wSegs, t) := wColumns ftz ws k cols c t
    let (xs, t) := chunkElems s ftz start m (kBlocks k) cols aSegs wSegs c (grid m cols) t
    let (ys, t) := mxChunksOut s ftz start m n k w aSegs ws cs t
    (xs ++ zeroColumns start m w cols c ++ ys, t)

/-- The same on the integer path. -/
def mxChunksRaw (s : State) (start : Bool) (m n k w : Nat) (aSegs : List (List Int)) (ws : WSource) :
    List Chunk → Tally → List (Nat × Word32) × Tally
  | [], t => ([], t)
  | c :: cs, t =>
    let cols := min w (n - c.n0)
    let (xs, t) := chunkRaw s start m (kBlocks k) cols aSegs (wColumnsRaw ws k cols c) c (grid m cols) t
    let (ys, t) := mxChunksRaw s start m n k w aSegs ws cs t
    (xs ++ zeroColumns start m w cols c ++ ys, t)

/-- What a stationary holds instead of a source on the RAW path: the integers at their own value. -/
def rawVals (d : SrcData) (start n : Nat) : List Val := (rawAt d start n).map Val.ofInt

/-- The stationary after loading `n` panel blocks from block `b` on, from column `col` (R144, R151, R152). A RAW
product reads no expansion, so it leaves its integers at their own value: DEDUCED, log entry 59. -/
def loadStationary (d : SrcData) (ftz isRaw : Bool) (pitch b n col : Nat) : Stationary :=
  let at_ (i : Nat) : Nat := pitch * (b + i / 1024) + 32 * (col + i % 32) + i / 32 % 32
  let cols := (List.range (32 * n)).map (fun j =>
    let first := pitch * (b + j / 32) + 32 * (col + j % 32)
    if isRaw then rawVals d first 32 else (elemsAt d ftz first 32 (tallyFrom 1)).1)
  { blocks := n, fmt := fmtCode d.fmt
    elems := (List.range (1024 * n)).map (fun i =>
      (cols.getD (32 * (i / 1024) + i % 32) []).getD (i / 32 % 32) (Val.zero false))
    raw := if rawFmt d.fmt then
        (List.range (1024 * n)).map (fun i => toSigned (fmtBits d.fmt) (d.words.getD (at_ i) 0))
      else []
    isInt := rawFmt d.fmt, four := isFour d.fmt, wide := isWide d.fmt }

/-- The stationary of a half; FULL mode uses the first. -/
def getStationary (s : State) (half : Bool) : Stationary := if half then s.mx.stat1 else s.mx.stat0

/-- Replace a stationary; its parity errors go. -/
def setStationary (half : Bool) (st : Stationary) (s : State) : State :=
  let s := { s with upsets := { s.upsets with
    parity := s.upsets.parity.filter (fun l => l != ParityLoc.stationary (if half then 1 else 0)) } }
  if half then { s with mx := { s.mx with stat1 := st } } else { s with mx := { s.mx with stat0 := st } }

/-! The array's cycles (R150, R155 to R157). -/

/-- Cycles of a pass before its first beat: those of its load. -/
def mxLead (r : MxRun) : Nat := if r.loads then 8 else 0

/-- Cycles that a product takes on the array without bubbles of the duty cap. -/
def mxTotal (r : MxRun) : Nat := r.passes * (mxLead r + r.beats)

/-- Is cycle `i` of a product a broadcast. -/
def mxBroadcasts (r : MxRun) (i : Nat) : Bool := decide (mxLead r ≤ i % (mxLead r + r.beats))

/-- The window after a cycle with or without a broadcast (R157). -/
def mxShift (w : BitVec 7) (b : Bool) : BitVec 7 := (w <<< 1) ||| (if b then 1 else 0)

/-- The cap lets the array broadcast: it did in fewer than D of the last seven cycles (R157). D is 1 to 8. -/
def capAllows (d : BitVec 4) (w : BitVec 7) : Bool :=
  d == 0 || decide (((List.range 7).filter (fun i => w.getLsbD i)).length < d.toNat)

/-- A cycle of the array: the product goes on, or the cycle is a bubble of the cap. -/
def mxCycle (d : BitVec 4) (w : BitVec 7) (r : MxRun) : BitVec 7 × MxRun × Nat :=
  if mxTotal r ≤ r.done then (mxShift w false, r, 0)
  else if !mxBroadcasts r r.done then (mxShift w false, { r with done := r.done + 1 }, 0)
  else if capAllows d w then (mxShift w true, { r with done := r.done + 1 }, 0)
  else (mxShift w false, r, 1)

/-- The cycles that a product still needs under the cap: the window and the bubbles. -/
def mxRest (d : BitVec 4) : Nat → BitVec 7 → MxRun → Nat → BitVec 7 × Nat
  | 0, w, _, n => (w, n)
  | fuel + 1, w, r, n =>
    if mxTotal r ≤ r.done then (w, n)
    else
      let (w, r, k) := mxCycle d w r
      mxRest d fuel w r (n + k)

/-- The window of a half. -/
def mxWindow (s : State) (half : Bool) : BitVec 7 := if half then s.mx.win1 else s.mx.win0

/-- Replace the window of a half. -/
def setWindow (half : Bool) (w : BitVec 7) (s : State) : State :=
  if half then { s with mx := { s.mx with win1 := w } } else { s with mx := { s.mx with win0 := w } }

/-- A product that completes has had all its cycles; without a cap only the last seven matter to the window. -/
def finishArray (half : Bool) (f : Flight) (s : State) : State :=
  match f.mxRun with
  | none => s
  | some r =>
    let d := s.ballast.d
    let left := mxTotal r - r.done
    let r := if 8 ≤ d.toNat then { r with done := max r.done (mxTotal r - 7) } else r
    let (w, n) := mxRest d (8 * left) (mxWindow s half) r 0
    bump cntMxCap n (setWindow half w s)

/-- Counters of an MX product (R150, R159). -/
def mxCounters (f : Flight) : List (Nat × Nat) :=
  match f.mxRun with
  | none => []
  | some r => [(cntMxValid, r.passes * r.beats), (cntMxLoad, r.passes * mxLead r)]

/-- A stationary load alone. -/
def loadRun : MxRun := { passes := 1, beats := 0, loads := true, done := 0 }

/-- Blocks and format of the stationary of a half as the last MX instruction that was accepted leaves it (R151). -/
def stationaryAhead (s : State) (half : Bool) : Nat × BitVec 4 × Bool :=
  match ((liveFlights s).filterMap (fun f => if f.engine == .mxe half then f.stat else none)).getLast? with
  | some (n, f) => (n, f, false)
  | none => ((getStationary s half).blocks, (getStationary s half).fmt, (getStationary s half).elems.isEmpty)

/-- Passes per chunk and cycles per beat from the rate class (R142, R146). -/
def mxRate (four wide : Bool) (k : Nat) : Nat × Nat :=
  (if four then (k + 63) / 64 else (k + 31) / 32, if wide then 4 else 1)

/-- Parity of accumulator rows. -/
def readsAccs (m : BitVec 4) (r0 n : Nat) : ParityLoc → Bool
  | .acc st r => m.getLsbD st && decide (r0 ≤ r) && decide (r < r0 + n)
  | _ => false

/-- HALF must be 0 in FULL mode (R166). -/
def halfOk (s : State) (half : Bool) : Bool := s.mould.cfg.half || !half

/-- The first set is the half's own in HALF mode, and every chunk's set exists in FULL mode (R146, R166). -/
def setsOk (s : State) (half : Bool) (acc : BitVec 2) (cs : List Chunk) : Bool :=
  if s.mould.cfg.half then acc.toNat == 2 * (if half then 1 else 0) else cs.all (fun c => decide (c.set < 4))

/-- N is at most four chunks (R145, R166). -/
def nLimit (s : State) (half : Bool) (n : Nat) : Bool := decide (1 ≤ n) && decide (n ≤ 4 * mxWidth s half)

/-- The format code that an ACCUM instruction finds wrong in its sets (R160). -/
def badTypes (s : State) (accum raw : Bool) (m : BitVec 4) : Option Fmt :=
  let bad := if raw then m &&& ~~~s.mx.intTypes else m &&& s.mx.intTypes
  if !accum || bad == 0 then none else some (if raw then .fp32 else .int32)

/-! MX.MM. -/

/-- What an MX.MM works on: its operands, the stationary in place of W, its dimensions. -/
structure MmPlan where
  a : Opd
  w : Option Opd
  m : Nat
  n : Nat
  k : Nat
  chunks : List Chunk
  aRows : Nat
  wElems : Nat
  wRows : Nat
  deriving DecidableEq, Repr

/-- The plan of an MX.MM for its descriptor's value. -/
def mmPlan (s : State) (ra rw : Option Carried) (a : MxMmArgs) (d : Word64) : MmPlan :=
  let oa := (slotOpd s ra a.a a.fmta).getD Opd.none
  let ow := slotOpd s rw a.w a.fmtw
  let m := field d 0 9
  let n := field d 9 8
  let k := field d 17 14
  let cs := mxChunks s a.half a.acc.toNat n
  let we := (ow.map panelPitch).getD 1024 * (panelCount cs * kBlocks k)
  { a := oa, w := ow, m := m, n := n, k := k, chunks := cs,
    aRows := queueRows oa.fmt (32 * (kBlocks k * m)), wElems := we,
    wRows := match ow with
      | some o => queueRows o.fmt we
      | none => 0 }

/-- Sources of an MX.MM with the rows they pop. -/
def mmSources (p : MmPlan) : List (Opd × Nat) :=
  (p.a, p.aRows) :: (match p.w with
    | some o => [(o, p.wRows)]
    | none => [])

/-- Elements of A. -/
def mmAElems (p : MmPlan) : Nat := 32 * (kBlocks p.k * p.m)

/-- MX.MM begins: its tile rows are presented. -/
def startMm (p : MmPlan) (half accum : Bool) (f : Flight) (s : State) : State :=
  let parity (l : ParityLoc) : Bool :=
    readsOpds s f.id (firstSegs ((p.a, mmAElems p) :: (p.w.map (fun o => (o, p.wElems))).toList)) l ||
      (accum && readsAccs f.wrAcc 0 p.m l) || (p.w.isNone && l == .stationary (if half then 1 else 0))
  beginWith f parity (fun s =>
    let h := if half then 2 else 0
    let s := touchSegs h (usedSegs p.a (mmAElems p)) s
    match p.w with
    | some o => touchSegs (h + 1) (usedSegs o p.wElems) s
    | none => s) s

/-- Passes and beats of an MX.MM (R146, R155), `stat` being the format of the stationary it takes. -/
def mmRun (p : MmPlan) (stat : Fmt) : MxRun :=
  let fw := (p.w.map (fun o => o.fmt)).getD stat
  let (per, r) := mxRate (isFour p.a.fmt && isFour fw) (isWide p.a.fmt || isWide fw) p.k
  { passes := if p.w.isSome then per * p.chunks.length else 1, beats := (p.m + 3) / 4 * r, loads := p.w.isSome,
    done := 0 }

/-- Panel blocks that a product leaves in the stationary (R151): two in the double class where the last pass has
two. -/
def leftBlocks (double : Bool) (k : Nat) : Nat := if double && kBlocks k % 2 == 0 then 2 else 1

/-- MX.MM at issue; a TDC-3 form carries its shapes (R129, R252). -/
def issueMm (i : Instr) (ra rw : Option Carried) (t : Thread) (a : MxMmArgs) (s : State) : Verdict := verdict do
  onlyThread t .tx
  slotsLegal [a.a, a.w]
  codesLegal [a.fmta, a.fmtw]
  enginePresent 0 s
  let isStat := slotVal a.w == .stat
  let oa := opdOf s ra a.a a.fmta
  let ow := opdOf s rw a.w a.fmtw
  regsReady t [a.mxd] s
  let rd := opdMask oa ||| opdMask ow
  tilesReady rd 0 s
  let d := sreg t a.mxd s
  let p := mmPlan s ra rw a d
  paramsOk [(setsOk s a.half a.acc p.chunks, 0), (halfOk s a.half, 4),
    (zeroAbove d 31 && decide (1 ≤ p.m) && decide (p.m ≤ 256) && decide (1 ≤ p.k) && decide (p.k ≤ 8192) &&
      nLimit s a.half p.n, 7),
    (slotIsOpd a.a, 8), (isStat || slotIsOpd a.w, 9)]
  let sets := chunkMask p.chunks
  accsReady (if a.accum then sets else 0) s
  queuesOk t (mmSources p) [] s
  queuesReady (mmSources p) [] s
  engineReady t (mxEngine a.half) s
  sourcesFull [oa, ow] s
  let fmtOk (f : Fmt) : Bool := if a.raw then rawFmt f else mxeFmt f
  let (blocks, fs, none_) := stationaryAhead s a.half
  let stat := codeFmt fs
  formatsOk [(0, badTypes s a.accum a.raw sets), (8, badFormat fmtOk oa),
    (9, if isStat then (if !a.raw || rawFmt stat || none_ then none else some stat) else badFormat fmtOk ow)]
  let lim := if isFour oa.fmt && isFour stat && blocks == 2 then 64 else 32
  shapesOk (sourceBad oa (mmAElems p) ++
    (if isStat then (if p.k ≤ lim && p.n ≤ mxWidth s a.half then [] else [0]) else sourceBad ow p.wElems))
  let uses := if a.raw then [] else opdExpUses oa 0 (mmAElems p) ++ opdExpUses ow 0 p.wElems
  let _ ← handlesOk t uses s
  let rows := if a.raw then [] else opdExpRows s oa 0 (mmAElems p) ++ opdExpRows s ow 0 p.wElems
  let fl := newFlight t i (mxEngine a.half) s
  let f := { fl with
    tileOp := true, rdTiles := rd, rdAcc := 0, wrAcc := sets, opv := [d], acts := expansionPlan rows
    mxRun := some (mmRun p stat)
    stat := if isStat then none else some (leftBlocks (isFour oa.fmt && isFour ow.fmt) p.k, fmtCode ow.fmt) }
  return launch f (startMm p a.half a.accum) (reserveQueues fl.id (mmSources p) [] s)

/-- What a product commits: elements, types, counts, and the stationary it leaves. -/
def finishProduct (f : Flight) (half raw start ftz : Bool) (m n k : Nat) (chunks : List Chunk)
    (aSegs : List (List Val)) (aRaw : List (List Int)) (t : Tally) (ws : WSource) (double : Bool)
    (s : State) : State :=
  let w := mxWidth s half
  let (elems, t) :=
    if raw then mxChunksRaw s start m n k w aRaw ws chunks t
    else mxChunksOut s ftz start m n k w aSegs ws chunks t
  let c := { f.commit with
    acc := elems
    accInt := if start then some (chunkMask chunks, raw) else none
    nstat := t.nstat
    counters := mxCounters f }
  let s := { s with upsets := { s.upsets with parity := s.upsets.parity.filter (fun l =>
    !(start && readsAccs f.wrAcc 0 m l)) } }
  let s := commitAll { f with commit := c } (finishArray half f s)
  match ws, chunks.getLast? with
  | .data d pitch, some ch =>
    let kb := kBlocks k
    let last := leftBlocks double k
    setStationary half (loadStationary d ftz raw pitch (ch.panel * kb + (kb - last)) last ch.col) s
  | _, _ => s

/-- MX.MM completes (R147, R148, R151, R162). -/
def finishMm (ra rw : Option Carried) (a : MxMmArgs) (f : Flight) (s : State) : State :=
  let p := mmPlan s ra rw a (opVal f 0)
  let rows := takeRows s f.id (mmSources p)
  let da := srcData s f.held p.a (rows 0)
  let st := getStationary s a.half
  let ws := match p.w with
    | some o => WSource.data (srcData s f.held o (rows 1)) (panelPitch o)
    | none => .held st
  let wFour := match p.w with
    | some o => isFour o.fmt
    | none => st.four
  let (segs, t) := if a.raw then ([], tallyFrom 1) else decodeSegs da a.ftz (aSegments p.m p.k) (tallyFrom 1)
  let raws := if a.raw then (aSegments p.m p.k).map (fun x => rawAt da x.1 x.2) else []
  finishProduct f a.half a.raw (!a.accum) a.ftz p.m p.n p.k p.chunks segs raws t ws (isFour p.a.fmt && wFour) s

/-! MX.WLD and MX.WLD.T. -/

/-- Panel blocks that MX.WLD loads from an operand (R152). -/
def wldBlocks (o : Opd) : Nat := if isFour o.fmt then 2 else 1

/-- MX.WLD begins. -/
def startWld (o : Opd) (half : Bool) (f : Flight) (s : State) : State :=
  beginWith f (readsOpds s f.id (firstSegs [(o, 1024 * wldBlocks o)]))
    (touchSegs (if half then 3 else 1) (usedSegs o (1024 * wldBlocks o))) s

/-- MX.WLD at issue (R152). -/
def issueWld (t : Thread) (a : MxWldArgs) (s : State) : Verdict := verdict do
  onlyThread t .tx
  slotsLegal [a.w]
  enginePresent 0 s
  let o := (tilesOpd s none a.w).getD Opd.none
  tilesReady (opdMask o) 0 s
  paramsOk [(halfOk s a.half, 0), (slotIsTiles a.w, 1)]
  engineReady t (mxEngine a.half) s
  sourcesFull [o] s
  formatsOk [(1, badFormat mxeFmt o)]
  let n := 1024 * wldBlocks o
  shapesOk (sourceBad o n)
  let _ ← handlesOk t (opdExpUses o 0 n) s
  let f := { newFlight t (.mxWld t a) (mxEngine a.half) s with
    tileOp := true, rdTiles := opdMask o, acts := expansionPlan (opdExpRows s o 0 n), mxRun := some loadRun
    stat := some (wldBlocks o, fmtCode o.fmt) }
  return launch f (startWld o a.half) s

/-- MX.WLD completes. -/
def finishWld (a : MxWldArgs) (f : Flight) (s : State) : State :=
  let o := opdOf s none a.w 0
  let d := srcData s f.held o []
  let c := { f.commit with counters := mxCounters f }
  setStationary a.half (loadStationary d false false 1024 0 (wldBlocks o) 0)
    (commitAll { f with commit := c } (finishArray a.half f s))

/-- The record rows that buffer elements of a handle need, where it expands by records (R33). -/
def handleRecords (s : State) (h : BitVec 8) (f : Fmt) (elems : List Nat) : List Nat :=
  let e := getHandle s h
  if rawFmt f && e.xfmt == .records then (elems.map (fun i => recordRow e.xrow.toNat i)).eraseDups else []

/-- The use of an instruction's own handle by its expansion: `elems` are the buffer elements it takes (R32, R33). -/
def handleExpUses (s : State) (h : BitVec 8) (f : Fmt) (elems : List Nat) : List HandleUse :=
  match handleRecords s h f elems with
  | [] => []
  | rels => [{ h := h, epoch := none, needs := [.rd], rels := rels.map Int.ofNat }]

/-- The expansion rows of an instruction that reads INT8 or INT4 rows of its own handle, on one of its ports. -/
def handleExpRows (s : State) (x : Xlate) (port : BitVec 3) (f : Fmt) (elems : List Nat) : List ExpRow :=
  let e := getHandle s x.h
  let xr := e.xrow.toNat
  if !rawFmt f || e.xfmt == .none then []
  else if e.xfmt == .records then
    (handleRecords s x.h f elems).map (fun r => { port := port, key := heldHandle r, phys := physRow x.map r, rel := r })
  else [{ port := port, key := heldHandle xr, phys := xr, rel := 0 }]

/-- XFMT and XROW of the handle as an instruction found them at issue, packed with its operands. -/
def expansionWord (s : State) (h : BitVec 8) : Word64 :=
  let e := getHandle s h
  BitVec.ofNat 64 (xfmtCode e.xfmt + 4 * e.xrow.toNat)

/-- Expand an element of the instruction's own handle: `xw` is the word of `expansionWord`, `elem` the
buffer element, `w` its encoding. -/
def expandHandle (held : Sparse Bytes) (xw : Word64) (f : Fmt) (elem w : Nat) : Val :=
  let q := toSigned (fmtBits f) w
  let xr := xw.toNat / 4
  match xfmtOf xw.toNat with
  | .none => Val.ofInt q
  | .tableFp16 => tableValue false (Sparse.get [] held (heldHandle xr)) w
  | .tableBf16 => tableValue true (Sparse.get [] held (heldHandle xr)) w
  | .records => recordValue (Sparse.get [] held (heldHandle (recordRow xr elem))) elem q

/-- Formats of MX.WLD.T (R153). -/
def wldTFmt (f : Fmt) : Bool := isWide f || f == .e4m3 || f == .e5m2 || f == .int8

/-- Source rows of MX.WLD.T, relative to the handle. -/
def wldTRows (a : MxWldTArgs) (r0 : Nat) (stride : Int) : List Int :=
  strided r0 (if isWide (codeFmt a.fmtw) then 32 else 64) stride

/-- Row and byte of stationary element (k, n) in the source (R106, R153). -/
def wldTPlace (a : MxWldTArgs) (k n : Nat) : Nat × Nat :=
  if isWide (codeFmt a.fmtw) then (n, 64 * a.j.toNat + 2 * k)
  else
    let q0 := a.qsel.toNat % 2
    let q1 := a.qsel.toNat / 2
    (32 * q1 + n, 64 * a.j.toNat + 32 * q0 + k)

/-- Buffer elements that MX.WLD.T takes, 8-bit formats. -/
def wldTElems (a : MxWldTArgs) (rels : List Int) : List Nat :=
  (List.range 1024).map (fun i =>
    let (r, b) := wldTPlace a (i / 32) (i % 32)
    512 * ((rels.getD r 0).toNat) + b)

/-- MX.WLD.T at issue (R153). -/
def issueWldT (t : Thread) (a : MxWldTArgs) (s : State) : Verdict := verdict do
  onlyThread t .tx
  codesLegal [a.fmtw]
  enginePresent 0 s
  regsReady t [a.rs, a.stride] s
  paramsOk [(portOk a.port s, 1), (halfOk s a.half, 4), (rsOk (sreg t a.rs s), 7), (strideOk (sreg t a.stride s), 8)]
  engineReady t (mxEngine a.half) s
  let fm := codeFmt a.fmtw
  formatsOk [(9, badCode wldTFmt fm)]
  let rels := wldTRows a (sreg t a.rs s).toNat (sreg t a.stride s).toInt
  let elems := wldTElems a rels
  let xs ← handlesOk t ({ h := a.h, epoch := none, needs := [.rd], rels := rels } :: handleExpUses s a.h fm elems) s
  let f := { newFlight t (.mxWldT t a) (mxEngine a.half) s with
    xl := xs.take 1, opv := [sreg t a.rs s, sreg t a.stride s, expansionWord s a.h], mxRun := some loadRun
    stat := some (1, a.fmtw) }
  let x := xlate f 0
  return launch { f with
    tests := testsFor x (readKind a.clear) rels
    acts := expansionPlan (handleExpRows s x a.port fm elems) ++ readPlan x a.port a.clear rels } startPlain s

/-- The stationary that MX.WLD.T leaves. -/
def wldTStationary (a : MxWldTArgs) (f : Flight) : Stationary :=
  let fm := codeFmt a.fmtw
  let rels := wldTRows a (opVal f 0).toNat (opVal f 1).toInt
  let word (i : Nat) : Nat :=
    let (r, b) := wldTPlace a (i / 32) (i % 32)
    leNat ((((gotRows f).getD r []).drop b).take (fmtBits fm / 8))
  { blocks := 1, fmt := a.fmtw
    elems := ((wldTElems a rels).zipIdx).map (fun p =>
      if fm = .int8 then expandHandle f.held (opVal f 2) fm p.1 (word p.2) else decodeElem fm (word p.2))
    raw := if fm = .int8 then (List.range 1024).map (fun i => toSigned 8 (word i)) else []
    isInt := fm == .int8, four := false, wide := isWide fm }

/-- MX.WLD.T completes. -/
def finishWldT (a : MxWldTArgs) (f : Flight) (s : State) : State :=
  let c := { f.commit with counters := mxCounters f }
  setStationary a.half (wldTStationary a f) (commitAll { f with commit := c } (finishArray a.half f s))

/-! MX.CONV (R163, R164, R235). -/

/-- The geometry of a convolution. -/
structure Geometry where
  cin : Nat
  win : Nat
  kh : Nat
  kw : Nat
  ow : Nat
  oh : Nat
  rows : Nat
  sy : Nat
  sx : Nat
  dy : Nat
  dx : Nat
  py : Nat
  px : Nat
  n : Nat
  deriving DecidableEq, Repr

/-- Read CVG1 and CVG2 (Table 10.2). -/
def readGeometry (a b : Word64) : Geometry :=
  { cin := field a 0 10 + 1, win := field a 10 12 + 1, kh := field a 22 3 + 1, kw := field a 25 5 + 1,
    ow := field a 30 8 + 1, oh := field a 38 8 + 1, rows := field a 46 6 + 1,
    sy := field b 0 3 + 1, sx := field b 3 3 + 1, dy := field b 6 3 + 1, dx := field b 9 3 + 1,
    py := field b 12 4, px := field b 16 4, n := field b 20 8 }

/-- Reduction length and output positions. -/
def convK (g : Geometry) : Nat := g.kh * g.kw * g.cin

/-- Output positions. -/
def convM (g : Geometry) : Nat := g.oh * g.ow

/-- CVG1 is in range (R163, R235). -/
def cvg1Ok (v : Word64) (g : Geometry) : Bool :=
  zeroAbove v 52 && decide (g.kh ≤ 7) && decide (g.kw ≤ 31) && (g.kh == 1 || decide (g.kw ≤ 7)) &&
    decide (convM g ≤ 256) && decide (convK g ≤ 8192)

/-- The window element of output `m` and index `k`; none for padding (R163). -/
def convElem (g : Geometry) (m k : Nat) : Option Nat :=
  let tap := k / g.cin
  let y : Int := ((m / g.ow) * g.sy + (tap / g.kw) * g.dy : Nat) - (g.py : Int)
  let x : Int := ((m % g.ow) * g.sx + (tap % g.kw) * g.dx : Nat) - (g.px : Int)
  if y < 0 ∨ x < 0 ∨ (g.win : Int) ≤ x then none
  else some ((y.toNat * g.win + x.toNat) * g.cin + k % g.cin)

/-- Every window element that the convolution takes, ascending. -/
def convElems (g : Geometry) : List Nat :=
  let all := (List.range (convM g)).flatMap (fun m => (List.range (convK g)).filterMap (fun k => convElem g m k))
  (List.range (all.foldl max 0 + 1)).filter (fun e => all.contains e)

/-- Formats of a convolution's input. -/
def convFmt (f : Fmt) : Bool := wldTFmt f

/-- W of a convolution: its operand, elements and rows. -/
def convWeights (s : State) (a : MxConvArgs) (g : Geometry) (cs : List Chunk) : Opd × Nat × Nat :=
  let o := opdOf s none a.w a.fmtw
  let e := panelPitch o * (panelCount cs * kBlocks (convK g))
  (o, e, queueRows o.fmt e)

/-- Elements of a local-store row. -/
def rowElems (f : Fmt) : Nat := 4096 / fmtBits f

/-- Accesses two in a cycle, on two ports in turn (R99). -/
def pairUp (p q : BitVec 3) : List (BitVec 3 → Access) → List (List Access)
  | [] => []
  | [x] => [[x p]]
  | x :: y :: xs => [x p, y q] :: pairUp p q xs

/-- A window or weight stream on two ports. -/
def pairPlan (x : Xlate) (p q : BitVec 3) (clear : Bool) (rels : List Int) : List (List Access) :=
  pairUp p q (rels.map (fun r => fun port => readAccess x port clear .hold r))

/-- The expansion rows of an instruction with ports of its own are read on its first port (R34, R135). -/
def onPort (p : BitVec 3) (rows : List ExpRow) : List ExpRow := rows.map (fun r => { r with port := p })

/-- MX.CONV begins: its W tile rows are presented. -/
def startConv (a : MxConvArgs) (f : Flight) (s : State) : State :=
  let g := readGeometry (opVal f 1) (opVal f 2)
  let cs := mxChunks s a.half a.acc.toNat g.n
  let (o, e, _) := convWeights s a g cs
  let parity (l : ParityLoc) : Bool :=
    readsOpds s f.id (firstSegs [(o, e)]) l || (a.accum && readsAccs f.wrAcc 0 (convM g) l)
  beginWith f parity (touchSegs (if a.half then 3 else 1) (usedSegs o e)) s

/-- Passes and beats of an MX.CONV. -/
def convRun (a : MxConvArgs) (g : Geometry) (w : Fmt) (chunks : Nat) : MxRun :=
  let (per, r) := mxRate false (isWide (codeFmt a.fmta) || isWide w) (convK g)
  { passes := per * chunks, beats := (convM g + 3) / 4 * r, loads := true, done := 0 }

/-- MX.CONV at issue. -/
def issueConv (t : Thread) (a : MxConvArgs) (s : State) : Verdict := verdict do
  onlyThread t .tx
  slotsLegal [a.w]
  codesLegal [a.fmta, a.fmtw]
  enginePresent 0 s
  let ow := opdOf s none a.w a.fmtw
  regsReady t [a.rs, a.cvg1, a.cvg2] s
  tilesReady (opdMask ow) 0 s
  let rs := sreg t a.rs s
  let r0 := rs.toNat
  let v1 := sreg t a.cvg1 s
  let v2 := sreg t a.cvg2 s
  let g := readGeometry v1 v2
  let cs := mxChunks s a.half a.acc.toNat g.n
  paramsOk [(portOk a.port s, 1), (portOk a.port2 s && a.port != a.port2, 2), (setsOk s a.half a.acc cs, 4),
    (halfOk s a.half, 7), (rsOk rs, 10), (cvg1Ok v1 g, 11), (zeroAbove v2 28 && nLimit s a.half g.n, 12),
    (slotIsOpd a.w, 14)]
  let sets := chunkMask cs
  accsReady (if a.accum then sets else 0) s
  let (_, we, wr) := convWeights s a g cs
  queuesOk t [(ow, wr)] [] s
  queuesReady [(ow, wr)] [] s
  engineReady t (mxEngine a.half) s
  sourcesFull [ow] s
  let fm := codeFmt a.fmta
  formatsOk [(4, badTypes s a.accum false sets), (13, badCode convFmt fm), (14, badFormat mxeFmt ow)]
  let es := convElems g
  let elems := es.map (fun i => r0 * rowElems fm + i)
  shapesOk ((if es.all (fun e => decide (e < g.rows * rowElems fm)) then [] else [0]) ++ sourceBad ow we)
  let rels := strided r0 g.rows 1
  let xs ← handlesOk t ({ h := a.h, epoch := none, needs := [.rd], rels := rels } ::
    handleExpUses s a.h fm elems ++ opdExpUses ow 0 we) s
  let fl := newFlight t (.mxConv t a) (mxEngine a.half) s
  let f := { fl with
    tileOp := true, rdTiles := opdMask ow, wrAcc := sets, xl := xs.take 1
    opv := [rs, v1, v2, expansionWord s a.h], mxRun := some (convRun a g ow.fmt cs.length)
    stat := some (1, fmtCode ow.fmt) }
  let x := xlate f 0
  let expansion := handleExpRows s x a.port fm elems ++ onPort a.port (opdExpRows s ow 0 we)
  return launch { f with
    tests := testsFor x (readKind a.clear) rels
    acts := expansionPlan expansion ++ pairPlan x a.port a.port2 a.clear rels }
    (startConv a) (reserveQueues fl.id [(ow, wr)] [] s)

/-- MX.CONV completes. -/
def finishConv (a : MxConvArgs) (f : Flight) (s : State) : State :=
  let g := readGeometry (opVal f 1) (opVal f 2)
  let r0 := (opVal f 0).toNat
  let fm := codeFmt a.fmta
  let cs := mxChunks s a.half a.acc.toNat g.n
  let (o, _, wr) := convWeights s a g cs
  let ws := WSource.data (srcData s f.held o (takeRows s f.id [(o, wr)] 0)) (panelPitch o)
  let words := unpack (fmtBits fm) (gotRows f).flatten
  let es := convElems g
  -- Each window element that is used is decoded, and counted if flushed, once.
  let (vals, t) :=
    if fm = .int8 then
      (es.map (fun e => expandHandle f.held (opVal f 3) fm (r0 * rowElems fm + e) (words.getD e 0)), tallyFrom 1)
    else decodeList fm a.ftz (es.map (fun e => words.getD e 0)) (tallyFrom 1)
  let window : Sparse Val := es.zip vals
  let m := convM g
  let k := convK g
  let segs := (aSegments m k).map (fun p =>
    let mm := p.1 / 32 % m
    let kb := p.1 / 32 / m
    (List.range p.2).map (fun i =>
      match convElem g mm (32 * kb + i) with
      | some e => Sparse.get (Val.zero false) window e
      | none => Val.zero false))
  finishProduct f a.half false (!a.accum) a.ftz m g.n k cs segs [] t ws false s

/-! MX.DRAIN (R161, R236). -/

/-- Sets of a drain. -/
def drainSets (a : MxDrainArgs) : List Nat := (List.range (a.nset.toNat + 1)).map (fun i => a.acc.toNat + i)

/-- Sets as a mask. -/
def setMask (l : List Nat) : BitVec 4 := l.foldl (fun m i => m ||| (1 <<< i)) 0

/-- The destination of a drain and the rows it pushes. -/
def drainDest (s : State) (a : MxDrainArgs) (n : Nat) : Opd × Nat :=
  (opdOf s none a.d a.conv.dfmt, queueRows (codeFmt a.conv.dfmt) n)

/-- The drain of a half belongs to that half's engine; in FULL mode it is a unit beside the array (R161, R236). -/
def drainEngine (s : State) (half : Bool) : Engine := if s.mould.cfg.half then .mxe half else .drain half

/-- The sets of a drain exist, and in HALF mode belong to its half (R236). -/
def drainSetsOk (s : State) (a : MxDrainArgs) : Bool :=
  if s.mould.cfg.half then (drainSets a).all (fun i => i / 2 == if a.half then 1 else 0)
  else (drainSets a).all (fun i => decide (i < 4))

/-- MX.DRAIN begins. -/
def startDrain (r0 n : Nat) (f : Flight) (s : State) : State :=
  beginWith f (readsAccs f.rdAcc r0 n) (fun s => s) s

/-- MX.DRAIN at issue. -/
def issueDrain (t : Thread) (a : MxDrainArgs) (s : State) : Verdict := verdict do
  onlyThread t .tx
  slotsLegal [a.d]
  convLegal a.conv
  enginePresent 0 s
  let od := opdOf s none a.d a.conv.dfmt
  regsReady t [a.drd] s
  tilesReady 0 (opdMask od) s
  let sets := drainSets a
  let d := sreg t a.drd s
  let r0 := field d 0 8
  let r := field d 8 9
  paramsOk [(drainSetsOk s a, 0), (halfOk s a.half, 2), (!a.conv.amx.getLsbD 3, 7),
    (zeroAbove d 17 && decide (1 ≤ r) && decide (r0 + r ≤ 256), 11), (slotIsOpd a.d, 13)]
  accsReady (setMask sets) s
  let n := 32 * (sets.length * r)
  let dst := drainDest s a n
  queuesOk t [] [dst] s
  queuesReady [] [dst] s
  let e := drainEngine s a.half
  engineReady t e s
  shapesOk (shapeBad od (codeFmt a.conv.dfmt) n)
  let fl := newFlight t (.mxDrain t a) e s
  let f := { fl with
    tileOp := true, wrTiles := opdMask od, rdAcc := setMask sets, sr := convSr a.conv, opv := [d] }
  return launch f (startDrain r0 r) (reserveQueues fl.id [] [dst] s)

/-- One accumulator element as the drain decodes it: under FTZ a subnormal FP32 element is flushed (R41). -/
def drainElem (s : State) (ftz : Bool) (set : Nat) (w : Word32) (t : Tally) : Val × Tally :=
  if s.mx.intTypes.getLsbD set then (Val.ofInt w.toInt, t) else decodeFtz .fp32 ftz w.toNat t

/-- Elements of the sets as the drain reads them (R161). -/
def drainElems (s : State) (ftz : Bool) : List (Nat × Nat × Nat) → Tally → List Val × Tally
  | [], t => ([], t)
  | (st, r, c) :: xs, t =>
    let (v, t) := drainElem s ftz st (accWord s st r c) t
    let (vs, t) := drainElems s ftz xs t
    (v :: vs, t)

/-- Places of a drain's elements: set by set, row by row. -/
def drainPlaces (r0 r : Nat) (sets : List Nat) : List (Nat × Nat × Nat) :=
  sets.flatMap (fun st => (grid r 32).map (fun p => (st, r0 + p.1, p.2)))

/-- MX.DRAIN completes: gather, scale, convert, deliver. -/
def finishDrain (a : MxDrainArgs) (f : Flight) (s : State) : State :=
  let r0 := field (opVal f 0) 0 8
  let r := field (opVal f 0) 8 9
  let sets := drainSets a
  let (vs, t) := drainElems s a.conv.ftz (drainPlaces r0 r sets) (tallyFrom (getThread f.thread s).lfsr)
  let fm := codeFmt a.conv.dfmt
  let (bytes, scales, t) := convertOut true a.conv fm vs t
  let (od, _) := drainDest s a (32 * (sets.length * r))
  let c := deliver od fm bytes scales
    (tallyCommit (convSr a.conv) t { f.commit with amax := convAmax a.conv vs })
  commitAll { f with commit := c } s

/-! The meanings. -/

/-- MX.MM (R145 to R149). -/
def execMxMm (t : Thread) (a : MxMmArgs) (s : State) : Out :=
  .next (issue t 2 (issueMm (.mxMm t a) none none t a) s)

/-- MX.WLD (R152). -/
def execMxWld (t : Thread) (a : MxWldArgs) (s : State) : Out := .next (issue t 1 (issueWld t a) s)

/-- MX.WLD.T (R153). -/
def execMxWldT (t : Thread) (a : MxWldTArgs) (s : State) : Out := .next (issue t 1 (issueWldT t a) s)

/-- MX.CONV (R163, R164). -/
def execMxConv (t : Thread) (a : MxConvArgs) (s : State) : Out := .next (issue t 2 (issueConv t a) s)

/-- MX.DRAIN (R161). -/
def execMxDrain (t : Thread) (a : MxDrainArgs) (s : State) : Out := .next (issue t 2 (issueDrain t a) s)

end Sys2Proof.Machine
end

