-- ==== Sys2Proof/Machine/Mv.lean ====
section
/-! DEFINITION. The Matrix-Vector Path: MV.GEMV (chapter 7, R51, R237). -/

namespace Sys2Proof.Machine

/-- Weight formats of the MVP (Table 02.3). -/
def mvWeightFmt (f : Fmt) : Bool := mxeFmt f && !isWide f

/-- Vector formats of the MVP (R171). -/
def mvVectorFmt (f : Fmt) : Bool := isWide f || f == .e4m3 || f == .e5m2

/-- Destination formats of the MVP (R173). -/
def mvDestFmt (f : Fmt) : Bool := f == .fp32 || mvVectorFmt f

/-- K elements of a pair for one output (Table 07.1). -/
def mvStep (f : Fmt) : Nat := if isFour f then 64 else 32

/-- Weight pairs of an instruction (R168, R169). -/
def mvPairs (f : Fmt) (k n : Nat) : Nat := (n + 31) / 32 * ((k + mvStep f - 1) / mvStep f)

/-- Rows of the weight stream: a scale row for each 8 pairs of an MX format (R170). -/
def mvRows (f : Fmt) (k n : Nat) : Nat :=
  let p := mvPairs f k n
  2 * p + (if fmtIsMx f then (p + 7) / 8 else 0)

/-- What an MV.GEMV works on. -/
structure MvPlan where
  fmt : Fmt
  dfmt : Fmt
  va : Opd
  vb : Option Opd
  d : Opd
  d2 : Option Opd
  k : Nat
  n : Nat
  deriving DecidableEq, Repr

/-- The shape records of the vectors and destinations of a TDC-3 form, and its weight format. -/
structure MvCarried where
  va : Carried
  vb : Option Carried
  d : Carried
  d2 : Option Carried
  fmtw : Fmt
  deriving DecidableEq, Repr

/-- The plan of an MV.GEMV for its descriptor's value. -/
def mvPlan (s : State) (c : Option MvCarried) (a : MvGemvArgs) (d : Word64) : MvPlan :=
  let df := (c.map (fun x => x.d.fmt)).getD (codeFmt a.conv.dfmt)
  { fmt := (c.map (fun x => x.fmtw)).getD (codeFmt a.fmtw)
    dfmt := df
    va := (tilesOpd s (c.map (fun x => x.va)) a.va).getD Opd.none
    vb := tilesOpd s (c.bind (fun x => x.vb)) a.vb
    d := opdOf s (c.map (fun x => x.d)) a.d a.conv.dfmt
    d2 := tilesOpd s (c.bind (fun x => x.d2)) a.d2
    k := field d 0 14, n := field d 14 14 }

/-- The destinations with the rows they push: a queue takes VA's rows, then VB's (R174). -/
def mvDests (p : MvPlan) : List (Opd × Nat) :=
  [(p.d, queueRows p.dfmt p.n * (if p.vb.isSome then 2 else 1))]

/-- Vectors of an instruction. -/
def mvVectors (p : MvPlan) : List Opd := p.va :: p.vb.toList

/-- Buffer elements of the handle at which the weight rows begin (R33). -/
def mvRowElems (f : Fmt) (r0 rows : Nat) : List Nat :=
  (List.range rows).map (fun i => (r0 + i) * rowElems f)

/-- The rule of R237 on D2. -/
def d2Ok (p : MvPlan) : Bool := if p.vb.isSome && p.d.queue.isNone then p.d2.isSome else p.d2.isNone

/-- The order of R27 has its scale rows at multiples of 17 (R170). -/
def mvAligned (f : Fmt) (r0 : Nat) : Bool := !fmtIsMx f || r0 % 17 == 0

/-- More than 64 record rows are too many (R172). -/
def mvRecordsOk (s : State) (h : BitVec 8) (f : Fmt) (r0 rows : Nat) : Bool :=
  let e := getHandle s h
  !(rawFmt f && e.xfmt == .records) ||
    decide (((mvRowElems f r0 rows).map (fun i => recordRow e.xrow.toNat i)).eraseDups.length ≤ 64)

/-- Output groups, and the pairs of one (R169). -/
def mvGroups (n : Nat) : Nat := (n + 31) / 32

/-- Pairs of an output group. -/
def mvGroupPairs (f : Fmt) (k : Nat) : Nat := (k + mvStep f - 1) / mvStep f

/-- The element rows of the weight stream with what each return does: the last row of an output group gives its
outputs (R175). -/
def mvActs (p : MvPlan) (i : Nat) : ReturnAct :=
  let per := 2 * mvGroupPairs p.fmt p.k
  if (i + 1) % per = 0 then .group (i / per) else .hold

/-- The weight stream on two ports: a pair in a cycle, and for an MX format the scale row of each 8 pairs alone on
the first port (R170, R175). `i` counts the element rows done. -/
def mvStream (x : Xlate) (a : MvGemvArgs) (p : MvPlan) : Nat → List Int → List (List Access)
  | _, [] => []
  | i, [r] =>
    if fmtIsMx p.fmt && r % 17 == 0 then [[readAccess x a.port a.clear .hold r]]
    else [[readAccess x a.port a.clear (mvActs p i) r]]
  | i, r :: q :: rs =>
    if fmtIsMx p.fmt && r % 17 == 0 then [readAccess x a.port a.clear .hold r] :: mvStream x a p i (q :: rs)
    else
      [readAccess x a.port a.clear (mvActs p i) r, readAccess x a.port2 a.clear (mvActs p (i + 1)) q] ::
        mvStream x a p (i + 2) rs

/-- The accesses of an MV.GEMV: a table row alone, or record rows two in a cycle, then its weight stream (R172,
R175). -/
def mvAccesses (s : State) (x : Xlate) (a : MvGemvArgs) (p : MvPlan) (r0 : Nat) : List (List Access) :=
  let n := mvRows p.fmt p.k p.n
  let rows := expansionReads (handleExpRows s x a.port p.fmt (mvRowElems p.fmt r0 n))
  pairUp a.port a.port2 (rows.map (fun c => fun port => { c with port := port })) ++
    mvStream x a p 0 (strided r0 n 1)

/-- MV.GEMV at issue. -/
def issueGemvWith (i : Instr) (c : Option MvCarried) (t : Thread) (a : MvGemvArgs)
    (start : Flight → State → State) (s : State) : Verdict := verdict do
  onlyThread t .tx
  slotsLegal [a.va, a.vb, a.d, a.d2]
  codesLegal [a.fmtw]
  convLegal a.conv
  enginePresent 1 s
  regsReady t [a.rs, a.mvd] s
  let d := sreg t a.mvd s
  let p := mvPlan s c a d
  let rd := opdMask p.va ||| opdMask (p.vb.getD Opd.none)
  let wr := opdMask p.d ||| opdMask (p.d2.getD Opd.none)
  tilesReady rd wr s
  let rs := sreg t a.rs s
  let r0 := rs.toNat
  let n := mvRows p.fmt p.k p.n
  let inRange := zeroAbove d 28 && decide (1 ≤ p.k) && decide (p.k ≤ 8192) && decide (1 ≤ p.n) && decide (p.n ≤ 8192)
  paramsOk [(portOk a.port s, 1), (portOk a.port2 s && a.port != a.port2, 2), (!a.conv.amx.getLsbD 3, 9),
    (rsOk rs && mvAligned p.fmt r0, 13), (inRange && mvRecordsOk s a.h p.fmt r0 n, 14), (slotIsTiles a.va, 16),
    (slotIsOptTiles a.vb, 17), (slotIsOpd a.d, 18), (slotIsOptTiles a.d2 && d2Ok p, 19)]
  queuesOk t [] (mvDests p) s
  queuesReady [] (mvDests p) s
  engineReady t .mvp s
  sourcesFull (mvVectors p) s
  formatsOk [(15, badCode mvWeightFmt p.fmt), (16, badFormat mvVectorFmt p.va),
    (17, badFormat mvVectorFmt (p.vb.getD Opd.none)), (18, badCode mvDestFmt p.dfmt)]
  shapesOk (sourceBad p.va p.k ++ p.vb.toList.flatMap (fun o => sourceBad o p.k) ++ shapeBad p.d p.dfmt p.n ++
    p.d2.toList.flatMap (fun o => shapeBad o p.dfmt p.n))
  let rels := strided r0 n 1
  let elems := mvRowElems p.fmt r0 n
  let xs ← handlesOk t ({ h := a.h, epoch := none, needs := [.rd], rels := rels } ::
    handleExpUses s a.h p.fmt elems) s
  let fl := newFlight t i .mvp s
  let f := { fl with
    tileOp := true, rdTiles := rd, wrTiles := wr, xl := xs.take 1, sr := convSr a.conv
    opv := [rs, d, expansionWord s a.h] }
  let x := xlate f 0
  return launch { f with tests := testsFor x (readKind a.clear) rels, acts := mvAccesses s x a p r0 }
    start (reserveQueues fl.id [] (mvDests p) s)

/-- First element, in the stream of element rows, of the weights of output `o` in pair `i` (R169). -/
def mvPlace (f : Fmt) (i o : Nat) : Nat :=
  (2 * i + o % 32 / 16) * (if fmtIsMx f then 32 * rowBlocks f else rowElems f) + mvStep f * (o % 16)

/-- The weight segments of output `o`: 32-element blocks in ascending K (R169, R173). -/
def mvSegments (f : Fmt) (k o : Nat) : List (Nat × Nat) :=
  let per := (k + mvStep f - 1) / mvStep f
  (List.range (kBlocks k)).map (fun b =>
    let inStep := mvStep f / 32
    (mvPlace f (o / 32 * per + b / inStep) o + 32 * (b % inStep), kValid k b))

/-- The weight stream as source data, integers expanded through the handle (R172). -/
def mvWeights (f : Flight) (p : MvPlan) : SrcData :=
  let (bs, xs) := rowsStream p.fmt (gotRows f)
  let ws := unpack (fmtBits p.fmt) bs
  let first := (opVal f 0).toNat * rowElems p.fmt
  let ints := if fmtIsInt p.fmt then
      (ws.zipIdx).map (fun q => expandHandle f.held (opVal f 2) p.fmt (first + q.2) q.1)
    else []
  { fmt := p.fmt, words := ws, scales := xs, ints := ints }

/-- The blocks of a latched vector (R171). -/
def mvVector (s : State) (ftz : Bool) (k : Nat) (o : Opd) (t : Tally) : List (List Val) × Tally :=
  decodeSegs (srcData s [] o []) ftz ((List.range (kBlocks k)).map (fun b => (32 * b, kValid k b))) t

/-- FP32 values of some outputs for each latched vector, an output's weights being decoded once. Block sums that FTZ
flushes are not counted here: Table 10.7 counts inputs and conversions (R177). -/
def mvOutputs (ftz : Bool) (w : SrcData) (k : Nat) (vs : List (List (List Val))) : List Nat → Tally → List (List Val) × Tally
  | [], t => (vs.map (fun _ => []), t)
  | o :: os, t =>
    let (segs, t) := decodeSegs w ftz (mvSegments w.fmt k o) t
    let outs := vs.map (fun v => (accumulate ftz none ((v.zip segs).map (fun q => q.1.zip q.2)) t).1)
    let (rest, t) := mvOutputs ftz w k vs os t
    (outs.zipWith (fun x xs => x :: xs) rest, t)

/-- The tally of an MV.GEMV so far: its counts, and the LFSR its draws have left. -/
def mvTally (f : Flight) (s : State) : Tally :=
  { nsat := f.commit.nstat.nsat.toNat, nflush := f.commit.nstat.nflush.toNat, nnan := f.commit.nstat.nnan.toNat,
    lfsr := f.commit.lfsr.getD (getThread f.thread s).lfsr }

/-- Convert one output group of each vector in turn (R173). -/
def mvConvertGroup (c : ConvBlk) (f : Fmt) (b : List (List Val)) (t : Tally) : List Bytes × Tally :=
  b.foldl (fun (a : List Bytes × Tally) (vs : List Val) =>
    let (bs, _, t) := convertOut true c f vs a.2
    (a.1 ++ [bs], t)) (([] : List Bytes), t)

/-- Key under which the converted outputs of group `g` for vector `v` are held. -/
def heldOut (g v : Nat) : Nat := 2 ^ 22 + 2 * g + v

/-- The tile writes of part of a stream, from byte `start` on. -/
def partWrites (o : Opd) (start : Nat) (bytes : Bytes) : List TileWrite :=
  (opdSegs o).filterMap (fun g =>
    let lo := max g.start start
    let hi := min (g.start + g.len) (start + bytes.length)
    if lo < hi then
      some { tile := g.tile, row := g.row, off := lo - g.start, bytes := (bytes.drop (lo - start)).take (hi - lo),
             side := [], xtag := XTag.none }
    else none)

/-- The running maximum of an instruction goes on over more source values. -/
def amaxMore (c : ConvBlk) (old : Option (BitVec 3 × Bool × Word32)) (vs : List Val) : Option (BitVec 3 × Bool × Word32) :=
  match old with
  | none => convAmax c vs
  | some (r, b, v) => some (r, b, f32OfVal (amaxGather c.naninc (valOfF32 v) vs))

/-- An output group ends: its outputs are computed and converted, and written to a tile destination (R173, R175,
R176). -/
def mvGroupDone (c : Option MvCarried) (a : MvGemvArgs) (g : Nat) (f : Flight) (s : State) : State :=
  let p := mvPlan s c a (opVal f 1)
  let blocks := (List.range (kBlocks p.k)).map (fun b => (32 * b, kValid p.k b))
  let vs := f.rowsIn.zip (mvVectors p) |>.map (fun v =>
    (decodeSegs { fmt := v.2.fmt, words := unpack (fmtBits v.2.fmt) v.1, scales := [], ints := [] } a.conv.ftz blocks
      (tallyFrom 1)).1)
  let os := (List.range 32).filterMap (fun i => if 32 * g + i < p.n then some (32 * g + i) else none)
  let (outs, t) := mvOutputs a.conv.ftz (mvWeights f p) p.k vs os (mvTally f s)
  let (bytes, t) := mvConvertGroup a.conv p.dfmt outs t
  let width := 4 * fmtBits p.dfmt
  let dests := [p.d] ++ p.d2.toList
  let s := modFlight f.id (fun f => { f with
    commit := tallyCommit true t { f.commit with amax := amaxMore a.conv f.commit.amax outs.flatten }
    held := (bytes.zipIdx).foldl (fun (h : Sparse Bytes) b => Sparse.put h (heldOut g b.2) b.1) f.held }) s
  if p.d.queue.isSome then s
  else writeTiles ((dests.zip bytes).flatMap (fun d => partWrites d.1 (width * g) d.2)) s

/-- MV.GEMV begins: its vectors are latched (R171), their flushed elements counted. -/
def startGemv (c : Option MvCarried) (a : MvGemvArgs) (f : Flight) (s : State) : State :=
  let p := mvPlan s c a (opVal f 1)
  let vs := (mvVectors p).map (fun o => (o, p.k))
  let blocks := (List.range (kBlocks p.k)).map (fun b => (32 * b, kValid p.k b))
  beginWith f (readsOpds s f.id (firstSegs vs)) (fun s =>
    let s := touchSegs 4 (usedSegs p.va p.k) s
    let s := match p.vb with
      | some o => touchSegs 5 (usedSegs o p.k) s
      | none => s
    let t := (mvVectors p).foldl (fun t o => (decodeSegs (srcData s [] o []) a.conv.ftz blocks t).2) (tallyFrom 1)
    modFlight f.id (fun f => { f with
      rowsIn := (mvVectors p).map (fun o => (opdStream s o []).1)
      commit := { f.commit with nstat := t.nstat } }) s) s

/-- MV.GEMV at issue. -/
def issueGemv (i : Instr) (c : Option MvCarried) (t : Thread) (a : MvGemvArgs) (s : State) : Verdict :=
  issueGemvWith i c t a (startGemv c a) s

/-- MV.GEMV completes (R173, R174, R177): what is not in a tile yet is pushed, VA's rows before VB's. -/
def finishGemv (c : Option MvCarried) (a : MvGemvArgs) (f : Flight) (s : State) : State :=
  let p := mvPlan s c a (opVal f 1)
  let stream (v : Nat) : Bytes := ((List.range (mvGroups p.n)).map (fun g => Sparse.get [] f.held (heldOut g v))).flatten
  let cm := { f.commit with
    counters := [(cntMvPairs, mvPairs p.fmt p.k p.n)]
    lfsr := if convSr a.conv then f.commit.lfsr else none }
  let cm := if p.d.queue.isSome then
      (List.range (mvVectors p).length).foldl (fun cm v => deliver p.d p.dfmt (stream v) [] cm) cm
    else cm
  commitAll { f with commit := cm } s

/-- MV.GEMV. -/
def execMvGemv (t : Thread) (a : MvGemvArgs) (s : State) : Out :=
  .next (issue t 2 (issueGemv (.mvGemv t a) none t a) s)

end Sys2Proof.Machine
end

