-- ==== Sys2Proof/Machine/Vx.lean ====
section
/-! DEFINITION. The Vector and Element Engine: element programs, VX.EW, EP.RUN, reductions, scans, conversions
and EP.LOAD (chapter 8, R52, R53, R76, R238, R417). -/

namespace Sys2Proof.Machine

/-- Elements of a lane for a working format (R180). -/
def wfPack (f : Fmt) : Option Nat :=
  match f with
  | .fp32 => some 1
  | .int32 => some 1
  | .bf16 => some 2
  | .fp16 => some 2
  | .e4m3 => some 4
  | .e5m2 => some 4
  | _ => none

/-- Lanes of a group (R179). -/
def vxLanesOf (s : State) : Nat := if s.mould.cfg.vxTwo then s.build.vxLanes / 2 else s.build.vxLanes

/-- Sources of a micro-operation by its code; none for a reserved code (Tables 08.3, 21.8). -/
def uopArity (code : Nat) : Option Nat :=
  match code with
  | 0x00 => some 3
  | 0x01 => some 2
  | 0x02 => some 2
  | 0x03 => some 2
  | 0x04 => some 2
  | 0x05 => some 2
  | 0x06 => some 1
  | 0x07 => some 1
  | 0x08 => some 2
  | 0x09 => some 2
  | 0x0A => some 2
  | 0x0B => some 2
  | 0x0C => some 2
  | 0x0D => some 3
  | 0x10 => some 1
  | 0x11 => some 1
  | 0x12 => some 1
  | 0x13 => some 1
  | 0x14 => some 1
  | 0x18 => some 2
  | 0x19 => some 2
  | 0x1A => some 2
  | 0x1B => some 2
  | 0x1C => some 2
  | 0x1D => some 2
  | _ => none

/-- Is a micro-operation legal in a working format (Table 08.3). -/
def uopLegal (code : Nat) (wf : Fmt) : Bool :=
  code == 0x0D || (decide (0x18 ≤ code) == (wf == .int32))

/-- Round a value to the working format (R182, R188). Saturations and flushes count, and a NaN that an overflow
gives (Table 02.4); a NaN that only passes through does not. -/
def wfRound (wf : Fmt) (c : RCtx) (v : Val) (t : Tally) : Val × Tally :=
  match floatFmt wf with
  | some g =>
    let (r, u) := roundVal g c v t
    (r, { u with nnan := if v.isNan then t.nnan else u.nnan })
  | none =>
    let (i, u) := roundInt (fmtBits wf) c.rnd v t
    (Val.ofInt i, { u with nnan := t.nnan })

/-- The result of an exact micro-operation: only FTZ applies to it (R188). -/
def exactOut (wf : Fmt) (c : RCtx) (v : Val) (t : Tally) : Val × Tally :=
  match v with
  | .fin _ _ _ => wfRound wf c v t
  | _ => (v, t)

/-- `a - b`; a NaN keeps its own sign (R37). -/
def subExact (rnd : Rnd) (a b : Val) : Val := (firstNan [a, b]).getD (sumNoNan rnd [a, b.neg])

/-- The magnitude of `a` with the sign of `b`. -/
def copySign (a b : Val) : Val := if b.sign then a.abs.neg else a.abs

/-- One or zero. -/
def flagVal (b : Bool) : Val := if b then Val.ofInt 1 else Val.zero false

/-- The integer of an INT32 working value. -/
def intOfVal (v : Val) : Int := alignTo 0 v

/-- A micro-operation on its sources in the order of Table 08.3 (R188). -/
def evalUop (wf : Fmt) (c : RCtx) (code : Nat) (num : Bool) (a b d : Val) (t : Tally) : Val × Tally :=
  match code with
  | 0x00 => wfRound wf c (fmaExact c.rnd a b d) t
  | 0x01 => wfRound wf c (addExact c.rnd a b) t
  | 0x02 => wfRound wf c (subExact c.rnd a b) t
  | 0x03 => wfRound wf c (mulExact a b) t
  | 0x04 => wfRound wf c (minMaxVal false num a b) t
  | 0x05 => wfRound wf c (minMaxVal true num a b) t
  | 0x06 => exactOut wf c a.abs t
  | 0x07 => exactOut wf c a.neg t
  | 0x08 => exactOut wf c (copySign a b) t
  | 0x09 => (flagVal (eqVal a b), t)
  | 0x0A => (flagVal (ltVal a b), t)
  | 0x0B => (flagVal (leVal a b), t)
  | 0x0C => (flagVal (a.isNan || b.isNan), t)
  | 0x0D => exactOut wf c (if a.isNan || a.isZero then d else b) t
  | 0x18 => wfRound wf c (Val.ofInt (intOfVal a + intOfVal b)) t
  | 0x19 => wfRound wf c (Val.ofInt (intOfVal a - intOfVal b)) t
  | 0x1A => (Val.ofInt (min (intOfVal a) (intOfVal b)), t)
  | 0x1B => (Val.ofInt (max (intOfVal a) (intOfVal b)), t)
  | 0x1C => (flagVal (decide (intOfVal a = intOfVal b)), t)
  | 0x1D => (flagVal (decide (intOfVal a < intOfVal b)), t)
  | _ => wfRound wf c (approx code a) t

/-- What an element program reads besides its temporaries. -/
structure EpEnv where
  ins : List Val
  bcast : List Val
  consts : List Val
  deriving DecidableEq, Repr

/-- The value of a source code (R417). -/
def uopSource (e : EpEnv) (temps : List Val) (n : Nat) : Val :=
  let z := Val.zero false
  if n < 3 then e.ins.getD n z
  else if n < 11 then temps.getD (n - 3) z
  else if n < 15 then e.bcast.getD (n - 11) z
  else if n < 23 then e.consts.getD (n - 15) z
  else if n = 24 then Val.ofInt 1 else z

/-- A bit field of a micro-op word. -/
def uopField (w : Word32) (lo n : Nat) : Nat := w.toNat / 2 ^ lo % 2 ^ n

/-- Run micro-operations in program order (R187); the answer is what the last write of O left. -/
def runUops (wf : Fmt) (c : RCtx) (e : EpEnv) : List Word32 → List Val → Val → Tally → Val × Tally
  | [], _, out, t => (out, t)
  | w :: ws, temps, out, t =>
    let src (lo : Nat) : Val := uopSource e temps (uopField w lo 5)
    let (v, t) := evalUop wf c (uopField w 0 6) (w.getLsbD 25) (src 10) (src 15) (src 20) t
    let d := uopField w 6 4
    if d = 8 then runUops wf c e ws temps v t else runUops wf c e ws (temps.set d v) out t

/-- Temporaries of an element before its program (R187). -/
def freshTemps : List Val := List.replicate 8 (Val.zero false)

/-- Convert a constant or broadcast to a floating-point working format (R183, R186). -/
def scalarCvt (g : FloatFmt) (v : Val) : Val :=
  let r := (roundVal g { rnd := .rne, ftz := false, ieee := true } v (tallyFrom 1)).1
  match v with
  | .fin s _ _ => if r.isInf || r.isNan then maxVal g s else r
  | .inf s => if g.special = .ieee then v else maxVal g s
  | .nan _ _ => r

/-- A program constant in the working format (R186). -/
def constVal (wf : Fmt) (w : Word32) : Val :=
  match floatFmt wf with
  | some g => scalarCvt g (valOfF32 w)
  | none => Val.ofInt w.toInt

/-- A broadcast scalar in the working format (R183). -/
def bcastVal (wf : Fmt) (w : Word64) : Val :=
  match floatFmt wf with
  | some g => scalarCvt g (valOfF64 w)
  | none => Val.ofInt (max (-(2 ^ 31)) (min (2 ^ 31 - 1) w.toInt))

/-- A program slot; none if it is empty (R185). -/
def vxSlot (s : State) (n : Nat) : Option Program := Sparse.get none s.vx.slots n

/-- The program a PRE field names; 8 names none. -/
def prePlan (s : State) (pre : BitVec 4) : Option Program := if pre.toNat < 8 then vxSlot s pre.toNat else none

/-! Operands. -/

/-- An input of a VXE instruction: an operand, with its element offset. -/
structure VxIn where
  opd : Opd
  off : Nat
  deriving DecidableEq, Repr

/-- Element count and offsets of a VXD descriptor (Table 10.2). -/
def vxCount (v : Word64) : Nat := field v 0 14

/-- Offset of input `i`. -/
def vxOffset (v : Word64) (i : Nat) : Nat := field v (14 + 13 * i) 13

/-- The input of a slot that is a tile group or a queue. -/
def vxInput (s : State) (r : Option Carried) (v : Slot) (code : BitVec 4) (d : Word64) (i : Nat) : Option VxIn :=
  (slotOpd s r v code).map (fun o => { opd := o, off := vxOffset d i })

/-- An input slot fits: named inputs are tile groups or queues, absent ones only where a broadcast replaces them;
slots beyond the operation's inputs are absent (R238, R415). -/
def inputFits (named mayAbsent : Bool) (v : Slot) : Bool :=
  if slotIsOpd v then named else slotVal v == .absent && (!named || mayAbsent)

/-- N is in range, and an offset belongs to a tile input (Table 10.2). -/
def vxdOk (v : Word64) (ins : List (Option VxIn)) : Bool :=
  zeroAbove v 53 && decide (1 ≤ vxCount v) && decide (vxCount v ≤ 8192) &&
    (List.range 3).all (fun i => vxOffset v i == 0 ||
      (match ins.getD i none with
       | some x => x.opd.queue.isNone
       | none => false))

/-- GROUP is 0 in one-group mode (R179). -/
def groupOk (s : State) (g : Bool) : Bool := s.mould.cfg.vxTwo || !g

/-- The inputs as sources, with the queue rows they pop. -/
def vxSources (ins : List (Option VxIn)) (n : Nat) : List (Opd × Nat) :=
  ins.filterMap (fun x => x.map (fun y => (y.opd, queueRows y.opd.fmt n)))

/-- The tiles that inputs read. -/
def vxReads (ins : List (Option VxIn)) : BitVec 16 :=
  (ins.filterMap id).foldl (fun m x => m ||| opdMask x.opd) 0

/-- The tiles of inputs that do not hold their elements (R181). -/
def vxBad (ins : List (Option VxIn)) (n : Nat) : List Nat :=
  (ins.filterMap id).flatMap (fun x => sourceBad x.opd (x.off + n))

/-- The handle uses of the expansions of the inputs (R135). -/
def vxExpUses (n : Nat) (ins : List (Option VxIn)) : List HandleUse :=
  (ins.filterMap id).flatMap (fun x => opdExpUses x.opd x.off n)

/-- The expansion reads of the inputs. -/
def vxExpPlan (s : State) (n : Nat) (ins : List (Option VxIn)) : List (List Access) :=
  expansionPlan ((ins.filterMap id).flatMap (fun x => opdExpRows s x.opd x.off n))

/-- The tile rows that hold elements `off` to `off + n - 1`. -/
def rangeSegs (x : VxIn) (n : Nat) : List Seg :=
  let a := if fmtIsMx x.opd.fmt then x.off / 32 * fmtUnit x.opd.fmt else x.off * fmtBits x.opd.fmt / 8
  (usedSegs x.opd (x.off + n)).filter (fun g => decide (a < g.start + g.len))

/-- Inputs present their rows on the inputs of a group. -/
def vxTouch (g : Bool) (n : Nat) : List (Option VxIn) → Nat → State → State
  | [], _, s => s
  | none :: xs, i, s => vxTouch g n xs (i + 1) s
  | some x :: xs, i, s => vxTouch g n xs (i + 1) (touchSegs (6 + 3 * (if g then 1 else 0) + i) (rangeSegs x n) s)

/-- A VXE instruction begins; `more` is what it reads beside its inputs. -/
def startVx (g : Bool) (n : Nat) (ins : List (Option VxIn)) (more : List (Opd × List Seg)) (f : Flight) (s : State) :
    State :=
  let os := (ins.filterMap id).map (fun x => (x.opd, rangeSegs x n)) ++ more
  beginWith f (readsOpds s f.id os) (vxTouch g n ins 0) s

/-- The data of the inputs, in slot order. -/
def vxDataFrom (s : State) (f : Flight) (srcs : List (Opd × Nat)) : List (Option VxIn) → Nat → List (Option (SrcData × Nat))
  | [], _ => []
  | none :: xs, i => none :: vxDataFrom s f srcs xs i
  | some x :: xs, i =>
    some (srcData s f.held x.opd (takeRows s f.id srcs i), x.off) :: vxDataFrom s f srcs xs (i + 1)

/-- The data of the inputs. -/
def vxData (s : State) (f : Flight) (ins : List (Option VxIn)) (n : Nat) : List (Option (SrcData × Nat)) :=
  vxDataFrom s f (vxSources ins n) ins 0

/-- An input element in the working format (R182); an INT32 element of a floating-point one is an FP32 value first
(R31). -/
def inputElem (wf : Fmt) (c : RCtx) (int32 : Bool) (v : Val) (t : Tally) : Val × Tally :=
  if int32 && (floatFmt wf).isSome then
    let (w, t) := wfRound .fp32 c v t
    wfRound wf c w t
  else wfRound wf c v t

/-- Element `j` of the inputs in the working format, in input order (R182, R192). -/
def vxElems (wf : Fmt) (c : RCtx) (j : Nat) : List (Option (SrcData × Nat)) → Tally → List Val × Tally
  | [], t => ([], t)
  | none :: xs, t =>
    let (vs, t) := vxElems wf c j xs t
    (Val.zero false :: vs, t)
  | some (d, off) :: xs, t =>
    let (ws, t) := elemsAt d c.ftz (off + j) 1 t
    let (v, t) := inputElem wf c (d.fmt == .int32) (ws.headD (Val.zero false)) t
    let (vs, t) := vxElems wf c j xs t
    (v :: vs, t)

/-- Beats of an instruction (R180, R204). -/
def vxBeats (s : State) (g : Bool) (n p : Nat) : List (Nat × Nat) :=
  [(cntVxBeats g, (n + vxLanesOf s * p - 1) / (vxLanesOf s * p))]

/-! Output (R191, R192). -/

/-- A direct write: DFMT is the working format, SCL is 0 and no AMAX register is named. -/
def isDirect (c : ConvBlk) (df wf : Fmt) : Bool := df == wf && c.scl == 0 && c.amx.getLsbD 3

/-- Outputs as they stand: a NaN counts. -/
def directElems (f : Fmt) : List Val → Tally → List Nat × Tally
  | [], t => ([], t)
  | v :: vs, t =>
    let w := match floatFmt f with
      | some g => encodeFloat g v
      | none => ofSigned (fmtBits f) (intOfVal v)
    let (ws, t) := directElems f vs (if v.isNan then t.nans 1 else t)
    (w :: ws, t)

/-- The output conversion of one block of elements: encodings and block scale. -/
def outBlock (c : ConvBlk) (df wf : Fmt) (vs : List Val) (t : Tally) : List Nat × Bytes × Tally :=
  if isDirect c df wf then
    let (ws, t) := directElems df vs t
    (ws, [], t)
  else
    let us := vs.map (scalePow2 c.scl.toInt)
    if fmtIsMx df then
      let (x, ws, t) := encodeBlock df (convCtx false c) us t
      (ws ++ List.replicate (32 - ws.length) 0, [x], t)
    else
      let (ws, t) := encodeElems df (convCtx false c) us t
      (ws, [], t)

/-- Compute elements in ascending order, carrying a running value. -/
def runElems (elem : Val → Nat → Tally → Val × Val × Tally) : List Nat → Val → Tally → List Val × Val × Tally
  | [], a, t => ([], a, t)
  | j :: js, a, t =>
    let (v, a, t) := elem a j t
    let (vs, a, t) := runElems elem js a t
    (v :: vs, a, t)

/-- What a run of output blocks leaves: the values before conversion, the encodings and scales, the running
value, the tally. -/
structure OutRun where
  vals : List Val
  words : List Nat
  scales : Bytes
  last : Val
  tally : Tally
  deriving DecidableEq, Repr

/-- Compute and convert block by block: 32 elements for an MX destination, else one (R192). -/
def runBlocks (elem : Val → Nat → Tally → Val × Val × Tally) (out : List Val → Tally → List Nat × Bytes × Tally) :
    List (List Nat) → Val → Tally → OutRun
  | [], a, t => { vals := [], words := [], scales := [], last := a, tally := t }
  | b :: bs, a, t =>
    let (vs, a, t) := runElems elem b a t
    let (ws, xs, t) := out vs t
    let r := runBlocks elem out bs a t
    { r with vals := vs ++ r.vals, words := ws ++ r.words, scales := xs ++ r.scales }

/-- The elements of an instruction, converted to its destination. -/
def runVx (c : ConvBlk) (df wf : Fmt) (n : Nat) (elem : Val → Nat → Tally → Val × Val × Tally) (a : Val) (t : Tally) :
    OutRun :=
  runBlocks elem (outBlock c df wf) (chunks (if fmtIsMx df then 32 else 1) n (List.range n)) a t

/-- Commit of a VXE instruction with a destination. -/
def vxCommit (c : ConvBlk) (df wf : Fmt) (d : Opd) (r : OutRun) (cs : List (Nat × Nat)) (f : Flight) : Commit :=
  let m := tallyCommit (convSr c) r.tally { f.commit with
    amax := if isDirect c df wf then none else convAmax c r.vals
    counters := cs }
  deliver d df (pack (fmtBits df) r.words) r.scales m

/-- The destination's format where a destination tile does not have it (Table 08.5). -/
def vxDestFmt (o : Opd) (df : Fmt) : Option Fmt :=
  if o.queue.isSome || o.cfgs.all (fun p => codeFmt p.2.fmt == df) then none else some df

/-! VX.EW and EP.RUN. -/

/-- The parts that VX.EW and EP.RUN share: input slots and formats, the destination slot, the group, the
registers. -/
structure EwArgs where
  vxd : Reg
  bb : Reg
  i0 : Slot
  i1 : Slot
  i2 : Slot
  d : Slot
  group : Bool
  f0 : BitVec 4
  f1 : BitVec 4
  f2 : BitVec 4
  conv : ConvBlk
  deriving DecidableEq, Repr

/-- The shared parts of VX.EW. -/
def ewArgs (a : VxEwArgs) : EwArgs :=
  { vxd := a.vxd, bb := a.bb, i0 := a.i0, i1 := a.i1, i2 := a.i2, d := a.d, group := a.group,
    f0 := a.f0, f1 := a.f1, f2 := a.f2, conv := a.conv }

/-- The shared parts of EP.RUN. -/
def epArgs (a : EpRunArgs) : EwArgs :=
  { vxd := a.vxd, bb := a.bb, i0 := a.i0, i1 := a.i1, i2 := a.i2, d := a.d, group := a.group,
    f0 := a.f0, f1 := a.f1, f2 := a.f2, conv := a.conv }

/-- The shape records of a TDC-3 VX.EW. -/
structure EwCarried where
  i0 : Option Carried
  i1 : Option Carried
  i2 : Option Carried
  d : Carried
  deriving DecidableEq, Repr

/-- The first `nin` inputs. -/
def ewInputs (s : State) (c : Option EwCarried) (a : EwArgs) (nin : Nat) (d : Word64) : List (Option VxIn) :=
  ([vxInput s (c.bind (fun x => x.i0)) a.i0 a.f0 d 0, vxInput s (c.bind (fun x => x.i1)) a.i1 a.f1 d 1,
    vxInput s (c.bind (fun x => x.i2)) a.i2 a.f2 d 2]).take nin

/-- Destination format. -/
def ewDfmt (c : Option EwCarried) (a : EwArgs) : Fmt := (c.map (fun x => x.d.fmt)).getD (codeFmt a.conv.dfmt)

/-- The destination, with the rows it pushes. -/
def ewDest (s : State) (c : Option EwCarried) (a : EwArgs) (n : Nat) : Opd × Nat :=
  let o := opdOf s (c.map (fun x => x.d)) a.d a.conv.dfmt
  let df := ewDfmt c a
  ({ o with fmt := if o.queue.isSome then df else o.fmt }, queueRows df n)

/-- The registers of the broadcasts (Table 21.7 BB). -/
def bcastRegs (bb : Reg) : List Reg :=
  if bb = 0 then [0, 0, 0, 0] else (List.range 4).map (fun k => bb + BitVec.ofNat 5 k)

/-- Positions of the operands in FVAL (R420): GROUP, AMX, VXD, B0, I0, D. -/
structure EwPos where
  group : Nat
  amx : Nat
  vxd : Nat
  b0 : Nat
  i0 : Nat
  d : Nat
  deriving DecidableEq, Repr

/-- VX.EW and EP.RUN at issue, after their own checks: `nin` inputs, working format `w`; `wfBad` is the working
format where it is not accepted. -/
def issueElementwise (i : Instr) (c : Option EwCarried) (t : Thread) (a : EwArgs) (nin : Nat) (w : Fmt)
    (wfBad : Option Fmt) (mayAbsent : Bool) (slot : Option (BitVec 3)) (ps : EwPos) (s : State) : Chk Verdict := do
  regsReady t (a.vxd :: bcastRegs a.bb) s
  let d := sreg t a.vxd s
  let ins := ewInputs s c a nin d
  let n := vxCount d
  let od := opdOf s (c.map (fun x => x.d)) a.d a.conv.dfmt
  tilesReady (vxReads ins) (opdMask od) s
  let df := ewDfmt c a
  paramsOk [(groupOk s a.group, ps.group), (!a.conv.amx.getLsbD 3 || isDirect a.conv df w, ps.amx),
    (vxdOk d ins, ps.vxd), (decide (a.bb.toNat < 29), ps.b0),
    (inputFits (decide (0 < nin)) mayAbsent a.i0, ps.i0), (inputFits (decide (1 < nin)) mayAbsent a.i1, ps.i0 + 1),
    (inputFits (decide (2 < nin)) mayAbsent a.i2, ps.i0 + 2), (slotIsOpd a.d, ps.d)]
  let srcs := vxSources ins n
  let dst := ewDest s c a n
  queuesOk t srcs [dst] s
  queuesReady srcs [dst] s
  engineReady t (.vxe a.group) s
  sourcesFull ((ins.filterMap id).map (fun x => x.opd)) s
  formatsOk [(2, wfBad), (ps.d, if c.isNone then vxDestFmt od df else none)]
  shapesOk (vxBad ins n ++ shapeBad dst.1 df n)
  let _ ← handlesOk t (vxExpUses n ins) s
  let fl := newFlight t i (.vxe a.group) s
  let f := { fl with
    tileOp := vxReads ins != 0 || opdMask od != 0, rdTiles := vxReads ins, wrTiles := opdMask od
    sr := convSr a.conv, slot := slot, opv := d :: (bcastRegs a.bb).map (fun r => sreg t r s)
    acts := vxExpPlan s n ins }
  return launch f (startVx a.group n ins []) (reserveQueues fl.id srcs [dst] s)

/-- The element function of a program (R187, R190). -/
def programElem (wf : Fmt) (c : RCtx) (ds : List (Option (SrcData × Nat))) (bs cs : List Val) (us : List Word32)
    (a : Val) (j : Nat) (t : Tally) : Val × Val × Tally :=
  let (vs, t) := vxElems wf c j ds t
  let (v, t) := runUops wf c { ins := vs, bcast := bs, consts := cs } us freshTemps (Val.zero false) t
  (v, a, t)

/-- VX.EW and EP.RUN complete. -/
def finishElementwise (c : Option EwCarried) (a : EwArgs) (nin : Nat) (wf : Fmt) (us consts : List Word32) (f : Flight)
    (s : State) : State :=
  let d := opVal f 0
  let n := vxCount d
  let ins := ewInputs s c a nin d
  let bs := (f.opv.drop 1).map (bcastVal wf)
  let df := ewDfmt c a
  let elem := programElem wf (convCtx false a.conv) (vxData s f ins n) bs (consts.map (constVal wf)) us
  let r := runVx a.conv df wf n elem (Val.zero false) (tallyFrom (getThread f.thread s).lfsr)
  let (o, _) := ewDest s c a n
  commitAll { f with commit := vxCommit a.conv df wf o r (vxBeats s a.group n ((wfPack wf).getD 1)) f } s

/-- Inputs of VX.EW (R238). -/
def ewNin (a : VxEwArgs) : Nat := (uopArity a.uop.toNat).getD 0

/-- The micro-operation of VX.EW as a word: an absent input is replaced by its broadcast (chapter 21). -/
def ewWord (a : VxEwArgs) : Word32 :=
  let src (v : Slot) (i : Nat) : Nat := match slotVal v with
    | .absent => 11 + i
    | _ => i
  BitVec.ofNat 32 (a.uop.toNat + 64 * 8 + 2 ^ 10 * src a.i0 0 + 2 ^ 15 * src a.i1 1 + 2 ^ 20 * src a.i2 2 +
    (if a.num then 2 ^ 25 else 0))

/-- The working format of VX.EW where it is none, or its micro-operation is not legal in it (R180). -/
def ewWf (a : VxEwArgs) : Option Fmt :=
  if (wfPack (codeFmt a.wf)).isSome && uopLegal a.uop.toNat (codeFmt a.wf) then none else some (codeFmt a.wf)

/-- VX.EW at issue. -/
def issueEw (i : Instr) (c : Option EwCarried) (t : Thread) (a : VxEwArgs) (s : State) : Verdict := verdict do
  onlyThread t .tx
  slotsLegal [a.i0, a.i1, a.i2, a.d]
  codesLegal [a.wf, a.f0, a.f1, a.f2]
  convLegal a.conv
  need (uopArity a.uop.toNat).isSome illegal
  enginePresent 2 s
  issueElementwise i c t (ewArgs a) (ewNin a) (codeFmt a.wf) (ewWf a) true none
    { group := 3, amx := 8, vxd := 15, b0 := 16, i0 := 20, d := 23 } s

/-- VX.EW completes. -/
def finishEw (c : Option EwCarried) (a : VxEwArgs) (f : Flight) (s : State) : State :=
  finishElementwise c (ewArgs a) (ewNin a) (codeFmt a.wf) [ewWord a] [] f s

/-- EP.RUN at issue (R190). -/
def issueEpRun (t : Thread) (a : EpRunArgs) (s : State) : Verdict := verdict do
  onlyThread t .tx
  slotsLegal [a.i0, a.i1, a.i2, a.d]
  codesLegal [a.f0, a.f1, a.f2]
  convLegal a.conv
  enginePresent 2 s
  match vxSlot s a.slot.toNat with
  | none => .error (paramRange 0)
  | some p =>
    issueElementwise (.epRun t a) none t (epArgs a) p.nin (codeFmt p.wf) none false (some a.slot)
      { group := 1, amx := 6, vxd := 13, b0 := 14, i0 := 18, d := 21 } s

/-- EP.RUN completes. -/
def finishEpRun (a : EpRunArgs) (f : Flight) (s : State) : State :=
  match vxSlot s a.slot.toNat with
  | none => s
  | some p => finishElementwise none (epArgs a) p.nin (codeFmt p.wf) p.uops p.consts f s

/-! PRE programs, reductions and scans. -/

/-- A PRE program fits: present, one input, the working format wanted (R195, R203). -/
def preOk (s : State) (pre : BitVec 4) (ok : Fmt → Bool) : Bool :=
  pre == 8 ||
    match prePlan s pre with
    | some p => p.nin == 1 && ok (codeFmt p.wf)
    | none => false

/-- The slot a PRE field uses. -/
def preSlot (pre : BitVec 4) : Option (BitVec 3) := if pre.toNat < 8 then some (pre.setWidth 3) else none

/-- An element after its PRE program; broadcasts read +0 (R195). -/
def preElem (wf : Fmt) (c : RCtx) (pre : Option Program) (ds : List (Option (SrcData × Nat))) (j : Nat) (t : Tally) :
    Val × Tally :=
  let (vs, t) := vxElems wf c j ds t
  match pre with
  | none => (vs.headD (Val.zero false), t)
  | some p =>
    runUops wf c { ins := vs, bcast := [], consts := p.consts.map (constVal wf) } p.uops freshTemps (Val.zero false) t

/-- Rounding of a reduction. -/
def redCtx (a : VxRedArgs) : RCtx := { rnd := (rndOfCode a.rnd).getD .rne, ftz := a.ftz, ieee := a.ieee }

/-- The working format of a reduction or scan (R193, R194). -/
def redWf (s : State) (op : BitVec 4) (pre : BitVec 4) (f : Fmt) : Fmt :=
  if 6 ≤ op.toNat then
    match prePlan s pre with
    | some p => codeFmt p.wf
    | none => if f = .int32 then .int32 else .fp32
  else if 3 ≤ op.toNat then .int32 else .fp32

/-- Working formats that a PRE program of this operation may have. -/
def redPreFmt (op : BitVec 4) (f : Fmt) : Bool :=
  if 6 ≤ op.toNat then f == .fp32 || f == .int32 else if 3 ≤ op.toNat then f == .int32 else f == .fp32

/-- Put an element into its lane (R52): an ADD rounds, a lane's first element passes unchanged. -/
def laneAdd (c : RCtx) (k : Nat) (v : Val) (lanes : List (Option Val)) (t : Tally) : List (Option Val) × Tally :=
  match lanes.getD k none with
  | none => (lanes.set k (some v), t)
  | some x =>
    let (y, t) := wfRound .fp32 c (addExact c.rnd x v) t
    (lanes.set k (some y), t)

/-- One level of the pairwise tree; an empty side passes the other through (R52). -/
def treeLevel (c : RCtx) : List (Option Val) → Tally → List (Option Val) × Tally
  | a :: b :: xs, t =>
    let (v, t) := match a, b with
      | some x, some y =>
        let (z, t) := wfRound .fp32 c (addExact c.rnd x y) t
        (some z, t)
      | some x, none => (some x, t)
      | none, y => (y, t)
    let (vs, t) := treeLevel c xs t
    (v :: vs, t)
  | xs, t => (xs, t)

/-- The pairwise tree. -/
def treeAdd (c : RCtx) : Nat → List (Option Val) → Tally → Val × Tally
  | 0, xs, t => ((xs.headD none).getD (Val.zero false), t)
  | fuel + 1, xs, t =>
    if xs.length ≤ 1 then ((xs.headD none).getD (Val.zero false), t)
    else
      let (ys, t) := treeLevel c xs t
      treeAdd c fuel ys t

/-- The elements of a reduction, with the lanes of an ADD. -/
def redElems (wf : Fmt) (c : RCtx) (add : Bool) (l : Nat) (pre : Option Program) (ds : List (Option (SrcData × Nat))) :
    List Nat → List (Option Val) → Tally → List Val × List (Option Val) × Tally
  | [], ls, t => ([], ls, t)
  | j :: js, ls, t =>
    let (v, t) := preElem wf c pre ds j t
    let (ls, t) := if add then laneAdd c (j % l) v ls t else (ls, t)
    let (vs, ls, t) := redElems wf c add l pre ds js ls t
    (v :: vs, ls, t)

/-- MAX or MIN of elements: the lowest-indexed NaN where one is returned (R193). -/
def selectVal (isMax num : Bool) (vs : List Val) : Val :=
  let nums := vs.filter (fun v => !v.isNan)
  if (vs.any Val.isNan && !num) || nums.isEmpty then (firstNan vs).getD (Val.zero false)
  else
    match nums with
    | [] => Val.zero false
    | v :: rest => rest.foldl (minMaxVal isMax false) v

/-- Is `a` strictly preferred to `b` in the order of R36. -/
def prefers (isMax : Bool) (a b : Val) : Bool := if isMax then belowVal b a else belowVal a b

/-- Index of the selected element (R194), from index `j` on. -/
def argBest (isMax num : Bool) : List Val → Nat → Option (Val × Nat) → Option (Val × Nat)
  | [], _, best => best
  | v :: vs, j, best =>
    if v.isNan then (if num then argBest isMax num vs (j + 1) best else some (v, j))
    else
      match best with
      | none => argBest isMax num vs (j + 1) (some (v, j))
      | some b => argBest isMax num vs (j + 1) (if prefers isMax v b.1 then some (v, j) else some b)

/-- A value in the format of R76. -/
def resultWord (wf : Fmt) (v : Val) : Word64 :=
  if wf = .int32 then BitVec.ofInt 64 (intOfVal v) else widenF32 (f32OfVal v)

/-- The result of a reduction and its counts (R193 to R195). -/
def redResult (op : BitVec 4) (num : Bool) (wf : Fmt) (c : RCtx) (vs : List Val) (ls : List (Option Val)) (t : Tally) :
    Word64 × Tally :=
  let nan (v : Val) (t : Tally) : Tally := if v.isNan then t.nans 1 else t
  match op.toNat with
  | 0 =>
    let (v, t) := treeAdd c 16 ls t
    (resultWord wf v, nan v t)
  | 1 =>
    let v := selectVal true num vs
    (resultWord wf v, nan v t)
  | 2 =>
    let v := selectVal false num vs
    (resultWord wf v, nan v t)
  | 3 =>
    let (i, t) := roundInt 32 .rne (Val.ofInt ((vs.map intOfVal).sum)) t
    (BitVec.ofInt 64 i, t)
  | 4 => (BitVec.ofInt 64 ((vs.map intOfVal).foldl max (-(2 ^ 31))), t)
  | 5 => (BitVec.ofInt 64 ((vs.map intOfVal).foldl min (2 ^ 31 - 1)), t)
  | n => (BitVec.ofNat 64 (((argBest (n == 6) num vs 0 none).map (fun b => b.2)).getD 0), t)

/-- The only input of a reduction, scan or conversion. -/
def oneInput (s : State) (r : Option Carried) (v : Slot) (code : BitVec 4) (d : Word64) : List (Option VxIn) :=
  [vxInput s r v code d 0]

/-- Reserve an entry of a token queue for a reduction (R69). -/
def reserveToken (fid k : Nat) (s : State) : State :=
  setTokens k (tokenEntries s k ++ [{ prod := some fid, val := none }]) s

/-- VX.RED at issue. -/
def issueRed (i : Instr) (r : Option Carried) (t : Thread) (a : VxRedArgs) (s : State) : Verdict := verdict do
  onlyThread t .tx
  slotsLegal [a.i0]
  codesLegal [a.f0]
  need (decide (a.op.toNat ≤ 7) && (rndOfCode a.rnd).isSome) illegal
  enginePresent 2 s
  let token := a.kqx.getLsbD 2
  let k := a.kqx.toNat % 4
  regsReady t [a.vxd, a.sd] s
  let d := sreg t a.vxd s
  let ins := oneInput s r a.i0 a.f0 d
  let n := vxCount d
  tilesReady (vxReads ins) 0 s
  paramsOk [(preOk s a.pre (redPreFmt a.op), 1), (groupOk s a.group, 2), (vxdOk d ins, 7),
    (inputFits true false a.i0, 8), (!token || a.sd == 0, 9)]
  let srcs := vxSources ins n
  queuesOk t srcs [] s
  need (!token || tokenProducer s k == t) (queueFault (8 + k))
  queuesReady srcs [] s
  need (!token || decide ((tokenEntries s k).length < 32)) (.wait (.queue (BitVec.ofNat 4 (8 + k))))
  engineReady t (.vxe a.group) s
  sourcesFull ((ins.filterMap id).map (fun x => x.opd)) s
  shapesOk (vxBad ins n)
  let _ ← handlesOk t (vxExpUses n ins) s
  let fl := newFlight t i (.vxe a.group) s
  let f := { fl with
    tileOp := vxReads ins != 0, rdTiles := vxReads ins, sr := rndOfCode a.rnd == some .sr
    slot := preSlot a.pre, dests := if token then [] else [a.sd], opv := [d], acts := vxExpPlan s n ins }
  let s := reserveQueues fl.id srcs [] s
  return launch f (startVx a.group n ins []) (if token then reserveToken fl.id k s else s)

/-- VX.RED completes. -/
def finishRed (r : Option Carried) (a : VxRedArgs) (f : Flight) (s : State) : State :=
  let d := opVal f 0
  let n := vxCount d
  let ins := oneInput s r a.i0 a.f0 d
  let fm := ((ins.headD none).map (fun x => x.opd.fmt)).getD .fp32
  let wf := redWf s a.op a.pre fm
  let l := vxLanesOf s
  let (vs, ls, t) := redElems wf (redCtx a) (a.op == 0) l (prePlan s a.pre) (vxData s f ins n) (List.range n)
    (List.replicate l none) (tallyFrom (getThread f.thread s).lfsr)
  let (w, t) := redResult a.op a.num wf (redCtx a) vs ls t
  let token := a.kqx.getLsbD 2
  let c := tallyCommit (rndOfCode a.rnd == some .sr) t { f.commit with
    regs := if token then [] else [(a.sd, w)]
    token := if token then some w else none
    counters := vxBeats s a.group n 1 }
  commitAll { f with commit := c } s

/-- Positions of the operands of a scan. -/
structure ScanPos where
  tot : Nat
  i0 : Nat
  mask : Nat
  d : Nat
  deriving DecidableEq, Repr

/-- Positions for VX.SCAN and VX.SEGSCAN (R420). -/
def scanPos (seg : Bool) : ScanPos :=
  if seg then { tot := 14, i0 := 15, mask := 16, d := 17 } else { tot := 14, i0 := 15, mask := 16, d := 16 }

/-- The destination of a scan or conversion, with the rows it pushes. -/
def convDest (s : State) (r : Option Carried) (v : Slot) (c : ConvBlk) (n : Nat) : Opd × Nat :=
  let df := (r.map (fun x => x.fmt)).getD (codeFmt c.dfmt)
  (opdOf s r v c.dfmt, queueRows df n)

/-- The mask tiles of a segmented scan. -/
def scanMask (s : State) (seg : Bool) (v : Slot) : Opd :=
  if seg then (tilesOpd s none v).getD Opd.none else Opd.none

/-- Bytes that the tiles of an operand hold. -/
def opdBytes (o : Opd) : Nat := (o.cfgs.map (fun p => tileRows p.2 * tileBytes p.2)).sum

/-- The tile rows that hold the first `n` bytes. -/
def byteSegs (o : Opd) (n : Nat) : List Seg := (opdSegs o).filter (fun g => decide (g.start < n))

/-- VX.SCAN and VX.SEGSCAN at issue. -/
def issueScan (i : Instr) (seg : Bool) (t : Thread) (a : VxScanArgs) (s : State) : Verdict := verdict do
  onlyThread t .tx
  slotsLegal (if seg then [a.i0, a.mask, a.d] else [a.i0, a.d])
  codesLegal [a.f0]
  convLegal a.conv
  need (decide (a.op.toNat ≤ 5)) illegal
  enginePresent 2 s
  let ps := scanPos seg
  let om := scanMask s seg a.mask
  let od := opdOf s none a.d a.conv.dfmt
  regsReady t [a.vxd, a.b0, a.tot] s
  let d := sreg t a.vxd s
  let ins := oneInput s none a.i0 a.f0 d
  let n := vxCount d
  let rd := vxReads ins ||| opdMask om
  tilesReady rd (opdMask od) s
  paramsOk [(preOk s a.pre (redPreFmt a.op), 1), (groupOk s a.group, 2), (!a.conv.amx.getLsbD 3, 7),
    (vxdOk d ins, 12), (inputFits true false a.i0, ps.i0), (!seg || slotIsTiles a.mask, ps.mask), (slotIsOpd a.d, ps.d)]
  let srcs := vxSources ins n
  let dst := convDest s none a.d a.conv n
  queuesOk t srcs [dst] s
  queuesReady srcs [dst] s
  engineReady t (.vxe a.group) s
  sourcesFull (om :: (ins.filterMap id).map (fun x => x.opd)) s
  formatsOk [(ps.d, vxDestFmt od (codeFmt a.conv.dfmt))]
  shapesOk (vxBad ins n ++ (if !seg || decide ((n + 7) / 8 ≤ opdBytes om) then [] else (opdTiles om).take 1) ++
    shapeBad od (codeFmt a.conv.dfmt) n)
  let _ ← handlesOk t (vxExpUses n ins) s
  let fl := newFlight t i (.vxe a.group) s
  let f := { fl with
    tileOp := rd != 0 || opdMask od != 0, rdTiles := rd, wrTiles := opdMask od, sr := convSr a.conv
    slot := preSlot a.pre, dests := [a.tot], opv := [d, sreg t a.b0 s], acts := vxExpPlan s n ins }
  let begin_ (f : Flight) (s : State) : State :=
    startVx a.group n ins [(om, byteSegs om ((n + 7) / 8))] f
      (touchSegs (7 + 3 * (if a.group then 1 else 0)) (byteSegs om ((n + 7) / 8)) s)
  return launch f begin_ (reserveQueues fl.id srcs [dst] s)

/-- One step of a scan (R196): rounded for ADD, saturated for IADD. -/
def scanCombine (op : BitVec 4) (c : RCtx) (a x : Val) (t : Tally) : Val × Tally :=
  match op.toNat with
  | 0 => wfRound .fp32 c (addExact c.rnd a x) t
  | 1 => (minMaxVal true false a x, t)
  | 2 => (minMaxVal false false a x, t)
  | 3 => wfRound .int32 c (Val.ofInt (intOfVal a + intOfVal x)) t
  | 4 => (Val.ofInt (max (intOfVal a) (intOfVal x)), t)
  | _ => (Val.ofInt (min (intOfVal a) (intOfVal x)), t)

/-- The identity of a scan's operation (R197). -/
def scanIdentity (op : BitVec 4) : Val :=
  match op.toNat with
  | 1 => .inf true
  | 2 => .inf false
  | 4 => Val.ofInt (-(2 ^ 31))
  | 5 => Val.ofInt (2 ^ 31 - 1)
  | _ => Val.zero false

/-- Bit `j` of a mask stream (R197). -/
def maskBit (bs : Bytes) (j : Nat) : Bool := (bs.getD (j / 8) 0).getLsbD (j % 8)

/-- The element function of a scan; the running value is the inclusive combination so far. -/
def scanElem (a : VxScanArgs) (wf : Fmt) (pre : Option Program) (mask : Bytes) (ds : List (Option (SrcData × Nat)))
    (acc : Val) (j : Nat) (t : Tally) : Val × Val × Tally :=
  let c := convCtx false a.conv
  let (x, t) := preElem wf c pre ds j t
  if maskBit mask j then (if a.exc then scanIdentity a.op else x, x, t)
  else
    let (v, t) := scanCombine a.op c acc x t
    (if a.exc then acc else v, v, t)

/-- VX.SCAN and VX.SEGSCAN complete. -/
def finishScan (seg : Bool) (a : VxScanArgs) (f : Flight) (s : State) : State :=
  let d := opVal f 0
  let n := vxCount d
  let ins := oneInput s none a.i0 a.f0 d
  let wf := redWf s a.op a.pre .fp32
  let df := codeFmt a.conv.dfmt
  let om := scanMask s seg a.mask
  let mask := groupStream s (opdSegs om)
  let elem := scanElem a wf (prePlan s a.pre) mask (vxData s f ins n)
  let r := runVx a.conv df wf n elem (bcastVal wf (opVal f 1)) (tallyFrom (getThread f.thread s).lfsr)
  let (o, _) := convDest s none a.d a.conv n
  let c := vxCommit a.conv df wf o r (vxBeats s a.group n 1) f
  commitAll { f with commit := { c with regs := [(a.tot, resultWord wf r.last)] } } s

/-! CVT. -/

/-- CVT at issue (R199); the shapes of a TDC-3 form. -/
def issueCvt (i : Instr) (ri rd : Option Carried) (t : Thread) (a : CvtArgs) (s : State) : Verdict := verdict do
  onlyThread t .tx
  slotsLegal [a.i0, a.d]
  codesLegal [a.f0]
  convLegal a.conv
  enginePresent 2 s
  let od := opdOf s rd a.d a.conv.dfmt
  regsReady t [a.vxd] s
  let d := sreg t a.vxd s
  let ins := oneInput s ri a.i0 a.f0 d
  let n := vxCount d
  tilesReady (vxReads ins) (opdMask od) s
  paramsOk [(groupOk s a.group, 0), (!a.conv.amx.getLsbD 3, 5), (vxdOk d ins, 10), (inputFits true false a.i0, 11),
    (slotIsOpd a.d, 12)]
  let srcs := vxSources ins n
  let dst := convDest s rd a.d a.conv n
  let df := (rd.map (fun x => x.fmt)).getD (codeFmt a.conv.dfmt)
  queuesOk t srcs [dst] s
  queuesReady srcs [dst] s
  engineReady t (.vxe a.group) s
  sourcesFull ((ins.filterMap id).map (fun x => x.opd)) s
  formatsOk [(12, if rd.isNone then vxDestFmt od df else none)]
  shapesOk (vxBad ins n ++ shapeBad od df n)
  let _ ← handlesOk t (vxExpUses n ins) s
  let fl := newFlight t i (.vxe a.group) s
  let f := { fl with
    tileOp := vxReads ins != 0 || opdMask od != 0, rdTiles := vxReads ins, wrTiles := opdMask od
    sr := convSr a.conv, opv := [d], acts := vxExpPlan s n ins }
  return launch f (startVx a.group n ins []) (reserveQueues fl.id srcs [dst] s)

/-- An element of CVT: decoded exactly, a flushed input counted (R29, R41). -/
def cvtElem (ftz : Bool) (d : SrcData) (off : Nat) (a : Val) (j : Nat) (t : Tally) : Val × Val × Tally :=
  let (vs, t) := elemsAt d ftz (off + j) 1 t
  (vs.headD (Val.zero false), a, t)

/-- Elements a lane holds in CVT (R199). -/
def cvtPack (a b : Fmt) : Nat :=
  let w := max (fmtBits a) (fmtBits b)
  if w ≤ 8 then 4 else if w ≤ 16 then 2 else 1

/-- CVT completes. -/
def finishCvt (ri rd : Option Carried) (a : CvtArgs) (f : Flight) (s : State) : State :=
  let d := opVal f 0
  let n := vxCount d
  let ins := oneInput s ri a.i0 a.f0 d
  let df := (rd.map (fun x => x.fmt)).getD (codeFmt a.conv.dfmt)
  match (vxData s f ins n).headD none with
  | none => s
  | some (sd, off) =>
    -- CVT always converts: the working format given here is never the destination's.
    let r := runVx a.conv df .fp32 n (cvtElem a.conv.ftz sd off) (Val.zero false)
      (tallyFrom (getThread f.thread s).lfsr)
    let (o, _) := convDest s rd a.d a.conv n
    commitAll { f with commit := vxCommit a.conv df .fp32 o r (vxBeats s a.group n (cvtPack sd.fmt df)) f } s

/-! EP.LOAD. -/

/-- A micro-op word is legal in a program (R185, R417). -/
def uopWordOk (wf : Fmt) (nin : Nat) (w : Word32) : Bool :=
  let code := uopField w 0 6
  match uopArity code with
  | none => false
  | some k =>
    let srcs := ([uopField w 10 5, uopField w 15 5, uopField w 20 5]).take k
    uopLegal code wf && decide (uopField w 6 4 ≤ 8) && uopField w 26 6 == 0 &&
      srcs.all (fun x => decide (x ≤ 24) && (decide (3 ≤ x) || decide (x < nin)))

/-- 32-bit words of a byte string. -/
def wordsOf (bs : Bytes) : List Word32 := (chunks 4 bs.length bs).map (fun b => BitVec.ofNat 32 (leNat b))

/-- The program of the three rows of an image; none if it is rejected (R185, Table 08.2). -/
def programOf (a b c : Bytes) : Option Program :=
  let len := (c.getD 0 0).toNat
  let wfc := (c.getD 1 0).toNat
  let nin := (c.getD 2 0).toNat
  let us := (wordsOf a ++ wordsOf (b.take 32)).take len
  let wf := codeFmt (BitVec.ofNat 4 wfc)
  if decide (1 ≤ len) && decide (len ≤ 24) && decide (wfc < 16) && (fmtOfCode (BitVec.ofNat 4 wfc)).isSome &&
      (wfPack wf).isSome && decide (nin ≤ 3) && (c.drop 3).all (fun x => x == 0) &&
      us.all (uopWordOk wf nin) && (us.getLast?.map (fun w => uopField w 6 4)) == some 8 then
    some { wf := BitVec.ofNat 4 wfc, nin := nin, uops := us, consts := wordsOf (b.drop 32) }
  else none

/-- EP.LOAD (R185, R186, R251). -/
def issueEpLoad (t : Thread) (slot : BitVec 3) (tile : BitVec 4) (s : State) : Verdict := verdict do
  onlyThread t .tx
  enginePresent 2 s
  let n := tile.toNat
  need (decide (n ≤ 13)) (paramRange 1)
  let ts := [n, n + 1, n + 2]
  tilesReady (tileMask ts) 0 s
  need (!(liveFlights s).any (fun f => f.slot == some slot)) (.wait .interlock)
  tilesFull ts s
  match meets s (.vxe false) (fun l => match l with
    | .tile k r _ => ts.contains k && r == 0
    | _ => false) with
  | some l => return .jump (logEvent 0x204 (parityDetail l t) (stopThread t s)) (getThread t s).pc
  | none =>
    match programOf (tileRow s n 0) (tileRow s (n + 1) 0) (tileRow s (n + 2) 0) with
    | none => .error (paramRange 1)
    | some p =>
      let s := ts.foldl (fun s k => cacheRow k 0 s) s
      return .go { s with vx := { s.vx with slots := Sparse.set none s.vx.slots slot.toNat (some p) } }

/-! The meanings. -/

/-- VX.EW. -/
def execVxEw (t : Thread) (a : VxEwArgs) (s : State) : Out := .next (issue t 2 (issueEw (.vxEw t a) none t a) s)

/-- EP.RUN. -/
def execEpRun (t : Thread) (a : EpRunArgs) (s : State) : Out := .next (issue t 2 (issueEpRun t a) s)

/-- VX.RED. -/
def execVxRed (t : Thread) (a : VxRedArgs) (s : State) : Out := .next (issue t 2 (issueRed (.vxRed t a) none t a) s)

/-- VX.SCAN. -/
def execVxScan (t : Thread) (a : VxScanArgs) (s : State) : Out :=
  .next (issue t 2 (issueScan (.vxScan t a) false t a) s)

/-- VX.SEGSCAN. -/
def execVxSegscan (t : Thread) (a : VxScanArgs) (s : State) : Out :=
  .next (issue t 2 (issueScan (.vxSegscan t a) true t a) s)

/-- CVT. -/
def execCvt (t : Thread) (a : CvtArgs) (s : State) : Out := .next (issue t 2 (issueCvt (.cvt t a) none none t a) s)

/-- EP.LOAD. -/
def execEpLoad (t : Thread) (slot : BitVec 3) (tile : BitVec 4) (s : State) : Out :=
  .next (issue t 1 (issueEpLoad t slot tile) s)

end Sys2Proof.Machine
end

