-- ==== Sys2Proof/Machine/Glaze.lean ====
section
/-! DEFINITION. Glaze: GLZ.STEP and GLZ.ROWS (chapter 11, R239 to R249, R256 to R270). -/

namespace Sys2Proof.Machine

/-- A parameter group. -/
def getGroup (s : State) (g : Nat) : Group := Sparse.get Group.reset s.glz.groups g

/-- Replace a parameter group. -/
def setGroup (g : Nat) (e : Group) (s : State) : State :=
  { s with glz := { s.glz with groups := Sparse.set Group.reset s.glz.groups g e } }

/-! Arithmetic (R259 to R264). -/

/-- Step and multiplier of a curve point (Table 11.2). -/
def curvePoint (row : Bytes) (k : Nat) : Nat × Val :=
  (leNat ((row.drop (8 * k)).take 4), valOfF32 (BitVec.ofNat 32 (leNat ((row.drop (8 * k + 4)).take 4))))

/-- The steps of a curve row never decrease (R258). -/
def curveOk (row : Bytes) : Bool :=
  (List.range 63).all (fun k => decide ((curvePoint row k).1 ≤ (curvePoint row (k + 1)).1))

/-- The multiplier at a step (R259). -/
def curveMult (row : Bytes) (t : Nat) : Val :=
  if t ≤ (curvePoint row 0).1 then (curvePoint row 0).2
  else if (curvePoint row 63).1 ≤ t then (curvePoint row 63).2
  else
    match (List.range 63).find? (fun k => decide ((curvePoint row k).1 ≤ t) && decide (t < (curvePoint row (k + 1)).1)) with
    | none => (curvePoint row 63).2
    | some k =>
      let (a, ma) := curvePoint row k
      let (b, mb) := curvePoint row (k + 1)
      let f := rneS (divExact (Val.ofInt (t - a : Nat)) (Val.ofInt (b - a : Nat)))
      rneS (fmaExact .rne (rneS (subExact .rne mb ma)) f ma)

/-- A power by squaring from bit `i - 1` down (R263). -/
def glzPow (beta : Val) (n : Nat) : Nat → Val → Val
  | 0, p => p
  | i + 1, p =>
    let q := rneS (mulExact p p)
    glzPow beta n i (if n.testBit i then rneS (mulExact q beta) else q)

/-- The quantities of Table 11.3. -/
structure GlzQ where
  rule : Nat
  etaT : Val
  d : Val
  beta1 : Val
  beta2 : Val
  a1 : Val
  a2 : Val
  r1 : Val
  r2 : Val
  eps : Val
  deriving DecidableEq, Repr

/-- Form the quantities from the group's fields, the curve row and the command count (R262). -/
def glzQuantities (rule : Nat) (lr wd b1 b2 eps : Word32) (row : Bytes) (t : Nat) : GlzQ :=
  let one := Val.ofInt 1
  let beta1 := valOfF32 b1
  let beta2 := valOfF32 b2
  let eta := rneS (mulExact (valOfF32 lr) (curveMult row t))
  let bias (b : Val) : Val := rneS (divExact one (rneS (subExact .rne one (glzPow b (t + 1) 32 one))))
  { rule := rule, etaT := eta, d := rneS (mulExact eta (valOfF32 wd)), beta1 := beta1, beta2 := beta2,
    a1 := rneS (subExact .rne one beta1), a2 := rneS (subExact .rne one beta2),
    r1 := bias beta1, r2 := bias beta2, eps := valOfF32 eps }

/-- The sign of Table 11.4. -/
def glzSign (v : Val) : Val :=
  if v.isNan then v.quiet else if v.isZero then Val.zero false else if v.sign then Val.ofInt (-1) else Val.ofInt 1

/-- One element (Table 11.4): the new parameter before its last rounding, and the new moments. -/
def glzElem (q : GlzQ) (x g v w : Val) : Val × Val × Val :=
  let f (a b c : Val) : Val := rneS (fmaExact .rne a b c)
  let m (a b : Val) : Val := rneS (mulExact a b)
  let v' := if q.rule = 0 then f q.beta1 v g else f q.a1 g (m q.beta1 v)
  let w' := f q.a2 (m g g) (m q.beta2 w)
  let root (y : Val) : Val := rneS (addExact .rne (rneS (sqrtExact y)) q.eps)
  let u := match q.rule with
    | 0 => v'
    | 1 => rneS (divExact (m v' q.r1) (root (m w' q.r2)))
    | 2 => glzSign v'
    | _ => rneS (divExact g (root w'))
  let x' := f q.d.neg x x
  (f q.etaT.neg u x', v', w')

/-- Elements of a row. -/
def glzElems (q : GlzQ) : List Val → List Val → List Val → List Val → List (Val × Val × Val)
  | x :: xs, g :: gs, v :: vs, w :: ws => glzElem q x g v w :: glzElems q xs gs vs ws
  | _, _, _, _ => []

/-! Operands. -/

/-- Parameter formats (R240). -/
def glzParamFmt (f : Fmt) : Bool := f == .fp32 || f == .bf16 || f == .fp16

/-- Gradient formats (R240). -/
def glzGradFmt (f : Fmt) : Bool := glzParamFmt f || f == .e4m3 || f == .e5m2

/-- Parameter elements of a row. -/
def glzPerRow (f : Fmt) : Nat := rowElems f

/-- The moment rows of a parameter row (R239). -/
def momentRows (f : Fmt) (r : Nat) : List Nat := if f == .fp32 then [r] else [2 * r, 2 * r + 1]

/-- First and second moments that a rule uses (R239). -/
def usesFirst (rule : Nat) : Bool := rule != 3

/-- Second moments. -/
def usesSecond (rule : Nat) : Bool := rule == 1 || rule == 3

/-- The handles of an instruction with the rows it accesses: parameters, moments, counts, curve. -/
def glzHandles (s : State) (lazy : Bool) (a : GlzArgs) (g : Group) (rows : List Nat) : List (Nat × List Int) :=
  let f := codeFmt a.pfmt
  let hp := a.hp.toNat
  let rels := rows.map Int.ofNat
  let ms := (rows.flatMap (momentRows f)).map Int.ofNat
  [(hp, rels)] ++ (if usesFirst g.rule.toNat then [(hp + 1, ms)] else []) ++
    (if usesSecond g.rule.toNat then [(hp + 2, ms)] else []) ++
    (if lazy then [(hp + 3, ((rows.map (fun r => r / 128)).eraseDups).map Int.ofNat)] else []) ++
    [(s.glz.curve.toNat, [(g.curve.toNat : Int)])]

/-- The handles as uses, each with the GLZ right (R97, R240). -/
def glzUses (hs : List (Nat × List Int)) : List HandleUse :=
  hs.map (fun p => { h := BitVec.ofNat 8 p.1, epoch := none, needs := [.glz], rels := p.2 })

/-- GZD is in range (Table 10.2). -/
def gzdOk (lazy : Bool) (v : Word64) : Bool :=
  let n := field v 0 13
  let r0 := field v 13 17
  zeroAbove v 30 && decide (1 ≤ n) && decide (n ≤ if lazy then 256 else 4096) &&
    decide (r0 < if lazy then 1 else 98304)

/-- Positions of the operands in FVAL (R420). -/
structure GlzPos where
  pfmt : Nat
  gzd : Nat
  t : Nat
  list : Nat
  grad : Nat
  deriving DecidableEq, Repr

/-- Positions for GLZ.STEP and GLZ.ROWS (Table 10.4). -/
def glzPos (lazy : Bool) : GlzPos :=
  if lazy then { pfmt := 5, gzd := 10, t := 11, list := 13, grad := 14 }
  else { pfmt := 4, gzd := 10, t := 11, list := 13, grad := 13 }

/-- The gradient operand. -/
def glzGrad (s : State) (a : GlzArgs) : Opd := opdOf s none a.grad a.gfmt

/-- The list operand; a queue list is read as INT32 (R241). -/
def glzList (s : State) (lazy : Bool) (a : GlzArgs) : Option Opd :=
  if lazy then slotOpd s none a.list (fmtCode .int32) else none

/-- The sources of an instruction of `n` rows or items, with the rows they pop. -/
def glzSources (s : State) (lazy : Bool) (a : GlzArgs) (n : Nat) : List (Opd × Nat) :=
  let g := glzGrad s a
  ((glzList s lazy a).map (fun o => (o, queueRows .int32 n))).toList ++
    [(g, queueRows g.fmt (n * glzPerRow (codeFmt a.pfmt)))]

/-- The items of a list as it stands at issue (R241, R248). -/
def glzItems (s : State) (o : Opd) (n : Nat) : List Nat :=
  let rows := match o.queue with
    | some q => popRows s q (queueRows .int32 n)
    | none => []
  (unpack 32 (opdStream s o rows).1).take n

/-- No item repeats an earlier one. -/
def noRepeat (l : List Nat) : Bool := l.eraseDups.length == l.length

/-- The list check of R248. -/
def glzItemsOk (t : Thread) (a : GlzArgs) (items : List Nat) (s : State) : Chk Unit := do
  let x ← chooseSlot t a.hp s
  match items.find? (fun r => decide (x.map.count.toNat ≤ r)) with
  | some r => .error (.fault fcRow (rowDetail a.hp r))
  | none => .ok ()
  need (noRepeat items && decide ((items.map (fun r => r / 128)).eraseDups.length ≤ 32)) (paramRange 13)

/-- What becomes of an update (R242). -/
inductive GlzStatus
  | ok | stale | frozen | denied
  deriving DecidableEq, Repr

/-- The decision of R242 on a command count and a local count. -/
def glzDecide (frozen : Bool) (t l : Nat) : GlzStatus :=
  if frozen then .frozen else if t < l then .stale else .ok

/-- GLZ.STEP updates its group in its issue cycle (R242, R243). -/
def glzStepGroup (g : Nat) (adv : Bool) (t : Nat) (s : State) : State :=
  let e := getGroup s g
  match glzDecide e.frozen t e.step.toNat with
  | .ok =>
    let s := if t = e.step.toNat then s else bump cntStepSkew 1 s
    setGroup g { e with step := BitVec.ofNat 32 (if adv then t + 1 else t) } s
  | _ => s

/-- Status of a GLZ.STEP as a word of its operands. -/
def statusCode : GlzStatus → Nat
  | .ok => 0
  | .stale => 1
  | .frozen => 2
  | .denied => 3

/-- The group and the operands, as they are at issue (R243): GZD, T, rule, LR, WD, BETA1, BETA2, EPS, FROZEN,
the decision of a GLZ.STEP, the curve number; the items follow. -/
def glzWords (d t : Word64) (g : Group) (st : GlzStatus) (items : List Nat) : List Word64 :=
  let w (x : Word32) : Word64 := x.setWidth 64
  [d, t, g.rule.setWidth 64, w g.lr, w g.wd, w g.beta1, w g.beta2, w g.eps, if g.frozen then 1 else 0,
    BitVec.ofNat 64 (statusCode st), g.curve.setWidth 64] ++ items.map (BitVec.ofNat 64 ·)

/-! The access schedule (R246, R248). -/

/-- The state handles of an instruction, by place: 0 parameters, 1 and 2 moments, 3 counts. -/
def glzXlate (lazy : Bool) (rule : Nat) (f : Flight) (k : Nat) : Xlate :=
  let one := if usesFirst rule then 1 else 0
  let two := if usesSecond rule then 1 else 0
  xlate f (match k with
    | 0 => 0
    | 1 => 1
    | 2 => 1 + one
    | _ => if lazy then 1 + one + two else 0)

/-- The state rows of a parameter row: itself, its first moments, its second moments (R239, R246). -/
def glzStateRows (lazy : Bool) (pf : Fmt) (rule : Nat) (f : Flight) (row : Nat) : List (Xlate × Nat) :=
  let ms (k : Nat) : List (Xlate × Nat) := (momentRows pf row).map (fun r => (glzXlate lazy rule f k, r))
  (glzXlate lazy rule f 0, row) :: (if usesFirst rule then ms 1 else []) ++ (if usesSecond rule then ms 2 else [])

/-- Cycles of a period, and the lag of its writes in periods (R246). -/
def glzPeriod (pf : Fmt) : Nat × Nat := if pf = .fp32 then (6, 3) else (12, 2)

/-- An access of Glaze. -/
def glzAccess (port : BitVec 3) (x : Xlate) (rel : Nat) (op : AccessOp) : Access :=
  { port := port, phys := physRow x.map rel, rel := rel, op := op }

/-- The accesses of item `i` in slot `k` of its read period: state rows, and in slot 0 the count row that it is the
first to need. -/
def glzReadSlot (lazy : Bool) (a : GlzArgs) (rule : Nat) (f : Flight) (rows : List Nat) (i k : Nat) : List Access :=
  match rows[i]? with
  | none => []
  | some row =>
    let st := glzStateRows lazy (codeFmt a.pfmt) rule f row
    let reads := match st[k]? with
      | some (x, r) => [glzAccess a.port x r (.state i (decide (k + 1 = st.length)))]
      | none => []
    let c := row / 128
    if lazy && k == 0 && !(rows.take i).any (fun r => r / 128 == c) then
      reads ++ [glzAccess a.port2 (glzXlate lazy rule f 3) c (.count c)]
    else reads

/-- The accesses of item `i` in slot `k` of its writes: state rows, and in their first slot the count row that it is
the last to need. -/
def glzWriteSlot (lazy : Bool) (a : GlzArgs) (rule : Nat) (f : Flight) (rows : List Nat) (i k : Nat) : List Access :=
  match rows[i]? with
  | none => []
  | some row =>
    let writes := match (glzStateRows lazy (codeFmt a.pfmt) rule f row)[k]? with
      | some (x, r) => [glzAccess a.port x r (.write false (.state i k))]
      | none => []
    let c := row / 128
    if lazy && k == 0 && !(rows.drop (i + 1)).any (fun r => r / 128 == c) then
      writes ++ [glzAccess a.port2 (glzXlate lazy rule f 3) c (.write false (.count c))]
    else writes

/-- The state and count accesses, cycle by cycle, to the last write. -/
def glzSchedule (lazy : Bool) (a : GlzArgs) (rule : Nat) (f : Flight) (rows : List Nat) : List (List Access) :=
  let (q, lag) := glzPeriod (codeFmt a.pfmt)
  let n := rows.length
  let st := (glzStateRows lazy (codeFmt a.pfmt) rule f 0).length
  (List.range (q * (n - 1 + lag) + q / 2 + st)).map (fun c =>
    let i := c / q
    let k := c % q
    glzReadSlot lazy a rule f rows i k ++
      (if lag ≤ i && q / 2 ≤ k then glzWriteSlot lazy a rule f rows (i - lag) (k - q / 2) else []))

/-- The cycles of the list check of GLZ.ROWS (R248). -/
def listCheck (lazy : Bool) (n : Nat) : Nat := if lazy then (n + 31) / 32 else 0

/-- Every access of an instruction: the curve row, the cycles of the list check, the schedule (R246). A GLZ.STEP that
is wholly rejected makes none (R243). -/
def glzPlan (lazy : Bool) (a : GlzArgs) (g : Group) (st : GlzStatus) (f : Flight) (rows : List Nat) : List (List Access) :=
  if !lazy && st != .ok then []
  else
    let x := f.xl.getLastD { h := 0, map := Mapping.zero, epoch := 0, tagged := false }
    [glzAccess a.port x g.curve.toNat .curve] ::
      List.replicate (listCheck lazy rows.length) [] ++ glzSchedule lazy a g.rule.toNat f rows

/-- The run of an instruction before its first row. -/
def glzFresh (l : Word32) : GlzRun where
  t := tallyFrom l
  ok := 0
  stale := 0
  frozen := 0
  denied := 0
  skew := 0
  reads := []
  outs := []
  counts := []

/-- A Glaze instruction begins: its tile rows are read. -/
def startGlaze (srcs : List (Opd × Nat)) (f : Flight) (s : State) : State :=
  beginWith f (readsOpds s f.id (srcs.map (fun p => (p.1, opdSegs p.1))))
    (fun s => (srcs.flatMap (fun p => opdSegs p.1)).foldl (fun s g => cacheRow g.tile g.row s) s) s

/-- The thread issues nothing while GLZ.ROWS checks its list (R248). -/
def holdList (lazy : Bool) (t : Thread) (n : Nat) (s : State) : State :=
  modThread t (fun th => { th with nextIssue := max th.nextIssue s.ls.round + listCheck lazy n }) s

/-- GLZ.STEP and GLZ.ROWS at issue. -/
def issueGlaze (i : Instr) (lazy : Bool) (t : Thread) (a : GlzArgs) (s : State) : Verdict := verdict do
  let ps := glzPos lazy
  onlyThread t .tx
  slotsLegal (if lazy then [a.list, a.grad] else [a.grad])
  codesLegal [a.pfmt, a.gfmt]
  need (rndOfCode a.rnd).isSome illegal
  enginePresent 3 s
  let ol := (glzList s lazy a).getD Opd.none
  let og := glzGrad s a
  regsReady t [a.gzd, a.t, a.sd] s
  let rd := opdMask ol ||| opdMask og
  tilesReady rd 0 s
  let g := getGroup s a.g.toNat
  let d := sreg t a.gzd s
  let tv := sreg t a.t s
  let n := field d 0 13
  let hsOf (rows : List Nat) : List (Nat × List Int) := glzHandles s lazy a g rows
  paramsOk [(a.ch != 3, 0), (g.lzy == lazy, 1),
    ((hsOf []).all (fun p => decide (p.1 < 256) && !(getHandle s (BitVec.ofNat 8 p.1)).tagged), 2),
    (portOk a.port s, 3), (!lazy || (portOk a.port2 s && a.port != a.port2), 4), (gzdOk lazy d, ps.gzd),
    (decide (tv.toNat ≤ 0xFFFFFFFD), ps.t), (!lazy || slotIsOpd a.list, ps.list), (slotIsOpd a.grad, ps.grad)]
  let srcs := glzSources s lazy a n
  queuesOk t srcs [] s
  queuesReady srcs [] s
  engineReady t (.glaze a.ch) s
  sourcesFull [ol, og] s
  formatsOk [(ps.pfmt, badCode glzParamFmt (codeFmt a.pfmt)),
    (ps.list, if lazy then badFormat (fun f => f == .int32) ol else none), (ps.grad, badFormat glzGradFmt og)]
  shapesOk ((if lazy then sourceBad ol n else []) ++ sourceBad og (n * glzPerRow (codeFmt a.pfmt)))
  let items := if lazy then glzItems s ol n else []
  let rows := if lazy then items else (List.range n).map (field d 13 17 + ·)
  -- The list is checked first, then every state, count and curve row (R248, Table 10.8).
  let _ ← handlesOk t (glzUses ((hsOf []).map (fun p => (p.1, [])))) s
  if lazy then glzItemsOk t a items s
  let xs ← handlesOk t (glzUses (hsOf rows)) s
  let st : GlzStatus := if lazy then .ok else glzDecide g.frozen tv.toNat g.step.toNat
  let fl := newFlight t i (.glaze a.ch) s
  let f := { fl with
    rdTiles := rd, dests := [a.sd], xl := xs, sr := rndOfCode a.rnd == some Rnd.sr,
    opv := glzWords d tv g st items, glz := some (glzFresh 1) }
  let s := holdList lazy t n (reserveQueues fl.id srcs [] s)
  return launch { f with acts := glzPlan lazy a g st f rows } (startGlaze srcs)
    (if lazy then s else glzStepGroup a.g.toNat a.adv tv.toNat s)

/-! The run (R244, R245, R261 to R264). -/

/-- The rows or items of an instruction in flight. -/
def glzRows (lazy : Bool) (f : Flight) : List Nat :=
  if lazy then (f.opv.drop 11).map (fun v => v.toNat)
  else (List.range (field (opVal f 0) 0 13)).map (field (opVal f 0) 13 17 + ·)

/-- The group of a Glaze instruction's flight: whether it is GLZ.ROWS, and its arguments. -/
def glzArgs? (f : Flight) : Option (Bool × GlzArgs) :=
  match f.instr with
  | .glzStep _ a => some (false, a)
  | .glzRows _ a => some (true, a)
  | _ => none

/-- The row writes of an accepted row: its new parameters and moments (R261, R264). `reads` are the bytes of its
state rows, `phys` their physical rows. -/
def glzUpdate (a : GlzArgs) (q : GlzQ) (phys : List Nat) (reads : List Bytes) (gs : List Val) (t : Tally) :
    List (Nat × Bytes) × Tally :=
  let pf := codeFmt a.pfmt
  let n := glzPerRow pf
  let m := (momentRows pf 0).length
  let vr := if usesFirst q.rule then (reads.drop 1).take m else []
  let wr := reads.drop (1 + vr.length)
  let zeros := List.replicate n (Val.zero false)
  let (xv, t) := decodeRow pf a.ftz (reads.headD []) [] t
  let (vv, t) := if vr.isEmpty then (zeros, t) else decodeRow .fp32 a.ftz vr.flatten [] t
  let (wv, t) := if wr.isEmpty then (zeros, t) else decodeRow .fp32 a.ftz wr.flatten [] t
  let es := glzElems q xv gs vv wv
  let c : RCtx := { rnd := (rndOfCode a.rnd).getD .rne, ftz := a.ftz, ieee := a.ieee, sat32 := true }
  let (pb, _, t) := encodeRow pf c (es.map (fun e => e.1)) t
  let raw (l : List Val) : List Bytes :=
    let bs := pack 32 (l.map (fun v => (f32OfVal v).toNat))
    chunks 512 bs.length bs
  let out := pb :: (if vr.isEmpty then [] else raw (es.map (fun e => e.2.1))) ++
    (if wr.isEmpty then [] else raw (es.map (fun e => e.2.2)))
  (phys.zip out, t)

/-- Count a status, with the writes that follow in their slots (R244). -/
def glzTake (st : GlzStatus) (ws : List (Nat × Bytes)) (r : GlzRun) : GlzRun :=
  let r := { r with outs := r.outs ++ [ws], reads := [] }
  match st with
  | .ok => { r with ok := r.ok + 1 }
  | .stale => { r with stale := r.stale + 1 }
  | .frozen => { r with frozen := r.frozen + 1 }
  | .denied => { r with denied := r.denied + 1 }

/-- The count of a row in its count row. -/
def rowCountOf (b : Bytes) (row : Nat) : Nat := leNat ((b.drop (4 * (row % 128))).take 4)

/-- A count row with the count of a row replaced. -/
def setRowCount (b : Bytes) (row v : Nat) : Bytes :=
  b.take (4 * (row % 128)) ++ leBytes 4 v ++ b.drop (4 * (row % 128) + 4)

/-- The curve row denies every update: it holds an uncorrectable word, or its steps decrease (R245, R258). -/
def curveDenies (f : Flight) : Bool := f.rowsIn.length != 1 || !curveOk (f.rowsIn.headD zeroRow)

/-- What becomes of a row whose state rows have been read (R242, R245). A count row that cannot be read denies its
items even where the group is frozen, a state row only an accepted one: DEDUCED, log entry 60. -/
def glzStatus (lazy : Bool) (f : Flight) (row : Nat) (r : GlzRun) : GlzStatus :=
  let bad := r.reads.any (fun p => p.2.isSome)
  if curveDenies f then .denied
  else if !lazy then (if bad then .denied else .ok)
  else
    let (b, cbad, _) := Sparse.get (zeroRow, none, false) r.counts (row / 128)
    let l := rowCountOf b row
    if cbad.isSome then .denied
    else
      match glzDecide (opVal f 8 != 0 || l == 0xFFFFFFFF) (opVal f 1).toNat l with
      | .ok => if bad then .denied else .ok
      | st => st

/-- Item `i` is decided when its last state row has been read: an accepted row is updated, and its count. -/
def glzItem (lazy : Bool) (a : GlzArgs) (f : Flight) (i : Nat) (s : State) (r : GlzRun) : GlzRun :=
  let row := (glzRows lazy f).getD i 0
  let t := (opVal f 1).toNat
  let rule := (opVal f 2).toNat
  match glzStatus lazy f row r with
  | .ok =>
    let w (k : Nat) : Word32 := (opVal f k).setWidth 32
    let q := glzQuantities rule (w 3) (w 4) (w 5) (w 6) (w 7) (f.rowsIn.headD zeroRow) t
    let per := glzPerRow (codeFmt a.pfmt)
    let srcs := glzSources s lazy a (glzRows lazy f).length
    let gd := srcData s [] (glzGrad s a) (takeRows s f.id srcs (if lazy then 1 else 0))
    let (gs, tl) := elemsAt gd a.ftz (i * per) per r.t
    let phys := (glzStateRows lazy (codeFmt a.pfmt) rule f row).map (fun p => physRow p.1.map p.2)
    let (ws, tl) := glzUpdate a q phys (r.reads.map (fun p => p.1)) gs tl
    let r := { r with t := tl }
    let r := if lazy then
        let (b, _, _) := Sparse.get (zeroRow, none, false) r.counts (row / 128)
        { r with
          counts := Sparse.put r.counts (row / 128) (setRowCount b row (t + 1), none, true)
          skew := r.skew + (if t = rowCountOf b row then 0 else 1) }
      else r
    glzTake .ok ws r
  | st => glzTake st [] r

/-- The curve row is read and held (R258, R260); a second entry names its first uncorrectable word. -/
def glzCurveRead (f : Flight) (p : Nat) (s : State) : State :=
  let row := readRow s p
  let x := f.xl.getLastD { h := 0, map := Mapping.zero, epoch := 0, tagged := false }
  match rowBad s p with
  | some w => logEvent 0x404 (p + 2 ^ 17 * w) (modFlight f.id (fun g => { g with rowsIn := [row, leBytes 1 w] }) s)
  | none =>
    let s := modFlight f.id (fun g => { g with rowsIn := [row] }) s
    let s := if curveOk row then s else logEvent 0x405 ((opVal f 10).toNat + 256 * x.h.toNat) s
    if rowCorrectable s p then correctedRead p s else s

/-- A state or count row is read on the schedule: an uncorrectable word is logged, a corrected one lulls (R113,
R245). -/
def glzRowRead (p : Nat) (s : State) : State :=
  match rowBad s p with
  | some w => logEvent 0x404 (p + 2 ^ 17 * w) s
  | none => if rowCorrectable s p then correctedRead p s else s

/-- A state row of item `i` is read; after the last one the item is decided. -/
def glzStateRead (f : Flight) (i p : Nat) (last : Bool) (s : State) : State :=
  match glzArgs? f, f.glz with
  | some (lazy, a), some r =>
    let r := if i = 0 && r.reads.isEmpty then { r with t := { r.t with lfsr := (getThread f.thread s).lfsr } } else r
    let r := { r with reads := r.reads ++ [(readRow s p, rowBad s p)] }
    let r := if last then glzItem lazy a f i s r else r
    glzRowRead p (modFlight f.id (fun g => { g with glz := some r }) s)
  | _, _ => s

/-- A count row is read into the count buffer. -/
def glzCountRead (f : Flight) (c p : Nat) (s : State) : State :=
  match f.glz with
  | some r =>
    let r := { r with counts := Sparse.put r.counts c (readRow s p, rowBad s p, false) }
    glzRowRead p (modFlight f.id (fun g => { g with glz := some r }) s)
  | none => s

/-- The bytes of a scheduled write of Glaze; none where it is suppressed (R244, R245). -/
def glzWriteData (f : Flight) : WriteData → Option Bytes
  | .state i k => f.glz.bind (fun r => ((r.outs.getD i [])[k]?).map (fun p => p.2))
  | .count c => f.glz.bind (fun r =>
      match r.counts.find? (fun p => p.1 == c) with
      | some (_, b, none, true) => some b
      | _ => none)
  | _ => none

/-- The run that an instruction ends with: a wholly rejected GLZ.STEP has no accesses (R243). -/
def glzFinal (lazy : Bool) (f : Flight) : GlzRun :=
  let r := f.glz.getD (glzFresh 1)
  let n := (glzRows lazy f).length
  if !lazy && opVal f 9 = 1 then { r with stale := n }
  else if !lazy && opVal f 9 = 2 then { r with frozen := n }
  else r

/-- GLZ.STEP and GLZ.ROWS complete (R244, Table 10.7). -/
def finishGlaze (lazy : Bool) (a : GlzArgs) (f : Flight) (s : State) : State :=
  let r := glzFinal lazy f
  let summary := BitVec.ofNat 64 (r.ok + 2 ^ 16 * r.stale + 2 ^ 32 * r.frozen + 2 ^ 48 * r.denied)
  let drew := rndOfCode a.rnd == some .sr && r.ok != 0
  let c := tallyCommit drew r.t { f.commit with
    regs := [(a.sd, summary)]
    counters := [(cntGlzUpdates, r.ok * glzPerRow (codeFmt a.pfmt)), (cntStepSkew, r.skew),
      (cntFrozenDrops, r.frozen), (cntGlzStale, r.stale), (cntGlzDenied, r.denied)]
    events := if r.frozen = 0 then [] else [(0x403, BitVec.ofNat 48 (a.g.toNat + 256 * r.frozen))] }
  commitAll { f with commit := c } s

/-- GLZ.STEP. -/
def execGlzStep (t : Thread) (a : GlzArgs) (s : State) : Out :=
  .next (issue t 2 (issueGlaze (.glzStep t a) false t a) s)

/-- GLZ.ROWS. -/
def execGlzRows (t : Thread) (a : GlzArgs) (s : State) : Out :=
  .next (issue t 2 (issueGlaze (.glzRows t a) true t a) s)

end Sys2Proof.Machine
end

