-- ==== Sys2Proof/Machine/Clocks.lean ====
section
/-! DEFINITION. The clock generator's switch, the Cones and the Drogue, and the elastic buffers between the
clock islands (R314, R316 to R318, R321 to R325, R327). -/

namespace Sys2Proof.Machine

/-! Changing the step (R317, R318, R325, R327). -/

/-- The command that waits for the synthesiser ends OK. -/
def endLocked (s : State) : State :=
  if busyWith s 0x11 then cmdOk s
  else if busyWith s 0x12 then enterRetention s
  else if busyWith s 0x13 then leaveRetention s
  else s

/-- CLK runs at a step from here on; the tick of the Bridle is told of a change (R356). -/
def setStep (n : BitVec 4) (s : State) : State :=
  { s with
    clk := { s.clk with step := n }
    brg := { s.brg with stepMoved := s.brg.stepMoved || s.clk.step != n } }

/-- The clock switches to the step that the synthesiser has locked to. -/
def switchStep (s : State) : Option State :=
  match s.clk.target with
  | none => none
  | some t => some (endStepChange (endLocked (bump cntClkSwitches 1 (setStep t s))))

/-- The synthesiser fails to lock: the command fails and the step stays. -/
def lockFailStep (s : State) : Option State :=
  match s.clk.target with
  | none => none
  | some t => some (endStepChange (cmdFail 0x504 (logEvent 0x504 t.toNat s)))

/-! Cones and Drogue (R321 to R323). -/

/-- The Cones report the codes of a cycle, CN0 first; one under calibration reports none (R324). -/
def coneReport (codes : List (Option (BitVec 6))) (s : State) : State :=
  let codes := (List.range 12).map (fun k => codes.getD k none)
  let least := leastCode codes
  { s with
    clk := { s.clk with
      coneLast := codes
      coneCodes := (codes.zip s.clk.coneCodes).map (fun x => x.1.getD x.2)
      coneMin := if least < s.clk.coneMin then least else s.clk.coneMin }
    mon := { s.mon with coneMin := if least < s.mon.coneMin then least else s.mon.coneMin } }

/-- Order of the levels. -/
def drogueRank : Drogue → Nat
  | .none => 0
  | .s25 => 1
  | .s50 => 2

/-- The level that a least code asks for at once. -/
def drogueWanted (limits : Nat × Nat) (least : Nat) : Drogue :=
  if least < limits.2 then .s50 else if least < limits.1 then .s25 else .none

/-- A level takes effect; its counts start again. -/
def setLevel (lv : Drogue) (s : State) : State :=
  { s with clk := { s.clk with
    level := lv, good := 0, low := 0, marginLogged := if lv = .none then false else s.clk.marginLogged } }

/-- The Cones report the codes of a cycle, and a low code raises the level (R321, R322). -/
def drogueReport (codes : List (Option (BitVec 6))) (s : State) : State :=
  let s := coneReport codes s
  match drogueLimits s with
  | none => s
  | some l =>
    let want := drogueWanted l (leastCode s.clk.coneLast).toNat
    if drogueRank s.clk.level < drogueRank want then setLevel want s else s

/-- The level after a fall by one. -/
def drogueBelow : Drogue → Drogue
  | .none => .none
  | .s25 => .none
  | .s50 => .s25

/-- DRG_HOLD good cycles lower the level by one (R322). -/
def drogueFall (s : State) : State :=
  if s.clk.level ≠ .none ∧ s.clk.drgHold.toNat ≤ s.clk.good then setLevel (drogueBelow s.clk.level) s else s

/-- 4,096 cycles below DRG_T50 at S50 log MARGIN_LOW, once until the level has fallen to NONE (R323). -/
def marginLowStep (cone : BitVec 4) (s : State) : Option State :=
  let lowest := s.clk.coneLast[cone.toNat]? == some (leastCode s.clk.coneLast)
  if s.clk.level = .s50 ∧ 4096 ≤ s.clk.low ∧ !s.clk.marginLogged ∧ lowest then
    some (logEvent 0x503 cone.toNat { s with clk := { s.clk with marginLogged := true } })
  else none

/-! Crossings (R312, R314). -/

/-- An elastic buffer compares its occupancy with two entries. -/
def crossingStep (src dst occ : BitVec 3) (s : State) : Option State :=
  let d := src.toNat + 2 ^ 4 * dst.toNat + 2 ^ 8 * occ.toNat
  if 4 < src.toNat ∨ 4 < dst.toNat ∨ src = dst ∨ 4 < occ.toNat ∨ !portOpen s then none
  else if occ = 2 then some s
  else if occ = 1 ∨ occ = 3 then some (logEvent 0x501 d (bump cntClkDrift 1 s))
  else some (requestSafe .clkSlip (logEvent 0x502 d s))

/-! The meanings. -/

/-- SWITCH_BOUNDARY (R317, R318, R325, R327). -/
def execSwitchBoundary (s : State) : Out := .next ((switchStep (passLull s)).getD s)

/-- SYNTH_LOCK_FAIL (R317). -/
def execSynthLockFail (s : State) : Out := .next ((lockFailStep (passLull s)).getD s)

/-- DROGUE_LEVEL_RISE (R321, R322): the codes of a cycle, which may raise the level. -/
def execDrogueLevelRise (codes : List (Option (BitVec 6))) (s : State) : Out :=
  .next (if portOpen s then drogueReport codes s else s)

/-- DROGUE_LEVEL_FALL (R322): the level falls once it has been good for long enough, and the codes of the cycle are
reported. -/
def execDrogueLevelFall (codes : List (Option (BitVec 6))) (s : State) : Out :=
  .next (if portOpen s then drogueReport codes (drogueFall s) else s)

/-- MARGIN_LOW (R323). -/
def execMarginLow (cone : BitVec 4) (s : State) : Out := .next ((marginLowStep cone s).getD s)

/-- CROSSING_OCCUPANCY_CHECK (R314). -/
def execCrossingOccupancyCheck (src dst occ : BitVec 3) (s : State) : Out :=
  .next ((crossingStep src dst occ (passLull s)).getD s)

end Sys2Proof.Machine
end

