-- ==== Sys2Proof/Machine/Flits.lean ====
section
/-! DEFINITION. Flits: the bytes of the units that a fabric port sends and receives, and the command that a received
unit amounts to (R286, R287, R381, Tables 13.1 and 13.2). -/

namespace Sys2Proof.Machine

/-! CRC-32C (R287). -/

/-- One bit of the reflected polynomial. -/
def crcBit (c : Word32) : Word32 := if c.getLsbD 0 then (c >>> 1) ^^^ 0x82F63B78 else c >>> 1

/-- One byte. -/
def crcByte (c : Word32) (b : Byte) : Word32 :=
  crcBit (crcBit (crcBit (crcBit (crcBit (crcBit (crcBit (crcBit (c ^^^ b.setWidth 32))))))))

/-- CRC-32C of a byte string. -/
def crc32c (bs : Bytes) : Word32 := ~~~(bs.foldl crcByte 0xFFFFFFFF)

/-! Units as bytes. -/

/-- The header of a block (Table 13.1); RES0 bits are zero. -/
def headerBytes (b : Block) : Bytes :=
  leBytes 1 b.typ.toNat ++ leBytes 1 b.seq.toNat ++ leBytes 3 b.dst.toNat ++ leBytes 3 b.src.toNat ++
    leBytes 1 b.win.toNat ++ leBytes 3 b.wr.toNat ++ leBytes 4 b.key.toNat ++ leBytes 1 b.txn.toNat ++
    leBytes 1 b.status.toNat ++ List.replicate 14 0

/-- The row of a block, 512 bytes of a data block and none of a control block. -/
def blockRow (b : Block) : Bytes := if b.data then fitBytes 512 b.row else []

/-- The bytes that the CRC of a block covers: the header and the row. -/
def coveredBytes (b : Block) : Bytes := headerBytes b ++ blockRow b

/-- The bytes of a block: header, row, trailer. -/
def blockBytes (b : Block) : Bytes :=
  coveredBytes b ++ leBytes 4 (crc32c (coveredBytes b)).toNat ++ List.replicate 28 0

/-- Bytes 0 to 27 of a link unit: TYPE, ACK or NAK, SEQ. The code of ACK and of NAK is not stated: free, log
entry 66. -/
def linkHead (ack : Bool) (seq : BitVec 8) : Bytes :=
  [0x0F, if ack then Config.ackCode else Config.nakCode, seq] ++ List.replicate 25 0

/-- The bytes of a link unit. -/
def linkBytes (ack : Bool) (seq : BitVec 8) : Bytes :=
  linkHead ack seq ++ leBytes 4 (crc32c (linkHead ack seq)).toNat

/-- The bytes of a unit. -/
def unitBytes : TxUnit → Bytes
  | .block b => blockBytes b
  | .link ack seq => linkBytes ack seq

/-- The flits of a unit, 32 bytes each: 18, 2 or 1. -/
def unitFlits (u : TxUnit) : List Bytes := chunks 32 ((unitBytes u).length / 32) (unitBytes u)

/-! Received units. -/

/-- A field of `n` bytes from byte `lo` on. -/
def byteField (bs : Bytes) (lo n : Nat) : Nat := leNat ((bs.drop lo).take n)

/-- The block whose bytes these are; RES0 bits are not read. -/
def blockOf (data : Bool) (bs : Bytes) : Block where
  typ := BitVec.ofNat 4 (byteField bs 0 1)
  data := data
  seq := BitVec.ofNat 8 (byteField bs 1 1)
  dst := BitVec.ofNat 19 (byteField bs 2 3)
  src := BitVec.ofNat 19 (byteField bs 5 3)
  win := BitVec.ofNat 4 (byteField bs 8 1)
  wr := BitVec.ofNat 17 (byteField bs 9 3)
  key := BitVec.ofNat 32 (byteField bs 12 4)
  txn := BitVec.ofNat 6 (byteField bs 16 1)
  status := BitVec.ofNat 8 (byteField bs 17 1)
  row := if data then (bs.drop 32).take 512 else []

/-- The CRC in a block's trailer is that of its header and row. -/
def blockCrcOk (data : Bool) (bs : Bytes) : Bool :=
  let n := if data then 544 else 32
  byteField bs n 4 == (crc32c (bs.take n)).toNat

/-- The command of an intact block, by its TYPE (Table 13.2); one of a reserved TYPE is met as any arrival is. -/
def blockCommand (port : BitVec 2) (b : Block) : Instr :=
  match b.typ.toNat with
  | 2 => .takeReq port b
  | 3 => .peekReq port b
  | 4 => .fetchReq port b
  | 5 => .dataRsp port b
  | 6 => .statusRsp port b
  | _ => .putReq port b

/-- The command that a received unit amounts to; none for a number of flits that no unit has. A link unit is read as
an ACK if it carries the code of ACK. -/
def unitCommand (port : BitVec 2) (flits : List Bytes) : Option Instr :=
  let bs := flits.flatten
  let block (data : Bool) : Instr :=
    if blockCrcOk data bs then blockCommand port (blockOf data bs)
    else .linkCrcFailure port (.blockCrc data) (blockOf data bs).seq
  match flits.length with
  | 1 =>
    if byteField bs 28 4 = (crc32c (bs.take 28)).toNat then
      some (.link port (bs.getD 1 0 == Config.ackCode) (bs.getD 2 0))
    else some (.linkCrcFailure port .unitCrc 0)
  | 2 => some (block false)
  | 18 => some (block true)
  | _ => none

/-- The flits that a port has sent, earliest first (R381). -/
def sentFlits (q : Port) : List Bytes := q.tx.reverse.flatMap unitFlits

end Sys2Proof.Machine
end

