-- ==== Sys2Proof/Machine/Mailbox.lean ====
section
/-! DEFINITION. The Bridle mailbox: its operations, the wear record, firmware updates and life-cycle
authorisation (R358 to R360, R364, R365, R367 to R370, R379, R409). -/

namespace Sys2Proof.Machine

/-! When the Bridle runs. -/

/-- The Bridle's firmware runs: an image has booted and no restart is in progress (R354, R358, R366). -/
def bridleRuns (s : State) : Bool :=
  portOpen s && !s.brg.restarting && !(s.run.state == .bisque && decide (s.run.step.toNat ≤ 2)) &&
    !(s.run.state == .faulted && s.run.startCode == 1)

/-- An operation is in progress: one accepted during refire starts after its step 6 (R364). -/
def mailboxRuns (s : State) : Bool := s.mbx.status == .busy && bridleRuns s && !s.mbx.waits

/-- Write a word of the data buffer. -/
def setMbxData (k : Nat) (w : Word32) (s : State) : State :=
  { s with mbx := { s.mbx with data := Sparse.set 0 s.mbx.data k w } }

/-- A word of the data buffer. -/
def mbxData (s : State) (k : Nat) : Word32 := Sparse.get 0 s.mbx.data k

/-- Write words of the data buffer from word 0 up. -/
def setMbxWords (ws : List Word32) (s : State) : State :=
  (ws.zipIdx).foldl (fun s x => setMbxData x.2 x.1 s) s

/-- An operation ends OK. -/
def mbxOk (s : State) : State := { s with mbx := { s.mbx with status := .ok } }

/-- An operation ends FAIL. -/
def mbxFail (s : State) : State := { s with mbx := { s.mbx with status := .fail } }

/-! The wear record (Table 18.2). -/

/-- Four bytes of a list as a word, the first in the low byte. -/
def word4 (bs : List (BitVec 8)) (k : Nat) : Word32 :=
  BitVec.ofNat 32 (leNat ((List.range 4).map (fun j => bs.getD (4 * k + j) 0)))

/-- Words 0 to 62 of the wear record. -/
def wearWords (s : State) : List Word32 :=
  let base := s.brg.wear.baseline.getD (List.replicate 12 0)
  let last := s.brg.wear.latest
  [0x57524331, s.build.serial.setWidth 32, (s.build.serial >>> 32).setWidth 32,
    word4 base 0, word4 base 1, word4 base 2, word4 last 0, word4 last 1, word4 last 2,
    BitVec.ofNat 32 (s.clk.vidOfs.toNat + 2 ^ 4 * (if s.clk.freqOfs then 1 else 0)), s.brg.wear.hours] ++
    List.replicate 52 0

/-- Bytes of a list of words. -/
def wordBytes (ws : List Word32) : Bytes := ws.flatMap (fun w => leBytes 4 w.toNat)

/-- The wear record. -/
def wearRecord (s : State) : List Word32 := wearWords s ++ [crc32c (wordBytes (wearWords s))]

/-- The record in the data buffer is accepted: magic, serial, RES0 bits, VID offset and CRC (R360). -/
def wearOk (s : State) : Bool :=
  let ws := (List.range 63).map (mbxData s)
  mbxData s 0 == 0x57524331 && mbxData s 2 ++ mbxData s 1 == s.build.serial &&
    decide ((mbxData s 9).toNat < 2 ^ 5) && decide ((mbxData s 9).toNat % 2 ^ 4 ≤ 8) &&
    (List.range 52).all (fun k => mbxData s (11 + k) == 0) && mbxData s 63 == crc32c (wordBytes ws)

/-- Byte j of the baseline of the record in the buffer. -/
def wearByte (s : State) (j : Nat) : BitVec 8 := (mbxData s (3 + j / 4) >>> (8 * (j % 4))).setWidth 8

/-- A restored record replaces the baselines and applies its offsets, which never fall (R359, R360). -/
def wearRestore (s : State) : State :=
  let vid : BitVec 4 := (mbxData s 9).setWidth 4
  let freq := (mbxData s 9).getLsbD 4
  let s := { s with brg := { s.brg with
    restored := true, wear := { s.brg.wear with baseline := some ((List.range 12).map (wearByte s)) } } }
  applyRetune (if s.clk.vidOfs < vid then vid else s.clk.vidOfs) (s.clk.freqOfs || freq) s

/-! Telemetry (R357). -/

/-- The telemetry record that a tick forms: the diode readings of the tick, T_M, the mean currents, EW_SCALE, the
least Cone code, CLK_STEP, BUDGET and the tick count, a word for each value in the order of Table 18.4. -/
def telemetryRecord (diodes : List (BitVec 16)) (core sram : BitVec 12) (scale ticks : Word32) (s : State) :
    List Word32 :=
  ((List.range 4).map (fun k => (diodes.getD k 0).signExtend 32)) ++
    [diodeTm diodes, core.setWidth 32, sram.setWidth 32, scale, s.clk.coneMin.setWidth 32,
      s.clk.step.setWidth 32, s.ballast.budget.setWidth 32, ticks]

/-- DATA0 to DATA15 of TELEMETRY: the record of the latest tick, zeros before the first; the table gives no value to
the words after it. -/
def telemetryWords (s : State) (n : Nat) : List Word32 :=
  (List.range 12).map (fun k => s.brg.record.getD k 0) ++ (List.range 4).map (fun k => Config.telemetryRest n k)

/-! The operations (Table 18.4). -/

/-- The states in which an operation is legal; none for a code outside the table. -/
def mbxLegal (s : State) (op : Nat) : Option Bool :=
  let st := s.run.state
  let off := st != .off
  match op with
  | 0x01 => some off
  | 0x02 => some off
  | 0x03 => some off
  | 0x04 => some ((st == .bisque || st == .ready || st == .maint) && !s.run.started)
  | 0x05 => some ((st == .ready || st == .run || st == .pause || st == .maint) &&
      s.mbx.arg0 != s.brg.slot.setWidth 32)
  | 0x06 => some (st == .ready || st == .maint)
  | 0x07 => some off
  | 0x08 => some off
  | 0x09 => some (st == .maint)
  | 0x0A => some (st == .maint)
  | 0x0B => some off
  | _ => none

/-- Lock the monitor, unless its life-cycle state closes it (R370). -/
def lockMonitor (s : State) : State :=
  { s with mon := { s.mon with access := if s.mon.access = .closed then .closed else .locked } }

/-- VERSION. -/
def runVersion (s : State) : State :=
  mbxOk { s with mbx := { s.mbx with
    arg0 := s.brg.romVersion, arg1 := s.brg.slot.setWidth 32, arg2 := s.brg.svn.setWidth 32, arg3 := s.brg.seq } }

/-- TELEMETRY. -/
def runTelemetry (s : State) : State :=
  let (n, s) := drawFree s
  mbxOk (setMbxWords (telemetryWords s n) s)

/-- UPDATE_ACTIVATE restarts the Bridle, without a watchdog count (R367). -/
def runActivate (s : State) : State :=
  { s with brg := { s.brg with restarting := true, activate := true, failedSlot := none } }

/-- MON_TOKEN (R370). -/
def runMonToken (s : State) : State :=
  mbxOk { s with mon := { s.mon with token := some (s.mbx.arg1 ++ s.mbx.arg0), fails := 0 } }

/-- LC_CHALLENGE: a fresh nonce; a ticket given before is void (R368). -/
def runChallenge (s : State) : State :=
  let (n, s) := drawFree s
  let x := Config.nonce n
  mbxOk { s with
    brg := { s.brg with nonce := some x, ticket := none }
    mbx := { s.mbx with arg0 := x.setWidth 32, arg1 := (x >>> 32).setWidth 32 } }

/-- UART_CFG (R369). -/
def runUartCfg (s : State) : State :=
  let d := s.mbx.arg0.toNat
  if 67 ≤ d ∧ d ≤ 65535 then mbxOk { s with mon := { s.mon with divisor := s.mbx.arg0.setWidth 16 } } else mbxFail s

/-- An UPDATE_ACTIVATE that has been accepted starts once the Bridle runs (R358, R367). -/
def mailboxServe (s : State) : State := if mailboxRuns s && s.mbx.op == 6 then runActivate s else s

/-- The run states in which the mailbox answers VERSION and TELEMETRY only (R379). -/
def mailboxEarly (s : State) : Bool := s.run.state == .refire || (s.run.state == .bisque && s.run.step != 8)

/-- The CSR write of MBX_OP (R364, R379): the operation is accepted, and MBX_STATUS reads BUSY until it ends. -/
def postMailbox (op : Nat) (s : State) : State :=
  if !portOpen s then s
  else
    let s := dropHeld (passLull s)
    if (mailboxEarly s && op != 1 && op != 2) || s.mbx.status == .busy then answer .errState 0 s
    else
      match mbxLegal s op with
      | none => answer .errAddr 0 s
      | some false => answer .errState 0 s
      | some true =>
        mailboxServe (answer .ok 0
          { s with mbx := { s.mbx with op := BitVec.ofNat 8 op, status := .busy, waits := s.run.state == .refire } })

/-! Images (R365 to R367). -/

/-- An image verifies (R365). -/
def imageVerifies (z : Fuses) (x : ImageRead) : Bool :=
  x.readsOk && Config.sha256 (leBytes 64 x.key.toNat) == z.keyhash &&
    Config.p256Verify x.key x.sig (Config.sha256 x.signed) && decide (z.minSvn ≤ x.svn)

/-- The images that ROM starts, by slot, in the order in which it tries them (R366): of two that verify the one with
the greater SEQ first, that of slot 0 if the two are equal. -/
def romOrder (z : Fuses) (image0 image1 : ImageRead) : List (BitVec 1 × ImageRead) :=
  let zero := if imageVerifies z image0 then [(0, image0)] else []
  let one := if imageVerifies z image1 then [(1, image1)] else []
  if image0.seq < image1.seq then one ++ zero else zero ++ one

/-- The image in a slot is the active one. -/
def setImage (slot : BitVec 1) (x : ImageRead) (s : State) : State :=
  { s with brg := { s.brg with slot := slot, svn := x.svn, seq := x.seq } }

/-! The ends of the operations (R364, R365, R367, R368). -/

/-- UPDATE_VERIFY ends (R367). -/
def endVerify (x : ImageRead) (s : State) : State :=
  if imageVerifies s.fuses x then mbxOk s else mbxFail (bridleEvent 0x602 (s.mbx.arg0.toNat % 2) s)

/-- Sixteen words of the data buffer, the first in the low bits. -/
def mbxWide (s : State) (lo : Nat) : BitVec 512 :=
  BitVec.ofNat 512 (leNat (wordBytes ((List.range 16).map (fun k => mbxData s (lo + k)))))

/-- What the signature of LC_AUTHORIZE covers: the nonce, the target state and the serial (R368). -/
def authMessage (s : State) (nonce : BitVec 64) : Bytes :=
  leBytes 8 nonce.toNat ++ [s.mbx.arg0.setWidth 8] ++ leBytes 8 s.build.serial.toNat

/-- The data buffer holds a valid authorisation. -/
def authOk (s : State) : Bool :=
  match s.brg.nonce with
  | none => false
  | some n =>
    Config.sha256 (leBytes 64 (mbxWide s 0).toNat) == s.fuses.lckeyhash && decide (s.mbx.arg0.toNat < 8) &&
      Config.p256Verify (mbxWide s 0) (mbxWide s 16) (Config.sha256 (authMessage s n))

/-- LC_AUTHORIZE ends (R368). -/
def endAuthorize (s : State) : State :=
  if authOk s then
    let target : BitVec 3 := s.mbx.arg0.setWidth 3
    let (n, s) := drawFree s
    let t := Config.ticket n
    mbxOk { s with
      brg := { s.brg with ticket := some (target, t) }
      mbx := { s.mbx with arg0 := t.setWidth 32, arg1 := (t >>> 32).setWidth 32 } }
  else mbxFail { s with brg := { s.brg with nonce := none } }

/-- The operation in progress ends with its results (R364). UPDATE_ACTIVATE ends with the restart. -/
def endMailbox (x : ImageRead) (s : State) : State :=
  match s.mbx.op.toNat with
  | 0x01 => runVersion s
  | 0x02 => runTelemetry s
  | 0x03 => mbxOk (setMbxWords (wearRecord s) s)
  | 0x04 => if wearOk s then mbxOk (wearRestore s) else mbxFail s
  | 0x05 => endVerify x s
  | 0x07 => runMonToken s
  | 0x08 => mbxOk (lockMonitor s)
  | 0x09 => runChallenge s
  | 0x0A => endAuthorize s
  | 0x0B => runUartCfg s
  | _ => s

/-- An operation in progress ends; `x` is the image that UPDATE_VERIFY reads. -/
def mailboxEndStep (x : ImageRead) (s : State) : State := if mailboxRuns s then endMailbox x s else s

/-! The meanings. -/

/-- VERSION (R364). -/
def execVersion (s : State) : Out := .next (postMailbox 0x01 s)

/-- TELEMETRY (R364). -/
def execTelemetry (s : State) : Out := .next (postMailbox 0x02 s)

/-- WEAR_READ (R360). -/
def execWearRead (s : State) : Out := .next (postMailbox 0x03 s)

/-- WEAR_WRITE (R360). -/
def execWearWrite (s : State) : Out := .next (postMailbox 0x04 s)

/-- UPDATE_VERIFY (R367). -/
def execUpdateVerify (s : State) : Out := .next (postMailbox 0x05 s)

/-- UPDATE_ACTIVATE (R367). -/
def execUpdateActivate (s : State) : Out := .next (postMailbox 0x06 s)

/-- MON_TOKEN (R370). -/
def execMonToken (s : State) : Out := .next (postMailbox 0x07 s)

/-- MON_LOCK (R370). -/
def execMonLock (s : State) : Out := .next (postMailbox 0x08 s)

/-- LC_CHALLENGE (R368). -/
def execLcChallenge (s : State) : Out := .next (postMailbox 0x09 s)

/-- LC_AUTHORIZE (R368). -/
def execLcAuthorize (s : State) : Out := .next (postMailbox 0x0A s)

/-- UART_CFG (R369). -/
def execUartCfg (s : State) : Out := .next (postMailbox 0x0B s)

/-- MAILBOX_OPERATION_END (R364, R367, R368). -/
def execMailboxOperationEnd (img : ImageRead) (s : State) : Out := .next (mailboxEndStep img s)

end Sys2Proof.Machine
end

