-- ==== Sys2Proof/Machine/CsrRead.lean ====
section
/-! DEFINITION. The register map: the address, width and access of every register, its value, and the read of a
register (R376 to R379, R392 to R409, Tables 20.1 to 20.20). -/

namespace Sys2Proof.Machine

/-- Access types (R394). A W1C register is read like a RW one. -/
inductive CsrAccess
  | ro | rw | wo
  deriving DecidableEq, Repr

/-- A register: the address of its lower word, whether it has an upper word, its access. -/
structure CsrReg where
  base : Nat
  wide : Bool
  acc : CsrAccess
  deriving DecidableEq, Repr

/-- A register of one word. -/
def reg1 (a : Nat) (acc : CsrAccess) : Option CsrReg := some { base := a, wide := false, acc := acc }

/-- A register of two words whose lower word is at an address of the parity of `base`. -/
def reg2 (lower : Nat) (acc : CsrAccess) : Option CsrReg := some { base := lower, wide := true, acc := acc }

/-- The even address at or below. -/
def evenBelow (a : Nat) : Nat := a - a % 2

/-- Identity block (Table 20.2). -/
def regIdentity (a : Nat) : Option CsrReg :=
  if a ≤ 4 then reg1 a .ro
  else if a = 6 ∨ a = 7 ∨ a = 8 ∨ a = 9 then reg2 (evenBelow a) .ro
  else if a = 0xA then reg1 a .ro
  else none

/-- Mirrors of a thread (Table 20.3), by offset from T_PC. -/
def regMirror (base o : Nat) : Option CsrReg :=
  if o ≤ 0xB then reg2 (base + evenBelow o) .ro
  else if o = 0xC then reg1 (base + o) .ro
  else if o = 0x10 then reg1 (base + o) .rw
  else if 0x12 ≤ o ∧ o ≤ 0x15 then reg2 (base + evenBelow o) .ro
  else none

/-- Run-state block (Table 20.3). -/
def regRun (a : Nat) : Option CsrReg :=
  if 0x100 ≤ a ∧ a ≤ 0x104 then reg1 a .ro
  else if 0x106 ≤ a ∧ a ≤ 0x109 then reg2 (evenBelow a) .rw
  else if 0x110 ≤ a ∧ a ≤ 0x112 then reg1 a .ro
  else if 0x140 ≤ a ∧ a ≤ 0x1BF then reg2 (evenBelow a) .ro
  else if 0x1C0 ≤ a then regMirror (0x1C0 + (a - 0x1C0) / 0x20 * 0x20) ((a - 0x1C0) % 0x20)
  else none

/-- Command slot, fault and event, parameter staging (Tables 20.4 to 20.6). -/
def regSlots (a : Nat) : Option CsrReg :=
  if a = 0x201 then reg1 a .ro
  else if 0x200 ≤ a ∧ a ≤ 0x205 then reg1 a .rw
  else if a = 0x402 ∨ 0x408 ≤ a ∧ a ≤ 0x40B then reg1 a .ro
  else if 0x400 ≤ a ∧ a ≤ 0x404 then reg1 a .rw
  else if 0x800 ≤ a ∧ a ≤ 0x881 then reg2 (evenBelow a) .rw
  else if a = 0x882 then reg1 a .ro
  else if 0x900 ≤ a ∧ a ≤ 0x97F then reg2 (evenBelow a) .ro
  else none

/-- Handle entries and local-store control (Tables 20.7, 20.8). A word whose fields are RO remains RW (R401). -/
def regHandle (a : Nat) : Option CsrReg :=
  if a < 0x1800 then
    match a % 8 with
    | 4 => reg2 a .rw
    | 5 => reg2 (a - 1) .rw
    | 6 => reg2 a .rw
    | 7 => reg2 (a - 1) .rw
    | _ => reg1 a .rw
  else if a = 0x1800 then reg1 a .rw
  else if a = 0x1801 then reg1 a .ro
  else none

/-- Windows and fabric control, session table (Tables 20.10, 20.11). -/
def regFabric (s : State) (a : Nat) : Option CsrReg :=
  if a < 0x2080 then
    if (a - 0x2000) / 8 < s.mould.cfg.winUsed.toNat ∧ a % 8 < 6 then reg1 a (if a % 8 = 4 then .wo else .rw) else none
  else if a = 0x2081 ∨ a = 0x2086 then reg1 a .ro
  else if a < 0x2086 then reg1 a .rw
  else if a = 0x3001 ∨ a = 0x3008 then reg1 a .wo
  else if a = 0x3000 ∨ 0x3004 ≤ a ∧ a ≤ 0x3007 ∨ a = 0x3009 ∨ a = 0x300A then reg1 a .rw
  else if a = 0x300C ∨ a = 0x300D then reg2 0x300C .rw
  else if a = 0x300E then reg1 a .ro
  else none

/-- Glaze groups, Ballast, clocks and Cones (Tables 20.13 to 20.15). -/
def regPower (a : Nat) : Option CsrReg :=
  if 0x4000 ≤ a ∧ a ≤ 0x4007 ∨ a = 0x4010 then reg1 a .rw
  else if a = 0x5000 ∨ a = 0x5001 then reg1 a .rw
  else if 0x5002 ≤ a ∧ a ≤ 0x5008 then reg1 a .ro
  else if 0x5010 ≤ a ∧ a ≤ 0x5016 ∨ 0x5020 ≤ a ∧ a ≤ 0x5029 ∨ 0x5030 ≤ a ∧ a ≤ 0x5038 then reg1 a .rw
  else if a = 0x5803 then reg1 a .rw
  else if 0x5800 ≤ a ∧ a ≤ 0x5808 ∨ 0x5810 ≤ a ∧ a ≤ 0x581F then reg1 a .ro
  else none

/-- The counters of the build and of the windows in use (Table 20.16). -/
def regCounter (s : State) (a : Nat) : Option CsrReg :=
  if a = 0x6000 ∨ a = 0x6001 then reg2 0x6000 .ro
  else if 0x6002 ≤ a ∧ a ≤ 0x601F ∨ 0x6020 ≤ a ∧ a ≤ 0x6033 ∨ 0x6040 ≤ a ∧ a ≤ 0x6053 ∨ 0x6060 ≤ a ∧ a ≤ 0x6069 ∨
      0x6080 ≤ a ∧ a ≤ 0x6099 ∨ 0x6100 ≤ a ∧ a ≤ 0x613F ∧ a % 16 < 12 ∨
      0x6200 ≤ a ∧ a < 0x6200 + 8 * s.mould.cfg.winUsed.toNat ∨
      0x6300 ≤ a ∧ a < 0x6300 + 4 * s.build.lsStacks then reg2 (evenBelow a) .rw
  else none

/-- Mould status and mailbox (Tables 20.17, 20.18). -/
def regMould (a : Nat) : Option CsrReg :=
  if 0x7000 ≤ a ∧ a ≤ 0x7003 ∨ a = 0x700A ∨ a = 0x700B ∨ 0x7010 ≤ a ∧ a ≤ 0x702F then reg2 (evenBelow a) .ro
  else if 0x7004 ≤ a ∧ a ≤ 0x7009 ∨ a = 0x700C then reg1 a .ro
  else if a = 0x7801 then reg1 a .ro
  else if 0x7800 ≤ a ∧ a ≤ 0x7805 ∨ 0x7900 ≤ a ∧ a ≤ 0x79FF then reg1 a .rw
  else none

/-- The register at an address; none where the chapter assigns none, or names an instance that is absent (R392). -/
def regAt (s : State) (a : Nat) : Option CsrReg :=
  if a < 0x100 then regIdentity a
  else if a < 0x200 then regRun a
  else if a < 0x1000 then regSlots a
  else if a < 0x2000 then regHandle a
  else if a < 0x4000 then regFabric s a
  else if a < 0x6000 then regPower a
  else if a < 0x7000 then regCounter s a
  else regMould a

/-! Values. -/

/-- One bit. -/
def bit (b : Bool) : Nat := if b then 1 else 0

/-- ID_VERSION: architecture 4.1, IP release 4.1.2. -/
def idVersion : Nat := 1 + 4 * 2 ^ 4 + 2 * 2 ^ 8 + 1 * 2 ^ 16 + 4 * 2 ^ 20

/-- ID_CONFIG. -/
def idConfig (b : Build) : Nat :=
  (if b.vxLanes = 64 then 0 else if b.vxLanes = 128 then 1 else 2) +
    2 ^ 2 * (if b.lsStacks = 16 then 0 else if b.lsStacks = 20 then 1 else 2) +
    2 ^ 4 * (if b.sessEntries = 16384 then 0 else if b.sessEntries = 32768 then 1 else 2) +
    2 ^ 6 * (if b.spoolKib = 128 then 1 else 0)

/-- MX_WIDTH. -/
def mxWidthValue (s : State) : Nat := s.mx.full.toNat + 2 ^ 8 * s.mx.h0.toNat + 2 ^ 16 * s.mx.h1.toNat

/-- Code of a SAFE cause. -/
def causeCode : SafeCause → Nat
  | .none => 0
  | .splitAuthority => 1
  | .clkSlip => 2

/-- RUN_STATE. -/
def runStateValue (s : State) : Nat :=
  copyImage (copyOf s.run) + 2 ^ 16 * bit s.run.retained + 2 ^ 17 * s.run.step.toNat

/-- Visible entries of four operand queues from `q` up. -/
def qstat (s : State) (q : Nat) : Nat :=
  ((List.range 4).map (fun k => 2 ^ (8 * k) * (visibleRows s (q + k)).length)).sum

/-- Entries of the token queues. -/
def kstat (s : State) : Nat :=
  ((List.range 4).map (fun k => 2 ^ (8 * k) * (visibleTokens s k).length)).sum

/-- Code of a command or mailbox status. -/
def cmdStatusCode : CmdStatus → Nat
  | .idle => 0
  | .busy => 1
  | .ok => 2
  | .fail => 3

/-- The mirrors of a thread are readable: it is stopped (R397). -/
def mirrorsOpen (s : State) (t : Thread) : Bool :=
  s.run.state == .pause || s.run.state == .safe || (getThread t s).halted || (getThread t s).stopped

/-- The thread of a mirror address. -/
def mirrorThread (a : Nat) : Thread :=
  if a < 0x1C0 then (if a < 0x180 then .ta else .tx) else (if a < 0x1E0 then .ta else .tx)

/-- A mirror of a thread. -/
def mirrorValue (s : State) (t : Thread) (a : Nat) : Nat :=
  let th := getThread t s
  if a < 0x1C0 then (readReg th (BitVec.ofNat 5 (a % 0x40 / 2))).toNat
  else
    match a % 0x20 with
    | 0x00 => th.pc.toNat
    | 0x02 => (tstat t s).toNat
    | 0x04 => th.fpc.toNat
    | 0x06 => th.fnpc.toNat
    | 0x08 => th.fval.toNat
    | 0x0A => th.hvec.toNat
    | 0x0C => th.lfsr.toNat
    | 0x10 => th.hostRstsel.toNat
    | 0x12 => (selectedEntry th th.hostRstsel).pc.toNat
    | _ => (rstInfo (selectedEntry th th.hostRstsel)).toNat

/-- Registers of the run-state block that are no mirror. -/
def runValue (s : State) (a : Nat) : Nat :=
  match a with
  | 0x100 => runStateValue s
  | 0x101 => copyImage s.run.west
  | 0x102 => copyImage s.run.east
  | 0x103 => causeCode s.run.safeCause
  | 0x104 => s.run.startCode.toNat
  | 0x106 => s.run.entryTa.toNat
  | 0x108 => s.run.entryTx.toNat
  | 0x110 => qstat s 0
  | 0x111 => qstat s 4
  | _ => kstat s

/-- Identity registers. -/
def identityValue (s : State) (a : Nat) : Nat :=
  match a with
  | 0 => idVersion
  | 1 => idConfig s.build
  | 2 => s.fuses.grade.toNat
  | 3 => s.run.lc.toNat
  | 4 => mxWidthValue s
  | 6 => s.build.serial.toNat
  | 8 => 2 ^ 17 * s.fuses.slotBase.toNat
  | _ => s.fuses.minSvn.toNat

/-- Command slot, events, staging. -/
def slotValue (s : State) (a : Nat) : Nat :=
  match a with
  | 0x200 => s.cmd.op.toNat
  | 0x201 => cmdStatusCode s.cmd.status
  | 0x202 => s.cmd.arg0.toNat
  | 0x203 => s.cmd.arg1.toNat
  | 0x204 => s.cmd.arg2.toNat
  | 0x205 => s.cmd.arg3.toNat
  | 0x400 => s.evt.cause.toNat
  | 0x401 => s.evt.enable.toNat
  | 0x402 => s.evt.head.toNat
  | 0x403 => s.evt.sel.toNat
  | 0x404 => s.evt.rdptr.toNat
  | 0x880 => s.stage.mask.toNat
  | 0x882 => bit s.stage.pending
  | _ =>
    if a < 0x500 then s.evt.entry.toNat / 2 ^ (32 * (a - 0x408)) % 2 ^ 32
    else if a < 0x900 then (Sparse.get 0 s.stage.vals ((a - 0x800) / 2)).toNat
    else (readParam s ((a - 0x900) / 2)).toNat

/-- Code of a handle state (Table 20.7). -/
def handleCode : HState → Nat
  | .free => 0
  | .bound => 1
  | .draining => 2
  | .pinned => 3

/-- Word 0 of a handle entry. -/
def handleWord (e : Handle) : Nat :=
  handleCode e.state + 2 ^ 2 * bit e.tagged + 2 ^ 3 * bit e.rd + 2 ^ 4 * bit e.wr + 2 ^ 5 * bit e.glz +
    2 ^ 6 * xfmtCode e.xfmt + 2 ^ 8 * bit e.prevValid + 2 ^ 16 * e.epoch.toNat + 2 ^ 24 * e.prevEpoch.toNat

/-- Handle entries and local-store control. -/
def handleValue (s : State) (a : Nat) : Nat :=
  let e := getHandle s (BitVec.ofNat 8 ((a - 0x1000) / 8))
  if a = 0x1800 then s.ls.waitLimit.toNat
  else if a = 0x1801 then s.ls.corrLast.toNat
  else
    match a % 8 with
    | 0 => handleWord e
    | 1 => e.refcount.toNat
    | 2 => e.lastuse.toNat
    | 3 => e.xrow.toNat
    | 4 => (mapDescriptor e.cur).toNat
    | _ => (mapDescriptor e.prev).toNat

/-- A word of a window entry. -/
def windowValue (w : Window) (o : Nat) : Nat :=
  match o with
  | 0 => bit w.valid + 2 * bit w.chipAny + 2 ^ 2 * bit w.clusterAny + 2 ^ 3 * bit w.put + 2 ^ 4 * bit w.take +
      2 ^ 5 * bit w.peek + 2 ^ 6 * bit w.fetch + 2 ^ 8 * w.handle.toNat + 2 ^ 16 * w.srcChip.toNat
  | 1 => w.srcCluster.toNat
  | 2 => w.wbase.toNat
  | 3 => w.wrows.toNat
  | 5 => w.expiry.toNat
  | _ => 0

/-- Windows, fabric control and sessions. -/
def fabricValue (s : State) (a : Nat) : Nat :=
  match a with
  | 0x2080 => s.fab.epoch.toNat
  | 0x2081 => s.fab.denyLast.toNat
  | 0x2082 => s.fab.nodeId.toNat
  | 0x2083 => s.fab.retryGap.toNat
  | 0x2084 => s.fab.retryLimit.toNat
  | 0x2085 => s.fab.rspLimit.toNat
  | 0x2086 => bit s.fab.n.down + 2 * bit s.fab.e.down + 4 * bit s.fab.s.down + 8 * bit s.fab.w.down
  | 0x3000 => s.sess.idx.toNat
  | 0x3009 => s.sess.handle.toNat
  | 0x300A => s.sess.rows.toNat
  | 0x300C => s.sess.parkBase.toNat
  | 0x300E => s.sess.used.toNat
  | _ =>
    if a < 0x2080 then windowValue (Sparse.get Window.reset s.fab.windows ((a - 0x2000) / 8)) (a % 8)
    else s.sess.data.toNat / 2 ^ (32 * (a - 0x3004)) % 2 ^ 32

/-- The selected Glaze group, and the registers beside it. -/
def glazeValue (s : State) (a : Nat) : Nat :=
  let g := getGroup s s.glz.sel.toNat
  match a with
  | 0x4000 => s.glz.sel.toNat
  | 0x4001 => g.rule.toNat + 2 ^ 2 * bit g.frozen + 2 ^ 3 * bit g.lzy + 2 ^ 4 * g.curve.toNat
  | 0x4002 => g.lr.toNat
  | 0x4003 => g.wd.toNat
  | 0x4004 => g.beta1.toNat
  | 0x4005 => g.beta2.toNat
  | 0x4006 => g.eps.toNat
  | 0x4007 => g.step.toNat
  | _ => s.glz.curve.toNat

/-- Ballast registers; the parameters as written. -/
def ballastValue (s : State) (a : Nat) : Nat :=
  let b := s.ballast
  let p := b.written
  match a with
  | 0x5000 => bit p.fixed
  | 0x5001 => p.fixBudget.toNat + 2 ^ 2 * p.fixD.toNat
  | 0x5002 => b.budget.toNat + 2 ^ 2 * b.d.toNat + 2 ^ 6 * b.tclass.toNat + 2 ^ 8 * b.eclass.toNat +
      2 ^ 10 * bit b.trip + 2 ^ 16 * b.vid.toNat
  | 0x5003 => b.balance.toNat
  | 0x5004 => b.tJ.toNat
  | 0x5005 => b.tP.toNat
  | 0x5006 => b.tM.toNat
  | 0x5007 => b.diodeBad.toNat
  | 0x5008 => b.ewScale.toNat
  | 0x5010 => p.ewStatic.toNat
  | 0x5011 => p.ewMx.toNat
  | 0x5012 => p.ewMv.toNat
  | 0x5013 => p.ewVx.toNat
  | 0x5014 => p.ewGlz.toNat
  | 0x5015 => p.ewRow.toNat
  | 0x5016 => p.ewFab.toNat
  | 0x5020 => p.rthJ.toNat
  | 0x5021 => p.cthJ.toNat
  | 0x5022 => p.rthP.toNat
  | 0x5023 => p.cthP.toNat
  | 0x5024 => p.tAmb.toNat
  | 0x5025 => p.kObs.toNat
  | 0x5026 => p.tTh3.toNat
  | 0x5027 => p.tTh2.toNat
  | 0x5028 => p.tTh1.toNat
  | 0x5029 => p.tTrip.toNat
  | 0x5030 => p.eTh3.toNat
  | 0x5031 => p.eTh2.toNat
  | 0x5032 => p.eTh1.toNat
  | 0x5033 => p.eHyst.toNat
  | 0x5034 => p.balMax.toNat
  | 0x5035 => p.balMin.toNat
  | 0x5036 => p.duty.toNat
  | 0x5037 => p.batchCap.toNat
  | _ => p.vidOfs.toNat

/-- CONE_LASTk: the latest codes of four Cones. -/
def coneWord (s : State) (k : Nat) : Nat :=
  ((List.range 4).map (fun j => 2 ^ (8 * j) * (s.clk.coneCodes.getD (4 * k + j) 63).toNat)).sum

/-- Clocks and Cones. -/
def clockValue (s : State) (a : Nat) : Nat :=
  match a with
  | 0x5800 => s.clk.step.toNat
  | 0x5801 => s.clk.align.toNat
  | 0x5802 => s.clk.vidOfs.toNat + 2 ^ 4 * bit s.clk.freqOfs
  | 0x5803 => s.clk.drgHold.toNat
  | 0x5804 => drogueRank s.clk.level
  | 0x5805 => s.clk.coneMin.toNat
  | _ => if a < 0x5809 then coneWord s (a - 0x5806) else (s.clk.fsteps.getD (a - 0x5810) 0).toNat

/-- MOULD_CFG. -/
def mouldCfgValue (c : MouldCfg) : Nat :=
  c.engines.toNat + 2 ^ 5 * bit c.half + 2 ^ 6 * bit c.vxTwo + 2 ^ 7 * c.ports.toNat + 2 ^ 11 * c.bport.toNat +
    2 ^ 14 * c.winUsed.toNat

/-- MOULD_REGION_r; zero beyond the regions in force. -/
def regionValue (s : State) (r : Nat) : Nat :=
  match s.mould.cfg.regions[r]? with
  | none => 0
  | some g => g.mask.toNat + 2 ^ 24 * g.first.toNat + 2 ^ 36 * g.last.toNat + 2 ^ 48 * g.kind.toNat + 2 ^ 51

/-- REPAIR_COUNT: the spare rows in use, and the most in one stack (R90). -/
def repairValue (s : State) : Nat :=
  s.ls.repairs.length +
    2 ^ 16 * ((List.range s.build.lsStacks).map (fun k =>
      (s.ls.repairs.filter (fun p => stackOf p.toNat == k)).length)).foldl max 0

/-- Mould status and mailbox. -/
def mouldValue (s : State) (a : Nat) : Nat :=
  let c := s.mould.cfg
  match a with
  | 0x7000 => s.mould.address.toNat
  | 0x7002 => s.mould.crc.toNat + 2 ^ 32 * s.mould.length.toNat
  | 0x7004 => bit s.mould.pendingFlag
  | 0x7005 => s.mould.err.toNat
  | 0x7006 => s.mould.word.toNat
  | 0x7007 => s.mould.warn.toNat
  | 0x7008 => mouldCfgValue c
  | 0x7009 => c.qdir.toNat + 2 ^ 8 * c.kdir.toNat
  | 0x700A => ((List.range 8).map (fun k => 2 ^ (8 * k) * c.depths.getD k 0)).sum
  | 0x700C => repairValue s
  | 0x7800 => s.mbx.op.toNat
  | 0x7801 => cmdStatusCode s.mbx.status
  | 0x7802 => s.mbx.arg0.toNat
  | 0x7803 => s.mbx.arg1.toNat
  | 0x7804 => s.mbx.arg2.toNat
  | 0x7805 => s.mbx.arg3.toNat
  | _ => if a < 0x7800 then regionValue s ((a - 0x7010) / 2) else (mbxData s (a - 0x7900)).toNat

/-- The whole value of the register with this base address. -/
def regValue (s : State) (a : Nat) : Nat :=
  if a < 0x100 then identityValue s a
  else if a < 0x140 then runValue s a
  else if a < 0x200 then mirrorValue s (mirrorThread a) a
  else if a < 0x1000 then slotValue s a
  else if a < 0x2000 then handleValue s a
  else if a < 0x4000 then fabricValue s a
  else if a < 0x5000 then glazeValue s a
  else if a < 0x5800 then ballastValue s a
  else if a < 0x6000 then clockValue s a
  else if a = 0x6000 then s.cycle.toNat
  else if a < 0x7000 then counter s a
  else mouldValue s a

/-! The checks before an access. -/

/-- The Glaze block of a cluster without Glaze (R257, R404). -/
def glazeAbsent (s : State) (a : Nat) : Bool :=
  decide (0x4000 ≤ a) && decide (a < 0x4100) && !s.mould.cfg.engines.getLsbD 3

/-- A thread's mirrors are read while it runs (R397). -/
def mirrorClosed (s : State) (a : Nat) : Bool :=
  decide (0x140 ≤ a) && decide (a < 0x200) && !mirrorsOpen s (mirrorThread a)

/-- The status of an access that is refused before the register itself is reached, or the register. -/
def csrReach (s : State) (a : Nat) : Except CsrStatus CsrReg :=
  if !blockOpen s a then .error .errState
  else if glazeAbsent s a then .error .errAbsent
  else
    match regAt s a with
    | none => .error .errAddr
    | some r => .ok r

/-- The captured upper word of a register (R378). -/
def captured (s : State) (base : Nat) : Option Word32 := (s.csr.capture.find? (fun x => x.1 == base)).map (fun x => x.2)

/-- What a read gives and what it captures: the word, and the capture it leaves for the register. -/
def readWord (s : State) (r : CsrReg) (a : Nat) : Word32 × Option Word32 :=
  let v := regValue s r.base
  if !r.wide then (BitVec.ofNat 32 v, none)
  else if a = r.base then (BitVec.ofNat 32 v, some (BitVec.ofNat 32 (v / 2 ^ 32)))
  else ((captured s r.base).getD (BitVec.ofNat 32 (v / 2 ^ 32)), none)

/-- Set or clear the capture of a register. -/
def setCapture (base : Nat) (c : Option Word32) (s : State) : State :=
  let rest := Sparse.drop s.csr.capture base
  { s with csr := { s.csr with capture := match c with
    | none => rest
    | some w => Sparse.put rest base w } }

/-- The block lies in the CLK island, so that a lull delays an access to it (R15, R376). -/
def islandBlock (a : Nat) : Bool :=
  !(decide (a < 0x100) || (decide (0x400 ≤ a) && decide (a < 0x500)) || decide (0x7800 ≤ a))

/-- The entry of a triple-copied table that a register shows (R347). -/
def tableAt (s : State) (a : Nat) : Option Nat :=
  if 0x1000 ≤ a ∧ a < 0x1800 then some ((a - 0x1000) / 8)
  else if 0x2000 ≤ a ∧ a < 0x2080 then some (cfgWindow ((a - 0x2000) / 8))
  else if a = 0x2082 then some cfgNode
  else if 0x4001 ≤ a ∧ a ≤ 0x4007 then some (cfgGroup s.glz.sel.toNat)
  else if 0x5810 ≤ a ∧ a ≤ 0x581F then some (cfgStep (a - 0x5810))
  else if 0x7008 ≤ a ∧ a ≤ 0x700B ∨ 0x7010 ≤ a ∧ a ≤ 0x702F then some cfgMould
  else none

/-- The access reads that entry. -/
def readTable (a : Nat) (s : State) : State :=
  match tableAt s a with
  | none => s
  | some n => readCfg n s

/-- A read of CONE_MIN restarts its record (R321, Table 20.15). -/
def readEffect (a : Nat) (s : State) : State :=
  if a = 0x5805 then { s with clk := { s.clk with coneMin := 63 } } else s

/-- A read of a CSR (R376 to R379, R392, R394); in the CLK island after a lull (R15). -/
def csrRead (addr : BitVec 16) (s : State) : State :=
  let a := addr.toNat
  if !portOpen s then s
  else
    let s := if islandBlock a then passLull s else s
    match csrReach s a with
    | .error st => answer st 0 s
    | .ok r =>
      if r.acc = .wo then answer .errRights 0 s
      else if mirrorClosed s a then answer .errState 0 s
      else
        let (w, c) := readWord s r a
        answer .ok w (readEffect a (readTable a (setCapture r.base c s)))

/-- CONE_MIN_READ (R321, R406). -/
def execConeMinRead (s : State) : Out := .next (csrRead 0x5805 s)

/-- WIDE_REGISTER_LOWER_READ (R378); the read of any other register is the same operation. -/
def execWideRegisterLowerRead (address : BitVec 16) (s : State) : Out := .next (csrRead address s)

end Sys2Proof.Machine
end

