-- ==== Sys2Proof/Machine/Mould.lean ====
section
/-! DEFINITION. The Mould stream, bisque start, refire, reset and the life cycle (chapter 16, R90, R91, R165,
R315, R316, R325, R359, R382). -/

namespace Sys2Proof.Machine

/-! The check of a stream (R336 to R339). -/

/-- A field of a stream word: `n` bits from bit `lo` up. -/
def wordField (w : Word64) (lo n : Nat) : Nat := w.toNat / 2 ^ lo % 2 ^ n

/-- A record: index of its header word, TYPE, header word, payload. -/
structure MouldRec where
  index : Nat
  typ : Nat
  head : Word64
  payload : List Word64
  deriving DecidableEq, Repr

/-- LEN, most occurrences and number of inline bits above bit 16 of a known TYPE (Table 16.4). -/
def mouldShape (typ : Nat) : Option (Nat × Nat × Nat) :=
  match typ with
  | 0x01 => some (0, 1, 32)
  | 0x02 => some (0, 1, 5)
  | 0x03 => some (0, 1, 1)
  | 0x04 => some (0, 1, 1)
  | 0x05 => some (1, 1, 12)
  | 0x06 => some (0, 1, 7)
  | 0x07 => some (0, 1, 5)
  | 0x08 => some (0, 1, 17)
  | 0x09 => some (1, 16, 3)
  | 0x0A => some (16, 1, 0)
  | 0xFF => some (0, 1, 32)
  | _ => none

/-- An optional TYPE, ignored with a NOTE event. -/
def recOptional (typ : Nat) : Bool := decide (0x80 ≤ typ) && decide (typ ≤ 0xFE)

/-- Walk the records of the words from index `i` on; an error is the index of the word concerned. `n` is the
number of words of the stream. -/
def walkRecords (ws : List Word64) (n : Nat) : Nat → Nat → List MouldRec → Except Nat (List MouldRec)
  | 0, _, acc => .ok acc.reverse
  | fuel + 1, i, acc =>
    if n ≤ i then .ok acc.reverse
    else
      let h := ws.getD i 0
      let typ := wordField h 0 8
      let len := wordField h 8 8
      let bad := match mouldShape typ with
        | some (l, most, _) => len != l || decide (most ≤ (acc.filter (fun r => r.typ == typ)).length)
        | none => !recOptional typ
      let last := i + 1 == n
      if bad || (typ == 0xFF) != last || (typ != 0xFF && decide (n < i + len + 2)) then .error i
      else
        walkRecords ws n fuel (i + 1 + len)
          ({ index := i, typ := typ, head := h, payload := (ws.drop (i + 1)).take len } :: acc)

/-- An FSTEP payload word has only the legal values of Table 15.2. -/
def fstepOk (p : Word64) : Bool :=
  let f := wordField p 0 12
  decide (p.toNat < 2 ^ 32) && decide (600 ≤ f) && decide (f ≤ 2700) && f % 10 == 0 &&
    wordField p 20 6 != 0 && wordField p 26 6 != 63

/-- The index of the first word of a record with a value outside Table 16.4 or a RES0 bit set. -/
def fieldError (b : Build) (r : MouldRec) : Option Nat :=
  match mouldShape r.typ with
  | none => none
  | some (_, _, bits) =>
    if 2 ^ (16 + bits) ≤ r.head.toNat then some r.index
    else
      let p := r.payload.headD 0
      match r.typ with
      | 0x05 => if (List.range 8).any (fun k => decide (64 < wordField p (8 * k) 8)) then some (r.index + 1) else none
      | 0x07 => if 16 < wordField r.head 16 5 then some r.index else none
      | 0x08 => if b.sessEntries < wordField r.head 16 17 then some r.index else none
      | 0x09 =>
        if 4 < wordField r.head 16 3 then some r.index
        else if 2 ^ 48 ≤ p.toNat then some (r.index + 1) else none
      | 0x0A =>
        ((r.payload.zipIdx).find? (fun x => !fstepOk x.1)).map (fun x => r.index + 1 + x.2)
      | _ => none

/-- The record of a type, if there is one. -/
def findRec (rs : List MouldRec) (typ : Nat) : Option MouldRec := rs.find? (fun r => r.typ == typ)

/-- The first entry of a frequency-step table that breaks R315, given the entry before it. -/
def stepsError : Nat → Option Word32 → List Word32 → Option Nat
  | _, _, [] => none
  | i, prev, e :: es =>
    let rises := match prev with
      | none => true
      | some d => decide (stepFreq d + 20 ≤ stepFreq e) && decide (stepVid d ≤ stepVid e)
    if rises && decide (stepT50 e < stepT25 e) then stepsError (i + 1) (some e) es else some i

/-- A region of a REGION record. -/
def recRegion (r : MouldRec) : Region :=
  let p := r.payload.headD 0
  { kind := BitVec.ofNat 3 (wordField r.head 16 3), mask := BitVec.ofNat 24 (wordField p 0 24),
    first := BitVec.ofNat 12 (wordField p 24 12), last := BitVec.ofNat 12 (wordField p 36 12) }

/-- Two regions share a row of a stack (R338). -/
def regionsOverlap (x y : Region) : Bool :=
  (x.mask &&& y.mask) != 0 && decide (x.first ≤ y.last) && decide (y.first ≤ x.last)

/-- The index of the payload word of the first region that breaks R338. -/
def regionsError (b : Build) : List Region → List MouldRec → Option Nat
  | _, [] => none
  | seen, r :: rs =>
    let g := recRegion r
    if 2 ^ b.lsStacks ≤ g.mask.toNat ∨ g.last < g.first ∨ seen.any (fun x => regionsOverlap x g) then some (r.index + 1)
    else regionsError b (seen ++ [g]) rs

/-- The engines that the fuses leave (R2, R375): bit 0 of the grade removes MXE, bit 1 Glaze. -/
def fuseEngines (z : Fuses) : BitVec 5 :=
  (if z.grade.getLsbD 0 then 0x1E else 0x1F) &&& (if z.grade.getLsbD 1 then 0x17 else 0x1F)

/-- A stream that passed the check: its structure, the engine bits ignored, the optional records, its length
and its CRC. -/
structure Checked where
  cfg : MouldCfg
  warn : BitVec 5
  notes : List (Nat × Nat)
  length : Nat
  crc : Word32
  deriving DecidableEq, Repr

/-- The structure that the records describe, with the defaults of Table 16.4. -/
def buildCfg (b : Build) (z : Fuses) (rs : List MouldRec) : MouldCfg :=
  let flag (typ lo n dflt : Nat) : Nat := match findRec rs typ with
    | some r => wordField r.head lo n
    | none => dflt
  { engines := BitVec.ofNat 5 (flag 0x02 16 5 31) &&& fuseEngines z
    half := flag 0x03 16 1 0 == 1
    vxTwo := flag 0x04 16 1 0 == 1
    qdir := BitVec.ofNat 8 (flag 0x05 16 8 0xC0)
    kdir := BitVec.ofNat 4 (flag 0x05 24 4 0xC)
    depths := match findRec rs 0x05 with
      | some r => (List.range 8).map (fun k => wordField (r.payload.headD 0) (8 * k) 8)
      | none => List.replicate 8 16
    ports := BitVec.ofNat 4 (flag 0x06 16 4 15)
    bport := BitVec.ofNat 3 (flag 0x06 20 3 7)
    winUsed := BitVec.ofNat 5 (flag 0x07 16 5 16)
    sessUsed := BitVec.ofNat 17 (flag 0x08 16 17 b.sessEntries)
    regions := (rs.filter (fun r => r.typ == 0x09)).map recRegion
    fsteps := match findRec rs 0x0A with
      | some r => r.payload.map (fun p => p.setWidth 32)
      | none => [] }

/-- The checks on the records, in the order of Table 16.5 from RECORD on. -/
def checkRecords (b : Build) (z : Fuses) (n : Nat) (crc : Word32) (rs : List MouldRec) : Except (Nat × Nat) Checked :=
  match findRec rs 0x0A with
  | none => .error (0x05, n - 1)
  | some fs =>
    match rs.findSome? (fieldError b) with
    | some i => .error (0x06, i)
    | none =>
      let cfg := buildCfg b z rs
      if 128 < cfg.depths.sum then .error (0x07, ((findRec rs 0x05).map (fun r => r.index + 1)).getD 0)
      else
        match stepsError 0 none cfg.fsteps with
        | some k => .error (0x08, fs.index + 1 + k)
        | none =>
          match regionsError b [] (rs.filter (fun r => r.typ == 0x09)) with
          | some i => .error (0x09, i)
          | none =>
            let named := match findRec rs 0x02 with
              | some r => BitVec.ofNat 5 (wordField r.head 16 5)
              | none => 0
            .ok { cfg := cfg, warn := named &&& ~~~(fuseEngines z),
                  notes := (rs.filter (fun r => recOptional r.typ)).map (fun r => (r.typ, r.index)),
                  length := n, crc := crc }

/-- The check of a whole stream (R339): an error is MOULD_ERR and MOULD_WORD. `failed` is the row whose read failed
twice; its word is the first of the row. -/
def checkStream (b : Build) (z : Fuses) (failed : Option Nat) (stream : List Word64) : Except (Nat × Nat) Checked :=
  let h := stream.headD 0
  let n := wordField h 32 16
  if failed.isSome then .error (0x01, 64 * failed.getD 0)
  else if 4096 < n ∨ n < 2 ∨ stream.length < n then .error (0x02, 0)
  else
    let ws := stream.take n
    let last := ws.getD (n - 1) 0
    let crc := crc32c ((ws.take (n - 1)).flatMap (fun w => leBytes 8 w.toNat))
    if wordField last 0 8 ≠ 0xFF then .error (0x02, n - 1)
    else if wordField last 16 32 ≠ crc.toNat then .error (0x03, n - 1)
    else if wordField h 0 8 ≠ 0x01 ∨ wordField h 16 8 ≠ 4 ∨ 1 < wordField h 24 8 then .error (0x04, 0)
    else
      match walkRecords ws n n 0 [] with
      | .error i => .error (0x05, i)
      | .ok rs => checkRecords b z n crc rs

/-! Applying a stream (R316, R340, R382). -/

/-- The link of a port at an applied stream (R382): reset where the stream enables it, DOWN where the partner
does not acknowledge, cleared where the stream disables it. -/
def applyPort (linkUp : BitVec 4) (s : State) (p : Nat) : State :=
  let q := BitVec.ofNat 2 p
  let s := clearLink q false s
  if !portEnabled s q then s
  else if linkUp.getLsbD p then freeFlits q 288 s
  else goDown q s

/-- The check of the stream that has been read. -/
def checkRead (s : State) : Except (Nat × Nat) Checked := checkStream s.build s.fuses s.mould.failed (streamWords s)

/-- The structure of a stream comes into force (R340); CLK runs at F0 (R316). -/
def applyStream (c : Checked) (linkUp : BitVec 4) (s : State) : State :=
  let s := setStep 0 { s with
    mould := { s.mould with cfg := c.cfg, pending := none, pendingFlag := false, warn := c.warn }
    sess := { s.sess with used := c.cfg.sessUsed }
    clk := { s.clk with fsteps := c.cfg.fsteps } }
  retuneTable ((List.range 4).foldl (applyPort linkUp) s)

/-- MOULD_LOAD's address argument (R336). -/
def mouldArgsOk (s : State) : Bool := s.cmd.arg0.toNat % 512 == 0 && decide (s.cmd.arg1.toNat < 2 ^ 16)

/-- The events of an accepted stream (R336, R337). -/
def mouldNotes (c : Checked) (s : State) : State :=
  let s := ((List.range 5).filter (fun k => c.warn.getLsbD k)).foldl (fun s k => logEvent 0x005 k s) s
  c.notes.foldl (fun s x => logEvent 0x006 (x.1 + 2 ^ 8 * x.2) s) s

/-- The address that MOULD_LOAD's arguments name (Table 16.3). -/
def mouldArg (s : State) : BitVec 48 := BitVec.ofNat 48 (s.cmd.arg0.toNat + 2 ^ 32 * s.cmd.arg1.toNat)

/-- A stream is refused with a code of Table 16.5 and the index of a word (R339). -/
def setMouldErr (err word : Nat) (s : State) : State :=
  { s with mould := { s.mould with err := BitVec.ofNat 8 err, word := BitVec.ofNat 12 word } }

/-- MOULD_LOAD ends once its stream has been read (R339, R340). -/
def mouldLoadStep (linkUp : BitVec 4) (s : State) : Option State :=
  if busyWith s 0x07 && streamEnded s then
    some (match checkRead s with
      | .error (err, word) => cmdFail 0 (setMouldErr err word s)
      | .ok c =>
        let s := mouldNotes c { s with mould := { s.mould with
          address := mouldArg s, crc := c.crc, length := BitVec.ofNat 13 c.length, err := 0, word := 0, warn := c.warn } }
        if s.run.state = .bisque then
          let s := applyStream c linkUp (cmdOk s)
          setRun .ready { s with run := { s.run with step := 0 } }
        else cmdOk { s with mould := { s.mould with pending := some c.cfg, pendingFlag := true } })
  else none

/-! Reset (R91, R330, R344, R374). -/

/-- What a fabric port has sent stays sent. -/
def keepSent (old new : Fabric) : Fabric :=
  { new with
    n := { new.n with tx := old.n.tx }, e := { new.e with tx := old.e.tx }
    s := { new.s with tx := old.s.tx }, w := { new.w with tx := old.w.tx } }

/-- Reset, bisque start and life-cycle transition (Table 16.9): everything takes its reset value, but for the
pins, the fuses, the lock of the monitor, a ticket of R368, and the log at a life-cycle transition. The
cluster is in BISQUE at `step`. -/
def coldReset (keepLog : Bool) (step : BitVec 4) (s : State) : State :=
  let r := State.resetOf s.build s.fuses
  let status := if s.cmd.status = .busy then CmdStatus.fail else .idle
  { r with
    fuseBus := s.fuseBus
    run := { r.run with porN := s.run.porN, rstN := s.run.rstN, lc := s.run.lc, step := step }
    cmd := { r.cmd with status := status }
    evt := if keepLog then { s.evt with cause := 0, enable := 0 } else r.evt
    fab := keepSent s.fab r.fab
    brg := { r.brg with
      romVersion := s.brg.romVersion, slot := s.brg.slot, svn := s.brg.svn, seq := s.brg.seq, ticket := s.brg.ticket }
    mon := { r.mon with access := s.mon.access, out := s.mon.out }
    tap := s.tap
    nextId := s.nextId
    free := s.free
    pending := s.pending }

/-- rst_n asserts (R330, R374): BISQUE held at step 1. It is ignored while por_n is low. -/
def rstAssert (s : State) : State :=
  if s.run.state = .off then s
  else
    let s := coldReset false 1 s
    { s with run := { s.run with rstN := false } }

/-- por_n goes low (R330): OFF. trst_n is asserted with it (R374). -/
def powerOff (s : State) : State :=
  let s := coldReset false 0 s
  let r := { s.run with porN := false, state := .off }
  { s with
    run := { r with west := copyOf r, east := copyOf r }
    cmd := CmdSlot.reset
    brg := { s.brg with ticket := none }
    tap := { Tap.reset with scans := s.tap.scans } }

/-- por_n is released: the fuse inputs are read (R345, R370, R375). -/
def powerGood (s : State) : State :=
  let z := s.fuseBus
  { s with
    fuses := z
    run := { s.run with lc := z.lc }
    fab := { s.fab with nodeId := z.cluster.setWidth 19 }
    mon := { s.mon with access := MonAccess.ofLc z.lc } }

/-! Bisque start (R90, R165, R341, R342). -/

/-- Failed cube-columns. -/
def failedCols (m : BitVec 8) : Nat := ((List.range 8).filter (fun j => m.getLsbD j)).length

/-- The widths that the failed cube-columns leave (R165, R166). -/
def mxWidths (bad : BitVec 8) : BitVec 6 × BitVec 6 × BitVec 6 :=
  if bad = 0 then (32, 16, 16)
  else if failedCols bad = 1 then (28, if bad.toNat < 16 then 12 else 16, if bad.toNat < 16 then 16 else 12)
  else (0, 0, 0)

/-- Step 2: ROM starts the images that verify, one after the other, until one passes its self-check; the start of the
second is logged (R366). The value says whether one has. -/
def bootImages (runs : BitVec 1 → Bool) : List (BitVec 1 × ImageRead) → State → Bool × State
  | [], s => (false, s)
  | (k, x) :: rest, s =>
    if runs k then (true, setImage k x s)
    else
      match rest with
      | [] => (false, s)
      | y :: _ => bootImages runs rest (bridleEvent 0x603 y.1.toNat s)

/-- Step 2 of a bisque start. -/
def bootStep (o : BisqueOutcome) (s : State) : Bool × State :=
  bootImages (fun k => if k = 0 then o.runs0 else o.runs1) (romOrder s.fuses o.image0 o.image1) s

/-- The failing rows of the stacks that the build has. -/
def failedRows (b : Build) (rows : List (BitVec 17)) : List (BitVec 17) :=
  (rows.filter (fun p => decide (p.toNat < 4096 * b.lsStacks))).eraseDups

/-- Failing rows of a stack. -/
def failedIn (rows : List (BitVec 17)) (k : Nat) : Nat := (rows.filter (fun p => stackOf p.toNat == k)).length

/-- The START_CODE of the steps 3 to 7 (R342, Table 16.7): that of the first that fails twice. A stack that needs
more than 64 spare rows fails step 5. -/
def startFailure (b : Build) (o : BisqueOutcome) : BitVec 8 :=
  let rows := failedRows b o.badRows
  if o.startCode = 2 ∨ o.startCode = 3 then o.startCode
  else if (List.range 24).any (fun k => decide (64 < failedIn rows k)) then 4
  else if o.startCode = 5 ∨ o.startCode = 6 ∨ o.startCode = 7 then o.startCode
  else 0

/-- Step 5: a spare row for each row that failed (R90), and the bypass of a cube-column (R165). -/
def applyRepair (o : BisqueOutcome) (s : State) : State :=
  let (f, a, b) := mxWidths o.badCols
  let s := { s with
    mx := { s.mx with full := f, h0 := a, h1 := b }
    ls := { s.ls with repairs := failedRows s.build o.badRows } }
  if f = 0 then bridleEvent 0x205 o.badCols.toNat s else s

/-- Steps 6 and 7: the first full calibration, which sets the wear baselines, and the delay trims. -/
def applyCalibration (o : BisqueOutcome) (s : State) : State :=
  { s with
    brg := { s.brg with wear := { s.brg.wear with baseline := some o.offsets, latest := o.offsets } }
    clk := { s.clk with align := o.trims } }

/-- A step fails twice (R342): FAULTED. -/
def startFails (code : BitVec 8) (s : State) : State :=
  let s := bridleEvent 0x002 code.toNat s
  setRun .faulted { s with run := { s.run with startCode := code, step := 0 } }

/-- Steps 3 to 7, up to the wait for MOULD_LOAD. -/
def startSteps (o : BisqueOutcome) (s : State) : State :=
  let code := startFailure s.build o
  let s := if code = 0 ∨ 5 ≤ code.toNat then applyRepair o s else s
  if code = 0 then { applyCalibration o s with run := { s.run with step := 8 } } else startFails code s

/-- The start waits for its release: power is off, or the cluster stands before step 8 of a bisque start. -/
def startWaits (s : State) : Bool := s.run.state == .off || (s.run.state == .bisque && s.run.step != 8)

/-- por_n or rst_n is released, or a bisque start goes on from a later step: the cold-start steps run up to the wait
for MOULD_LOAD, or a step fails twice (R341, R342). A start from step 3 keeps its image. -/
def bisqueStep (o : BisqueOutcome) (s : State) : Option State :=
  if startWaits s then
    let boots := decide (s.run.step.toNat ≤ 2)
    let s := if s.run.state = .off then powerGood s else s
    let s := setMouldErr 0 0 { s with run := { s.run with porN := true, rstN := true } }
    let s := if s.run.state = .off then setRun .bisque s else s
    let r := if boots then bootStep o s else (true, s)
    some (if r.1 then startSteps o r.2 else startFails 1 r.2)
  else none

/-! Refire (R91, R343, R344). -/

/-- A mapping holds a physical row (R96). -/
def mapsRow (m : Mapping) (p : Nat) : Bool :=
  let st := maskStacks m.mask
  let j := st.idxOf (p / 4096)
  let d := (p % 4096 + 4096 - m.base.toNat) % 4096
  decide (j < st.length) && decide (d * st.length + j < m.count.toNat)

/-- A row that refire keeps: one of a RESIDENT-PINNED handle's CURRENT mapping (R91, Table 14.1). -/
def pinnedRow (s : State) (p : Nat) : Bool :=
  s.handles.any (fun x => x.2.state == .pinned && mapsRow x.2.cur p)

/-- A claim on a kept tag is released (R91). -/
def unclaim : Tag → Tag
  | .wclaim => .empty
  | .rclaim => .full
  | t => t

/-- The local store after refire (R91): the pinned rows with their errors and tags. -/
def refireStore (s : State) : LocalStore :=
  let keep {α : Type} (m : Sparse α) : Sparse α := m.filter (fun x => pinnedRow s x.1)
  { LocalStore.reset with
    rows := s.ls.rows.filter (fun x => pinnedRow s (x.1 / 512))
    tags := ((keep s.ls.tags).map (fun x => (x.1, unclaim x.2))).filter (fun x => x.2 != .empty)
    single := keep s.ls.single
    double := keep s.ls.double
    repairs := s.ls.repairs }

/-- The handle table after refire (Table 14.1): the pinned handles. -/
def refireHandles (s : State) : Sparse Handle :=
  (s.handles.filter (fun x => x.2.state == .pinned)).map (fun x =>
    (x.1, { x.2 with
      prevValid := false, prevEpoch := 0, prev := Mapping.zero, refcount := 0, lastuse := 0 }))

/-- The parameters of Tables 12.3 and 12.4 stay; the others take their reset values (Table 16.9). -/
def keepParams (p : BalParams) : BalParams :=
  { BalParams.reset with
    fixed := p.fixed, rthJ := p.rthJ, cthJ := p.cthJ, rthP := p.rthP, cthP := p.cthP, tAmb := p.tAmb, kObs := p.kObs
    tTh3 := p.tTh3, tTh2 := p.tTh2, tTh1 := p.tTh1, tTrip := p.tTrip, eTh3 := p.eTh3, eTh2 := p.eTh2
    eTh1 := p.eTh1, eHyst := p.eHyst, balMax := p.balMax, balMin := p.balMin, duty := p.duty
    batchCap := p.batchCap, vidOfs := p.vidOfs }

/-- Outstanding reservoir requests are discarded when they are answered; those that wait are not sent. -/
def discardRequests (l : List ResReq) : List ResReq :=
  (l.filter (fun r => r.id.isSome)).map (fun r => { r with use := .discard })

/-- An abandoned boundary write leaves its port's inbound buffer (R293). -/
def freeBoundary (s : State) (b : BAccess) : State :=
  match b.buffer with
  | some p => freeFlits p 18 s
  | none => s

/-- Quiesce and wipe (Table 16.8, steps 1 and 2; Table 16.9): what refire keeps, and the rest at reset. -/
def refireReset (s : State) : State :=
  let s := s.ls.boundary.foldl freeBoundary s
  let r := State.resetOf s.build s.fuses
  let noTrack (q : Port) : Port := { q with tracker := [] }
  let run := { s.run with
    epoch := 0, retained := false, safeCause := .none, safeDue := false, held := .ready, startCode := 0, step := 1 }
  { r with
    fuseBus := s.fuseBus
    run := { run with west := copyOf run, east := copyOf run }
    csr := { s.csr with held := none, capture := [] }
    evt := { s.evt with cause := 0, enable := 0 }
    mx := { r.mx with full := s.mx.full, h0 := s.mx.h0, h1 := s.mx.h1 }
    ls := refireStore s
    handles := refireHandles s
    res := { reads := discardRequests s.res.reads, writes := discardRequests s.res.writes }
    fab := { r.fab with
      n := noTrack s.fab.n, e := noTrack s.fab.e, s := noTrack s.fab.s, w := noTrack s.fab.w, nodeId := s.fab.nodeId }
    sess := { r.sess with used := s.sess.used }
    ballast := { Ballast.reset with
      written := keepParams s.ballast.written, par := keepParams s.ballast.par
      credit := s.ballast.credit, strobe := s.ballast.strobe, missRun := s.ballast.missRun }
    clk := { Clocks.reset with
      align := s.clk.align, vidOfs := s.clk.vidOfs, freqOfs := s.clk.freqOfs, fsteps := s.clk.fsteps }
    mould := { s.mould with err := 0, word := 0, warn := 0 }
    brg := { s.brg with stepMoved := s.brg.stepMoved || s.clk.step != 0 }
    mbx := s.mbx
    mon := s.mon
    tap := s.tap
    upsets := { Upsets.none with tags := s.upsets.tags.filter (pinnedRow s) }
    nextId := s.nextId
    free := s.free
    pending := s.pending }

/-- REFIRE (R343): the command stays BUSY; every instruction in flight is abandoned, and the stream at MOULD_ADDR is
read again. -/
def runRefire (s : State) : State :=
  let s := refireReset (setRun .refire s)
  readStream s.mould.address { s with cmd := { CmdSlot.reset with op := 4, status := .busy } }

/-- Refire falls back to a bisque start from step 2, and REFIRE ends FAIL (R330, R333, R343); `word` is the index of
the word at which the check of the stream failed. -/
def refireFallback (failed err word : Nat) (s : State) : State :=
  let s := coldReset false 2 s
  let s := bridleEvent 0x003 (failed + 2 ^ 8 * err) (setMouldErr err word s)
  cmdFail 0x003 s

/-- A Cone's offset after the quick check of a refire: that of its full calibration if its measurement differs from
the stored one by more than two codes (R324). -/
def quickCheck (o : RefireOutcome) (latest : List (BitVec 8)) : List (BitVec 8) :=
  (latest.zipIdx).map (fun x =>
    if 2 < ((o.measured.getD x.2 x.1).toInt - x.1.toInt).natAbs then o.offsets.getD x.2 x.1 else x.1)

/-- Steps 3 and 4 of a refire: the quick Cone check and the alignment. -/
def refireCheck (o : RefireOutcome) (s : State) : State :=
  { s with
    brg := { s.brg with wear := { s.brg.wear with latest := quickCheck o s.brg.wear.latest } }
    clk := { s.clk with align := o.trims } }

/-- The last step of a refire passes: REFIRE ends OK, and what waited in the mailbox starts (R331, R364). -/
def refireDone (s : State) : State :=
  let s := setRun .ready (cmdOk { s with run := { s.run with step := 0 } })
  mailboxServe { s with mbx := { s.mbx with waits := false } }

/-- The steps of a refire end (R343, Table 16.8); none while the Bridle restarts or the stream is still being read. -/
def refireCompleteStep (o : RefireOutcome) (s : State) : Option State :=
  if s.run.state = .refire ∧ !s.brg.restarting then
    if o.failStep ≠ 0 then some (refireFallback o.failStep.toNat 0 0 s)
    else if streamEnded s then
      some (match checkRead s with
        | .error (err, word) => refireFallback 5 err word s
        | .ok c =>
          if c.crc ≠ s.mould.crc ∨ c.length ≠ s.mould.length.toNat then refireFallback 5 0x0A 0 s
          else refireDone (applyStream c o.linkUp (refireCheck o s)))
    else none
  else none

/-! The life cycle (R345). -/

/-- LC_SET's target lies along the arrows, or is RETIRED. -/
def lcTargetOk (s : State) : Bool :=
  let old := s.run.lc.toNat
  let new := s.cmd.arg0.toNat
  decide (new < 8) && (decide (4 ≤ new) || (old == 0 && new == 1) || (old == 1 && new == 2) ||
    (old == 2 && new == 3) || (old == 3 && new == 2))

/-- CMD_ARG1 and CMD_ARG2 carry a valid ticket for the target (R368). -/
def ticketOk (s : State) : Bool :=
  s.brg.ticket == some (s.cmd.arg0.setWidth 3, s.cmd.arg2 ++ s.cmd.arg1)

/-- LC_SET: a transition out of FIELD needs its ticket; then every memory is wiped and a bisque start goes on
from step 3. The integrator programs the fuses, so that the bus reports the new state from then on. -/
def changeLc (s : State) : State :=
  let old := s.run.lc
  let new := s.cmd.arg0.setWidth 3
  if old = 2 ∧ !ticketOk s then cmdFail 0 s
  else
    let s := logEvent 0x007 (old.toNat + 2 ^ 8 * new.toNat) s
    let used := if old = 2 then none else s.brg.ticket
    let s := coldReset true 3 { s with run := { s.run with lc := new } }
    cmdOk { s with
      fuseBus := { s.fuseBus with lc := new }
      brg := { s.brg with ticket := used }
      mon := { s.mon with access := MonAccess.ofLc new } }

/-- LC_SET waits for a Bridle that restarts (R358). -/
def runLcSet (s : State) : State := if s.brg.restarting then s else changeLc s

/-- An accepted MOULD_LOAD reads its stream (R339). -/
def runMouldLoad (s : State) : State := readStream (mouldArg s) s

/-! The meanings. -/

/-- MOULD_LOAD (R339, R340). -/
def execMouldLoad (s : State) : Out :=
  .next (postCommand 0x07 mouldArgsOk (fun _ => false) (fun _ => true) runMouldLoad s)

/-- MOULD_LOAD_COMPLETE (R339, R340): once the stream has been read; the answers that its reads still
wait for come with the row. -/
def execMouldLoadComplete (readErr : Bool) (stream : List Bytes) (linkUp : BitVec 4) (s : State) : Out :=
  .next ((mouldLoadStep linkUp (streamAnswers readErr stream (passLull s))).getD s)

/-- REFIRE (R343). -/
def execRefire (s : State) : Out := .next (postPlain 0x04 runRefire s)

/-- REFIRE_COMPLETE (R330, R343). -/
def execRefireComplete (o : RefireOutcome) (s : State) : Out := .next ((refireCompleteStep o s).getD s)

/-- LC_SET (R345). -/
def execLcSet (s : State) : Out :=
  .next (postCommand 0x08 lcTargetOk (fun _ => false) (fun _ => true) runLcSet s)

/-- POR_N_LOW (R330). -/
def execPorNLow (s : State) : Out := .next (powerOff s)

/-- RST_N_ASSERT (R330, R374). -/
def execRstNAssert (s : State) : Out := .next (rstAssert s)

/-- BISQUE_START (R341, R342). -/
def execBisqueStart (o : BisqueOutcome) (s : State) : Out := .next ((bisqueStep o s).getD s)

end Sys2Proof.Machine
end

