-- ==== Sys2Proof/Machine/CsrWrite.lean ====
section
/-! DEFINITION. The write of a CSR: held lower words, the checks of every register, and what a write does
(R60, R93, R257, R274, R296, R304, R350, R362, R363, R377 to R379, R392 to R409). -/

namespace Sys2Proof.Machine

/-- What a write comes to: its status and the state after it. -/
abbrev Wr := CsrStatus × State

/-- A write that takes effect. -/
def wrOk (s : State) : Wr := (.ok, s)

/-! Run state and command slot (R397, R398, R331). -/

/-- ENTRY_TA and ENTRY_TX. -/
def writeEntry (t : Thread) (v : Nat) (s : State) : Wr :=
  if s.run.state ≠ .ready ∧ s.run.state ≠ .maint then (.errState, s)
  else if v % 8 ≠ 0 then (.errAddr, s)
  else
    match t with
    | .ta => wrOk { s with run := { s.run with entryTa := BitVec.ofNat 48 v } }
    | .tx => wrOk { s with run := { s.run with entryTx := BitVec.ofNat 48 v } }

/-- T_RSTSEL: the host's own selector. -/
def writeRstsel (t : Thread) (v : Nat) (s : State) : Wr :=
  if mirrorsOpen s t then wrOk (modThread t (fun th => { th with hostRstsel := BitVec.ofNat 3 v }) s) else (.errState, s)

/-- CMD_ARG0 to CMD_ARG3. -/
def writeCmdArg (k v : Nat) (s : State) : Wr :=
  let w := BitVec.ofNat 32 v
  if s.cmd.status = .busy then (.errState, s)
  else
    match k with
    | 0 => wrOk { s with cmd := { s.cmd with arg0 := w } }
    | 1 => wrOk { s with cmd := { s.cmd with arg1 := w } }
    | 2 => wrOk { s with cmd := { s.cmd with arg2 := w } }
    | _ => wrOk { s with cmd := { s.cmd with arg3 := w } }

/-- The write of a code to CMD_OP: the command of Table 16.3, or a code that is none. -/
def postByCode (op : Nat) (s : State) : State :=
  match op with
  | 0x01 => postPlain 0x01 runStart s
  | 0x02 => postPlain 0x02 pauseBoth s
  | 0x03 => postResume s
  | 0x04 => postPlain 0x04 runRefire s
  | 0x05 => postPlain 0x05 runMaintEnter s
  | 0x06 => postCommand 0x06 (fun _ => true) (fun _ => false) (fun s => !s.mould.pendingFlag) runMaintExit s
  | 0x07 => postCommand 0x07 mouldArgsOk (fun _ => false) (fun _ => true) runMouldLoad s
  | 0x08 => postCommand 0x08 lcTargetOk (fun _ => false) (fun _ => true) runLcSet s
  | 0x10 => postCommand 0x10 (fun _ => true) (fun _ => false) (fun s => !s.stage.pending) runReplay s
  | 0x11 => postCommand 0x11 stepArgOk (fun _ => false) (fun _ => true) runSetStep s
  | 0x12 => postPlain 0x12 runRetain s
  | 0x13 => postPlain 0x13 runWake s
  | 0x18 => postSession 0x18 resumeOk startResume s
  | 0x19 => postSession 0x19 parkOk startPark s
  | 0x20 => postHandle 0x20 .bound runHpin s
  | 0x21 => postHandle 0x21 .pinned runHunpin s
  | 0x22 => postHandle 0x22 .bound runHfree s
  | 0x23 => postPlain 0x23 runHevict s
  | 0x28 => postCommand 0x28 portArgOk (fun _ => false) (fun _ => true) runRetrain s
  | _ =>
    if !portOpen s then s
    else
      let s := dropHeld (passLull s)
      rejectCommand op (if !blockOpen s 0x200 ∨ s.cmd.status = .busy then .errState else .errAddr) s

/-! Fault and event block (R350, R362, R363, R378). -/

/-- EVT_CAUSE: write one to clear. -/
def clearCause (v : Nat) (s : State) : State :=
  { s with evt := { s.evt with cause := s.evt.cause &&& ~~~(BitVec.ofNat 4 v) } }

/-- EVT_LOG_SEL loads the entry of its slot. -/
def selectLog (v : Nat) (s : State) : State :=
  { s with evt := { s.evt with sel := BitVec.ofNat 16 v, entry := Sparse.get 0 s.evt.log (v % 4096) } }

/-- EVT_LOG_RDPTR records the entry consumed, and EVT_LOG_LOST may be logged again. -/
def setRdptr (v : Nat) (s : State) : State :=
  { s with evt := { s.evt with rdptr := BitVec.ofNat 16 v, lostArmed := true } }

/-- The fault and event block. -/
def writeEvent (a v : Nat) (s : State) : Wr :=
  match a with
  | 0x400 => wrOk (clearCause v s)
  | 0x401 => wrOk { s with evt := { s.evt with enable := BitVec.ofNat 2 v } }
  | 0x403 => wrOk (selectLog (v % 2 ^ 16) s)
  | _ => wrOk (setRdptr v s)

/-! Parameter staging (R60, R400). -/

/-- PSTAGE_n: the value and its mask bit. -/
def writeStage (n v : Nat) (s : State) : State :=
  { s with stage := { s.stage with
    vals := Sparse.set 0 s.stage.vals n (BitVec.ofNat 64 v), mask := s.stage.mask ||| BitVec.ofNat 64 (2 ^ n) } }

/-- The staging block. -/
def writeStaging (a v : Nat) (s : State) : Wr :=
  if a = 0x880 then wrOk { s with stage := { s.stage with mask := BitVec.ofNat 64 v } }
  else wrOk (writeStage ((a - 0x800) / 2) v s)

/-! Handle entries (R93, R304, R401). -/

/-- The state of a code. -/
def handleState (c : Nat) : HState :=
  match c % 4 with
  | 0 => .free
  | 1 => .bound
  | 2 => .draining
  | _ => .pinned

/-- The fields that word 0 of an entry writes; STATE apart, and the RO fields ignored. -/
def handleFields (e : Handle) (v : Nat) : Handle :=
  { e with
    tagged := v.testBit 2, rd := v.testBit 3, wr := v.testBit 4, glz := v.testBit 5
    xfmt := xfmtOf (v / 2 ^ 6 % 4), epoch := BitVec.ofNat 8 (v / 2 ^ 16) }

/-- The ranges of a mapping's fields (Table 04.1). -/
def mappingRanges (s : State) (m : Mapping) : Bool :=
  decide (1 ≤ m.count.toNat) && decide (m.count.toNat ≤ 98304) && m.mask != 0 &&
    decide (m.mask.toNat < 2 ^ s.build.lsStacks)

/-- The activating write of STATE (Table 14.1, R304). -/
def activate (h : BitVec 8) (v : Nat) (s : State) : Wr :=
  let st := handleState v
  if st = .free ∨ st = .draining then (.errState, s)
  else
    let e := handleFields (getHandle s h) v
    if entryOk s e then
      wrOk (setHandle h { e with state := st, prevValid := false, refcount := 0, lastuse := cycleStamp s } s)
    else (.errAddr, s)

/-- A write to a word of an entry, as the fields it leaves; REFCOUNT and PREVIOUS ignore it (R401). -/
def handleEdit (e : Handle) (o v : Nat) : Handle :=
  match o with
  | 0 => handleFields e v
  | 1 => e
  | 6 => e
  | 3 => { e with xrow := BitVec.ofNat 17 v }
  | _ => { e with cur := descriptorMap (BitVec.ofNat 64 v) }

/-- A write to a handle entry. -/
def writeHandleWord (h : BitVec 8) (o v : Nat) (s : State) : Wr :=
  let e := getHandle s h
  let new := handleEdit e o v
  if o = 2 then wrOk (setHandle h { e with lastuse := BitVec.ofNat 32 v } s)
  else if e.state = .free then
    if o = 0 then activate h v s
    else if o ≠ 4 ∨ mappingRanges s new.cur then wrOk (setHandle h new s)
    else (.errAddr, s)
  else if e.state ≠ .pinned ∨ e.refcount ≠ 0 ∨ (o = 0 ∧ handleState v ≠ .pinned) then (.errState, s)
  else if entryOk s new then wrOk (setHandle h new s)
  else (.errAddr, s)

/-- Handle entries and local-store control. -/
def writeHandle (a v : Nat) (s : State) : Wr :=
  if a = 0x1800 then wrOk { s with ls := { s.ls with waitLimit := BitVec.ofNat 32 v } }
  else writeHandleWord (BitVec.ofNat 8 ((a - 0x1000) / 8)) (a % 8) v s

/-! Windows and fabric control (R283, R296, R402). -/

/-- A word of a window entry as a write leaves it. -/
def windowEdit (w : Window) (o v : Nat) : Window :=
  match o with
  | 0 => { w with
      valid := v.testBit 0, chipAny := v.testBit 1, clusterAny := v.testBit 2, put := v.testBit 3, take := v.testBit 4
      peek := v.testBit 5, fetch := v.testBit 6, handle := BitVec.ofNat 8 (v / 2 ^ 8), srcChip := BitVec.ofNat 10 (v / 2 ^ 16) }
  | 1 => { w with srcCluster := BitVec.ofNat 9 v }
  | 2 => { w with wbase := BitVec.ofNat 17 v }
  | 3 => { w with wrows := BitVec.ofNat 17 v }
  | 4 => { w with key := BitVec.ofNat 32 v }
  | _ => { w with expiry := BitVec.ofNat 32 v }

/-- A window entry keeps to Table 13.3. -/
def windowOk (w : Window) : Bool :=
  decide (w.wbase.toNat ≤ 98303) && decide (1 ≤ w.wrows.toNat) && decide (w.wbase.toNat + w.wrows.toNat ≤ 98304)

/-- The states in which windows and WIN_EPOCH may be written. -/
def windowsOpen (s : State) : Bool :=
  s.run.state == .ready || s.run.state == .run || s.run.state == .pause || s.run.state == .maint

/-- A write to a window entry. -/
def writeWindow (k o v : Nat) (s : State) : Wr :=
  let w := windowEdit (Sparse.get Window.reset s.fab.windows k) o v
  if !windowsOpen s then (.errState, s)
  else if windowOk w then
    wrOk { s with fab := { s.fab with windows := Sparse.set Window.reset s.fab.windows k w } }
  else (.errAddr, s)

/-- All three copies of an entry are written (R347). -/
def writeCfg (n : Nat) (s : State) : State :=
  { s with upsets := { s.upsets with cfg := s.upsets.cfg.filter (fun m => m != n) } }

/-- Fabric control. -/
def writeFabricCtl (a v : Nat) (s : State) : Wr :=
  match a with
  | 0x2080 =>
    if windowsOpen s then wrOk { s with fab := { s.fab with epoch := BitVec.ofNat 32 v } } else (.errState, s)
  | 0x2082 =>
    if s.run.state = .ready ∨ s.run.state = .maint then
      wrOk { writeCfg cfgNode s with fab := { s.fab with nodeId := BitVec.ofNat 19 v } }
    else (.errState, s)
  | 0x2083 =>
    if v % 2 ^ 16 = 0 then (.errAddr, s) else wrOk { s with fab := { s.fab with retryGap := BitVec.ofNat 16 v } }
  | 0x2084 => wrOk { s with fab := { s.fab with retryLimit := BitVec.ofNat 16 v } }
  | _ => wrOk { s with fab := { s.fab with rspLimit := BitVec.ofNat 32 v } }

/-! Session table (R272 to R274, R403). -/

/-- SESS_OP READ. -/
def sessReadOp (s : State) : Wr :=
  let i := s.sess.idx.toNat
  if s.sess.used.toNat ≤ i then (.errAddr, s)
  else
    let s := sessTouch i s
    wrOk { s with sess := { s.sess with data := sessImage (getSess s i) } }

/-- State of a code. -/
def sessStateOf (c : Nat) : Option SessState :=
  match c with
  | 0 => some .free
  | 1 => some .parked
  | 2 => some .resident
  | 3 => some .ready
  | 4 => some .running
  | 5 => some .draining
  | _ => none

/-- The fields that a WRITE replaces. -/
def sessFields (e : Session) (d : BitVec 128) : Session :=
  { e with
    cls := (d >>> 3).setWidth 2, model := (d >>> 8).setWidth 8, credits := (d >>> 16).setWidth 8
    tenant := (d >>> 32).setWidth 16, lang := (d >>> 48).setWidth 12 }

/-- A RESIDENT session whose CREDITS are not zero becomes READY; a READY one stays so, as Table 12.2 gives it no way
back but through RUNNING (R272). -/
def withCredits (e : Session) : Session :=
  if e.state = .resident ∧ e.credits ≠ 0 then { e with state := .ready } else e

/-- The entry that a WRITE of a state leaves; none where the entry does not accept it. -/
def sessAccept (e : Session) (st : SessState) (d : BitVec 128) : Option Session :=
  let up (x : SessState) : Bool := x == .resident || x == .ready
  match e.state with
  | .free => if st = .parked then some { sessFields e d with state := .parked, slot := 0, stamp := 0 } else none
  | .running => none
  | .draining => none
  | _ =>
    if st = .free then some Session.reset
    else if st = e.state ∨ (up st ∧ up e.state) then some (withCredits (sessFields e d))
    else none

/-- SESS_OP WRITE. -/
def sessWriteOp (s : State) : Wr :=
  let i := s.sess.idx.toNat
  if s.sess.used.toNat ≤ i then (.errAddr, s)
  else
    match sessStateOf (s.sess.data.toNat % 8) with
    | none => (.errAddr, s)
    | some st =>
      let s := sessTouch i s
      match sessAccept (getSess s i) st s.sess.data with
      | none => (.errState, s)
      | some e => wrOk (setSess i e s)

/-- SESS_OP. -/
def writeSessOp (v : Nat) (s : State) : Wr :=
  match v % 4 with
  | 1 => sessReadOp s
  | 2 => sessWriteOp s
  | _ => (.errAddr, s)

/-- SESS_CREDIT_ADD. -/
def writeCreditAdd (v : Nat) (s : State) : Wr :=
  let i := v % 2 ^ 16
  let n := v / 2 ^ 16 % 2 ^ 8
  if n = 0 ∨ s.sess.used.toNat ≤ i then (.errAddr, s)
  else
    let s := sessTouch i s
    let e := getSess s i
    if e.state = .free then (.errState, s)
    else
      let sum := e.credits.toNat + n
      let s := if 255 < sum then bump cntSessCredit 1 s else s
      let e := { e with credits := BitVec.ofNat 8 (min 255 sum) }
      wrOk (setSess i (withCredits e) s)

/-- Every entry in use is FREE or PARKED (R403). -/
def sessQuiet (s : State) : Bool :=
  s.sess.entries.all (fun p => decide (s.sess.used.toNat ≤ p.1) || p.2.state == .free || p.2.state == .parked)

/-- SESS_HANDLE, SESS_ROWS and PARK_BASE. -/
def writeSessCfg (a v : Nat) (s : State) : Wr :=
  if !sessQuiet s then (.errState, s)
  else
    match a with
    | 0x3009 => wrOk { s with sess := { s.sess with handle := BitVec.ofNat 8 v } }
    | 0x300A =>
      let n := v % 2 ^ 7
      if n = 0 ∨ 64 < n then (.errAddr, s) else wrOk { s with sess := { s.sess with rows := BitVec.ofNat 7 n } }
    | _ =>
      if v % 512 ≠ 0 then (.errAddr, s) else wrOk { s with sess := { s.sess with parkBase := BitVec.ofNat 48 v } }

/-- The session block. -/
def writeSess (a v : Nat) (s : State) : Wr :=
  if a = 0x3000 then wrOk { s with sess := { s.sess with idx := BitVec.ofNat 16 v } }
  else if a = 0x3001 then writeSessOp v s
  else if a = 0x3008 then writeCreditAdd v s
  else if a < 0x3008 then
    let k := 32 * (a - 0x3004)
    let clear := ~~~((0xFFFFFFFF#128) <<< k)
    wrOk { s with sess := { s.sess with data := (s.sess.data &&& clear) ||| (BitVec.ofNat 128 (v % 2 ^ 32) <<< k) } }
  else writeSessCfg a v s

/-! Glaze groups (R256, R257, R404). -/

/-- Finite and not negative; −0 is legal. -/
def f32NonNeg (v : Nat) : Bool :=
  match valOfF32 (BitVec.ofNat 32 v) with
  | .fin sgn m _ => !sgn || m == 0
  | _ => false

/-- A coefficient: finite, not negative and below 1. -/
def f32Below1 (v : Nat) : Bool := f32NonNeg v && ltVal (valOfF32 (BitVec.ofNat 32 v)) (Val.ofInt 1)

/-- The fields of the selected group as a write leaves them; none for a value outside Table 11.1. -/
def groupEdit (g : Group) (a v : Nat) : Option Group :=
  let w := BitVec.ofNat 32 v
  match a with
  | 0x4001 => some { g with
      rule := BitVec.ofNat 2 v, frozen := v.testBit 2, lzy := v.testBit 3, curve := BitVec.ofNat 5 (v / 2 ^ 4) }
  | 0x4002 => if f32NonNeg v then some { g with lr := w } else none
  | 0x4003 => if f32NonNeg v then some { g with wd := w } else none
  | 0x4004 => if f32Below1 v then some { g with beta1 := w } else none
  | 0x4005 => if f32Below1 v then some { g with beta2 := w } else none
  | 0x4006 => if f32NonNeg v then some { g with eps := w } else none
  | _ => some { g with step := w }

/-- The Glaze block. -/
def writeGlaze (a v : Nat) (s : State) : Wr :=
  if a = 0x4000 then wrOk { s with glz := { s.glz with sel := BitVec.ofNat 6 v } }
  else if a = 0x4010 then wrOk { s with glz := { s.glz with curve := BitVec.ofNat 8 v } }
  else
    match groupEdit (getGroup s s.glz.sel.toNat) a v with
    | none => (.errAddr, s)
    | some g => wrOk (setGroup s.glz.sel.toNat g s)

/-! Ballast, clocks and counters (R322, R405 to R407). -/

/-- A finite value above zero. -/
def f32Pos (v : Nat) : Bool :=
  match valOfF32 (BitVec.ofNat 32 v) with
  | .fin sgn m _ => !sgn && m != 0
  | _ => false

/-- A value from 0 to 1. -/
def f32Unit (v : Nat) : Bool := f32NonNeg v && leVal (valOfF32 (BitVec.ofNat 32 v)) (Val.ofInt 1)

/-- Every field of `w` bits of a value lies in a range. -/
def fieldsIn (v w lo hi : Nat) : Bool :=
  (List.range 4).all (fun c => decide (lo ≤ v / 2 ^ (w * c) % 2 ^ w) && decide (v / 2 ^ (w * c) % 2 ^ w ≤ hi))

/-- A parameter kept if its value is legal. -/
def keepIf (ok : Bool) (p : BalParams) : Option BalParams := if ok then some p else none

/-- The energy weights and the parameters of the thermal model as a write leaves them. -/
def thermalEdit (p : BalParams) (a v : Nat) : Option BalParams :=
  let w := BitVec.ofNat 32 v
  match a with
  | 0x5010 => keepIf (f32NonNeg v) { p with ewStatic := w }
  | 0x5011 => keepIf (f32NonNeg v) { p with ewMx := w }
  | 0x5012 => keepIf (f32NonNeg v) { p with ewMv := w }
  | 0x5013 => keepIf (f32NonNeg v) { p with ewVx := w }
  | 0x5014 => keepIf (f32NonNeg v) { p with ewGlz := w }
  | 0x5015 => keepIf (f32NonNeg v) { p with ewRow := w }
  | 0x5016 => keepIf (f32NonNeg v) { p with ewFab := w }
  | 0x5020 => keepIf (f32Pos v) { p with rthJ := w }
  | 0x5021 => keepIf (f32Pos v) { p with cthJ := w }
  | 0x5022 => keepIf (f32Pos v) { p with rthP := w }
  | 0x5023 => keepIf (f32Pos v) { p with cthP := w }
  | 0x5024 => some { p with tAmb := w }
  | 0x5025 => keepIf (f32Unit v) { p with kObs := w }
  | 0x5026 => some { p with tTh3 := w }
  | 0x5027 => some { p with tTh2 := w }
  | 0x5028 => some { p with tTh1 := w }
  | 0x5029 => some { p with tTrip := w }
  | _ => none

/-- The mode and the budget parameters as a write leaves them. -/
def budgetEdit (p : BalParams) (a v : Nat) : Option BalParams :=
  let w := BitVec.ofNat 24 v
  let d := v / 4 % 16
  match a with
  | 0x5000 => some { p with fixed := v.testBit 0 }
  | 0x5001 =>
    keepIf (decide (1 ≤ d) && decide (d ≤ 8)) { p with fixBudget := BitVec.ofNat 2 v, fixD := BitVec.ofNat 4 d }
  | 0x5030 => some { p with eTh3 := w }
  | 0x5031 => some { p with eTh2 := w }
  | 0x5032 => some { p with eTh1 := w }
  | 0x5033 => some { p with eHyst := w }
  | 0x5034 => some { p with balMax := w }
  | 0x5035 => some { p with balMin := w }
  | 0x5036 => keepIf (fieldsIn v 4 1 8) { p with duty := BitVec.ofNat 16 v }
  | 0x5037 => keepIf (fieldsIn v 5 1 16) { p with batchCap := BitVec.ofNat 20 v }
  | _ => some { p with vidOfs := BitVec.ofNat 32 v }

/-- The Ballast block; the value comes into force at the next update boundary. -/
def writeBallast (a v : Nat) (s : State) : Wr :=
  let p := s.ballast.written
  match (if 0x5010 ≤ a ∧ a < 0x5030 then thermalEdit p a v else budgetEdit p a v) with
  | none => (.errAddr, s)
  | some p => wrOk { s with ballast := { s.ballast with written := p } }

/-- DRG_HOLD. -/
def writeHold (v : Nat) (s : State) : Wr :=
  if v % 2 ^ 16 < 16 then (.errAddr, s) else wrOk { s with clk := { s.clk with drgHold := BitVec.ofNat 16 v } }

/-- A counter takes the written value. -/
def writeCounter (a v : Nat) (s : State) : Wr :=
  wrOk { s with counters := Sparse.set 0 s.counters a (v % 2 ^ 48) }

/-! Mailbox (R364, R409). -/

/-- MBX_ARG0 to MBX_ARG3 and the data buffer. -/
def writeMbx (a v : Nat) (s : State) : Wr :=
  let w := BitVec.ofNat 32 v
  if s.mbx.status = .busy then (.errState, s)
  else
    match a with
    | 0x7802 => wrOk { s with mbx := { s.mbx with arg0 := w } }
    | 0x7803 => wrOk { s with mbx := { s.mbx with arg1 := w } }
    | 0x7804 => wrOk { s with mbx := { s.mbx with arg2 := w } }
    | 0x7805 => wrOk { s with mbx := { s.mbx with arg3 := w } }
    | _ => wrOk (setMbxData (a - 0x7900) w s)

/-! The write. -/

/-- The write of a whole register; CMD_OP and MBX_OP are posted apart. -/
def regWrite (a v : Nat) (s : State) : Wr :=
  if a = 0x106 then writeEntry .ta v s
  else if a = 0x108 then writeEntry .tx v s
  else if a < 0x200 then writeRstsel (mirrorThread a) v s
  else if a < 0x400 then writeCmdArg (a - 0x202) v s
  else if a < 0x800 then writeEvent a v s
  else if a < 0x1000 then writeStaging a v s
  else if a < 0x2000 then writeHandle a v s
  else if a < 0x2080 then writeWindow ((a - 0x2000) / 8) (a % 8) v s
  else if a < 0x3000 then writeFabricCtl a v s
  else if a < 0x4000 then writeSess a v s
  else if a < 0x5000 then writeGlaze a v s
  else if a < 0x5800 then writeBallast a v s
  else if a < 0x6000 then writeHold v s
  else if a < 0x7000 then writeCounter a v s
  else writeMbx a v s

/-- A write whose register rules have answered. -/
def finishWrite (r : Wr) : State := answer r.1 0 r.2

/-- A write to a register that may be written, with the lower word that the write before it left held (R393). -/
def writeWord (r : CsrReg) (a : Nat) (d : Word32) (held : Option (BitVec 16 × Word32)) (s : State) : State :=
  if !r.wide then finishWrite (regWrite a d.toNat s)
  else if a = r.base then
    answer .ok 0 { s with csr := { s.csr with held := some (BitVec.ofNat 16 a, d) } }
  else
    let lower := match held with
      | some (b, w) => if b.toNat = r.base then w.toNat else regValue s r.base % 2 ^ 32
      | none => regValue s r.base % 2 ^ 32
    finishWrite (regWrite r.base (lower + 2 ^ 32 * d.toNat) s)

/-- The blocks whose writes are refused for a reason of their own: the staging bank while it is armed (R400) and
the mailbox where it answers VERSION and TELEMETRY only (R379). -/
def writeBarred (s : State) (a : Nat) : Bool :=
  (s.stage.pending && decide (0x800 ≤ a) && decide (a < 0x1000)) || (mailboxEarly s && decide (0x7800 ≤ a))

/-- A write of a CSR, in the first cycle after a lull (R15, R376 to R379, R392 to R395). -/
def csrWriteStep (addr : BitVec 16) (d : Word32) (s : State) : State :=
  let a := addr.toNat
  let held := s.csr.held
  if !portOpen s then s
  else if a = 0x200 then postByCode (d.toNat % 2 ^ 8) s
  else if a = 0x7800 then postMailbox (d.toNat % 2 ^ 8) s
  else
    let s := dropHeld (passLull s)
    match csrReach s a with
    | .error st => answer st 0 s
    | .ok r =>
      let s := setCapture r.base none s
      if writeBarred s a then answer .errState 0 s
      else if r.acc = .ro then answer .errRights 0 s
      else writeWord r a d held (if a = 0x2082 then s else readTable a s)

/-! The meanings. -/

/-- CSR_WRITE (R393). -/
def execCsrWrite (address : BitVec 16) (data : BitVec 32) (s : State) : Out := .next (csrWriteStep address data s)

/-- SESS_READ: the write of READ to SESS_OP (R274). -/
def execSessRead (s : State) : Out := .next (csrWriteStep 0x3001 1 s)

/-- SESS_WRITE: the write of WRITE to SESS_OP (R274). -/
def execSessWrite (s : State) : Out := .next (csrWriteStep 0x3001 2 s)

/-- SESS_CREDIT_ADD (R274). -/
def execSessCreditAdd (data : BitVec 32) (s : State) : Out := .next (csrWriteStep 0x3008 data s)

/-- HANDLE_ENTRY_WRITE (R401): the write of a register of the handle block. -/
def execHandleEntryWrite (address : BitVec 16) (data : BitVec 32) (s : State) : Out :=
  .next (csrWriteStep address data s)

/-- PSTAGE_WRITE (R400): the write of a register of the staging block. -/
def execPstageWrite (address : BitVec 16) (data : BitVec 32) (s : State) : Out :=
  .next (csrWriteStep address data s)

/-- EVT_CAUSE_CLEAR (R350, R378). -/
def execEvtCauseClear (data : BitVec 32) (s : State) : Out := .next (csrWriteStep 0x400 data s)

/-- EVT_LOG_SEL (R363). -/
def execEvtLogSel (data : BitVec 32) (s : State) : Out := .next (csrWriteStep 0x403 data s)

/-- EVT_LOG_RDPTR (R362). -/
def execEvtLogRdptr (data : BitVec 32) (s : State) : Out := .next (csrWriteStep 0x404 data s)

end Sys2Proof.Machine
end

