-- ==== Sys2Proof/Machine/Bridle.lean ====
section
/-! DEFINITION. The duties of the Bridle: the 1 ms tick, calibration and wear, restarts, the event log, and the
configuration sweep (R324, R325, R347, R354 to R363, R366, R367). -/

namespace Sys2Proof.Machine

/-! The 1 ms tick (R355, R356). -/

/-- The diodes excluded from T_M. -/
def badDiodes (ds : List (BitVec 16)) : BitVec 4 :=
  BitVec.ofNat 4 ((ds.zipIdx).map (fun x => if diodeGood x.1 then 0 else 2 ^ x.2)).sum

/-- VID of the step in force; the reset code while there is no frequency-step table. -/
def stepCode (s : State) : Nat := ((s.clk.fsteps[s.clk.step.toNat]?).map stepVid).getD 0x40

/-- Sum of the codes of a rail. -/
def codeSum (codes : List (BitVec 12)) : Nat := (codes.map (fun c => c.toNat)).sum

/-- The mean of a rail's codes over the tick, as a code (R356, R387); one between two codes is either: a free choice,
log entry 68. -/
def codeMean (codes : List (BitVec 12)) : BitVec 12 :=
  let n := codes.length
  let sum := codeSum codes
  BitVec.ofNat 12 (if sum % n = 0 then sum / n else if Config.meanUp sum n then sum / n + 1 else sum / n)

/-- `n` times E_meas in nJ, for codes in units of 2 mA of `n` cycles of brg_clk with these sums, at V_step and 0.75 V
over 1 ms. -/
def energyMeasured (core sram vid : Nat) : Val := .fin false (core * (2000 + 5 * vid) + sram * 3000) (-1)

/-- EW_SCALE + 0.125 (rho − EW_SCALE), clamped to 0.25 and 4.0, where `measured` is `n` times E_meas: exact until its
one rounding to FP32. -/
def scaleUpdate (scale static eDyn : Word32) (n : Nat) (measured : Val) : Word32 :=
  let dyn := valOfF32 eDyn
  let num := sumExact .rne [measured, (mulExact (Val.ofInt (100 * n)) (valOfF32 static)).neg]
  let seven := mulExact (mulExact (Val.ofInt (7 * n)) (valOfF32 scale)) dyn
  let v := divExact (sumExact .rne [seven, num]) (mulExact (Val.ofInt (8 * n)) dyn)
  let w := f32OfVal (rneS v)
  if ltVal (valOfF32 w) (valOfF32 0x3E800000) then 0x3E800000
  else if ltVal (valOfF32 0x40800000) (valOfF32 w) then 0x40800000
  else w

/-- The new EW_SCALE of a tick; unchanged where E_dyn is below 1 µJ or the step changed in the tick. -/
def tickScale (x : TickSample) (s : State) : Word32 :=
  let b := s.ballast
  if s.brg.stepMoved || ltVal (valOfF32 b.eDyn) (Val.ofInt 1000) then b.scaleNext
  else
    scaleUpdate b.scaleNext b.par.ewStatic b.eDyn x.core.length
      (energyMeasured (codeSum x.core) (codeSum x.sram) (stepCode s))

/-- A sample of a tick: four diodes, and both rails in every cycle. -/
def sampleOk (x : TickSample) : Bool :=
  x.diodes.length == 4 && !x.core.isEmpty && x.core.length == x.sram.length

/-- Ticks of 1 ms in an hour. -/
def ticksPerHour : Nat := 3600000

/-- The 1 ms duties (Table 18.1): T_M, EW_SCALE, and the telemetry record of the tick. -/
def tickStep (x : TickSample) (s : State) : Option State :=
  if bridleRuns s && sampleOk x then
    let n := s.brg.ticks + 1
    let w := s.brg.wear
    let hours := if n.toNat % ticksPerHour = 0 then w.hours + 1 else w.hours
    let core := codeMean x.core
    let sram := codeMean x.sram
    let scale := tickScale x s
    some { s with
      brg := { s.brg with
        diodes := x.diodes, core := core, sram := sram, ticks := n, wear := { w with hours := hours }
        stepMoved := false, record := telemetryRecord x.diodes core sram scale n s }
      ballast := { s.ballast with tmNew := true, diodeBad := badDiodes x.diodes, scaleNext := scale, eDyn := 0 } }
  else none

/-! Calibration and wear (R324, R325, R359, R360). -/

/-- A full calibration: the offsets, and a baseline where the record has none or RUN was reached without a
restored record. -/
def calibrationStep (offsets : List (BitVec 8)) (s : State) : Option State :=
  if bridleRuns s ∧ s.run.state ≠ .refire ∧ offsets.length = 12 then
    let w := s.brg.wear
    let fresh := w.baseline.isNone || (s.run.started && !s.brg.restored)
    some { s with brg := { s.brg with
      wear := { w with baseline := if fresh then some offsets else w.baseline, latest := offsets }
      restored := s.brg.restored || s.run.started
      wearDue := true } }
  else none

/-- Drift: the most codes by which an offset has moved towards less margin since its baseline. -/
def wearDrift (w : Wear) : Nat :=
  match w.baseline with
  | none => 0
  | some base => ((base.zip w.latest).map (fun x => (x.1.toInt - x.2.toInt).toNat)).foldl max 0

/-- Target VID offset of a drift. -/
def wearTarget (d : Nat) : Nat := min 8 (2 * (d / 3))

/-- Wear evaluation after a full calibration. -/
def wearStep (s : State) : Option State :=
  if bridleRuns s ∧ s.brg.wearDue then
    let d := wearDrift s.brg.wear
    let t := wearTarget d
    let vid := if s.clk.vidOfs.toNat < t then BitVec.ofNat 4 t else s.clk.vidOfs
    let freq := s.clk.freqOfs || (t == 8 && decide (15 ≤ d))
    let s := { s with brg := { s.brg with wearDue := false } }
    some (if vid = s.clk.vidOfs ∧ freq = s.clk.freqOfs then s else applyRetune vid freq s)
  else none

/-! Restarts (R358, R366, R367). -/

/-- The watchdog expires: the Bridle restarts from ROM, and a mailbox operation in progress ends FAIL; one that waits
for the end of a refire has not begun. -/
def watchdogStep (s : State) : Option State :=
  if bridleRuns s then
    let s := bump cntBrgRestarts 1 { s with brg :=
      { s.brg with restarting := true, activate := false, failedSlot := none } }
    some (if s.mbx.status = .busy ∧ !s.mbx.waits then mbxFail s else s)
  else none

/-- The images that ROM may still start in this restart, best first (R366). -/
def romLeft (image0 image1 : ImageRead) (s : State) : List (BitVec 1 × ImageRead) :=
  (romOrder s.fuses image0 image1).filter (fun x => s.brg.failedSlot != some x.1)

/-- The started image does not report in time or fails its check: ROM starts the other image if that verifies, which
is logged; none is left to try after that (R366). `slot` is the image's. -/
def selfCheckTimeoutStep (slot : BitVec 1) (image0 image1 : ImageRead) (s : State) : Option State :=
  if s.brg.restarting && portOpen s && s.brg.failedSlot.isNone then
    match romLeft image0 image1 s with
    | [] => none
    | x :: rest =>
      if x.1 ≠ slot then none else
      let s := { s with brg := { s.brg with failedSlot := some x.1 } }
      some (match rest with
        | [] => s
        | y :: _ => bridleEvent 0x603 y.1.toNat s)
  else none

/-- The restart ends with an image in a slot. An UPDATE_ACTIVATE ends OK if the image is that of the other slot than
before, and FAIL if the old image runs again (R367; the end FAIL is DEDUCED, log entry 67). -/
def endRestart (slot : BitVec 1) (x : ImageRead) (s : State) : State :=
  let asked := s.brg.activate
  let new := slot != s.brg.slot
  let s := setImage slot x { s with brg := { s.brg with restarting := false, activate := false, failedSlot := none } }
  if !asked then s else if new then mbxOk (bridleEvent 0x601 slot.toNat s) else mbxFail s

/-- A RESUME in SAFE, or an LC_SET, that has waited for the restart (R335, R345, R358). -/
def heldCommand (s : State) : State :=
  if s.run.state = .safe ∧ busyWith s 0x03 then leaveSafe s
  else if busyWith s 0x08 then changeLc s
  else s

/-- The started image, that of `slot`, passes its self-check: the restart ends, and what has waited goes on. -/
def selfCheckPassStep (slot : BitVec 1) (image0 image1 : ImageRead) (s : State) : Option State :=
  if s.brg.restarting && portOpen s then
    match romLeft image0 image1 s with
    | [] => none
    | x :: _ => if x.1 = slot then some (heldCommand (mailboxServe (endRestart x.1 x.2 s))) else none
  else none

/-! The event log (R361, R362). -/

/-- Severity code of a log entry (Table 18.3). -/
def severityCode : Severity → Nat
  | .note => 0
  | .warn => 1
  | .error => 2
  | .fatal => 3

/-- A log entry (Table 18.3). -/
def logImage (e : Event) (seq : BitVec 16) : BitVec 128 :=
  BitVec.ofNat 128 (e.code.toNat + 2 ^ 12 * severityCode e.sev + 2 ^ 16 * seq.toNat + 2 ^ 32 * e.cycle.toNat +
    2 ^ 80 * e.detail.toNat)

/-- The entry that the next one overwrites lies after EVT_LOG_RDPTR. -/
def overwritesUnread (s : State) : Bool :=
  decide (4096 ≤ s.evt.written) &&
    (let d := (s.evt.head - 4096 - s.evt.rdptr).toNat
     decide (0 < d) && decide (d < 2 ^ 15))

/-- An unread entry is lost: counted, and logged once until EVT_LOG_RDPTR is written. -/
def loseEntry (s : State) : State :=
  let s := bump cntEvtLost 1 s
  if s.evt.lostArmed then
    bridleEvent 0x605 (counter s cntEvtLost % 2 ^ 16) { s with evt := { s.evt with lostArmed := false } }
  else s

/-- The Bridle writes the oldest queued event into the log. -/
def logEntryStep (s : State) : Option State :=
  match s.evt.queue with
  | [] => none
  | e :: rest =>
    if bridleRuns s then
      let lost := overwritesUnread s
      let head := s.evt.head
      let s := { s with evt := { s.evt with
        queue := rest, log := Sparse.set 0 s.evt.log (head.toNat % 4096) (logImage e head), head := head + 1
        written := s.evt.written + 1 } }
      some (if lost then loseEntry s else s)
    else none

/-! The configuration sweep (R347). -/

/-- The sweep reads one entry. -/
def sweepStep (s : State) : State :=
  let n := s.upsets.sweep % sweepLength
  let s := readCfg n s
  { s with upsets := { s.upsets with sweep := (n + 1) % sweepLength } }

/-! The meanings. -/

/-- BRIDLE_TICK (R355 to R357, R387). -/
def execBridleTick (x : TickSample) (s : State) : Out := .next ((tickStep x s).getD s)

/-- CONE_CALIBRATION (R324, R360). -/
def execConeCalibration (offsets : List (BitVec 8)) (s : State) : Out := .next ((calibrationStep offsets s).getD s)

/-- WEAR_EVALUATION (R359). -/
def execWearEvaluation (s : State) : Out := .next ((wearStep s).getD s)

/-- WATCHDOG_EXPIRY (R358). -/
def execWatchdogExpiry (s : State) : Out := .next ((watchdogStep s).getD s)

/-- IMAGE_SELF_CHECK_TIMEOUT (R366): that the image of `slot` is late and that it fails its check have one effect. -/
def execImageSelfCheckTimeout (slot : BitVec 1) (_late : Bool) (image0 image1 : ImageRead) (s : State) : Out :=
  .next ((selfCheckTimeoutStep slot image0 image1 s).getD s)

/-- IMAGE_SELF_CHECK_PASS (R358, R366, R367). -/
def execImageSelfCheckPass (slot : BitVec 1) (image0 image1 : ImageRead) (s : State) : Out :=
  .next ((selfCheckPassStep slot image0 image1 s).getD s)

/-- EVENT_LOG_ENTRY (R361, R362). -/
def execEventLogEntry (s : State) : Out := .next ((logEntryStep s).getD s)

/-- CONFIGURATION_SWEEP (R347). -/
def execConfigurationSweep (s : State) : Out := .next (if portOpen s then sweepStep s else s)

end Sys2Proof.Machine
end

