-- ==== Sys2Proof/Machine/Tdc3.lean ====
section
/-! DEFINITION. The TDC-3 forms of MX.MM, MV.GEMV, VX.EW, VX.RED and CVT, accepted in C3 mode (R128, R129, R252,
R418). -/

namespace Sys2Proof.Machine

/-- The format of a shape record; code 7 names none (R418). -/
def recFmt (r : BitVec 14) : Option Fmt :=
  match r.toNat / 2 ^ 11 with
  | 0 => some .fp32
  | 1 => some .fp16
  | 2 => some .bf16
  | 3 => some .e4m3
  | 4 => some .e5m2
  | 5 => some .int8
  | 6 => some .int32
  | _ => none

/-- The shape that a record carries. -/
def recShape (r : BitVec 14) : Carried where
  rows := r.toNat % 32 + 1
  cols := r.toNat / 32 % 64 + 1
  fmt := (recFmt r).getD .fp32

/-- A record fits its slot: a format it names, and RES0 fields zero for queues, STAT and NONE (R418). -/
def recLegal (v : Slot) (r : BitVec 14) : Bool :=
  match slotVal v with
  | .tiles _ => (recFmt r).isSome
  | .past => (recFmt r).isSome
  | .queue _ => (recFmt r).isSome && r.toNat % 2 ^ 11 == 0
  | _ => r == 0

/-- A carried shape fits a tile (R129). -/
def recFits (r : BitVec 14) : Bool := decide ((recShape r).cols * fmtUnit (recShape r).fmt ≤ 64)

/-- The lowest-numbered tile whose carried shape exceeds capacity. -/
def recOverflow (slots : List (Slot × BitVec 14)) : Option Nat :=
  let bad := slots.flatMap (fun p => match slotVal p.1 with
    | .tiles ts => if recFits p.2 then [] else ts
    | _ => [])
  (tilesOf (tileMask bad)).head?

/-- The fixed conversion of a TDC-3 form: RNE, FTZ 0, SAT, AMAX7 under ACC (R252). -/
def c3Conv (c : ConvBlk) : ConvBlk :=
  { c with dfmt := 0, rnd := 0, ftz := false, ieee := false, amx := 7, gacc := true, naninc := false }

/-- The conversion fields that a TDC-3 form must leave zero (R418). -/
def c3ConvZero (c : ConvBlk) : Bool :=
  c.dfmt == 0 && c.rnd == 0 && !c.ftz && !c.ieee && c.amx == 0 && !c.gacc && !c.naninc

/-- What every TDC-3 form checks first: its thread, C3 mode, its RES0 fields, its records (R128, R418). -/
def c3Legal (t : Thread) (zeros : Bool) (slots : List (Slot × BitVec 14)) (unused : List (BitVec 14)) (s : State) :
    Chk Unit :=
  need (t == .tx && (getThread t s).c3 && zeros && slots.all (fun p => recLegal p.1 p.2) &&
    unused.all (fun r => r == 0)) illegal

/-- A carried shape beyond capacity faults with SHAPE_MISMATCH, after the other checks of the native form (R127,
R129): the verdict of the form stands where it waits or faults at an earlier check. -/
def c3Shapes (slots : List (Slot × BitVec 14)) (v : Verdict) : Verdict :=
  match recOverflow slots with
  | none => v
  | some n =>
    let f : Verdict := .fault fcShape (BitVec.ofNat 64 n)
    match v with
    | .go _ => f
    | .jump _ _ => f
    | .fault fc fval =>
      -- The lowest-numbered of all the tiles that fail is reported (R126).
      if fc = fcShape then .fault fcShape (BitVec.ofNat 64 (min n fval.toNat))
      else if fc = fcHandle || fc = fcStale || fc = fcRights || fc = fcRow then f else v
    | .wait w => .wait w

/-- The record of a slot that is a tile group or a queue. -/
def c3Carried (v : Slot) (r : BitVec 14) : Option Carried :=
  match slotVal v with
  | .tiles _ => some (recShape r)
  | .queue _ => some (recShape r)
  | _ => none

/-! MX.MM. -/

/-- The slots of a TDC-3 MX.MM with their records. -/
def c3MmSlots (a : MxMmArgs) (r : ShapeRecs) : List (Slot × BitVec 14) := [(a.a, r.r0), (a.w, r.r1)]

/-- TDC-3 MX.MM at issue. -/
def issueC3Mm (t : Thread) (a : MxMmArgs) (r : ShapeRecs) (s : State) : Verdict := verdict do
  slotsLegal [a.a, a.w]
  c3Legal t (!a.half && a.fmta == 0 && a.fmtw == 0 && !a.ftz) (c3MmSlots a r) [r.r2, r.r3] s
  return c3Shapes (c3MmSlots a r) (issueMm (.tdc3MxMm t a r) (c3Carried a.a r.r0) (c3Carried a.w r.r1) t a s)

/-- TDC-3 MX.MM completes. -/
def finishC3Mm (a : MxMmArgs) (r : ShapeRecs) (f : Flight) (s : State) : State :=
  finishMm (c3Carried a.a r.r0) (c3Carried a.w r.r1) a f s

/-! MV.GEMV. -/

/-- A weight format of the MVP (Table 02.3); E4M3 for a format that is none. -/
def c3WeightFmt (f : Fmt) : Fmt := if mvWeightFmt f then f else .e4m3

/-- The shapes of a TDC-3 MV.GEMV. The source gives no place for the weight format: it is a free value, fixed by
the format of the vector. -/
def c3Gemv (a : MvGemvArgs) (r : ShapeRecs) : MvCarried where
  va := recShape r.r0
  vb := c3Carried a.vb r.r1
  d := recShape r.r2
  d2 := c3Carried a.d2 r.r3
  fmtw := c3WeightFmt (codeFmt (Config.tdc3WeightFmt (fmtCode (recShape r.r0).fmt)))

/-- The slots of a TDC-3 MV.GEMV with their records. -/
def c3GemvSlots (a : MvGemvArgs) (r : ShapeRecs) : List (Slot × BitVec 14) :=
  [(a.va, r.r0), (a.vb, r.r1), (a.d, r.r2), (a.d2, r.r3)]

/-- TDC-3 MV.GEMV at issue. -/
def issueC3Gemv (t : Thread) (a : MvGemvArgs) (r : ShapeRecs) (s : State) : Verdict := verdict do
  slotsLegal [a.va, a.vb, a.d, a.d2]
  c3Legal t (a.fmtw == 0 && c3ConvZero a.conv) (c3GemvSlots a r) [] s
  return c3Shapes (c3GemvSlots a r)
    (issueGemv (.tdc3MvGemv t a r) (some (c3Gemv a r)) t { a with conv := c3Conv a.conv } s)

/-- TDC-3 MV.GEMV completes. -/
def finishC3Gemv (a : MvGemvArgs) (r : ShapeRecs) (f : Flight) (s : State) : State :=
  finishGemv (some (c3Gemv a r)) { a with conv := c3Conv a.conv } f s

/-! VX.EW. -/

/-- The shapes of a TDC-3 VX.EW. -/
def c3Ew (a : VxEwArgs) (r : ShapeRecs) : EwCarried where
  i0 := c3Carried a.i0 r.r0
  i1 := c3Carried a.i1 r.r1
  i2 := c3Carried a.i2 r.r2
  d := recShape r.r3

/-- The slots of a TDC-3 VX.EW with their records. -/
def c3EwSlots (a : VxEwArgs) (r : ShapeRecs) : List (Slot × BitVec 14) :=
  [(a.i0, r.r0), (a.i1, r.r1), (a.i2, r.r2), (a.d, r.r3)]

/-- TDC-3 VX.EW at issue. -/
def issueC3Ew (t : Thread) (a : VxEwArgs) (r : ShapeRecs) (s : State) : Verdict := verdict do
  slotsLegal [a.i0, a.i1, a.i2, a.d]
  c3Legal t (!a.group && a.f0 == 0 && a.f1 == 0 && a.f2 == 0 && c3ConvZero a.conv) (c3EwSlots a r) [] s
  return c3Shapes (c3EwSlots a r)
    (issueEw (.tdc3VxEw t a r) (some (c3Ew a r)) t { a with conv := c3Conv a.conv } s)

/-- TDC-3 VX.EW completes. -/
def finishC3Ew (a : VxEwArgs) (r : ShapeRecs) (f : Flight) (s : State) : State :=
  finishEw (some (c3Ew a r)) { a with conv := c3Conv a.conv } f s

/-! VX.RED and CVT. -/

/-- The rounding of a TDC-3 VX.RED (R252). -/
def c3Red (a : VxRedArgs) : VxRedArgs := { a with rnd := 0, ftz := false, ieee := false }

/-- TDC-3 VX.RED at issue. -/
def issueC3Red (t : Thread) (a : VxRedArgs) (r : ShapeRecs) (s : State) : Verdict := verdict do
  slotsLegal [a.i0]
  c3Legal t (!a.group && a.f0 == 0 && a.rnd == 0 && !a.ftz && !a.ieee) [(a.i0, r.r0)] [r.r1, r.r2, r.r3] s
  return c3Shapes [(a.i0, r.r0)] (issueRed (.tdc3VxRed t a r) (c3Carried a.i0 r.r0) t (c3Red a) s)

/-- TDC-3 VX.RED completes. -/
def finishC3Red (a : VxRedArgs) (r : ShapeRecs) (f : Flight) (s : State) : State :=
  finishRed (c3Carried a.i0 r.r0) (c3Red a) f s

/-- The conversion of a TDC-3 CVT. -/
def c3Cvt (a : CvtArgs) : CvtArgs := { a with conv := c3Conv a.conv }

/-- TDC-3 CVT at issue. -/
def issueC3Cvt (t : Thread) (a : CvtArgs) (r : ShapeRecs) (s : State) : Verdict := verdict do
  slotsLegal [a.i0, a.d]
  c3Legal t (!a.group && a.f0 == 0 && c3ConvZero a.conv) [(a.i0, r.r0), (a.d, r.r1)] [r.r2, r.r3] s
  return c3Shapes [(a.i0, r.r0), (a.d, r.r1)]
    (issueCvt (.tdc3Cvt t a r) (c3Carried a.i0 r.r0) (c3Carried a.d r.r1) t (c3Cvt a) s)

/-- TDC-3 CVT completes. -/
def finishC3Cvt (a : CvtArgs) (r : ShapeRecs) (f : Flight) (s : State) : State :=
  finishCvt (c3Carried a.i0 r.r0) (c3Carried a.d r.r1) (c3Cvt a) f s

/-! The meanings. -/

/-- TDC-3 MX.MM. -/
def execTdc3MxMm (t : Thread) (a : MxMmArgs) (r : ShapeRecs) (s : State) : Out := .next (issue t 3 (issueC3Mm t a r) s)

/-- TDC-3 MV.GEMV. -/
def execTdc3MvGemv (t : Thread) (a : MvGemvArgs) (r : ShapeRecs) (s : State) : Out :=
  .next (issue t 3 (issueC3Gemv t a r) s)

/-- TDC-3 VX.EW. -/
def execTdc3VxEw (t : Thread) (a : VxEwArgs) (r : ShapeRecs) (s : State) : Out := .next (issue t 3 (issueC3Ew t a r) s)

/-- TDC-3 VX.RED. -/
def execTdc3VxRed (t : Thread) (a : VxRedArgs) (r : ShapeRecs) (s : State) : Out :=
  .next (issue t 3 (issueC3Red t a r) s)

/-- TDC-3 CVT. -/
def execTdc3Cvt (t : Thread) (a : CvtArgs) (r : ShapeRecs) (s : State) : Out := .next (issue t 3 (issueC3Cvt t a r) s)

end Sys2Proof.Machine
end

