-- ==== Sys2Proof/Machine/Ports.lean ====
section
/-! DEFINITION. The row ports, cycle by cycle: which instructions present an access, what their reads and writes
do, stack conflicts and their lulls, the cycles of the array, and the return of data (R99 to R104, R106, R107, R109,
R113, R117, R157, R327). -/

namespace Sys2Proof.Machine

/-- The accesses of an instruction whose tag tests have all passed begin (R109). -/
def startFlight (f : Flight) (s : State) : State :=
  match f.instr with
  | .lsWq _ _ => startLsWq f s
  | .tst _ a => startTst a f s
  | .tstS _ a => startTst a f s
  | .tctxSave _ _ => startTctxSave f s
  | .dmaCopy _ a => startDma a f s
  | .put _ a => startPut a f s
  | .msgSend _ a => startPut a f s
  | .take _ _ => startRemote f s
  | .msgRecv _ _ => startRemote f s
  | .peek _ _ => startRemote f s
  | .fetch _ _ => startRemote f s
  | .mxConv _ a => startConv a f s
  | .mvGemv _ a => startGemv none a f s
  | .tdc3MvGemv _ a r => startGemv (some (c3Gemv a r)) { a with conv := c3Conv a.conv } f s
  | _ => startPlain f s

/-- Engines whose clock retention gates: the sequencers, MI and VI (R327, Table 15.1). -/
def gatedEngine : Engine → Bool
  | .sequencer => true
  | .dma => false
  | .remote => false
  | .session => false
  | .mxe _ => true
  | .drain _ => true
  | .mvp => true
  | .vxe _ => true
  | .glaze _ => true

/-- The instruction's engine has no clock (R327). -/
def gated (f : Flight) (s : State) : Bool := s.run.retained && gatedEngine f.engine

/-! Presentation (R99). -/

/-- `f` presents before `g` on a port: the earlier issued, TX before TA in one cycle (R99). -/
def issuedBefore (f g : Flight) : Bool :=
  decide (f.issuedAt < g.issuedAt) || (f.issuedAt == g.issuedAt &&
    ((f.thread == .tx && g.thread == .ta) || (f.thread == g.thread && decide (f.id < g.id))))

/-- Place an instruction among others in the order of issue. -/
def insertFlight (f : Flight) : List Flight → List Flight
  | [] => [f]
  | g :: gs => if issuedBefore f g then f :: g :: gs else g :: insertFlight f gs

/-- The instructions that still have accesses, in the order of issue. -/
def portOrder (s : State) : List Flight :=
  ((liveFlights s).filter (fun f => !f.acts.isEmpty)).foldl (fun l f => insertFlight f l) []

/-- The ports of some accesses. -/
def portsOf (acts : List Access) : List (BitVec 3) := acts.map (fun a => a.port)

/-- No access of the instruction has been presented. -/
def untouched (f : Flight) : Bool := f.got.isEmpty && f.due.isEmpty && f.held.isEmpty

/-- An access to a state or count row of Glaze. -/
def isGlazeRow (a : Access) : Bool :=
  match a.op with
  | .state _ _ => true
  | .count _ => true
  | _ => false

/-- A Glaze instruction has read no state or count row yet. -/
def glazeFresh (f : Flight) : Bool :=
  match f.glz with
  | some r => r.reads.isEmpty && r.outs.isEmpty && r.counts.isEmpty
  | none => true

/-- An instruction with RND = SR whose next access waits for an earlier one to complete (R40): the first local-store
access of the MVP, the first state or count row of Glaze. -/
def srHolds (f : Flight) (step : List Access) (s : State) : Bool :=
  srPending f s &&
    match f.engine with
    | .mvp => untouched f
    | .glaze _ => glazeFresh f && step.any isGlazeRow
    | _ => false

/-- A write that depends on data with an uncorrectable word is not made (R114): its instruction faults when that
data returns. -/
def dependsOnBad (f : Flight) (a : Access) : Bool :=
  match a.op with
  | .write _ (.copied k _) => (f.got.take (k + 1)).any (fun p => p.2.isSome)
  | _ => false

/-- The return of an uncorrectable row is due: its instruction makes no access after the cycle of its fault. -/
def faultDue (f : Flight) (s : State) : Bool := f.due.any (fun d => d.bad.isSome && decide (d.ready ≤ s.ls.round))

/-- The next step of an instruction may be presented, its ports being free of earlier instructions. -/
def presents (f : Flight) (s : State) : Bool :=
  f.begun && decide (f.notBefore ≤ s.ls.round) && !gated f s &&
    match f.acts with
    | [] => false
    | step :: _ => !srHolds f step s && !step.any (dependsOnBad f) && !faultDue f s

/-- The instructions that present a step in this cycle. Each port serves instructions in the order of issue, also
where the earlier one still waits on its tag tests: DEDUCED, log entry 62. -/
def presenting (s : State) : List (BitVec 3) → List Flight → List Flight
  | _, [] => []
  | blocked, f :: fs =>
    let free := !(portsOf (f.acts.headD [])).any (fun p => blocked.contains p)
    let rest := presenting s (blocked ++ portsOf f.acts.flatten) fs
    if presents f s && free then f :: rest else rest

/-- The accesses of this cycle, each with its instruction. -/
def presented (s : State) : List (Flight × Access) :=
  (presenting s [] (portOrder s)).flatMap (fun f => (f.acts.headD []).map (fun a => (f, a)))

/-- A write of Glaze that is suppressed (R244) makes no access. -/
def accessMade (f : Flight) (a : Access) : Bool :=
  match a.op with
  | .write _ (.state i k) => (glzWriteData f (.state i k)).isSome
  | .write _ (.count c) => (glzWriteData f (.count c)).isSome
  | _ => true

/-- The stacks that the scheduled accesses of this cycle address. -/
def usedStacks (s : State) : List Nat :=
  ((presented s).filter (fun p => accessMade p.1 p.2)).map (fun p => stackOf p.2.phys)

/-! Accesses (R100, R101, R107, R113). -/

/-- A row is sampled; its data returns six cycles later. -/
def sampleRow (fid : Nat) (a : Access) (act : ReturnAct) (s : State) : State :=
  let d : DueRead :=
    { phys := a.phys, rel := a.rel, data := readRow s a.phys, bad := rowBad s a.phys, ready := s.ls.round + 6, act := act }
  let s := modFlight fid (fun f => { f with due := f.due ++ [d] }) s
  if rowCorrectable s a.phys then correctedRead a.phys s else s

/-- A scheduled read: the row as it stood at the start of the cycle (R100). CLEAR empties it (R107). -/
def readStep (f : Flight) (a : Access) (s : State) : State :=
  match a.op with
  | .read clear act =>
    let s := modFlight f.id (fun g => { g with got := g.got ++ [(readRow s a.phys, rowBad s a.phys)] }) s
    let s := sampleRow f.id a act s
    if clear then setTag a.phys .empty s else s
  | .expand keys =>
    let row := readRow s a.phys
    sampleRow f.id a .hold (modFlight f.id (fun g =>
      { g with held := keys.foldl (fun h k => Sparse.put h k row) g.held }) s)
  | .curve => glzCurveRead f a.phys s
  | .state i last => glzStateRead ((findFlight f.id s).getD f) i a.phys last s
  | .count c => glzCountRead ((findFlight f.id s).getD f) c a.phys s
  | .write _ _ => s

/-- The row that a scheduled write writes; none where Glaze suppresses it. -/
def writeBytes (f : Flight) : WriteData → Option Bytes
  | .given i => some (f.rowsIn.getD i zeroRow)
  | .copied k patch =>
    some (patch.foldl (fun (b : Bytes) p => b.set p.1 p.2) ((f.got.getD k (zeroRow, none)).1))
  | .state i k => glzWriteData f (.state i k)
  | .count c => glzWriteData f (.count c)

/-- A scheduled write takes effect at the end of its cycle (R100); a TAGGED row becomes FULL (R107). -/
def writeStep (f : Flight) (a : Access) (s : State) : State :=
  match a.op with
  | .write tagged data =>
    match writeBytes ((findFlight f.id s).getD f) data with
    | some b =>
      let s := writeRow a.phys b s
      if tagged then setTag a.phys .full s else s
    | none => s
  | _ => s

/-- The accesses on a port. -/
def onPortOf (p : Nat) (l : List (Flight × Access)) : List (Flight × Access) := l.filter (fun x => x.2.port.toNat == p)

/-- The accesses of a cycle: every read, then the writes from the highest port down, so that of several writes of one
row that of the lowest port remains (R100, R101). -/
def performAll (l : List (Flight × Access)) (s : State) : State :=
  let s := l.foldl (fun s p => readStep p.1 p.2 s) s
  ([7, 6, 5, 4, 3, 2, 1, 0].flatMap (fun p => onPortOf p l)).foldl (fun s p => writeStep p.1 p.2 s) s

/-- Accesses of a cycle that lose a stack to a lower port. -/
def losers (hit : List Nat) : Nat := hit.length - hit.eraseDups.length

/-- Each access that loses its stack costs a lull cycle, in which it is made (R13, R103). -/
def conflictLull (hit : List Nat) (s : State) : State :=
  let n := losers hit
  if n = 0 then s else bump cntLullPort n { s with clk := { s.clk with lull := s.clk.lull + n } }

/-- Consecutive cycles without an idle one, by stack (R117). -/
def starveTick (hit : List Nat) (s : State) : State :=
  let met := (hit ++ s.ls.busy.toList).eraseDups
  let counts : Sparse Nat := met.foldl (fun m k => Sparse.put m k (Sparse.get 0 s.ls.starve k + 1)) []
  { s with ls := { s.ls with starve := counts } }

/-- The oldest boundary access waits for its stack (R104). -/
def boundaryTick (hit : List Nat) (s : State) : State :=
  match s.ls.boundary with
  | [] => s
  | b :: _ => if s.ls.busy.isNone && hit.contains (stackOf b.phys) then bump cntBoundaryWait 1 s else s

/-- Take the steps that were presented off their instructions. -/
def dropSteps (l : List Flight) (s : State) : State :=
  l.foldl (fun s f => modFlight f.id (fun g => { g with acts := g.acts.tail }) s) s

/-! Tag tests (R107, R109, R111). -/

/-- A flight whose tag tests are repeated in this cycle. -/
def retests (s : State) (f : Flight) : Bool :=
  waitsOnTags f && decide (f.issuedAt < s.ls.round) && !gated f s

/-- A TCTX.LOAD whose header row has been found FULL has its descriptors checked (R138). -/
def judgeNow (f : Flight) (s : State) : State :=
  match f.instr with
  | .tctxLoad _ a => if unjudged f && allPassed f then judgeHeader a f s else s
  | _ => s

/-- A waiting instruction whose tests have all passed begins its accesses in the next cycle; otherwise its wait
counts (R109, R111). -/
def afterTests (f : Flight) (s : State) : State :=
  if waitsOnTags f then modFlight f.id (fun g => { g with tagWait := if testFailed g then g.tagWait + 1 else g.tagWait }) s
  else
    let next := s.ls.round + 1
    let s := modFlight f.id (fun g => { g with notBefore := max g.notBefore next }) s
    let s := modThread f.thread (fun th => { th with nextIssue := max th.nextIssue next }) s
    match findFlight f.id s with
    | some g => startFlight g s
    | none => s

/-- One cycle of tag tests of an instruction that waits. -/
def waitTick (fid : Nat) (s : State) : State :=
  match findFlight fid s with
  | none => s
  | some f =>
    let (f, s) := testCycle f s
    let s := judgeNow f (modFlight fid (fun _ => f) s)
    match findFlight fid s with
    | some g => afterTests g s
    | none => s

/-- Every waiting instruction repeats its failed tests. -/
def testTick (s : State) : State := ((liveFlights s).filter (retests s)).foldl (fun s f => waitTick f.id s) s

/-! The array (R155 to R157). -/

/-- A cycle of one half of the array: its first product in flight goes on once its rows are there, else the half
idles. -/
def arrayTick (half : Bool) (s : State) : State :=
  match (liveFlights s).find? (fun f => f.engine == .mxe half && f.mxRun.isSome) with
  | none => setWindow half (mxShift (mxWindow s half) false) s
  | some f =>
    match f.mxRun with
    | none => s
    | some r =>
      if f.acts.isEmpty && f.due.isEmpty && f.begun && decide (f.issuedAt < s.ls.round) then
        let (w, r, n) := mxCycle s.ballast.d (mxWindow s half) r
        let s := modFlight f.id (fun g => { g with mxRun := some r }) (setWindow half w s)
        if n = 0 then s else bump cntMxCap n s
      else setWindow half (mxShift (mxWindow s half) false) s

/-- The two halves; the engines of MI are gated in retention (R327). -/
def arraysTick (s : State) : State := if s.run.retained then s else arrayTick true (arrayTick false s)

/-! The cycle. -/

/-- A cycle of the local store and of the array outside a lull. -/
def rowTick (s : State) : State :=
  let who := presenting s [] (portOrder s)
  let acc := presented s
  let hit := usedStacks s
  let ta := (acc.filter (fun p => p.1.thread == .ta && accessMade p.1 p.2)).length
  let s := boundaryTick hit (starveTick hit (testTick s))
  let s := arraysTick s
  let s := performAll acc s
  let s := if ta = 0 then s else bump cntTaRows ta s
  let s := conflictLull hit (dropSteps who s)
  { s with ls := { s.ls with round := s.ls.round + 1, busy := none } }

/-! Returns (R100, R106, R133, R137, R138, R175, R214, R217). -/

/-- The tile writes of some parts of a returned row. -/
def partRows (parts : List TilePart) (data scale : Bytes) : List TileWrite :=
  parts.map (fun p =>
    { tile := p.tile, row := p.row, off := p.off, bytes := (data.drop p.start).take p.len,
      side := p.side.map (fun x => (x.1, scale.getD x.2 0)), xtag := p.xtag })

/-- The row that place `i` among the reads of an instruction has given. -/
def gotRow (f : Flight) (i : Nat) : Bytes := (f.got.getD i (zeroRow, none)).1

/-- The header row of a TCTX.LOAD returns: it sets the configurations, and the reads that follow are those it calls
for (R138). The row that is refused now faults in execution: DEDUCED, log entry 63. -/
def headerReturn (a : TctxArgs) (f : Flight) (b : Bytes) (s : State) : State :=
  match readHeader b 0 16 with
  | .error i => execFault f.id fcTcfg (BitVec.ofNat 64 i) s
  | .ok cs =>
    let r0 := (snapReg f a.rs).toNat
    let x := xlate f 0
    match (strided r0 (contextRows cs) 1).find? (fun r => decide ((x.map.count.toNat : Int) ≤ r)) with
    | some r => execFault f.id fcRow (rowDetail x.h r) s
    | none =>
      let s := (cs.zipIdx).foldl (fun s c => dropTileCopies c.2 (setTileCfg c.2 c.1 s)) s
      setActs f.id ((contextPlan x a.port r0 cs).drop f.got.length) s

/-- What the return of a read does with its data. -/
def applyReturn (f : Flight) (d : DueRead) (s : State) : State :=
  match d.act with
  | .hold => s
  | .tiles parts scale => writeTiles (partRows parts d.data ((scale.map (gotRow f)).getD [])) s
  | .lines wide slice parts =>
    let lines := transposedLines wide slice (gotRows f)
    writeTiles ((parts.zip lines).flatMap (fun p => partRows [p.1] p.2 [])) s
  | .header =>
    match f.instr with
    | .tctxLoad _ a => headerReturn a f d.data s
    | _ => s
  | .contextData n i => writeTiles (contextDataWrites (tileCfg s n) n i d.data) s
  | .contextSide ns => writeTiles (contextSideWrites (tileCfg s) ns d.data) s
  | .reservoir i a =>
    let r : ResReq := { id := none, address := a, use := .dmaOut f.id i, data := d.data }
    reservoirPump { s with res := { s.res with writes := s.res.writes ++ [r] } }
  | .send i => offerRows f.id (modRemRow f.id i (fun x => { x with data := some d.data }) s)
  | .group g =>
    match f.instr with
    | .mvGemv _ a => mvGroupDone none a g f s
    | .tdc3MvGemv _ a r => mvGroupDone (some (c3Gemv a r)) { a with conv := c3Conv a.conv } g f s
    | _ => s

/-- The data of an instruction's next read returns (R100, R114); none unless it is due. -/
def readReturnStep (fid : Nat) (s : State) : Option State :=
  match findFlight fid s with
  | none => none
  | some f =>
    if f.faulted.isSome || gated f s then none
    else
      match f.due with
      | [] => none
      | d :: ds =>
        if s.ls.round < d.ready then none
        else
          match d.bad with
          | some w =>
            let s := logEvent 0x201 (d.phys + 2 ^ 17 * w) s
            some (execFault fid fcLsUncorr (BitVec.ofNat 64 (d.phys + 2 ^ 17 * w + 2 ^ 23 * d.rel)) s)
          | none =>
            let f := { f with due := ds }
            some (applyReturn f d (modFlight fid (fun _ => f) s))

/-! Completion (R44, R65). -/

/-- An instruction computes and commits what it computes. -/
def commitFlight (f : Flight) (s : State) : State :=
  match f.instr with
  | .lsRd _ a => finishLsRd a f s
  | .lsRq _ a => finishLsRq a f s
  | .lsRqS _ a => finishLsRq a f s
  | .mxMm _ a => finishMm none none a f s
  | .mxWld _ a => finishWld a f s
  | .mxWldT _ a => finishWldT a f s
  | .mxConv _ a => finishConv a f s
  | .mxDrain _ a => finishDrain a f s
  | .mvGemv _ a => finishGemv none a f s
  | .vxEw _ a => finishEw none a f s
  | .epRun _ a => finishEpRun a f s
  | .vxRed _ a => finishRed none a f s
  | .vxScan _ a => finishScan false a f s
  | .vxSegscan _ a => finishScan true a f s
  | .cvt _ a => finishCvt none none a f s
  | .glzStep _ a => finishGlaze false a f s
  | .glzRows _ a => finishGlaze true a f s
  | .tdc3MxMm _ a r => finishC3Mm a r f s
  | .tdc3MvGemv _ a r => finishC3Gemv a r f s
  | .tdc3VxEw _ a r => finishC3Ew a r f s
  | .tdc3VxRed _ a r => finishC3Red a r f s
  | .tdc3Cvt _ a r => finishC3Cvt a r f s
  | _ =>
    match f.remote with
    | some r => commitAll (remoteCommit f r) s
    | none => commitAll f s

/-- An instruction that is done completes and leaves flight (R65); an engine without a clock completes nothing
(R327). -/
def completeStep (fid : Nat) (s : State) : Option State :=
  match findFlight fid s with
  | none => none
  | some f => if isDone f s && !gated f s then some (dropFlight fid (commitFlight f s)) else none

end Sys2Proof.Machine
end

