-- ==== Sys2Proof/Machine/Tick.lean ====
section
/-! DEFINITION. A cycle of CLK: the counters and ages that go on in every cycle, the row ports, and the cycles that a
command lets pass until what it reports can happen (R12 to R15, R20, R99, R109, R111, R159, R177, R204, R218, R294,
R322, R323, R347, R376, R407). -/

namespace Sys2Proof.Machine

/-- An engine has an accepted instruction in flight. -/
def engineBusy (s : State) (e : Engine) : Bool := s.flights.any (fun f => f.engine == e)

/-- A half of the MXE has no accepted instruction, as a count. -/
def mxIdle (s : State) (half : Bool) : Nat :=
  if engineBusy s (.mxe half) || engineBusy s (.drain half) then 0 else 1

/-- An engine is enabled and has a clock (R327). -/
def engineClocked (s : State) (n : Nat) : Bool := s.mould.cfg.engines.getLsbD n && !s.run.retained

/-- The idle counters (R159, R177, R204, R407). -/
def idleTick (s : State) : State :=
  let mx := mxIdle s false + (if s.mould.cfg.half then mxIdle s true else 0)
  let s := if engineClocked s 0 then bump cntMxIdle mx s else s
  let s := if engineClocked s 1 && !engineBusy s .mvp then bump cntMvIdle 1 s else s
  let s := if engineClocked s 2 && !engineBusy s (.vxe false) then bump (cntVxIdle false) 1 s else s
  if engineClocked s 2 && s.mould.cfg.vxTwo && !engineBusy s (.vxe true) then bump (cntVxIdle true) 1 s else s

/-- A row that waits to be offered again counts down (R218). -/
def retryTick (r : RemRow) : RemRow :=
  match r.phase with
  | .retry (n + 1) => { r with phase := .retry n }
  | _ => r

/-- The retries of an instruction in flight count down (R218). -/
def flightTick (f : Flight) : Flight :=
  { f with remote := f.remote.map (fun r => { r with rows := r.rows.map retryTick }) }

/-- The ages of a port's requests that wait for a response (R294). -/
def trackTick (s : State) (p : Port) : Port :=
  { p with tracker := p.tracker.map (fun t => if awaits s t then { t with age := t.age + 1 } else t) }

/-- The four fabric ports. -/
def fabricTick (s : State) : State :=
  { s with fab := { s.fab with
      n := trackTick s s.fab.n, e := trackTick s s.fab.e, s := trackTick s s.fab.s, w := trackTick s s.fab.w } }

/-- The queue that a thread waits on: Q0 to Q7 as 0 to 7, K0 to K3 as 8 to 11 (Table 03.6). -/
def waitQueue (t : Thread) (s : State) : Option Nat :=
  match (getThread t s).wait with
  | .queue q => some q.toNat
  | _ => none

/-- Both threads issue and wait on queues (R20). -/
def bothWait (s : State) : Bool := s.run.state == .run && (waitQueue .ta s).isSome && (waitQueue .tx s).isSome

/-- Cycles for which both threads have waited on queues (R20). -/
def queueTick (s : State) : State :=
  { s with queues := { s.queues with idle := if bothWait s then s.queues.idle + 1 else 0 } }

/-- What a cycle outside a lull does. -/
def runTick (s : State) : State :=
  let s := fabricTick (queueTick (idleTick s))
  rowTick { s with flights := s.flights.map flightTick }

/-- The tables that every cycle reads: the frequency step in force and the Mould settings (R347). -/
def readTables (s : State) : State := readCfg cfgMould (readCfg (cfgStep s.clk.step.toNat) s)

/-- The host takes the oldest CSR response: csr_rsp_ready is high. DESIGN CHOICE, log entry 64. -/
def takeResponse (s : State) : State := { s with csr := { s.csr with waiting := s.csr.waiting.tail } }

/-- A cycle of CLK: CYCLE and the Drogue count every cycle (R13, R15), the rest only those outside a lull (R12). -/
def tick (s : State) : State :=
  if !portOpen s then s
  else
    let s := drogueTick (takeResponse (readTables { s with cycle := s.cycle + 1 }))
    match s.clk.lull with
    | 0 => runTick s
    | n + 1 => { s with clk := { s.clk with lull := n } }

/-! Cycles that pass before a command. -/

/-- Cycles pass, with their lulls, until a condition holds. -/
def passUntil (goal : State → Bool) : Nat → State → State
  | 0, s => s
  | n + 1, s => if goal s then s else passUntil goal n (passLull (tick s))

/-- The cycles in which every access planned so far is presented and its data returns. -/
def enoughCycles (s : State) : Nat :=
  (s.flights.map (fun f => f.acts.length + (f.notBefore - s.ls.round))).sum + 8

/-- The state in which a condition first holds; none if no cycle brings it. -/
def reach (goal : State → Bool) (s : State) : Option State :=
  let t := passUntil goal (enoughCycles s) (passLull s)
  if goal t then some t else none

end Sys2Proof.Machine
end

