-- ==== Sys2Proof/Machine/Events.lean ====
section
/-! DEFINITION. The events inside the cluster: tag waits that end, returning reads, completion, entry to a fault
handler, the mutual wait, boundary accesses and the scrubber (R20, R65, R83, R100, R104, R107, R109, R111, R116,
R117). Each happens in the first cycle in which it can; one that cannot happen changes nothing (log entry 12). -/

namespace Sys2Proof.Machine

/-- An instruction that holds its thread on tag tests. -/
def tagWaiting (fid : Nat) (s : State) : Option Flight :=
  (findFlight fid s).bind (fun f => if waitsOnTags f then some f else none)

/-- The tests of a waiting instruction are repeated in a cycle, and all pass (R66, R109); none where they do not. -/
def tagTestStep (fid : Nat) (s : State) : Option State :=
  match tagWaiting fid s with
  | none => none
  | some _ =>
    let t := passUntil (fun s => (tagWaiting fid s).isNone) 2 (passLull s)
    if (tagWaiting fid t).isNone then some t else none

/-- FVAL of a TAG_TIMEOUT: the first row in test order whose test has not passed (R109, R111). -/
def timeoutDetail (f : Flight) : Word64 :=
  match f.tests.find? (fun x => !x.passed) with
  | some x => rowDetail x.h x.rel
  | none => 0

/-- A tag wait exceeds its limit (R66, R111): the claims are released and the instruction faults. A thread that has
stopped, paused or met a fault already takes it with the faults of its other instructions. -/
def tagTimeoutStep (fid : Nat) (s : State) : Option State :=
  let s := passLull s
  match tagWaiting fid s with
  | none => none
  | some f =>
    if gated f s || s.ls.waitLimit == 0 || decide (f.tagWait < s.ls.waitLimit.toNat + 1) || !testFailed f then none
    else
      let th := getThread f.thread s
      if th.phase = .normal ∧ !th.stopped ∧ !th.paused then
        some (issueFault f.thread fcTagTimeout (timeoutDetail f) (unissue f (releaseTests f.tests s)))
      else some (execFault fid fcTagTimeout (timeoutDetail f) s)

/-- The next read of an instruction is due, or the instruction makes no further access. -/
def readDue (fid : Nat) (s : State) : Bool :=
  match findFlight fid s with
  | none => true
  | some f =>
    match f.due with
    | [] => f.acts.isEmpty
    | d :: _ => decide (d.ready ≤ s.ls.round)

/-- The data of an instruction's next read returns, in the cycle in which it is due (R100). -/
def returnStep (fid : Nat) (s : State) : Option State := (reach (readDue fid) s).bind (readReturnStep fid)

/-- An instruction has made all its accesses. -/
def accessesDone (fid : Nat) (s : State) : Bool :=
  match findFlight fid s with
  | none => true
  | some f => f.acts.isEmpty

/-- An instruction completes, once its accesses are made (R65). -/
def finishStep (fid : Nat) (s : State) : Option State := (reach (accessesDone fid) s).bind (completeStep fid)

/-- Entry to a handler; the sequencers are gated in retention (R327). -/
def handlerStep (t : Thread) (s : State) : Option State :=
  if s.run.retained then none else faultEntryStep t (passLull s)

/-- Visible entries of a queue numbered as in Table 03.6. -/
def queueFill (s : State) (q : Nat) : Nat :=
  if q < 8 then (visibleRows s q).length else (visibleTokens s (q - 8)).length

/-- Both threads have waited on queues for 2^24 cycles without traffic (R20); the count starts again. -/
def mutualWaitStep (s : State) : Option State :=
  match bothWait s, waitQueue .ta s, waitQueue .tx s with
  | true, some a, some x =>
    if s.queues.idle < 2 ^ 24 then none
    else
      let detail := a + 2 ^ 4 * queueFill s a + 2 ^ 16 * x + 2 ^ 20 * queueFill s x
      some (queueMoved (logEvent 0x008 detail s))
  | _, _, _ => none

/-! Boundary accesses (R104). -/

/-- A stack serves no scheduled access and no boundary access in this cycle. -/
def stackIdle (s : State) (k : Nat) : Bool := s.ls.busy != some k && !(usedStacks s).contains k

/-- The oldest boundary access can be performed: the port is free in this cycle and its stack serves no scheduled
access. -/
def boundaryReady (s : State) : Bool :=
  match s.ls.boundary with
  | [] => true
  | b :: _ => s.ls.busy.isNone && !(usedStacks s).contains (stackOf b.phys)

/-- The oldest boundary access is performed in the first cycle in which it can be. -/
def boundaryTurn (s : State) : Option State :=
  (reach boundaryReady s).bind (fun s =>
    match s.ls.boundary with
    | [] => none
    | b :: _ => some (boundaryStep { s with ls := { s.ls with busy := some (stackOf b.phys) } }))

/-! The scrubber (R116, R117). -/

/-- A stack of this build, while CLK runs (R116). -/
def scrubbable (s : State) (k : Nat) : Bool := decide (k < s.build.lsStacks) && portOpen s

/-- The first cycle in which a stack is idle. -/
def idleCycle (k : Nat) (s : State) : Option State :=
  if scrubbable s k then reach (fun s => stackIdle s k) s else none

/-- A row of a stack that is due to be written back: requested rewrites first. -/
def dueWriteBack (s : State) (k : Nat) : Option Nat :=
  ((s.ls.rewrites ++ s.ls.writeBacks).find? (fun p => stackOf p == k))

/-- Write a corrected row back: its correctable words are clean again. A row that holds an uncorrectable word
is not written (R114, R116). -/
def writeBack (p : Nat) (s : State) : State :=
  let ok := (rowBad s p).isNone
  { s with ls := { s.ls with
      single := if ok then Sparse.set 0 s.ls.single p 0 else s.ls.single
      rewrites := s.ls.rewrites.filter (fun q => q != p)
      writeBacks := s.ls.writeBacks.filter (fun q => q != p) } }

/-- The scrub pointer of a stack goes on; a completed pass is counted. -/
def advancePtr (k : Nat) (s : State) : State :=
  let r := Sparse.get 0 s.ls.ptr k
  let s := { s with ls := { s.ls with ptr := Sparse.set 0 s.ls.ptr k (r + 1) } }
  if r = 4095 then bump (cntScrubPass k) 1 s else s

/-- The scrubber of a stack reads and checks the row at its pointer (R116). -/
def scrubRow (k : Nat) (s : State) : State :=
  let p := 4096 * k + (Sparse.get 0 s.ls.ptr k).toNat
  advancePtr k (match rowBad s p with
    | some w => logEvent 0x203 (p + 2 ^ 17 * w) s
    | none =>
      if rowCorrectable s p then
        bump (cntLsCorr k) 1
          { s with ls := { s.ls with
              writeBacks := if s.ls.writeBacks.contains p then s.ls.writeBacks else s.ls.writeBacks ++ [p] } }
      else s)

/-- What one slot of a stack's scrubber does. -/
def scrubSlot (k : Nat) (s : State) : State :=
  match dueWriteBack s k with
  | some p => writeBack p s
  | none => scrubRow k s

/-- The scrubber of a stack reads the row at its pointer in an idle cycle; a write-back that is due goes first. -/
def scrubReadStep (k : Nat) (s : State) : Option State :=
  (idleCycle k s).bind (fun s => if (dueWriteBack s k).isNone then some (scrubRow k s) else none)

/-- A row of a stack that is due is written back in an idle cycle. -/
def writeBackStep (k : Nat) (s : State) : Option State :=
  (idleCycle k s).bind (fun s => (dueWriteBack s k).map (fun p => writeBack p s))

/-- A stack has had no idle cycle for 2^20 cycles (R117). -/
def starved (s : State) (k : Nat) : Bool := scrubbable s k && decide (2 ^ 20 ≤ Sparse.get 0 s.ls.starve k)

/-- A forced slot of a stack; its count starts again. -/
def forcedSlot (k : Nat) (s : State) : State :=
  let s := scrubSlot k s
  { s with ls := { s.ls with starve := Sparse.set 0 s.ls.starve k 0 } }

/-- The forced slots of one cycle share one lull cycle (R117): those of the named stacks that fall due in it. -/
def forcedScrub (due : BitVec 24) (s : State) : Option State :=
  let s := passLull s
  let ks := (List.range 24).filter (fun k => due.getLsbD k && starved s k)
  if ks.isEmpty then none
  else
    let s := bump cntLullScrub 1 { s with clk := { s.clk with lull := s.clk.lull + 1 } }
    some (ks.foldl (fun s k => forcedSlot k s) s)

/-! The meanings. -/

/-- TAG_TEST_PASS (R66, R109). -/
def execTagTestPass (fid : Nat) (s : State) : Out := .next ((tagTestStep fid s).getD s)

/-- TAG_TIMEOUT (R111). -/
def execTagTimeout (fid : Nat) (s : State) : Out := .next ((tagTimeoutStep fid s).getD s)

/-- LOCAL_STORE_READ_RETURN (R100, R113, R114). -/
def execLsReadReturn (fid : Nat) (s : State) : Out := .next ((returnStep fid s).getD s)

/-- TENSOR_COMPLETION (R44, R65). -/
def execTensorCompletion (fid : Nat) (s : State) : Out := .next ((finishStep fid s).getD s)

/-- FAULT_HANDLER_ENTRY (R81 to R85). -/
def execFaultHandlerEntry (t : Thread) (s : State) : Out := .next ((handlerStep t s).getD s)

/-- MUTUAL_WAIT (R20). -/
def execMutualWait (s : State) : Out := .next ((mutualWaitStep s).getD s)

/-- BOUNDARY_ACCESS (R104). -/
def execBoundaryAccess (s : State) : Out := .next ((boundaryTurn s).getD s)

/-- SCRUB_READ (R116); a requested rewrite or a write-back that is due goes first. -/
def execScrubRead (stack : BitVec 5) (s : State) : Out := .next ((scrubReadStep stack.toNat s).getD s)

/-- SCRUB_WRITE_BACK (R116). -/
def execScrubWriteBack (stack : BitVec 5) (s : State) : Out := .next ((writeBackStep stack.toNat s).getD s)

/-- FORCED_SCRUB_SLOT (R117). -/
def execForcedScrubSlot (due : BitVec 24) (s : State) : Out := .next ((forcedScrub due s).getD s)

end Sys2Proof.Machine
end

