-- ==== Sys2Proof/Machine/Monitor.lean ====
section
/-! DEFINITION. The serial monitor, its command lines and the UART (R369 to R371, R389, Table 18.5), and the test
access port (R374, R388). -/

namespace Sys2Proof.Machine

/-! Replies. -/

/-- Severity of a code (Table 18.3). -/
def severityOf (c : Nat) : Severity :=
  match c % 4 with
  | 0 => .note
  | 1 => .warn
  | 2 => .error
  | _ => .fatal

/-- Code of a severity (Table 18.3). -/
def severityNum : Severity → Nat
  | .note => 0
  | .warn => 1
  | .error => 2
  | .fatal => 3

/-- A log entry, decoded (Table 18.3). -/
def decodeEntry (x : BitVec 128) : LogEntry where
  code := x.setWidth 12
  sev := severityOf (x >>> 12).toNat
  seq := (x >>> 16).setWidth 16
  cycle := (x >>> 32).setWidth 48
  detail := (x >>> 80).setWidth 48

/-- The commands (Table 18.5). -/
def commandNames : List String :=
  ["HELP", "ID", "STATE", "TEMP", "POWER", "CONES", "STEPS", "LOG", "CNT", "UNLOCK", "LOCK"]

/-- Characters of a text as bytes. -/
def textBytes (t : String) : Bytes := t.toList.map (fun c => BitVec.ofNat 8 c.toNat)

/-- The numbers of a decoded entry. -/
def entryValues (e : LogEntry) : List Nat :=
  [e.code.toNat, severityNum e.sev, e.seq.toNat, e.cycle.toNat, e.detail.toNat]

/-- The lines of a reply. -/
def replyLines : MonReply → List Bytes
  | .word t => [textBytes t]
  | .commands names => names.map textBytes
  | .values xs => [Config.valueText xs]
  | .entries xs => xs.map (fun e => Config.valueText (entryValues e))
  | .prompt => []

/-- The characters that the monitor sends: each line ends with CR LF, a response with the prompt (R369). -/
def replyBytes (r : MonReply) : Bytes := (replyLines r).flatMap (fun l => l ++ [13, 10]) ++ textBytes "> "

/-- The monitor sends a reply. -/
def reply (r : MonReply) (s : State) : State := { s with mon := { s.mon with out := r :: s.mon.out } }

/-- A command: an open monitor answers it; a locked one answers LOCKED unless the command is answered there too;
a closed one, or one whose firmware does not run, ignores it (R370). -/
def monitorCommand (lockedToo : Bool) (run : State → State) (s : State) : State :=
  if !bridleRuns s then s
  else
    match s.mon.access with
    | .closed => s
    | .opened => run s
    | .locked => if lockedToo then run s else reply (.word "LOCKED") s

/-- Values of a signed register as the monitor reports them. -/
def reported (xs : List Nat) (s : State) : State := reply (.values xs) s

/-- ID. -/
def runId (s : State) : State :=
  reported [idVersion, s.fuses.grade.toNat, idConfig s.build, s.run.lc.toNat, s.fab.nodeId.toNat, s.brg.slot.toNat,
    s.brg.seq.toNat] s

/-- STATE. -/
def runState (s : State) : State :=
  reported [stateCode s.run.state, ownerCode s.run.owner, s.run.epoch.toNat, bit s.run.retained,
    causeCode s.run.safeCause, s.run.startCode.toNat] s

/-- TEMP. -/
def runTemp (s : State) : State :=
  reported ((List.range 4).map (fun k => (s.brg.diodes.getD k 0).toNat) ++
    [s.ballast.tM.toNat, s.ballast.tJ.toNat, s.ballast.tP.toNat]) s

/-- POWER. -/
def runPower (s : State) : State :=
  reported [s.brg.core.toNat, s.brg.sram.toNat, s.ballast.ewScale.toNat, s.ballast.balance.toNat,
    s.ballast.budget.toNat, s.ballast.d.toNat] s

/-- CONES, with the least code since the last CONES from the Bridle's copy. -/
def runCones (s : State) : State :=
  let s := reported ((List.range 12).map (fun k => (s.clk.coneCodes.getD k 63).toNat) ++
    [s.mon.coneMin.toNat, drogueRank s.clk.level]) s
  { s with mon := { s.mon with coneMin := 63 } }

/-- STEPS. -/
def runSteps (s : State) : State :=
  reported ((List.range 16).map (fun k => (s.clk.fsteps.getD k 0).toNat) ++
    [s.clk.vidOfs.toNat, bit s.clk.freqOfs, s.clk.step.toNat]) s

/-- The last `n` entries of the log, oldest first. -/
def lastEntries (s : State) (n : Nat) : List (BitVec 128) :=
  let k := min n (min s.evt.written 4096)
  (List.range k).map (fun i => Sparse.get 0 s.evt.log ((s.evt.head - BitVec.ofNat 16 (k - i)).toNat % 4096))

/-- LOG n; nothing for an `n` outside 1 to 64. -/
def runLog (n : Nat) (s : State) : State := reply (.entries ((if n ≤ 64 then lastEntries s n else []).map decodeEntry)) s

/-- CNT; nothing for an address that is no counter's. -/
def runCnt (address : Nat) (s : State) : State :=
  match regCounter s address with
  | some r => if r.base = address then reported [regValue s address] s else reported [] s
  | none => reported [] s

/-- UNLOCK (R370). -/
def runUnlock (token : BitVec 64) (s : State) : State :=
  if token ≠ 0 ∧ s.mon.token = some token then
    reply (.word "OPEN") { s with mon := { s.mon with token := none, access := .opened } }
  else
    let n := min 3 (s.mon.fails + 1)
    let s := bridleEvent 0x604 n { s with mon := { s.mon with fails := n } }
    reply (.word "DENIED") { s with mon := { s.mon with token := if 3 ≤ n then none else s.mon.token } }

/-- LOCK. -/
def runLock (s : State) : State := reply (.word "LOCKED") (lockMonitor s)

/-! Command lines. -/

/-- Characters of a line. -/
def lineChars (l : List (BitVec 8)) : List Char := l.map (fun b => Char.ofNat b.toNat)

/-- The words of a line, without the empty ones. -/
def splitWords : List Char → List (List Char)
  | [] => []
  | c :: cs =>
    if c = ' ' then [] :: splitWords cs
    else
      match splitWords cs with
      | [] => [[c]]
      | w :: ws => (c :: w) :: ws

/-- The words that hold a character. -/
def lineWords (l : List (BitVec 8)) : List (List Char) := (splitWords (lineChars l)).filter (fun w => !w.isEmpty)

/-- A decimal number. -/
def decimalOf (w : List Char) : Option Nat :=
  if w.isEmpty || !w.all (fun c => c.isDigit) then none else some (w.foldl (fun n c => 10 * n + (c.toNat - 48)) 0)

/-- A hexadecimal digit. -/
def hexDigit (c : Char) : Option Nat :=
  if c.isDigit then some (c.toNat - 48)
  else if 'a' ≤ c ∧ c ≤ 'f' then some (c.toNat - 87)
  else if 'A' ≤ c ∧ c ≤ 'F' then some (c.toNat - 55)
  else none

/-- A token of exactly 16 hex digits; zero, which matches nothing, for any other text. -/
def tokenOf (w : List Char) : BitVec 64 :=
  let ds := w.map hexDigit
  if w.length = 16 ∧ ds.all (fun d => d.isSome) then
    BitVec.ofNat 64 (ds.foldl (fun n d => 16 * n + d.getD 0) 0)
  else 0

/-- Names of the counters that have one instance, in the order of Table 20.16. -/
def counterNames : List (String × Nat) :=
  [("CYCLE", 0x6000), ("LULL_ECC", 0x6002), ("LULL_PORT", 0x6004), ("LULL_SCRUB", 0x6006), ("LULL_DROGUE", 0x6008),
   ("DROGUE_50", 0x600A), ("BOUNDARY_WAIT", 0x600C), ("BOUNDARY_CORR", 0x600E), ("TAG_CORR", 0x6010),
   ("SPOOL_CORR", 0x6012), ("SPOOL_UNCORR", 0x6014), ("SDM_CORR", 0x6016), ("SESS_CORR", 0x6018),
   ("CFG_CORR", 0x601A), ("CLK_DRIFT", 0x601C), ("CLK_SWITCHES", 0x601E), ("TOC_HIT", 0x6030), ("TREUSE", 0x6032),
   ("MX_VALID_BEATS", 0x6040), ("MX_LOAD_CYCLES", 0x6042), ("MX_CAP_BUBBLES", 0x6044), ("MX_IDLE_CYCLES", 0x6046),
   ("MV_PAIRS", 0x6048), ("MV_IDLE_CYCLES", 0x604A), ("GLZ_UPDATES", 0x6060), ("STEP_SKEW", 0x6062),
   ("FROZEN_DROPS", 0x6064), ("GLZ_STALE", 0x6066), ("GLZ_DENIED", 0x6068), ("TA_LS_ROWS", 0x6080),
   ("DMA_ROWS_IN", 0x6082), ("DMA_ROWS_OUT", 0x6084), ("DMA_RES_ERR", 0x6086), ("FAB_ROWS_OUT", 0x6088),
   ("FAB_ROWS_IN", 0x608A), ("FAB_REFUSED", 0x608C), ("MSG_RETRIES", 0x608E), ("SESS_CREDIT_SAT", 0x6090),
   ("SESS_XFER_ERR", 0x6092), ("BALLAST_MISSED", 0x6094), ("BRG_RESTARTS", 0x6096), ("EVT_LOST", 0x6098)]

/-- Names of the counters with instances: the address of instance 0 and the stride. -/
def instanceNames : List (String × Nat × Nat) :=
  [("NSAT_TOTAL", 0x6020, 8), ("NFLUSH_TOTAL", 0x6022, 8), ("NNAN_TOTAL", 0x6024, 8), ("FAULT", 0x6026, 8),
   ("VX_BEATS", 0x604C, 4), ("VX_IDLE_CYCLES", 0x604E, 4), ("FAB_CRC_ERR", 0x6100, 16), ("FAB_RESENDS", 0x6102, 16),
   ("FAB_BAD_TYPE", 0x6104, 16), ("FAB_MISROUTE", 0x6106, 16), ("FAB_ORPHAN", 0x6108, 16),
   ("FAB_RSP_TIMEOUT", 0x610A, 16), ("WIN_DENIED", 0x6200, 8), ("WIN_SERVED", 0x6202, 8), ("WIN_EMPTY", 0x6204, 8),
   ("WIN_FULL", 0x6206, 8), ("LS_CORR", 0x6300, 4), ("SCRUB_PASS", 0x6302, 4)]

/-- The number of an instance: a thread, a lane group, a port or a number. -/
def instanceOf (w : List Char) : Option Nat :=
  match ([("TA", 0), ("TX", 1), ("G0", 0), ("G1", 1), ("N", 0), ("E", 1), ("S", 2), ("W", 3)] : List (String × Nat)).find?
      (fun x => x.1.toList == w) with
  | some x => some x.2
  | none => decimalOf w

/-- The address of a named counter. -/
def counterNamed (ws : List (List Char)) : Option Nat :=
  match ws with
  | [w] => (counterNames.find? (fun x => x.1.toList == w)).map (fun x => x.2)
  | [w, i] =>
    match instanceNames.find? (fun x => x.1.toList == w), instanceOf i with
    | some x, some k => some (x.2.1 + x.2.2 * k)
    | _, _ => none
  | _ => none

/-- The command of a line; none for a line that spells none. -/
def lineCommand (ws : List (List Char)) : Option (Bool × (State → State)) :=
  let is (w : List Char) (name : String) : Bool := w == name.toList
  match ws with
  | [] => none
  | w :: args =>
    if is w "UNLOCK" then some (true, runUnlock (tokenOf args.flatten))
    else if is w "LOG" then
      match args.map decimalOf with
      | [some n] => some (false, runLog n)
      | _ => none
    else if is w "CNT" then (counterNamed args).map (fun a => (false, runCnt a))
    else if !args.isEmpty then none
    else if is w "HELP" then some (true, reply (.commands commandNames))
    else if is w "ID" then some (false, runId)
    else if is w "STATE" then some (false, runState)
    else if is w "TEMP" then some (false, runTemp)
    else if is w "POWER" then some (false, runPower)
    else if is w "CONES" then some (false, runCones)
    else if is w "STEPS" then some (false, runSteps)
    else if is w "LOCK" then some (false, runLock)
    else none

/-! The UART (R369, R389). -/

/-- The levels of a character on the line, one for each bit: a start bit, eight data bits from the least up, a stop
bit. -/
def uartFrame (b : Byte) : List Bool := false :: (List.range 8).map b.getLsbD ++ [true]

/-- The levels that uart_tx carries, bit after bit: it idles high between characters. -/
def uartWave (bs : Bytes) : List Bool := bs.flatMap uartFrame

/-- A character from samples taken at 16 times the bit rate, from its start bit on: each data bit in its middle. -/
def uartByte (xs : List Bool) : Byte :=
  BitVec.ofNat 8 (((List.range 8).map (fun k => if xs.getD (24 + 16 * k) false then 2 ^ k else 0)).sum)

/-- The characters in a run of samples of uart_rx. A start bit shorter than half a bit is ignored (R389); a character
without its stop bit is none (log entry 45). -/
def uartReceive : Nat → List Bool → Bytes
  | 0, _ => []
  | n + 1, xs =>
    match xs with
    | [] => []
    | true :: rest => uartReceive n rest
    | false :: rest =>
      if (xs.take 8).length = 8 ∧ (xs.take 8).all (fun x => !x) then
        if xs.getD 152 false then uartByte xs :: uartReceive n (xs.drop 153) else uartReceive n (xs.drop 153)
      else uartReceive n rest

/-- The characters of a line: those before its CR; none without one. -/
def lineOf (bs : Bytes) : Option Bytes :=
  if bs.contains 13 then some (bs.takeWhile (fun b => b != 13)) else none

/-- A line is received and dispatched; one that spells no command, or is longer than 80 characters, gets the prompt
alone from an open monitor. -/
def receiveLine (l : List (BitVec 8)) (s : State) : State :=
  match (if l.length ≤ 80 then lineCommand (lineWords l) else none) with
  | some (lockedToo, run) => monitorCommand lockedToo run s
  | none => monitorCommand false (reply .prompt) s

/-! The meanings of the monitor. -/

/-- HELP. -/
def execHelp (s : State) : Out := .next (monitorCommand true (reply (.commands commandNames)) s)

/-- ID. -/
def execId (s : State) : Out := .next (monitorCommand false runId s)

/-- STATE. -/
def execState (s : State) : Out := .next (monitorCommand false runState s)

/-- TEMP. -/
def execTemp (s : State) : Out := .next (monitorCommand false runTemp s)

/-- POWER. -/
def execPower (s : State) : Out := .next (monitorCommand false runPower s)

/-- CONES. -/
def execCones (s : State) : Out := .next (monitorCommand false runCones s)

/-- STEPS. -/
def execSteps (s : State) : Out := .next (monitorCommand false runSteps s)

/-- LOG. -/
def execLog (n : Nat) (s : State) : Out := .next (monitorCommand false (runLog n) s)

/-- CNT. -/
def execCnt (address : BitVec 16) (s : State) : Out := .next (monitorCommand false (runCnt address.toNat) s)

/-- UNLOCK. -/
def execUnlock (token : BitVec 64) (s : State) : Out := .next (monitorCommand true (runUnlock token) s)

/-- LOCK. -/
def execLock (s : State) : Out := .next (monitorCommand false runLock s)

/-- UART_COMMAND_LINE (R369, R389): the samples of uart_rx that carry the line. -/
def execUartCommandLine (samples : List Bool) (s : State) : Out :=
  .next (match lineOf (uartReceive samples.length samples) with
    | none => s
    | some l => receiveLine l s)

/-! The test access port (R388). -/

/-- The next state of the port's controller at a rising edge of tck with tms (IEEE 1149.1). -/
def tapNext (st : TapState) (tms : Bool) : TapState :=
  match st with
  | .testLogicReset => if tms then .testLogicReset else .runTestIdle
  | .runTestIdle => if tms then .selectDr else .runTestIdle
  | .selectDr => if tms then .selectIr else .captureDr
  | .captureDr => if tms then .exit1Dr else .shiftDr
  | .shiftDr => if tms then .exit1Dr else .shiftDr
  | .exit1Dr => if tms then .updateDr else .pauseDr
  | .pauseDr => if tms then .exit2Dr else .pauseDr
  | .exit2Dr => if tms then .updateDr else .shiftDr
  | .updateDr => if tms then .selectDr else .runTestIdle
  | .selectIr => if tms then .testLogicReset else .captureIr
  | .captureIr => if tms then .exit1Ir else .shiftIr
  | .shiftIr => if tms then .exit1Ir else .shiftIr
  | .exit1Ir => if tms then .updateIr else .pauseIr
  | .pauseIr => if tms then .exit2Ir else .pauseIr
  | .exit2Ir => if tms then .updateIr else .shiftIr
  | .updateIr => if tms then .selectDr else .runTestIdle

/-- tdo_en is high in Shift-DR and Shift-IR only (R388). -/
def tdoEnabled (st : TapState) : Bool := st == .shiftDr || st == .shiftIr

/-- tms at the edges of tck that load an instruction: to Run-Test/Idle, to Shift-IR, four bits, Update-IR. -/
def loadPath : List Bool := [false, true, true, false, false, false, false, false, true, true, false]

/-- An instruction of four bits is loaded (R388). -/
def tapLoad (ir : TapInstr) (s : State) : State :=
  { s with tap := { s.tap with ir := ir, state := loadPath.foldl tapNext s.tap.state } }

/-- The run states in which EXTEST and CLAMP take effect. -/
def tapMayDrive (s : State) : Bool := s.run.state == .maint || s.run.state == .faulted

/-- The life-cycle states that allow full scan (Table 16.10). -/
def fullScanAllowed (lc : BitVec 3) : Bool := lc == 0 || lc == 3

/-- The instruction as it behaves: EXTEST and CLAMP outside MAINT and FAULTED behave as SAMPLE/PRELOAD, a full-scan
instruction outside the states that allow it as BYPASS. -/
def tapEffect (s : State) : TapInstr :=
  match s.tap.ir with
  | .extest => if tapMayDrive s then .extest else .sample
  | .clamp => if tapMayDrive s then .clamp else .sample
  | .fullScan => if fullScanAllowed s.run.lc then .fullScan else .bypass
  | i => i

/-- The data register that the port selects. -/
def tapReg (s : State) : TapReg :=
  match tapEffect s with
  | .bypass => .bypassReg
  | .clamp => .bypassReg
  | .idcode => .idReg (Tap.idcode s.fuses.jtagMfr)
  | .sample => .boundary
  | .extest => .boundary
  | .fullScan => .scanChains

/-- The boundary-scan register drives the outputs. -/
def tapDrives (s : State) : Bool := tapEffect s == .extest || tapEffect s == .clamp

/-- TRST_N resets the port alone. -/
def execTrstN (s : State) : Out := .next { s with tap := { Tap.reset with cells := s.tap.cells, scans := s.tap.scans } }

/-- BYPASS. -/
def execBypass (s : State) : Out := .next (tapLoad .bypass s)

/-- IDCODE. -/
def execIdcode (s : State) : Out := .next (tapLoad .idcode s)

/-- SAMPLE/PRELOAD; the scan that follows leaves in the boundary-scan register what the surroundings shift in. -/
def execSamplePreload (s : State) : Out :=
  let s := tapLoad .sample s
  .next { s with tap := { s.tap with cells := Config.scanIn s.tap.scans, scans := s.tap.scans + 1 } }

/-- EXTEST. -/
def execExtest (s : State) : Out := .next (tapLoad .extest s)

/-- CLAMP. -/
def execClamp (s : State) : Out := .next (tapLoad .clamp s)

end Sys2Proof.Machine
end

