-- ==== Sys2Proof/Machine/TileConfig.lean ====
section
/-! DEFINITION. TCFG, TCFG.R and TREL (R121 to R125, R136, R250). -/

namespace Sys2Proof.Machine

/-- The tiles that an instruction in flight names: those it reads or writes, and those of a DMA.COPY TL, which R213
lifts from the tile ordering only. -/
def namedTiles (f : Flight) : BitVec 16 :=
  match f.instr with
  | .dmaCopy _ a =>
    if a.form = 3 then tileMask ((tileGroup (a.hb.setWidth 6)).getD []) else f.rdTiles ||| f.wrTiles
  | _ => f.rdTiles ||| f.wrTiles

/-- An instruction in flight of either thread names one of these tiles (R124). -/
def tilesNamed (m : BitVec 16) (s : State) : Bool := (liveFlights s).any (fun f => (namedTiles f &&& m) != 0)

/-- Does a shape change a tile's configuration (R122). -/
def changesConfig (rows1 : BitVec 5) (bytes1 : BitVec 6) (fmt : BitVec 4) (c : TileCfg) : Bool :=
  c.rows1 != rows1 || c.bytes1 != bytes1 || c.fmt != fmt

/-- Give a tile a configuration, which empties it (R119, R122). -/
def configureTile (rows1 : BitVec 5) (bytes1 : BitVec 6) (fmt : BitVec 4) (n : Nat) (s : State) : State :=
  let s := emptyTile n s
  setTileCfg n { tileCfg s n with rows1 := rows1, bytes1 := bytes1, fmt := fmt } s

/-- Lowest tile of a mask. -/
def lowestTile (m : BitVec 16) : Nat := (tilesOf m).headD 0

/-- TCFG at issue, from either form (R121 to R124). -/
def issueTcfg (t : Thread) (mask : BitVec 16) (rows1 : BitVec 5) (bytes1 : BitVec 6) (fmt : BitVec 4)
    (zeros : Bool) (s : State) : Verdict := verdict do
  onlyThread t .tx
  need (mask != 0) (paramRange 0)
  need (zeros && shapeOk (rows1.toNat + 1) (bytes1.toNat + 1) fmt)
    (.fault fcTcfg (BitVec.ofNat 64 (lowestTile mask)))
  let ts := (tilesOf mask).filter (fun n => changesConfig rows1 bytes1 fmt (tileCfg s n))
  need (!tilesNamed (tileMask ts) s) (.wait .interlock)
  return .go (ts.foldl (fun s n => configureTile rows1 bytes1 fmt n s) s)

/-- TREL at issue (R124, R136). -/
def issueTrel (t : Thread) (mask : BitVec 16) (s : State) : Verdict := verdict do
  onlyThread t .tx
  need (mask != 0) (paramRange 0)
  need (!tilesNamed mask s) (.wait .interlock)
  return .go ((tilesOf mask).foldl (fun s n => emptyTile n s) s)

/-- TCFG. -/
def execTcfg (t : Thread) (mask : BitVec 16) (rows1 : BitVec 5) (bytes1 : BitVec 6) (fmt : BitVec 4) (s : State) :
    Out := .next (issue t 1 (issueTcfg t mask rows1 bytes1 fmt true) s)

/-- TCFG.R: the shape comes from bits [19:0] of an s-register (R250). -/
def execTcfgR (t : Thread) (shape : Reg) (mask : BitVec 16) (s : State) : Out :=
  .next (issue t 1 (fun s => verdict do
    onlyThread t .tx
    regsReady t [shape] s
    let v := sreg t shape s
    return issueTcfg t mask (v.extractLsb' 0 5) (v.extractLsb' 5 6) (v.extractLsb' 11 4)
      (v.extractLsb' 15 5 == 0) s) s)

/-- TREL. -/
def execTrel (t : Thread) (mask : BitVec 16) (s : State) : Out := .next (issue t 1 (issueTrel t mask) s)

end Sys2Proof.Machine
end

