-- ==== Sys2Proof/Machine/Dispatch.lean ====
section
/-! DEFINITION. The one dispatch of the commands to their meanings, one arm per row of the table. -/

namespace Sys2Proof.Machine

def exec (i : Instr) (s : State) : Host.Outcome State Fault Refusal :=
  match i with
  | .nop t => Sys2Proof.Machine.execNop t s
  | .add t rd rs1 rs2 => Sys2Proof.Machine.execAdd t rd rs1 rs2 s
  | .sub t rd rs1 rs2 => Sys2Proof.Machine.execSub t rd rs1 rs2 s
  | .and t rd rs1 rs2 => Sys2Proof.Machine.execAnd t rd rs1 rs2 s
  | .or t rd rs1 rs2 => Sys2Proof.Machine.execOr t rd rs1 rs2 s
  | .xor t rd rs1 rs2 => Sys2Proof.Machine.execXor t rd rs1 rs2 s
  | .shl t rd rs1 rs2 => Sys2Proof.Machine.execShl t rd rs1 rs2 s
  | .shr t rd rs1 rs2 => Sys2Proof.Machine.execShr t rd rs1 rs2 s
  | .sra t rd rs1 rs2 => Sys2Proof.Machine.execSra t rd rs1 rs2 s
  | .addi t rd rs1 imm => Sys2Proof.Machine.execAddi t rd rs1 imm s
  | .andi t rd rs1 imm => Sys2Proof.Machine.execAndi t rd rs1 imm s
  | .ori t rd rs1 imm => Sys2Proof.Machine.execOri t rd rs1 imm s
  | .xori t rd rs1 imm => Sys2Proof.Machine.execXori t rd rs1 imm s
  | .shli t rd rs1 imm => Sys2Proof.Machine.execShli t rd rs1 imm s
  | .shri t rd rs1 imm => Sys2Proof.Machine.execShri t rd rs1 imm s
  | .srai t rd rs1 imm => Sys2Proof.Machine.execSrai t rd rs1 imm s
  | .li t rd imm => Sys2Proof.Machine.execLi t rd imm s
  | .lih t rd imm => Sys2Proof.Machine.execLih t rd imm s
  | .mul t rd rs1 rs2 => Sys2Proof.Machine.execMul t rd rs1 rs2 s
  | .mulh t rd rs1 rs2 => Sys2Proof.Machine.execMulh t rd rs1 rs2 s
  | .mulhu t rd rs1 rs2 => Sys2Proof.Machine.execMulhu t rd rs1 rs2 s
  | .divs t rd rs1 rs2 => Sys2Proof.Machine.execDivs t rd rs1 rs2 s
  | .divu t rd rs1 rs2 => Sys2Proof.Machine.execDivu t rd rs1 rs2 s
  | .rems t rd rs1 rs2 => Sys2Proof.Machine.execRems t rd rs1 rs2 s
  | .remu t rd rs1 rs2 => Sys2Proof.Machine.execRemu t rd rs1 rs2 s
  | .cmpEq t rd rs1 rs2 => Sys2Proof.Machine.execCmpEq t rd rs1 rs2 s
  | .cmpNe t rd rs1 rs2 => Sys2Proof.Machine.execCmpNe t rd rs1 rs2 s
  | .cmpLt t rd rs1 rs2 => Sys2Proof.Machine.execCmpLt t rd rs1 rs2 s
  | .cmpLtu t rd rs1 rs2 => Sys2Proof.Machine.execCmpLtu t rd rs1 rs2 s
  | .cmpGe t rd rs1 rs2 => Sys2Proof.Machine.execCmpGe t rd rs1 rs2 s
  | .cmpGeu t rd rs1 rs2 => Sys2Proof.Machine.execCmpGeu t rd rs1 rs2 s
  | .beq t rs1 rs2 off => Sys2Proof.Machine.execBeq t rs1 rs2 off s
  | .bne t rs1 rs2 off => Sys2Proof.Machine.execBne t rs1 rs2 off s
  | .blt t rs1 rs2 off => Sys2Proof.Machine.execBlt t rs1 rs2 off s
  | .bge t rs1 rs2 off => Sys2Proof.Machine.execBge t rs1 rs2 off s
  | .bltu t rs1 rs2 off => Sys2Proof.Machine.execBltu t rs1 rs2 off s
  | .bgeu t rs1 rs2 off => Sys2Proof.Machine.execBgeu t rs1 rs2 off s
  | .jmp t off => Sys2Proof.Machine.execJmp t off s
  | .jal t rd off => Sys2Proof.Machine.execJal t rd off s
  | .jr t rs1 => Sys2Proof.Machine.execJr t rs1 s
  | .fadd t rd rs1 rs2 rnd => Sys2Proof.Machine.execFadd t rd rs1 rs2 rnd s
  | .fsub t rd rs1 rs2 rnd => Sys2Proof.Machine.execFsub t rd rs1 rs2 rnd s
  | .fmul t rd rs1 rs2 rnd => Sys2Proof.Machine.execFmul t rd rs1 rs2 rnd s
  | .fma t rd rs1 rs2 rs3 rnd => Sys2Proof.Machine.execFma t rd rs1 rs2 rs3 rnd s
  | .fdiv t rd rs1 rs2 rnd => Sys2Proof.Machine.execFdiv t rd rs1 rs2 rnd s
  | .fsqrt t rd rs1 rnd => Sys2Proof.Machine.execFsqrt t rd rs1 rnd s
  | .fmin t rd rs1 rs2 num => Sys2Proof.Machine.execFmin t rd rs1 rs2 num s
  | .fmax t rd rs1 rs2 num => Sys2Proof.Machine.execFmax t rd rs1 rs2 num s
  | .fcmpEq t rd rs1 rs2 => Sys2Proof.Machine.execFcmpEq t rd rs1 rs2 s
  | .fcmpLt t rd rs1 rs2 => Sys2Proof.Machine.execFcmpLt t rd rs1 rs2 s
  | .fcmpLe t rd rs1 rs2 => Sys2Proof.Machine.execFcmpLe t rd rs1 rs2 s
  | .fcmpUn t rd rs1 rs2 => Sys2Proof.Machine.execFcmpUn t rd rs1 rs2 s
  | .fcvtDL t rd rs1 rnd => Sys2Proof.Machine.execFcvtDL t rd rs1 rnd s
  | .fcvtLD t rd rs1 rnd => Sys2Proof.Machine.execFcvtLD t rd rs1 rnd s
  | .fcvtDW t rd rs1 => Sys2Proof.Machine.execFcvtDW t rd rs1 s
  | .fcvtWD t rd rs1 rnd => Sys2Proof.Machine.execFcvtWD t rd rs1 rnd s
  | .ldB t rd rs1 imm => Sys2Proof.Machine.execLdB t rd rs1 imm s
  | .ldBU t rd rs1 imm => Sys2Proof.Machine.execLdBU t rd rs1 imm s
  | .ldH t rd rs1 imm => Sys2Proof.Machine.execLdH t rd rs1 imm s
  | .ldHU t rd rs1 imm => Sys2Proof.Machine.execLdHU t rd rs1 imm s
  | .ldW t rd rs1 imm => Sys2Proof.Machine.execLdW t rd rs1 imm s
  | .ldWU t rd rs1 imm => Sys2Proof.Machine.execLdWU t rd rs1 imm s
  | .ldD t rd rs1 imm => Sys2Proof.Machine.execLdD t rd rs1 imm s
  | .stB t rs1 rs2 imm => Sys2Proof.Machine.execStB t rs1 rs2 imm s
  | .stH t rs1 rs2 imm => Sys2Proof.Machine.execStH t rs1 rs2 imm s
  | .stW t rs1 rs2 imm => Sys2Proof.Machine.execStW t rs1 rs2 imm s
  | .stD t rs1 rs2 imm => Sys2Proof.Machine.execStD t rs1 rs2 imm s
  | .pmov t rd imm => Sys2Proof.Machine.execPmov t rd imm s
  | .pset t rs1 imm => Sys2Proof.Machine.execPset t rs1 imm s
  | .kpush t rs1 imm => Sys2Proof.Machine.execKpush t rs1 imm s
  | .kpop t rd imm => Sys2Proof.Machine.execKpop t rd imm s
  | .qdepth t rd imm => Sys2Proof.Machine.execQdepth t rd imm s
  | .budget t rd => Sys2Proof.Machine.execBudget t rd s
  | .srd t rd imm => Sys2Proof.Machine.execSrd t rd imm s
  | .swr t rs1 imm => Sys2Proof.Machine.execSwr t rs1 imm s
  | .srseed t rs1 => Sys2Proof.Machine.execSrseed t rs1 s
  | .srread t rd => Sys2Proof.Machine.execSrread t rd s
  | .nstatRd t rd imm => Sys2Proof.Machine.execNstatRd t rd imm s
  | .amaxRd t rd imm => Sys2Proof.Machine.execAmaxRd t rd imm s
  | .coilBegin t rs1 imm => Sys2Proof.Machine.execCoilBegin t rs1 imm s
  | .coilEnd t => Sys2Proof.Machine.execCoilEnd t s
  | .coilSet t rs1 imm => Sys2Proof.Machine.execCoilSet t rs1 imm s
  | .coilBreak t imm => Sys2Proof.Machine.execCoilBreak t imm s
  | .coilIdx t rd imm => Sys2Proof.Machine.execCoilIdx t rd imm s
  | .fence t => Sys2Proof.Machine.execFence t s
  | .replaySync t => Sys2Proof.Machine.execReplaySync t s
  | .fret t => Sys2Proof.Machine.execFret t s
  | .halt t => Sys2Proof.Machine.execHalt t s
  | .lsRd t a => Sys2Proof.Machine.execLsRd t a s
  | .lsWr t a => Sys2Proof.Machine.execLsWr t a s
  | .lsRq t a => Sys2Proof.Machine.execLsRq t a s
  | .lsRqS t a => Sys2Proof.Machine.execLsRqS t a s
  | .lsWq t a => Sys2Proof.Machine.execLsWq t a s
  | .lsTag t a => Sys2Proof.Machine.execLsTag t a s
  | .tld t a => Sys2Proof.Machine.execTld t a s
  | .tldS t a => Sys2Proof.Machine.execTldS t a s
  | .tldT t a => Sys2Proof.Machine.execTldT t a s
  | .tst t a => Sys2Proof.Machine.execTst t a s
  | .tstS t a => Sys2Proof.Machine.execTstS t a s
  | .tctxSave t a => Sys2Proof.Machine.execTctxSave t a s
  | .tctxLoad t a => Sys2Proof.Machine.execTctxLoad t a s
  | .dmaCopy t a => Sys2Proof.Machine.execDmaCopy t a s
  | .put t a => Sys2Proof.Machine.execPut t a s
  | .msgSend t a => Sys2Proof.Machine.execMsgSend t a s
  | .take t a => Sys2Proof.Machine.execTake t a s
  | .msgRecv t a => Sys2Proof.Machine.execMsgRecv t a s
  | .peek t a => Sys2Proof.Machine.execPeek t a s
  | .fetch t a => Sys2Proof.Machine.execFetch t a s
  | .bind t h tmask => Sys2Proof.Machine.execBind t h tmask s
  | .unbind t h tmask => Sys2Proof.Machine.execUnbind t h tmask s
  | .hswap t ss h => Sys2Proof.Machine.execHswap t ss h s
  | .sessNext t sa sd => Sys2Proof.Machine.execSessNext t sa sd s
  | .spoolPrefetch t ss n1 => Sys2Proof.Machine.execSpoolPrefetch t ss n1 s
  | .spoolPin t ss n1 => Sys2Proof.Machine.execSpoolPin t ss n1 s
  | .spoolUnpin t ss n1 => Sys2Proof.Machine.execSpoolUnpin t ss n1 s
  | .spoolInv t => Sys2Proof.Machine.execSpoolInv t s
  | .mxMm t a => Sys2Proof.Machine.execMxMm t a s
  | .mxWld t a => Sys2Proof.Machine.execMxWld t a s
  | .mxWldT t a => Sys2Proof.Machine.execMxWldT t a s
  | .mxConv t a => Sys2Proof.Machine.execMxConv t a s
  | .mxDrain t a => Sys2Proof.Machine.execMxDrain t a s
  | .mvGemv t a => Sys2Proof.Machine.execMvGemv t a s
  | .vxEw t a => Sys2Proof.Machine.execVxEw t a s
  | .epRun t a => Sys2Proof.Machine.execEpRun t a s
  | .vxRed t a => Sys2Proof.Machine.execVxRed t a s
  | .vxScan t a => Sys2Proof.Machine.execVxScan t a s
  | .vxSegscan t a => Sys2Proof.Machine.execVxSegscan t a s
  | .cvt t a => Sys2Proof.Machine.execCvt t a s
  | .epLoad t slot tile => Sys2Proof.Machine.execEpLoad t slot tile s
  | .glzStep t a => Sys2Proof.Machine.execGlzStep t a s
  | .glzRows t a => Sys2Proof.Machine.execGlzRows t a s
  | .tcfg t mask rows1 bytes1 fmt => Sys2Proof.Machine.execTcfg t mask rows1 bytes1 fmt s
  | .tcfgR t shape mask => Sys2Proof.Machine.execTcfgR t shape mask s
  | .trel t mask => Sys2Proof.Machine.execTrel t mask s
  | .tdc3MxMm t a r => Sys2Proof.Machine.execTdc3MxMm t a r s
  | .tdc3MvGemv t a r => Sys2Proof.Machine.execTdc3MvGemv t a r s
  | .tdc3VxEw t a r => Sys2Proof.Machine.execTdc3VxEw t a r s
  | .tdc3VxRed t a r => Sys2Proof.Machine.execTdc3VxRed t a r s
  | .tdc3Cvt t a r => Sys2Proof.Machine.execTdc3Cvt t a r s
  | .tagTestPass fid => Sys2Proof.Machine.execTagTestPass fid s
  | .tagTimeout fid => Sys2Proof.Machine.execTagTimeout fid s
  | .lsReadReturn fid => Sys2Proof.Machine.execLsReadReturn fid s
  | .tensorCompletion fid => Sys2Proof.Machine.execTensorCompletion fid s
  | .faultHandlerEntry t => Sys2Proof.Machine.execFaultHandlerEntry t s
  | .mutualWait => Sys2Proof.Machine.execMutualWait s
  | .spoolFillArrival line err data => Sys2Proof.Machine.execSpoolFillArrival line err data s
  | .boundaryAccess => Sys2Proof.Machine.execBoundaryAccess s
  | .scrubRead stack => Sys2Proof.Machine.execScrubRead stack s
  | .scrubWriteBack stack => Sys2Proof.Machine.execScrubWriteBack stack s
  | .forcedScrubSlot due => Sys2Proof.Machine.execForcedScrubSlot due s
  | .bindingRelease t h => Sys2Proof.Machine.execBindingRelease t h s
  | .handleDrainComplete h => Sys2Proof.Machine.execHandleDrainComplete h s
  | .msgRetry fid row => Sys2Proof.Machine.execMsgRetry fid row s
  | .putReq port b => Sys2Proof.Machine.execPutReq port b s
  | .takeReq port b => Sys2Proof.Machine.execTakeReq port b s
  | .peekReq port b => Sys2Proof.Machine.execPeekReq port b s
  | .fetchReq port b => Sys2Proof.Machine.execFetchReq port b s
  | .dataRsp port b => Sys2Proof.Machine.execDataRsp port b s
  | .statusRsp port b => Sys2Proof.Machine.execStatusRsp port b s
  | .link port ack seq => Sys2Proof.Machine.execLink port ack seq s
  | .linkNoAnswerResend port seq => Sys2Proof.Machine.execLinkNoAnswerResend port seq s
  | .fabricCreditReturn port => Sys2Proof.Machine.execFabricCreditReturn port s
  | .fabRspTimeout port txn => Sys2Proof.Machine.execFabRspTimeout port txn s
  | .reservoirReadResponse id err data => Sys2Proof.Machine.execReservoirReadResponse id err data s
  | .reservoirWriteAck id err => Sys2Proof.Machine.execReservoirWriteAck id err s
  | .start => Sys2Proof.Machine.execStart s
  | .pause => Sys2Proof.Machine.execPause s
  | .pauseComplete => Sys2Proof.Machine.execPauseComplete s
  | .resume => Sys2Proof.Machine.execResume s
  | .refire => Sys2Proof.Machine.execRefire s
  | .refireComplete o => Sys2Proof.Machine.execRefireComplete o s
  | .maintEnter => Sys2Proof.Machine.execMaintEnter s
  | .maintExit => Sys2Proof.Machine.execMaintExit s
  | .mouldLoad => Sys2Proof.Machine.execMouldLoad s
  | .mouldLoadComplete readErr stream linkUp => Sys2Proof.Machine.execMouldLoadComplete readErr stream linkUp s
  | .lcSet => Sys2Proof.Machine.execLcSet s
  | .replay => Sys2Proof.Machine.execReplay s
  | .setStep => Sys2Proof.Machine.execSetStep s
  | .switchBoundary => Sys2Proof.Machine.execSwitchBoundary s
  | .synthLockFail => Sys2Proof.Machine.execSynthLockFail s
  | .retain => Sys2Proof.Machine.execRetain s
  | .wake => Sys2Proof.Machine.execWake s
  | .sessResume => Sys2Proof.Machine.execSessResume s
  | .sessPark => Sys2Proof.Machine.execSessPark s
  | .hpin => Sys2Proof.Machine.execHpin s
  | .hunpin => Sys2Proof.Machine.execHunpin s
  | .hfree => Sys2Proof.Machine.execHfree s
  | .hevict => Sys2Proof.Machine.execHevict s
  | .linkRetrain => Sys2Proof.Machine.execLinkRetrain s
  | .retrainAck port => Sys2Proof.Machine.execRetrainAck port s
  | .retrainTimeout port => Sys2Proof.Machine.execRetrainTimeout port s
  | .version => Sys2Proof.Machine.execVersion s
  | .telemetry => Sys2Proof.Machine.execTelemetry s
  | .wearRead => Sys2Proof.Machine.execWearRead s
  | .wearWrite => Sys2Proof.Machine.execWearWrite s
  | .updateVerify => Sys2Proof.Machine.execUpdateVerify s
  | .updateActivate => Sys2Proof.Machine.execUpdateActivate s
  | .monToken => Sys2Proof.Machine.execMonToken s
  | .monLock => Sys2Proof.Machine.execMonLock s
  | .lcChallenge => Sys2Proof.Machine.execLcChallenge s
  | .lcAuthorize => Sys2Proof.Machine.execLcAuthorize s
  | .uartCfg => Sys2Proof.Machine.execUartCfg s
  | .mailboxOperationEnd img => Sys2Proof.Machine.execMailboxOperationEnd img s
  | .help => Sys2Proof.Machine.execHelp s
  | .id => Sys2Proof.Machine.execId s
  | .state => Sys2Proof.Machine.execState s
  | .temp => Sys2Proof.Machine.execTemp s
  | .power => Sys2Proof.Machine.execPower s
  | .cones => Sys2Proof.Machine.execCones s
  | .steps => Sys2Proof.Machine.execSteps s
  | .log n => Sys2Proof.Machine.execLog n s
  | .cnt address => Sys2Proof.Machine.execCnt address s
  | .unlock token => Sys2Proof.Machine.execUnlock token s
  | .lock => Sys2Proof.Machine.execLock s
  | .sessRead => Sys2Proof.Machine.execSessRead s
  | .sessWrite => Sys2Proof.Machine.execSessWrite s
  | .sessCreditAdd data => Sys2Proof.Machine.execSessCreditAdd data s
  | .handleEntryWrite address data => Sys2Proof.Machine.execHandleEntryWrite address data s
  | .pstageWrite address data => Sys2Proof.Machine.execPstageWrite address data s
  | .evtCauseClear data => Sys2Proof.Machine.execEvtCauseClear data s
  | .evtLogSel data => Sys2Proof.Machine.execEvtLogSel data s
  | .evtLogRdptr data => Sys2Proof.Machine.execEvtLogRdptr data s
  | .coneMinRead => Sys2Proof.Machine.execConeMinRead s
  | .wideRegisterLowerRead address => Sys2Proof.Machine.execWideRegisterLowerRead address s
  | .csrWrite address data => Sys2Proof.Machine.execCsrWrite address data s
  | .bisqueStart o => Sys2Proof.Machine.execBisqueStart o s
  | .windowStrobe credit => Sys2Proof.Machine.execWindowStrobe credit s
  | .updateBoundary => Sys2Proof.Machine.execUpdateBoundary s
  | .ballastMissed => Sys2Proof.Machine.execBallastMissed s
  | .drogueLevelRise codes => Sys2Proof.Machine.execDrogueLevelRise codes s
  | .drogueLevelFall codes => Sys2Proof.Machine.execDrogueLevelFall codes s
  | .marginLow cone => Sys2Proof.Machine.execMarginLow cone s
  | .crossingOccupancyCheck src dst occ => Sys2Proof.Machine.execCrossingOccupancyCheck src dst occ s
  | .safeEntry => Sys2Proof.Machine.execSafeEntry s
  | .bridleTick x => Sys2Proof.Machine.execBridleTick x s
  | .coneCalibration offsets => Sys2Proof.Machine.execConeCalibration offsets s
  | .wearEvaluation => Sys2Proof.Machine.execWearEvaluation s
  | .watchdogExpiry => Sys2Proof.Machine.execWatchdogExpiry s
  | .imageSelfCheckTimeout slot late image0 image1 => Sys2Proof.Machine.execImageSelfCheckTimeout slot late image0 image1 s
  | .eventLogEntry => Sys2Proof.Machine.execEventLogEntry s
  | .uartCommandLine samples => Sys2Proof.Machine.execUartCommandLine samples s
  | .linkCrcFailure port kind seq => Sys2Proof.Machine.execLinkCrcFailure port kind seq s
  | .imageSelfCheckPass slot image0 image1 => Sys2Proof.Machine.execImageSelfCheckPass slot image0 image1 s
  | .configurationSweep => Sys2Proof.Machine.execConfigurationSweep s
  | .porNLow => Sys2Proof.Machine.execPorNLow s
  | .rstNAssert => Sys2Proof.Machine.execRstNAssert s
  | .trstN => Sys2Proof.Machine.execTrstN s
  | .bypass => Sys2Proof.Machine.execBypass s
  | .idcode => Sys2Proof.Machine.execIdcode s
  | .samplePreload => Sys2Proof.Machine.execSamplePreload s
  | .extest => Sys2Proof.Machine.execExtest s
  | .clamp => Sys2Proof.Machine.execClamp s

end Sys2Proof.Machine
end

