-- ==== Sys2Proof/Machine/Step.lean ====
section
/-! DEFINITION. One step of the cluster: the command at the front of the queue, or a tick of CLK on an empty
queue. -/

namespace Sys2Proof.Machine

/-- Take the command at the front of the queue and perform it with the queue's rest (the row's cut). -/
def step (s : State) : Host.Outcome State Fault Refusal :=
  match s.pending with
  | [] => .next (tick s)
  | c :: cs => exec c { s with pending := cs }

/-- The same state with the command that a table word spells at the front of the queue; the table gives no
row any bits, so no word spells one. -/
def State.withFetchWord (s : State) (nbits w : Nat) : State :=
  match decodeTableWord nbits w with
  | some c => { s with pending := c :: s.pending }
  | none => s

end Sys2Proof.Machine
end

