-- ==== Sys2Proof/Machine/Signals.lean ====
section
/-! DEFINITION. The output signals of the cluster (R372, R376, R377, R380 to R389, Tables 19.2 to 19.5): their levels
in a state, their reset values, what the transmit channels have carried, and the boundary-scan register. -/

namespace Sys2Proof.Machine

/-- Outputs of a fabric port (Table 19.3). -/
structure FabPins where
  txValid : Bool
  txSou : Bool
  txFlit : BitVec 256
  rxCrd : Bool
  retrain : Bool
  deriving DecidableEq, Repr

/-- The outputs (Tables 19.2 to 19.5), the test pins apart. -/
structure Pins where
  csrReqReady : Bool
  csrRspValid : Bool
  csrRspStatus : BitVec 3
  csrRspRdata : BitVec 32
  evtIrq : Bool
  n : FabPins
  e : FabPins
  s : FabPins
  w : FabPins
  resRdValid : Bool
  resRdAddr : BitVec 41
  resRdLen : Bool
  resRdId : BitVec 6
  resWrValid : Bool
  resWrFirst : Bool
  resWrAddr : BitVec 39
  resWrId : BitVec 6
  resWrData : BitVec 512
  vidReq : BitVec 8
  uartTx : Bool
  deriving DecidableEq, Repr

/-- The reset values of a fabric port's outputs. -/
def FabPins.reset : FabPins where
  txValid := false
  txSou := false
  txFlit := 0
  rxCrd := false
  retrain := false

/-- The reset values of the outputs. -/
def Pins.reset : Pins where
  csrReqReady := false
  csrRspValid := false
  csrRspStatus := 0
  csrRspRdata := 0
  evtIrq := false
  n := FabPins.reset
  e := FabPins.reset
  s := FabPins.reset
  w := FabPins.reset
  resRdValid := false
  resRdAddr := 0
  resRdLen := false
  resRdId := 0
  resWrValid := false
  resWrFirst := false
  resWrAddr := 0
  resWrId := 0
  resWrData := 0
  vidReq := 0x40
  uartTx := true

/-- por_n or rst_n is low. -/
def inReset (s : State) : Bool := !(s.run.porN && s.run.rstN)

/-- Code of a CSR response status (Table 19.7). -/
def csrStatusCode : CsrStatus → BitVec 3
  | .ok => 0
  | .errAddr => 1
  | .errState => 2
  | .errRights => 3
  | .errAbsent => 4

/-- The response that the CSR port presents: the oldest that the host has not taken (R376), or the last one. -/
def oldestResponse (s : State) : CsrStatus × Word32 := s.csr.waiting.headD (s.csr.status, s.csr.rdata)

/-- Outputs of a fabric port between two units: the request for a link reset stands, no flit and no credit is under
way. A port that the Mould stream disables holds its reset values (R372). -/
def fabPins (s : State) (p : BitVec 2) : FabPins :=
  if portEnabled s p then { FabPins.reset with retrain := (getPort s p).retrain } else FabPins.reset

/-- The outputs as the cluster drives them: their reset values while por_n or rst_n is low (R372). csr_req_ready is
low while four requests are outstanding (R376). -/
def corePins (s : State) : Pins :=
  if inReset s then Pins.reset
  else
    { Pins.reset with
      csrReqReady := decide (s.csr.waiting.length < 4)
      csrRspValid := !s.csr.waiting.isEmpty
      csrRspStatus := csrStatusCode (oldestResponse s).1
      csrRspRdata := (oldestResponse s).2
      evtIrq := evtIrq s
      n := fabPins s 0
      e := fabPins s 1
      s := fabPins s 2
      w := fabPins s 3
      vidReq := s.ballast.vid }

/-! What the transmit channels have carried. -/

/-- One flit on fab_X_tx: its start-of-unit mark and its bytes, byte 0 first (R381, R286). -/
structure FabBeat where
  sou : Bool
  flit : Bytes
  deriving DecidableEq, Repr

/-- The flits of a unit: the first is marked. -/
def unitBeats (u : TxUnit) : List FabBeat :=
  ((unitFlits u).zipIdx).map (fun x => { sou := x.2 == 0, flit := x.1 })

/-- The flits that a port has sent, earliest first. -/
def sentBeats (q : Port) : List FabBeat := q.tx.reverse.flatMap unitBeats

/-- A read request on the reservoir port (Table 19.4). -/
structure ReadBeat where
  addr : BitVec 41
  len : Bool
  id : BitVec 6
  deriving DecidableEq, Repr

/-- A read is of 128 bytes for a Spool line and of 512 bytes for anything else (R384). -/
def longRead : ResUse → Bool
  | .fill _ => false
  | _ => true

/-- The request of a read that has its identifier. -/
def readBeat (r : ResReq) : Option ReadBeat :=
  r.id.map (fun i => { addr := (r.address >>> 7).setWidth 41, len := longRead r.use, id := i })

/-- A beat of a reservoir write (Table 19.4). -/
structure WriteBeat where
  first : Bool
  addr : BitVec 39
  id : BitVec 6
  data : Bytes
  deriving DecidableEq, Repr

/-- The eight beats of a write that has its identifier (R385). -/
def writeBeats (r : ResReq) : List WriteBeat :=
  match r.id with
  | none => []
  | some i =>
    ((chunks 64 8 (fitBytes 512 r.data)).zipIdx).map (fun x =>
      { first := x.2 == 0, addr := (r.address >>> 9).setWidth 39, id := i, data := x.1 })

/-- The levels that uart_tx has carried, one for each bit; it idles high between characters (R369, R389). -/
def uartSent (s : State) : List Bool := uartWave (s.mon.out.reverse.flatMap replyBytes)

/-! The test port (R388). -/

/-- tdo_en. -/
def tdoEn (s : State) : Bool := tdoEnabled s.tap.state

/-- The signals of the boundary-scan register with their widths: every one of Tables 19.2 to 19.5 but the test pins and
the clocks. PRESUMED (the order of the tables), log entry 7. -/
def scanCells : List (String × Nat) :=
  [("csr_req_valid", 1), ("csr_req_ready", 1), ("csr_req_write", 1), ("csr_req_addr", 16), ("csr_req_wdata", 32),
   ("csr_rsp_valid", 1), ("csr_rsp_ready", 1), ("csr_rsp_status", 3), ("csr_rsp_rdata", 32), ("evt_irq", 1)] ++
  (["n", "e", "s", "w"].flatMap (fun x =>
    [("fab_" ++ x ++ "_tx_valid", 1), ("fab_" ++ x ++ "_tx_sou", 1), ("fab_" ++ x ++ "_tx_flit", 256),
     ("fab_" ++ x ++ "_tx_crd", 1), ("fab_" ++ x ++ "_rx_valid", 1), ("fab_" ++ x ++ "_rx_sou", 1),
     ("fab_" ++ x ++ "_rx_flit", 256), ("fab_" ++ x ++ "_rx_crd", 1), ("fab_" ++ x ++ "_retrain", 1),
     ("fab_" ++ x ++ "_retrain_ack", 1)])) ++
  [("res_rd_valid", 1), ("res_rd_ready", 1), ("res_rd_addr", 41), ("res_rd_len", 1), ("res_rd_id", 6),
   ("res_rdr_valid", 1), ("res_rdr_id", 6), ("res_rdr_data", 512), ("res_rdr_last", 1), ("res_rdr_err", 1),
   ("res_wr_valid", 1), ("res_wr_ready", 1), ("res_wr_first", 1), ("res_wr_addr", 39), ("res_wr_id", 6),
   ("res_wr_data", 512), ("res_wack_valid", 1), ("res_wack_id", 6), ("res_wack_err", 1)] ++
  [("pw_credit", 16), ("pw_strobe", 1), ("vid_req", 8), ("cur_core", 12), ("cur_sram", 12), ("uart_rx", 1),
   ("uart_tx", 1)]

/-- The place of a signal's first cell. -/
def cellPlace (name : String) : Nat := ((scanCells.takeWhile (fun x => x.1 != name)).map (fun x => x.2)).sum

/-- What the cells of a signal hold. -/
def cellBits (cells : List Bool) (name : String) (w : Nat) : BitVec w :=
  let at_ := cellPlace name
  BitVec.ofNat w (((List.range w).map (fun k => if cells.getD (at_ + k) false then 2 ^ k else 0)).sum)

/-- What the cell of a signal of one bit holds. -/
def cellBit (cells : List Bool) (name : String) : Bool := cellBits cells name 1 == 1

/-- The outputs of a fabric port from its cells. -/
def fabCells (cells : List Bool) (x : String) : FabPins where
  txValid := cellBit cells ("fab_" ++ x ++ "_tx_valid")
  txSou := cellBit cells ("fab_" ++ x ++ "_tx_sou")
  txFlit := cellBits cells ("fab_" ++ x ++ "_tx_flit") 256
  rxCrd := cellBit cells ("fab_" ++ x ++ "_rx_crd")
  retrain := cellBit cells ("fab_" ++ x ++ "_retrain")

/-- The outputs as the boundary-scan register drives them. -/
def cellPins (cells : List Bool) : Pins where
  csrReqReady := cellBit cells "csr_req_ready"
  csrRspValid := cellBit cells "csr_rsp_valid"
  csrRspStatus := cellBits cells "csr_rsp_status" 3
  csrRspRdata := cellBits cells "csr_rsp_rdata" 32
  evtIrq := cellBit cells "evt_irq"
  n := fabCells cells "n"
  e := fabCells cells "e"
  s := fabCells cells "s"
  w := fabCells cells "w"
  resRdValid := cellBit cells "res_rd_valid"
  resRdAddr := cellBits cells "res_rd_addr" 41
  resRdLen := cellBit cells "res_rd_len"
  resRdId := cellBits cells "res_rd_id" 6
  resWrValid := cellBit cells "res_wr_valid"
  resWrFirst := cellBit cells "res_wr_first"
  resWrAddr := cellBits cells "res_wr_addr" 39
  resWrId := cellBits cells "res_wr_id" 6
  resWrData := cellBits cells "res_wr_data" 512
  vidReq := cellBits cells "vid_req" 8
  uartTx := cellBit cells "uart_tx"

/-- The outputs at the pins: EXTEST and CLAMP put the cells of the boundary-scan register on them (R388). -/
def pins (s : State) : Pins := if tapDrives s then cellPins s.tap.cells else corePins s

end Sys2Proof.Machine
end

