-- ==== Sys2Proof/Machine/Words.lean ====
section
/-! DEFINITION. The issue of instruction words: what the words at a thread's PC amount to, those that no instruction
has among them (R23, R77, R410 to R412, R418). -/

namespace Sys2Proof.Machine

/-- A thread meets three consecutive words at its PC. They are an instruction, or fault with ILLEGAL_OP at their
address: a reserved opcode, an extension word, a set RES0 bit, an immediate out of range (R411, R412, R418). -/
def issueWords (t : Thread) (w0 w1 w2 : Word64) (s : State) : Out :=
  match decodeWords t w0 w1 w2 with
  | some i => exec i s
  | none => .next (issue t (wordCount (wordBits w0 0 8)) (fun _ => illegal) s)

/-- The word of the Spool at an address, of a resident line (R9, R77). -/
def spoolWord (s : State) (a : BitVec 48) : Option Word64 :=
  (s.spool.lines.find? (fun l => l.tag == spoolLineOf a)).map (fun l =>
    BitVec.ofNat 64 (leNat ((l.data.drop (a.toNat % 128)).take 8)))

/-- The words at a thread's PC; zeros for those that are not resident. -/
def spoolWords (t : Thread) (s : State) : List Word64 :=
  let pc := (getThread t (settle t s)).pc
  (List.range 3).map (fun k => (spoolWord s (pc + BitVec.ofNat 48 (8 * k))).getD 0)

/-- The words of the instruction at a thread's PC are in the Spool. -/
def wordsThere (t : Thread) (s : State) : Bool :=
  let pc := (getThread t (settle t s)).pc
  match spoolWord s pc with
  | none => false
  | some w =>
    (List.range (wordCount (wordBits w 0 8))).all (fun k => (spoolWord s (pc + BitVec.ofNat 48 (8 * k))).isSome)

/-- A thread issues what the Spool holds at its PC; a line that is missing is filled (R77). -/
def issueNext (t : Thread) (s : State) : Out :=
  match spoolWords t s with
  | [w0, w1, w2] =>
    if wordsThere t s then issueWords t w0 w1 w2 s
    else .next (issue t (if (spoolWord s (getThread t (settle t s)).pc).isSome then wordCount (wordBits w0 0 8) else 1)
      (fun _ => illegal) s)
  | _ => .next s

end Sys2Proof.Machine
end

