-- ==== Sys2Proof/Safety.lean ====
section
/-! DEFINITION. What counts as a safe run, and the words in which the statements speak of the machine: when a
thread can issue, what a frame leaves alone, and the invariants that every step keeps. -/

namespace Sys2Proof

/-- A step that answers a next state. -/
def stepsSafely (s : Machine.State) : Prop := ∃ t, Machine.step s = .next t

namespace Claims

open Machine

/-- Thread `t` may issue once the lull and the tag tests before it have passed, and the `n` words of its instruction are in
the Spool (R12, R64, R66, R77). -/
def ready (t : Thread) (n : Nat) (s : State) : Prop :=
  mayIssue t (settle t s) = true ∧ (fetch t n (settle t s)).2 = true

/-- The state once the `n` words have been fetched: the lull is over, the Spool's order of use and its corrected words are
noted (R12, R77, R79). -/
def fetched (t : Thread) (n : Nat) (s : State) : State := (fetch t n (settle t s)).1

/-- The state that an instruction of `n` words sees: a reissued one sees the registers and bindings of its first issue
(R87). -/
def seen (t : Thread) (n : Nat) (s : State) : State := firstView t (fetched t n s)

/-- The instruction has had the effect `s'` on the state it saw, and issue goes on with the next word. -/
def goesOn (t : Thread) (n : Nat) (s s' : State) : Out := .next (advance t n (liveView t (fetched t n s) s'))

/-- The instruction has had the effect `s'` on the state it saw, and issue goes on at an address. -/
def goesTo (t : Thread) (n : Nat) (a : BitVec 48) (s s' : State) : Out :=
  .next (jumpTo t a (liveView t (fetched t n s) s'))

/-- The instruction raises an issue fault (R81). -/
def faults (t : Thread) (n : Nat) (fc : BitVec 8) (fval : Word64) (s : State) : Out :=
  .next (issueFault t fc fval (fetched t n s))

/-- The instruction does not issue yet (R11). -/
def waits (t : Thread) (n : Nat) (w : Wait) (s : State) : Out := .next (setWait t w (fetched t n s))

/-- No s-register of the list waits for an instruction in flight (R64). -/
def free (t : Thread) (rs : List Reg) (s : State) : Prop := regsHeld t rs s = false

/-- The outcome of a one-word instruction whose only result is the value `v` of register `rd`. -/
def writes (t : Thread) (rd : Reg) (v : Word64) (s : State) : Out := goesOn t 1 s (setSreg t rd v (seen t 1 s))

/-- A change of no more than one thread, the Spool with its reservoir requests and upsets, and the counters. -/
def onlyThreadAndSpool (t : Thread) (s s' : State) : Prop :=
  { setThread t (getThread t s) s' with
    spool := s.spool, res := s.res, counters := s.counters
    upsets := { s'.upsets with spoolSingle := s.upsets.spoolSingle, spoolDouble := s.upsets.spoolDouble } } = s

/-- A change of no more than what the passing of lull cycles and tag tests moves: CYCLE, the clock's counts, the tags and their
upsets, the counters, the tests of the instructions in flight, and when the threads may issue (R12, R107, R109, R112). -/
def onlyTime (s s' : State) : Prop :=
  { s' with
    cycle := s.cycle, clk := s.clk, counters := s.counters, flights := s.flights
    ls := { s'.ls with tags := s.ls.tags }, upsets := { s'.upsets with tags := s.upsets.tags }
    ta := { s'.ta with nextIssue := s.ta.nextIssue }, tx := { s'.tx with nextIssue := s.tx.nextIssue } } = s

/-- The instructions that compute one register or the PC and touch nothing else, with their thread and register; s0 for
those that write no register. -/
def scalarDest : Instr → Option (Thread × Reg)
  | .nop t | .jmp t _ | .jr t _ => some (t, 0)
  | .beq t _ _ _ | .bne t _ _ _ | .blt t _ _ _ | .bge t _ _ _ | .bltu t _ _ _ | .bgeu t _ _ _ => some (t, 0)
  | .add t rd _ _ | .sub t rd _ _ | .and t rd _ _ | .or t rd _ _ | .xor t rd _ _ => some (t, rd)
  | .shl t rd _ _ | .shr t rd _ _ | .sra t rd _ _ | .mul t rd _ _ | .mulh t rd _ _ | .mulhu t rd _ _ => some (t, rd)
  | .divs t rd _ _ | .divu t rd _ _ | .rems t rd _ _ | .remu t rd _ _ => some (t, rd)
  | .addi t rd _ _ | .andi t rd _ _ | .ori t rd _ _ | .xori t rd _ _ => some (t, rd)
  | .shli t rd _ _ | .shri t rd _ _ | .srai t rd _ _ | .li t rd _ | .lih t rd _ | .jal t rd _ => some (t, rd)
  | .cmpEq t rd _ _ | .cmpNe t rd _ _ | .cmpLt t rd _ _ | .cmpLtu t rd _ _ => some (t, rd)
  | .cmpGe t rd _ _ | .cmpGeu t rd _ _ => some (t, rd)
  | .fadd t rd _ _ _ | .fsub t rd _ _ _ | .fmul t rd _ _ _ | .fma t rd _ _ _ _ | .fdiv t rd _ _ _ => some (t, rd)
  | .fsqrt t rd _ _ | .fmin t rd _ _ _ | .fmax t rd _ _ _ => some (t, rd)
  | .fcmpEq t rd _ _ | .fcmpLt t rd _ _ | .fcmpLe t rd _ _ | .fcmpUn t rd _ _ => some (t, rd)
  | .fcvtDL t rd _ _ | .fcvtLD t rd _ _ | .fcvtDW t rd _ | .fcvtWD t rd _ _ => some (t, rd)
  | .pmov t rd _ | .qdepth t rd _ | .budget t rd | .srd t rd _ | .srread t rd => some (t, rd)
  | .nstatRd t rd _ | .amaxRd t rd _ | .coilIdx t rd _ => some (t, rd)
  | _ => none

/-- The state after an instruction has entered flight with `launch`: its first tag tests are made, and its accesses begin if they
and all others have passed (R66, R109). -/
def launched (f : Flight) (start : Flight → State → State) (s : State) : State :=
  match launch f start s with
  | .go s' => s'
  | _ => s

/-! What the checks of the execute stream ask of the state and the operands (R23, R64, R67, R120, R126, R145, R229 to R238), in
the state that the instruction sees. -/

/-- MX.MM finds its operands legal, present, full, of accepted formats and shapes, and its sets, queues and engine free. `ra` and
`rw` are the shapes that a TDC-3 form carries. -/
def mmReady (ra rw : Option Carried) (a : MxMmArgs) (s : State) : Prop :=
  let d := sreg .tx a.mxd s
  let p := mmPlan s ra rw a d
  let oa := opdOf s ra a.a a.fmta
  let ow := opdOf s rw a.w a.fmtw
  let legal (f : Fmt) : Bool := if a.raw then rawFmt f else mxeFmt f
  let ahead := stationaryAhead s a.half
  let double := isFour oa.fmt && isFour (codeFmt ahead.2.1) && ahead.1 == 2
  slotsLegal [a.a, a.w] = .ok () ∧ codesLegal [a.fmta, a.fmtw] = .ok () ∧ enginePresent 0 s = .ok () ∧
  slotIsOpd a.a = true ∧ (slotVal a.w = .stat ∨ slotIsOpd a.w = true) ∧ free .tx [a.mxd] s ∧
  tilesReady (opdMask oa ||| opdMask ow) 0 s = .ok () ∧ halfOk s a.half = true ∧ setsOk s a.half a.acc p.chunks = true ∧
  d.toNat < 2 ^ 31 ∧ (1 ≤ p.m ∧ p.m ≤ 256) ∧ (1 ≤ p.k ∧ p.k ≤ 8192) ∧ nLimit s a.half p.n = true ∧
  (a.accum = true → accsReady (chunkMask p.chunks) s = .ok ()) ∧
  queuesOk .tx (mmSources p) [] s = .ok () ∧ queuesReady (mmSources p) [] s = .ok () ∧
  engineReady .tx (mxEngine a.half) s = .ok () ∧ sourcesFull [oa, ow] s = .ok () ∧
  badTypes s a.accum a.raw (chunkMask p.chunks) = none ∧ badFormat legal oa = none ∧
  (slotVal a.w = .stat → a.raw = false ∨ rawFmt (codeFmt ahead.2.1) = true ∨ ahead.2.2 = true) ∧
  (slotVal a.w ≠ .stat → badFormat legal ow = none) ∧ sourceBad oa (mmAElems p) = [] ∧
  (slotVal a.w = .stat → p.k ≤ (if double then 64 else 32) ∧ p.n ≤ mxWidth s a.half) ∧
  (slotVal a.w ≠ .stat → sourceBad ow p.wElems = []) ∧
  (a.raw = false → ∃ xs, handlesOk .tx (opdExpUses oa 0 (mmAElems p) ++ opdExpUses ow 0 p.wElems) s = .ok xs)

/-- An MX.MM, native or TDC-3, in flight: it reads its tiles, writes the sets of its chunks, and reads the expansion rows of its
sources. -/
def mmIssued (i : Instr) (ra rw : Option Carried) (a : MxMmArgs) (s : State) : State :=
  let d := sreg .tx a.mxd s
  let p := mmPlan s ra rw a d
  let oa := opdOf s ra a.a a.fmta
  let ow := opdOf s rw a.w a.fmtw
  let rows := if a.raw then [] else opdExpRows s oa 0 (mmAElems p) ++ opdExpRows s ow 0 p.wElems
  launched { newFlight .tx i (mxEngine a.half) s with
    tileOp := true, rdTiles := opdMask oa ||| opdMask ow, wrAcc := chunkMask p.chunks, opv := [d]
    acts := expansionPlan rows, mxRun := some (mmRun p (codeFmt (stationaryAhead s a.half).2.1))
    stat := if slotVal a.w = .stat then none
      else some (leftBlocks (isFour oa.fmt && isFour ow.fmt) p.k, fmtCode ow.fmt) }
    (startMm p a.half a.accum) (reserveQueues s.nextId (mmSources p) [] s)

/-- MV.GEMV finds its vectors, destinations, weights and engine in order; `xs` translates the weight handle. -/
def gemvReady (c : Option MvCarried) (a : MvGemvArgs) (xs : List Xlate) (s : State) : Prop :=
  let d := sreg .tx a.mvd s
  let p := mvPlan s c a d
  let r0 := (sreg .tx a.rs s).toNat
  let n := mvRows p.fmt p.k p.n
  slotsLegal [a.va, a.vb, a.d, a.d2] = .ok () ∧ codesLegal [a.fmtw] = .ok () ∧ convLegal a.conv = .ok () ∧
  enginePresent 1 s = .ok () ∧ slotIsTiles a.va = true ∧ slotIsOptTiles a.vb = true ∧ slotIsOpd a.d = true ∧
  slotIsOptTiles a.d2 = true ∧ d2Ok p = true ∧ free .tx [a.rs, a.mvd] s ∧
  tilesReady (opdMask p.va ||| opdMask (p.vb.getD Opd.none)) (opdMask p.d ||| opdMask (p.d2.getD Opd.none)) s = .ok () ∧
  portOk a.port s = true ∧ portOk a.port2 s = true ∧ a.port ≠ a.port2 ∧ a.conv.amx.toNat < 8 ∧ r0 < 98304 ∧
  mvAligned p.fmt r0 = true ∧ d.toNat < 2 ^ 28 ∧ (1 ≤ p.k ∧ p.k ≤ 8192) ∧ (1 ≤ p.n ∧ p.n ≤ 8192) ∧
  mvRecordsOk s a.h p.fmt r0 n = true ∧ queuesOk .tx [] (mvDests p) s = .ok () ∧
  queuesReady [] (mvDests p) s = .ok () ∧ engineReady .tx .mvp s = .ok () ∧ sourcesFull (mvVectors p) s = .ok () ∧
  mvWeightFmt p.fmt = true ∧ (∀ o ∈ mvVectors p, badFormat mvVectorFmt o = none ∧ sourceBad o p.k = []) ∧
  mvDestFmt p.dfmt = true ∧ shapeBad p.d p.dfmt p.n = [] ∧ (∀ o ∈ p.d2, shapeBad o p.dfmt p.n = []) ∧
  handlesOk .tx ({ h := a.h, epoch := none, needs := [.rd], rels := strided r0 n 1 } ::
    handleExpUses s a.h p.fmt (mvRowElems p.fmt r0 n)) s = .ok xs

/-- An MV.GEMV, native or TDC-3, in flight: it reads its vectors, writes its destinations, and reads its weight rows. -/
def gemvIssued (i : Instr) (c : Option MvCarried) (a : MvGemvArgs) (xs : List Xlate) (s : State) : State :=
  let d := sreg .tx a.mvd s
  let p := mvPlan s c a d
  let r0 := (sreg .tx a.rs s).toNat
  let f := { newFlight .tx i .mvp s with
    tileOp := true, rdTiles := opdMask p.va ||| opdMask (p.vb.getD Opd.none)
    wrTiles := opdMask p.d ||| opdMask (p.d2.getD Opd.none), xl := xs.take 1, sr := convSr a.conv
    opv := [sreg .tx a.rs s, d, expansionWord s a.h] }
  launched { f with
    tests := testsFor (xlate f 0) (readKind a.clear) (strided r0 (mvRows p.fmt p.k p.n) 1)
    acts := mvAccesses s (xlate f 0) a p r0 } (startGemv c a) (reserveQueues s.nextId [] (mvDests p) s)

/-- The inputs, destination, queues, tiles and engine of a VXE instruction are in order: `ins` its inputs with `n` elements each,
`more` a further tile source, `dst` its destination in format `df`. -/
def vxReady (group : Bool) (ins : List (Option VxIn)) (n : Nat) (more : Opd) (dst : List (Opd × Nat)) (df : Fmt) (s : State) :
    Prop :=
  groupOk s group = true ∧
  tilesReady (vxReads ins ||| opdMask more) (opdMask ((dst.map (fun p => p.1)).headD Opd.none)) s = .ok () ∧
  queuesOk .tx (vxSources ins n) dst s = .ok () ∧ queuesReady (vxSources ins n) dst s = .ok () ∧
  engineReady .tx (.vxe group) s = .ok () ∧ sourcesFull (more :: (ins.filterMap id).map (fun x => x.opd)) s = .ok () ∧
  vxBad ins n = [] ∧ (∀ p ∈ dst, shapeBad p.1 df n = []) ∧ (∃ xs, handlesOk .tx (vxExpUses n ins) s = .ok xs)

/-- An element-wise instruction of `nin` inputs in working format `w` finds its operands and lane group in order. -/
def ewReady (c : Option EwCarried) (a : EwArgs) (nin : Nat) (w : Fmt) (mayAbsent : Bool) (s : State) : Prop :=
  let d := sreg .tx a.vxd s
  let ins := ewInputs s c a nin d
  let n := vxCount d
  inputFits (decide (0 < nin)) mayAbsent a.i0 = true ∧ inputFits (decide (1 < nin)) mayAbsent a.i1 = true ∧
  inputFits (decide (2 < nin)) mayAbsent a.i2 = true ∧ slotIsOpd a.d = true ∧ a.bb.toNat < 29 ∧
  free .tx (a.vxd :: bcastRegs a.bb) s ∧ vxdOk d ins = true ∧
  (a.conv.amx.getLsbD 3 = true → isDirect a.conv (ewDfmt c a) w = true) ∧
  (c = none → vxDestFmt (opdOf s none a.d a.conv.dfmt) (ewDfmt c a) = none) ∧
  vxReady a.group ins n Opd.none [ewDest s c a n] (ewDfmt c a) s

/-- An element-wise instruction in flight. -/
def ewIssued (i : Instr) (c : Option EwCarried) (a : EwArgs) (nin : Nat) (slot : Option (BitVec 3)) (s : State) : State :=
  let d := sreg .tx a.vxd s
  let ins := ewInputs s c a nin d
  let n := vxCount d
  let od := opdOf s (c.map (fun x => x.d)) a.d a.conv.dfmt
  launched { newFlight .tx i (.vxe a.group) s with
    tileOp := vxReads ins != 0 || opdMask od != 0, rdTiles := vxReads ins, wrTiles := opdMask od
    sr := convSr a.conv, slot := slot, opv := d :: (bcastRegs a.bb).map (fun r => sreg .tx r s), acts := vxExpPlan s n ins }
    (startVx a.group n ins []) (reserveQueues s.nextId (vxSources ins n) [ewDest s c a n] s)

/-- VX.RED finds its input, lane group and destination in order. -/
def redReady (r : Option Carried) (a : VxRedArgs) (s : State) : Prop :=
  let d := sreg .tx a.vxd s
  let ins := oneInput s r a.i0 a.f0 d
  let k := a.kqx.toNat % 4
  slotsLegal [a.i0] = .ok () ∧ codesLegal [a.f0] = .ok () ∧ a.op.toNat ≤ 7 ∧ (rndOfCode a.rnd).isSome = true ∧
  enginePresent 2 s = .ok () ∧ inputFits true false a.i0 = true ∧ free .tx [a.vxd, a.sd] s ∧
  preOk s a.pre (redPreFmt a.op) = true ∧ vxdOk d ins = true ∧ vxReady a.group ins (vxCount d) Opd.none [] .fp32 s ∧
  (a.kqx.getLsbD 2 = true → a.sd = 0 ∧ tokenProducer s k = .tx ∧ (tokenEntries s k).length < 32)

/-- A VX.RED, native or TDC-3, in flight: to a register, or to a token queue, where it reserves an entry. -/
def redIssued (i : Instr) (r : Option Carried) (a : VxRedArgs) (s : State) : State :=
  let d := sreg .tx a.vxd s
  let ins := oneInput s r a.i0 a.f0 d
  let n := vxCount d
  let s1 := reserveQueues s.nextId (vxSources ins n) [] s
  launched { newFlight .tx i (.vxe a.group) s with
    tileOp := vxReads ins != 0, rdTiles := vxReads ins, sr := rndOfCode a.rnd == some .sr, slot := preSlot a.pre
    dests := if a.kqx.getLsbD 2 then [] else [a.sd], opv := [d], acts := vxExpPlan s n ins }
    (startVx a.group n ins []) (if a.kqx.getLsbD 2 then reserveToken s.nextId (a.kqx.toNat % 4) s1 else s1)

/-- VX.SCAN (`seg` false) or VX.SEGSCAN finds its input, mask, destination and lane group in order. -/
def scanReady (seg : Bool) (a : VxScanArgs) (s : State) : Prop :=
  let d := sreg .tx a.vxd s
  let ins := oneInput s none a.i0 a.f0 d
  let n := vxCount d
  let df := codeFmt a.conv.dfmt
  slotsLegal (if seg then [a.i0, a.mask, a.d] else [a.i0, a.d]) = .ok () ∧ codesLegal [a.f0] = .ok () ∧
  convLegal a.conv = .ok () ∧ a.op.toNat ≤ 5 ∧ enginePresent 2 s = .ok () ∧ inputFits true false a.i0 = true ∧
  (seg = true → slotIsTiles a.mask = true ∧ (n + 7) / 8 ≤ opdBytes (scanMask s seg a.mask)) ∧ slotIsOpd a.d = true ∧
  free .tx [a.vxd, a.b0, a.tot] s ∧ preOk s a.pre (redPreFmt a.op) = true ∧ a.conv.amx.toNat < 8 ∧ vxdOk d ins = true ∧
  vxDestFmt (opdOf s none a.d a.conv.dfmt) df = none ∧
  vxReady a.group ins n (scanMask s seg a.mask) [convDest s none a.d a.conv n] df s

/-- A scan in flight. -/
def scanIssued (i : Instr) (seg : Bool) (a : VxScanArgs) (s : State) : State :=
  let d := sreg .tx a.vxd s
  let ins := oneInput s none a.i0 a.f0 d
  let n := vxCount d
  let om := scanMask s seg a.mask
  let od := opdOf s none a.d a.conv.dfmt
  let rd := vxReads ins ||| opdMask om
  let segs := byteSegs om ((n + 7) / 8)
  launched { newFlight .tx i (.vxe a.group) s with
    tileOp := rd != 0 || opdMask od != 0, rdTiles := rd, wrTiles := opdMask od, sr := convSr a.conv
    slot := preSlot a.pre, dests := [a.tot], opv := [d, sreg .tx a.b0 s], acts := vxExpPlan s n ins }
    (fun f s => startVx a.group n ins [(om, segs)] f (touchSegs (7 + 3 * (if a.group then 1 else 0)) segs s))
    (reserveQueues s.nextId (vxSources ins n) [convDest s none a.d a.conv n] s)

/-- CVT finds its input, destination and lane group in order. -/
def cvtReady (ri rd : Option Carried) (a : CvtArgs) (s : State) : Prop :=
  let d := sreg .tx a.vxd s
  let ins := oneInput s ri a.i0 a.f0 d
  let n := vxCount d
  let df := (rd.map (fun x => x.fmt)).getD (codeFmt a.conv.dfmt)
  slotsLegal [a.i0, a.d] = .ok () ∧ codesLegal [a.f0] = .ok () ∧ convLegal a.conv = .ok () ∧ enginePresent 2 s = .ok () ∧
  inputFits true false a.i0 = true ∧ slotIsOpd a.d = true ∧ free .tx [a.vxd] s ∧ a.conv.amx.toNat < 8 ∧
  vxdOk d ins = true ∧ (rd = none → vxDestFmt (opdOf s rd a.d a.conv.dfmt) df = none) ∧
  vxReady a.group ins n Opd.none [convDest s rd a.d a.conv n] df s

/-- A CVT, native or TDC-3, in flight. -/
def cvtIssued (i : Instr) (ri rd : Option Carried) (a : CvtArgs) (s : State) : State :=
  let d := sreg .tx a.vxd s
  let ins := oneInput s ri a.i0 a.f0 d
  let n := vxCount d
  let od := opdOf s rd a.d a.conv.dfmt
  launched { newFlight .tx i (.vxe a.group) s with
    tileOp := vxReads ins != 0 || opdMask od != 0, rdTiles := vxReads ins, wrTiles := opdMask od
    sr := convSr a.conv, opv := [d], acts := vxExpPlan s n ins }
    (startVx a.group n ins []) (reserveQueues s.nextId (vxSources ins n) [convDest s rd a.d a.conv n] s)

/-- The parameter rows that a Glaze instruction updates: those of its list, or those its descriptor names. -/
def glazeRows (lazy : Bool) (a : GlzArgs) (s : State) : List Nat :=
  let d := sreg .tx a.gzd s
  let n := field d 0 13
  if lazy then glzItems s ((glzList s lazy a).getD Opd.none) n else (List.range n).map (field d 13 17 + ·)

/-- GLZ.STEP (`lazy` false) or GLZ.ROWS finds its list, gradients, handles, group, channel and ports in order; `xs` translates its
handles. -/
def glazeReady (lazy : Bool) (a : GlzArgs) (xs : List Xlate) (s : State) : Prop :=
  let d := sreg .tx a.gzd s
  let g := getGroup s a.g.toNat
  let n := field d 0 13
  let ol := (glzList s lazy a).getD Opd.none
  let og := glzGrad s a
  let hs (rows : List Nat) := glzHandles s lazy a g rows
  slotsLegal (if lazy then [a.list, a.grad] else [a.grad]) = .ok () ∧ codesLegal [a.pfmt, a.gfmt] = .ok () ∧
  (rndOfCode a.rnd).isSome = true ∧ enginePresent 3 s = .ok () ∧ (lazy = true → slotIsOpd a.list = true) ∧
  slotIsOpd a.grad = true ∧ free .tx [a.gzd, a.t, a.sd] s ∧ tilesReady (opdMask ol ||| opdMask og) 0 s = .ok () ∧
  a.ch ≠ 3 ∧ g.lzy = lazy ∧ (∀ p ∈ hs [], p.1 < 256 ∧ (getHandle s (BitVec.ofNat 8 p.1)).tagged = false) ∧
  portOk a.port s = true ∧ (lazy = true → portOk a.port2 s = true ∧ a.port ≠ a.port2) ∧ gzdOk lazy d = true ∧
  (sreg .tx a.t s).toNat ≤ 0xFFFFFFFD ∧ queuesOk .tx (glzSources s lazy a n) [] s = .ok () ∧
  queuesReady (glzSources s lazy a n) [] s = .ok () ∧ engineReady .tx (.glaze a.ch) s = .ok () ∧
  sourcesFull [ol, og] s = .ok () ∧ glzParamFmt (codeFmt a.pfmt) = true ∧
  (lazy = true → badFormat (fun f => f == .int32) ol = none ∧ sourceBad ol n = []) ∧ badFormat glzGradFmt og = none ∧
  sourceBad og (n * glzPerRow (codeFmt a.pfmt)) = [] ∧
  (∃ ys, handlesOk .tx (glzUses ((hs []).map (fun p => (p.1, [])))) s = .ok ys) ∧
  (lazy = true → glzItemsOk .tx a (glazeRows lazy a s) s = .ok ()) ∧
  handlesOk .tx (glzUses (hs (glazeRows lazy a s))) s = .ok xs

/-- A GLZ.STEP or GLZ.ROWS in flight; a step moves its group on (R246), and a list holds its thread while it is checked (R248). -/
def glazeIssued (i : Instr) (lazy : Bool) (a : GlzArgs) (xs : List Xlate) (s : State) : State :=
  let d := sreg .tx a.gzd s
  let tv := sreg .tx a.t s
  let g := getGroup s a.g.toNat
  let n := field d 0 13
  let st : GlzStatus := if lazy then .ok else glzDecide g.frozen tv.toNat g.step.toNat
  let srcs := glzSources s lazy a n
  let f := { newFlight .tx i (.glaze a.ch) s with
    rdTiles := opdMask ((glzList s lazy a).getD Opd.none) ||| opdMask (glzGrad s a), dests := [a.sd], xl := xs
    sr := rndOfCode a.rnd == some Rnd.sr, opv := glzWords d tv g st (if lazy then glazeRows lazy a s else [])
    glz := some (glzFresh 1) }
  let s1 := holdList lazy .tx n (reserveQueues s.nextId srcs [] s)
  launched { f with acts := glzPlan lazy a g st f (glazeRows lazy a s) } (startGlaze srcs)
    (if lazy then s1 else glzStepGroup a.g.toNat a.adv tv.toNat s1)

/-- The write of this code to CMD_OP is accepted as far as the port, the slot and the run state go (R331, R332, R379). -/
def hostMay (op : Nat) (s : State) : Prop :=
  portOpen s = true ∧ blockOpen s 0x200 = true ∧ s.cmd.status ≠ .busy ∧ commandLegal s op = true

/-- The commands of Table 16.3 with their codes. -/
def hostCode : Instr → Option Nat
  | .start => some 0x01
  | .pause => some 0x02
  | .resume => some 0x03
  | .refire => some 0x04
  | .maintEnter => some 0x05
  | .maintExit => some 0x06
  | .mouldLoad => some 0x07
  | .lcSet => some 0x08
  | .replay => some 0x10
  | .setStep => some 0x11
  | .retain => some 0x12
  | .wake => some 0x13
  | .sessResume => some 0x18
  | .sessPark => some 0x19
  | .hpin => some 0x20
  | .hunpin => some 0x21
  | .hfree => some 0x22
  | .hevict => some 0x23
  | .linkRetrain => some 0x28
  | _ => none

/-- The write of this code to MBX_OP is accepted (R364, R379). -/
def mailboxMay (op : Nat) (s : State) : Prop :=
  portOpen s = true ∧ (mailboxEarly s = false ∨ op = 1 ∨ op = 2) ∧ s.mbx.status ≠ .busy ∧ mbxLegal s op = some true

/-- An access to this address reaches a register (R379, R392). -/
def csrMay (a : Nat) (s : State) : Prop := portOpen s = true ∧ blockOpen s a = true ∧ glazeAbsent s a = false

/-- An event of this code waits in the queue. -/
def queued (code : BitVec 12) (s : State) : Prop := ∃ e ∈ s.evt.queue, e.code = code

/-- Every byte memory is in canonical form, and so are the tags of the local store with the scrubbers' pointers and counts, the
tile configurations, the session table, the mailbox's data buffer and the counters. -/
def memoriesCanonical (s : State) : Prop :=
  Mem.wf s.sdm = true ∧ Mem.wf s.ls.rows = true ∧ Sparse.wf Tag.empty s.ls.tags = true ∧
    Sparse.wf 0 s.ls.ptr = true ∧ Sparse.wf 0 s.ls.starve = true ∧ Sparse.wf 0 s.counters = true ∧
    Mem.wf s.tiles.data = true ∧ Mem.wf s.tiles.side = true ∧ Sparse.wf TileCfg.reset s.tiles.cfg = true ∧
    Sparse.wf Session.reset s.sess.entries = true ∧ Sparse.wf 0 s.mbx.data = true

/-- A thread whose PC holds the address of an instruction word (R54), whose registers are in canonical form and
which has at most four Coil levels open (R71). -/
def threadWellFormed (th : ThreadState) : Prop :=
  th.pc.toNat % 8 = 0 ∧ Sparse.wf 0 th.regs = true ∧ th.coil.length ≤ 4

/-- Both threads are well formed, and the parameter registers are in canonical form. -/
def threadsWellFormed (s : State) : Prop :=
  threadWellFormed s.ta ∧ threadWellFormed s.tx ∧ Sparse.wf 0 s.preg = true

/-- The two halves hold the same copy of the run-control state, and it is the run state's (R22, R334). -/
def halvesAgree (s : State) : Prop := s.run.west = copyOf s.run ∧ s.run.east = copyOf s.run

/-- The run state is `st` under its owner (Table 16.1), with the epoch one higher if the owner changed, in both halves
(R22, R334). -/
def entered (st : RunState) (o : Owner) (s s' : State) : Prop :=
  s'.run.state = st ∧ s'.run.owner = o ∧ s'.run.epoch = (if s.run.owner = o then s.run.epoch else s.run.epoch + 1) ∧
  halvesAgree s'

end Claims

end Sys2Proof
end

