-- ==== Sys2Proof/Certificates/Slice0/Obligations.lean ====
section
/-! DEFINITION. The statements about the TDC-4 cluster. -/

open Sys2Proof Sys2Proof.Machine Sys2Proof.Claims

/-- A step takes the command at the front of the queue and is what that command does with the queue's rest. -/
def Obligations.StepTakesFrontCommand : Prop :=
  ∀ (c : Instr) (cs : List Instr) (s : State),
    step { s with pending := c :: cs } = exec c { s with pending := cs }

/-- On an empty queue a step is one cycle of CLK (the model's choice, log entry 8): none while the port is closed; otherwise
CYCLE counts it (R15), and in a lull (R12) the lull counts down, the Drogue's counts go on, and no thread, instruction
in flight, queue, tile, row or tag of the local store, port or session changes. -/
def Obligations.EmptyQueueTicks : Prop :=
  ∀ s : State, s.pending = [] →
    step s = .next (tick s) ∧ (portOpen s = false → tick s = s) ∧
    (portOpen s = true → (tick s).cycle = s.cycle + 1 ∧ (tick s).pending = [] ∧
      (s.clk.lull ≠ 0 → (tick s).clk.lull = s.clk.lull - 1 ∧ (tick s).ta = s.ta ∧ (tick s).tx = s.tx ∧
        (tick s).flights = s.flights ∧ (tick s).queues = s.queues ∧ (tick s).tiles = s.tiles ∧ (tick s).ls = s.ls ∧
        (tick s).fab = s.fab ∧ (tick s).sess = s.sess))

/-- What reset leaves (R55, R56, R118, R283, R295, Tables 03.1, 05.1, 14.1, 12.1, 13.3, 20.3): BISQUE under the Bridle,
s-registers and parameters zero, LFSR 1, empty E4M3 tiles of 32 rows of 64 bytes, every handle and session FREE, no
valid window, no counter, nothing in flight, no command waiting, and the cluster number of NODE_ID from the fuses, which
are zero in the reference build (the model's choice, as are the values for which the spec gives none: log entries 2 and
4). -/
def Obligations.ResetLeavesInitialState : Prop :=
  State.reset.run.state = .bisque ∧ State.reset.run.owner = .bridle ∧ State.reset.pending = [] ∧
  State.reset.flights = [] ∧
  (∀ (t : Thread) (r : Reg), sreg t r State.reset = 0 ∧ (getThread t State.reset).lfsr = 1 ∧
    (getThread t State.reset).coil = [] ∧ (getThread t State.reset).hvec = 0 ∧ (getThread t State.reset).halted = false) ∧
  (∀ n, readParam State.reset n = 0 ∧ counter State.reset n = 0 ∧ (tileCfg State.reset n).full = false ∧
    tileRows (tileCfg State.reset n) = 32 ∧ tileBytes (tileCfg State.reset n) = 64 ∧
    codeFmt (tileCfg State.reset n).fmt = .e4m3 ∧ (getSess State.reset n).state = .free ∧
    getTag State.reset n = .empty ∧ Mem.read State.reset.sdm n = 0) ∧
  (∀ h, (getHandle State.reset h).state = .free) ∧
  (∀ w, (Sparse.get Window.reset State.reset.fab.windows w).valid = false) ∧
  State.reset.fuses = Fuses.zero ∧ State.reset.fuseBus = Fuses.zero ∧
  State.reset.fab.nodeId = State.reset.fuses.cluster.setWidth 19

/-- Register s0 reads as zero and discards writes, and every other register reads what was written last (R54). -/
def Obligations.RegisterZeroIsHardWired : Prop :=
  ∀ (t u : Thread) (r q : Reg) (v : Word64) (s : State), threadsWellFormed s →
    sreg t 0 s = 0 ∧ setSreg t 0 v s = s ∧
    sreg u q (setSreg t r v s) = if u = t ∧ q = r ∧ r ≠ 0 then v else sreg u q s

/-- The invariants of the next three statements hold at reset. -/
def Obligations.InvariantsHoldAtReset : Prop :=
  memoriesCanonical State.reset ∧ threadsWellFormed State.reset ∧ halvesAgree State.reset

/-- Every step keeps the canonical form of SDM, the rows and tags of the local store with the scrubbers' pointers and
counts, the tile register file with its sidecars and configurations, the session table, the mailbox's data buffer and
the counters. -/
def Obligations.EveryStepKeepsMemoriesCanonical : Prop :=
  ∀ s s' : State, memoriesCanonical s → step s = .next s' → memoriesCanonical s'

/-- Every step keeps both threads well formed: bits [2:0] of the PC zero (R54), registers and parameters in canonical form,
at most four Coil levels open (R71). -/
def Obligations.EveryStepKeepsThreadsWellFormed : Prop :=
  ∀ s s' : State, threadsWellFormed s → step s = .next s' → threadsWellFormed s'

/-- Every step keeps the two halves' copies of the run-control state equal to it (R22, R334). No step changes a design-time
parameter (R4). The fuse bus changes in its life-cycle field only, and the fuses that the cluster has read are those it
held or those that the bus gave (R345, R375). -/
def Obligations.EveryStepKeepsRunControlAndBuild : Prop :=
  (∀ s s' : State, halvesAgree s → step s = .next s' → halvesAgree s') ∧
  (∀ s s' : State, step s = .next s' →
     s'.build = s.build ∧ { s'.fuseBus with lc := s.fuseBus.lc } = s.fuseBus ∧
     (s'.fuses = s.fuses ∨ s'.fuses = s.fuseBus))

/-- The integer instructions on two registers (R62, Table 03.2): results modulo 2^64; shift counts from bits [5:0]; the high
half of the exact product; truncated division; -1 or all ones, and the dividend, for a zero divisor. The comparisons
write 1 or 0 (R62). The instructions with an immediate (R62, R412): it is sign-extended, a shift takes bits [5:0] of it,
and LIH replaces the upper half of its register. -/
def Obligations.IntegerResults : Prop :=
  (∀ (t : Thread) (rd r1 r2 : Reg) (s : State), ready t 1 s → Claims.free t [rd, r1, r2] (seen t 1 s) →
     let a := sreg t r1 (seen t 1 s)
     let b := sreg t r2 (seen t 1 s)
     exec (.add t rd r1 r2) s = writes t rd (BitVec.ofInt 64 (a.toInt + b.toInt)) s ∧
     exec (.sub t rd r1 r2) s = writes t rd (BitVec.ofInt 64 (a.toInt - b.toInt)) s ∧
     exec (.and t rd r1 r2) s = writes t rd (a &&& b) s ∧
     exec (.or t rd r1 r2) s = writes t rd (a ||| b) s ∧
     exec (.xor t rd r1 r2) s = writes t rd (a ^^^ b) s ∧
     exec (.shl t rd r1 r2) s = writes t rd (BitVec.ofNat 64 (a.toNat * 2 ^ (b.toNat % 64))) s ∧
     exec (.shr t rd r1 r2) s = writes t rd (BitVec.ofNat 64 (a.toNat / 2 ^ (b.toNat % 64))) s ∧
     exec (.sra t rd r1 r2) s = writes t rd (BitVec.ofInt 64 (a.toInt / 2 ^ (b.toNat % 64))) s ∧
     exec (.mul t rd r1 r2) s = writes t rd (BitVec.ofInt 64 (a.toInt * b.toInt)) s ∧
     exec (.mulh t rd r1 r2) s = writes t rd (BitVec.ofInt 64 (a.toInt * b.toInt / 2 ^ 64)) s ∧
     exec (.mulhu t rd r1 r2) s = writes t rd (BitVec.ofNat 64 (a.toNat * b.toNat / 2 ^ 64)) s ∧
     exec (.divs t rd r1 r2) s = writes t rd (BitVec.ofInt 64 (if b = 0 then -1 else a.toInt.tdiv b.toInt)) s ∧
     exec (.divu t rd r1 r2) s = writes t rd (BitVec.ofNat 64 (if b = 0 then 2 ^ 64 - 1 else a.toNat / b.toNat)) s ∧
     exec (.rems t rd r1 r2) s = writes t rd (BitVec.ofInt 64 (if b = 0 then a.toInt else a.toInt.tmod b.toInt)) s ∧
     exec (.remu t rd r1 r2) s = writes t rd (BitVec.ofNat 64 (if b = 0 then a.toNat else a.toNat % b.toNat)) s) ∧
  (∀ (t : Thread) (rd r1 r2 : Reg) (s : State), ready t 1 s → Claims.free t [rd, r1, r2] (seen t 1 s) →
     let a := sreg t r1 (seen t 1 s)
     let b := sreg t r2 (seen t 1 s)
     exec (.cmpEq t rd r1 r2) s = writes t rd (if a = b then 1 else 0) s ∧
     exec (.cmpNe t rd r1 r2) s = writes t rd (if a = b then 0 else 1) s ∧
     exec (.cmpLt t rd r1 r2) s = writes t rd (if a.toInt < b.toInt then 1 else 0) s ∧
     exec (.cmpLtu t rd r1 r2) s = writes t rd (if a.toNat < b.toNat then 1 else 0) s ∧
     exec (.cmpGe t rd r1 r2) s = writes t rd (if b.toInt ≤ a.toInt then 1 else 0) s ∧
     exec (.cmpGeu t rd r1 r2) s = writes t rd (if b.toNat ≤ a.toNat then 1 else 0) s) ∧
  (∀ (t : Thread) (rd r1 : Reg) (imm : BitVec 32) (s : State), ready t 1 s → Claims.free t [rd, r1] (seen t 1 s) →
     let a := sreg t r1 (seen t 1 s)
     let i := imm.toInt
     exec (.addi t rd r1 imm) s = writes t rd (BitVec.ofInt 64 (a.toInt + i)) s ∧
     exec (.andi t rd r1 imm) s = writes t rd (a &&& BitVec.ofInt 64 i) s ∧
     exec (.ori t rd r1 imm) s = writes t rd (a ||| BitVec.ofInt 64 i) s ∧
     exec (.xori t rd r1 imm) s = writes t rd (a ^^^ BitVec.ofInt 64 i) s ∧
     exec (.shli t rd r1 imm) s = writes t rd (BitVec.ofNat 64 (a.toNat * 2 ^ (imm.toNat % 64))) s ∧
     exec (.shri t rd r1 imm) s = writes t rd (BitVec.ofNat 64 (a.toNat / 2 ^ (imm.toNat % 64))) s ∧
     exec (.srai t rd r1 imm) s = writes t rd (BitVec.ofInt 64 (a.toInt / 2 ^ (imm.toNat % 64))) s ∧
     exec (.li t rd imm) s = writes t rd (BitVec.ofInt 64 i) s ∧
     exec (.lih t rd imm) s =
       writes t rd (BitVec.ofNat 64 ((sreg t rd (seen t 1 s)).toNat % 2 ^ 32 + 2 ^ 32 * imm.toNat)) s)

/-- Branches and jumps whose offset is -2^20 to 2^20 words (R63, R412): the offset counts from the instruction itself (the
model's reading, log entry 16); a branch goes there where its condition holds and on to the next word where not; JMP
goes there; JAL goes there and leaves the address after it; JR goes to a 48-bit address of a word. Targets that are
refused (R412, Table 03.2): an offset of a branch, JMP or JAL out of range is ILLEGAL_OP; a JR to an address that is no
word's is ILLEGAL_OP, and one to an address of more than 48 bits is PARAM_RANGE at position 1. -/
def Obligations.BranchesAndJumps : Prop :=
  (∀ (t : Thread) (rd r1 r2 : Reg) (off : BitVec 32) (s : State), ready t 1 s →
     -(2 ^ 20) ≤ off.toInt → off.toInt ≤ 2 ^ 20 → Claims.free t [rd, r1, r2] (seen t 1 s) →
     let v := seen t 1 s
     let a := sreg t r1 v
     let b := sreg t r2 v
     let pc := (getThread t v).pc
     let target := pc + BitVec.ofInt 48 (8 * off.toInt)
     let there := goesTo t 1 target s v
     let on := goesOn t 1 s v
     exec (.beq t r1 r2 off) s = (if a = b then there else on) ∧
     exec (.bne t r1 r2 off) s = (if a = b then on else there) ∧
     exec (.blt t r1 r2 off) s = (if a.toInt < b.toInt then there else on) ∧
     exec (.bge t r1 r2 off) s = (if a.toInt < b.toInt then on else there) ∧
     exec (.bltu t r1 r2 off) s = (if a.toNat < b.toNat then there else on) ∧
     exec (.bgeu t r1 r2 off) s = (if a.toNat < b.toNat then on else there) ∧
     exec (.jmp t off) s = there ∧
     exec (.jal t rd off) s = goesTo t 1 target s (setSreg t rd ((pc + 8).setWidth 64) v) ∧
     (a.toNat % 8 = 0 → a.toNat < 2 ^ 48 → exec (.jr t r1) s = goesTo t 1 (a.setWidth 48) s v)) ∧
  (∀ (t : Thread) (rd r1 r2 : Reg) (off : BitVec 32) (s : State), ready t 1 s →
     let a := sreg t r1 (seen t 1 s)
     let ill := faults t 1 fcIllegal 0 s
     (2 ^ 20 < off.toInt ∨ off.toInt < -(2 ^ 20) →
       exec (.beq t r1 r2 off) s = ill ∧ exec (.bne t r1 r2 off) s = ill ∧ exec (.blt t r1 r2 off) s = ill ∧
       exec (.bge t r1 r2 off) s = ill ∧ exec (.bltu t r1 r2 off) s = ill ∧ exec (.bgeu t r1 r2 off) s = ill ∧
       exec (.jmp t off) s = ill ∧ exec (.jal t rd off) s = ill) ∧
     (Claims.free t [r1] (seen t 1 s) →
       (a.toNat % 8 ≠ 0 → exec (.jr t r1) s = ill) ∧
       (a.toNat % 8 = 0 → 2 ^ 48 ≤ a.toNat → exec (.jr t r1) s = faults t 1 fcParam 1 s)))

/-- The binary64 instructions that round (R38 to R42, R62): the exact result, or the IEEE result of its special cases, is
rounded once under the instruction's mode, IEEE overflow and no flush, with the thread's LFSR for SR; a rounding to an
integer saturates. The binary64 instructions that do not round: minimum and maximum (R36), comparisons, false with a NaN
but for the unordered one (R35), and the conversion of a 32-bit integer, which is exact. -/
def Obligations.BinarySixtyFourResults : Prop :=
  (∀ (t : Thread) (rd r1 r2 r3 : Reg) (rnd : BitVec 3) (m : Rnd) (s : State), ready t 1 s →
     let v := seen t 1 s
     rndOfCode rnd = some m → Claims.free t [rd, r1, r2, r3] v → (m = .sr → srBusy t v = false) →
     let a := fpReg t r1 v
     let b := fpReg t r2 v
     let c := fpReg t r3 v
     let t0 := tallyFrom (getThread t v).lfsr
     let put (w : Word64) (l : Word32) : Out :=
       goesOn t 1 s (setSreg t rd w (modThread t (fun th => { th with lfsr := l }) v))
     let real (x : Val) : Out :=
       let r := roundVal fpD { rnd := m, ftz := false, ieee := true } x t0
       put (f64OfVal r.1) r.2.lfsr
     let whole (n : Nat) : Out :=
       let r := roundInt n m a t0
       put (BitVec.ofInt 64 r.1) r.2.lfsr
     exec (.fadd t rd r1 r2 rnd) s = real (addExact m a b) ∧
     exec (.fsub t rd r1 r2 rnd) s = real (addExact m a (if b.isNan then b else b.neg)) ∧
     exec (.fmul t rd r1 r2 rnd) s = real (mulExact a b) ∧
     exec (.fdiv t rd r1 r2 rnd) s = real (divExact a b) ∧
     exec (.fma t rd r1 r2 r3 rnd) s = real (fmaExact m a b c) ∧
     exec (.fsqrt t rd r1 rnd) s = real (sqrtExact a) ∧
     exec (.fcvtDL t rd r1 rnd) s = real (Val.ofInt (sreg t r1 v).toInt) ∧
     exec (.fcvtLD t rd r1 rnd) s = whole 64 ∧
     exec (.fcvtWD t rd r1 rnd) s = whole 32) ∧
  (∀ (t : Thread) (rd r1 r2 : Reg) (num : Bool) (s : State), ready t 1 s → Claims.free t [rd, r1, r2] (seen t 1 s) →
     let a := fpReg t r1 (seen t 1 s)
     let b := fpReg t r2 (seen t 1 s)
     let bit (c : Bool) : Out := writes t rd (if c then 1 else 0) s
     exec (.fmin t rd r1 r2 num) s = writes t rd (f64OfVal (minMaxVal false num a b)) s ∧
     exec (.fmax t rd r1 r2 num) s = writes t rd (f64OfVal (minMaxVal true num a b)) s ∧
     exec (.fcmpEq t rd r1 r2) s = bit (eqVal a b) ∧
     exec (.fcmpLt t rd r1 r2) s = bit (ltVal a b) ∧
     exec (.fcmpLe t rd r1 r2) s = bit (leVal a b) ∧
     exec (.fcmpUn t rd r1 r2) s = bit (a.isNan || b.isNan) ∧
     (a.isNan = true ∨ b.isNan = true → eqVal a b = false ∧ ltVal a b = false ∧ leVal a b = false) ∧
     (∃ w, exec (.fcvtDW t rd r1) s = writes t rd w s ∧
       ∃ k : Int, eqVal (valOfF64 w) (Val.ofInt k) = true ∧ k = ((sreg t r1 (seen t 1 s)).setWidth 32).toInt))

/-- Loads from scalar data memory (R57, R347, R348): little-endian, signed or not, at a multiple of their size below
0x4_0000; corrected words are rewritten and counted, and a word that cannot be corrected stops the thread with event
0x104. An SDM address of 0x4_0000 or above, or a misaligned one, faults with SDM_RANGE, and FVAL holds the address
(R57). -/
def Obligations.LoadsReadScalarMemory : Prop :=
  (∀ (t : Thread) (rd r1 : Reg) (imm : BitVec 32) (n : Nat) (s : State), ready t 1 s →
     let v := seen t 1 s
     Claims.free t [rd, r1] v → -(2 ^ 15) ≤ imm.toInt → imm.toInt < 2 ^ 15 →
     let a := (sreg t r1 v + imm.signExtend 64).toNat
     let x := leNat (Mem.readBytes v.sdm a n)
     a % n = 0 → a < 0x40000 →
     let reads (i : Instr) (w : Word64) : Prop :=
       (sdmBad v a n = none → exec i s = goesOn t 1 s (setSreg t rd w (sdmCorrect a n v))) ∧
       (∀ k, sdmBad v a n = some k → exec i s = goesTo t 1 (getThread t v).pc s (sdmUncorr t k v))
     (n = 1 → reads (.ldB t rd r1 imm) (BitVec.ofInt 64 (toSigned 8 x)) ∧ reads (.ldBU t rd r1 imm) (BitVec.ofNat 64 x)) ∧
     (n = 2 → reads (.ldH t rd r1 imm) (BitVec.ofInt 64 (toSigned 16 x)) ∧ reads (.ldHU t rd r1 imm) (BitVec.ofNat 64 x)) ∧
     (n = 4 → reads (.ldW t rd r1 imm) (BitVec.ofInt 64 (toSigned 32 x)) ∧ reads (.ldWU t rd r1 imm) (BitVec.ofNat 64 x)) ∧
     (n = 8 → reads (.ldD t rd r1 imm) (BitVec.ofNat 64 x))) ∧
  (∀ (t : Thread) (r1 r2 : Reg) (imm : BitVec 32) (s : State), ready t 1 s → Claims.free t [r1, r2] (seen t 1 s) →
     -(2 ^ 15) ≤ imm.toInt → imm.toInt < 2 ^ 15 →
     let a := sreg t r1 (seen t 1 s) + imm.signExtend 64
     let stop := faults t 1 fcSdm a s
     (0x40000 ≤ a.toNat → exec (.stB t r1 r2 imm) s = stop ∧ exec (.ldB t r2 r1 imm) s = stop ∧
       exec (.ldBU t r2 r1 imm) s = stop) ∧
     (0x40000 ≤ a.toNat ∨ a.toNat % 2 ≠ 0 → exec (.stH t r1 r2 imm) s = stop ∧ exec (.ldH t r2 r1 imm) s = stop ∧
       exec (.ldHU t r2 r1 imm) s = stop) ∧
     (0x40000 ≤ a.toNat ∨ a.toNat % 4 ≠ 0 → exec (.stW t r1 r2 imm) s = stop ∧ exec (.ldW t r2 r1 imm) s = stop ∧
       exec (.ldWU t r2 r1 imm) s = stop) ∧
     (0x40000 ≤ a.toNat ∨ a.toNat % 8 ≠ 0 → exec (.stD t r1 r2 imm) s = stop ∧ exec (.ldD t r2 r1 imm) s = stop))

/-- Stores to scalar data memory (R57): the low bytes of the register stand at the address, and every other byte of SDM, the
registers, the parameters, the tiles, the queues and the rows of the local store are as before. -/
def Obligations.StoresWriteScalarMemory : Prop :=
  ∀ (t : Thread) (r1 r2 : Reg) (imm : BitVec 32) (n : Nat) (i : Instr) (s : State), ready t 1 s →
    let v := seen t 1 s
    memoriesCanonical s → Claims.free t [r1, r2] v → -(2 ^ 15) ≤ imm.toInt → imm.toInt < 2 ^ 15 →
    ((i, n) = (.stB t r1 r2 imm, 1) ∨ (i, n) = (.stH t r1 r2 imm, 2) ∨ (i, n) = (.stW t r1 r2 imm, 4) ∨
      (i, n) = (.stD t r1 r2 imm, 8)) →
    let a := (sreg t r1 v + imm.signExtend 64).toNat
    a % n = 0 → a < 0x40000 →
    ∃ s', exec i s = .next s' ∧
      (∀ k, k < n → (Mem.read s'.sdm (a + k)).toNat = (sreg t r2 v).toNat / 2 ^ (8 * k) % 256) ∧
      (∀ b, b < a ∨ a + n ≤ b → Mem.read s'.sdm b = Mem.read s.sdm b) ∧
      (∀ u r, sreg u r s' = sreg u r s) ∧ s'.ls.rows = s.ls.rows ∧ s'.tiles = s.tiles ∧ s'.preg = s.preg ∧
      s'.queues = s.queues ∧
      ((getThread t s).reissuing = false → (getThread t s').pc = alignPc ((getThread t s).pc + 8))

/-- Parameter registers (R59) and the current budget (R21): PMOV and BUDGET write a register, PSET a parameter register; a
number of 64 or more is ILLEGAL_OP (R412). The numeric status instructions (R40, R45, R48): SRSEED replaces a zero seed
by 1, SRREAD returns the LFSR, NSTAT.RD one of three counters once no tensor instruction of the thread is in flight,
AMAX.RD a register widened to binary64 once no conversion that names it is in flight, on TX only; a number that names no
counter or register is ILLEGAL_OP. -/
def Obligations.ParametersAndNumericStatus : Prop :=
  (∀ (t : Thread) (r : Reg) (n : BitVec 32) (s : State), threadsWellFormed s → ready t 1 s →
     let v := seen t 1 s
     (64 ≤ n.toNat → exec (.pmov t r n) s = faults t 1 fcIllegal 0 s ∧ exec (.pset t r n) s = faults t 1 fcIllegal 0 s) ∧
     (Claims.free t [r] v →
       exec (.budget t r) s = writes t r (s.ballast.budget.setWidth 64) s ∧
       (n.toNat < 64 → exec (.pmov t r n) s = writes t r (readParam s n.toNat) s ∧
         ∃ s', exec (.pset t r n) s = .next s' ∧ (∀ k, readParam s' k =
             if k = n.toNat then sreg t r v else readParam s k) ∧
           (∀ u q, sreg u q s' = sreg u q s) ∧ s'.sdm = s.sdm ∧ s'.queues = s.queues))) ∧
  (∀ (t : Thread) (r : Reg) (n : BitVec 32) (s : State), ready t 1 s →
     let v := seen t 1 s
     let x := sreg t r v
     (t = .ta ∨ 8 ≤ n.toNat → exec (.amaxRd t r n) s = faults t 1 fcIllegal 0 s) ∧
     (3 ≤ n.toNat → exec (.nstatRd t r n) s = faults t 1 fcIllegal 0 s) ∧
     (Claims.free t [r] v →
       (srBusy t v = false → exec (.srseed t r) s = goesOn t 1 s (modThread t (fun h =>
           { h with lfsr := if x.setWidth 32 = (0 : Word32) then 1 else x.setWidth 32 }) v) ∧
         exec (.srread t r) s = writes t r ((getThread t v).lfsr.setWidth 64) s) ∧
       ((flightsOf t v).any (fun f => f.tensor) = false →
         (n = 0 → exec (.nstatRd t r n) s = writes t r ((getThread t v).nstat.nsat.setWidth 64) s) ∧
         (n = 1 → exec (.nstatRd t r n) s = writes t r ((getThread t v).nstat.nflush.setWidth 64) s) ∧
         (n = 2 → exec (.nstatRd t r n) s = writes t r ((getThread t v).nstat.nnan.setWidth 64) s)) ∧
       (t = .tx → n.toNat < 8 → (∀ f ∈ flightsOf t v, namedAmax f.instr ≠ some (n.setWidth 3)) →
         exec (.amaxRd t r n) s = writes t r (widenF32 (Sparse.get 0 v.amax n.toNat)) s)))

/-- Token queues (R69, R70): KPUSH puts the value behind the entries of a queue of its thread with room, KPOP takes the
oldest token of a queue of the other thread, and QDEPTH counts the visible entries of an enabled operand queue (0 to 7)
or of a token queue (8 to 11). KPUSH to a token queue of the other thread and KPOP from one of its own fault with
QUEUE_DIR and the queue's number, QDEPTH of a disabled operand queue likewise (R67, R69, R420); a KPUSH to a full queue
and a KPOP from one whose oldest entry is not filled, or that is empty, wait (R11); a queue number out of range is
ILLEGAL_OP (R412). -/
def Obligations.TokenQueues : Prop :=
  (∀ (t : Thread) (r : Reg) (n : BitVec 32) (s : State), ready t 1 s → Claims.free t [r] (seen t 1 s) →
     let v := seen t 1 s
     let k := n.toNat
     (k < 4 → tokenProducer s k = t → (tokenEntries s k).length < 32 →
       exec (.kpush t r n) s = goesOn t 1 s (queueMoved (setTokens k
         (tokenEntries s k ++ [{ prod := none, val := some (sreg t r v) }]) v))) ∧
     (k < 4 → tokenProducer s k ≠ t → ∀ (p : Option Nat) (x : Word64) (rest : List KEntry),
       tokenEntries s k = { prod := p, val := some x } :: rest →
       exec (.kpop t r n) s = goesOn t 1 s (queueMoved (setTokens k rest (setSreg t r x v)))) ∧
     (k < 8 → queueDepth s k ≠ 0 →
       exec (.qdepth t r n) s = writes t r (BitVec.ofNat 64 (visibleRows s k).length) s) ∧
     (8 ≤ k → k < 12 →
       exec (.qdepth t r n) s = writes t r (BitVec.ofNat 64 (visibleTokens s (k - 8)).length) s)) ∧
  (∀ (t : Thread) (r : Reg) (n : BitVec 32) (s : State), ready t 1 s →
     let k := n.toNat
     let dir := faults t 1 fcQueue (BitVec.ofNat 64 (8 + k)) s
     let full := waits t 1 (.queue (BitVec.ofNat 4 (8 + k))) s
     (4 ≤ k → exec (.kpush t r n) s = faults t 1 fcIllegal 0 s ∧ exec (.kpop t r n) s = faults t 1 fcIllegal 0 s) ∧
     (12 ≤ k → exec (.qdepth t r n) s = faults t 1 fcIllegal 0 s) ∧
     (Claims.free t [r] (seen t 1 s) →
       (k < 8 → queueDepth s k = 0 → exec (.qdepth t r n) s = faults t 1 fcQueue (BitVec.ofNat 64 k) s) ∧
       (k < 4 → tokenProducer s k ≠ t → exec (.kpush t r n) s = dir) ∧
       (k < 4 → tokenProducer s k = t → exec (.kpop t r n) s = dir ∧
         (32 ≤ (tokenEntries s k).length → exec (.kpush t r n) s = full)) ∧
       (k < 4 → tokenProducer s k ≠ t → visibleTokens s k = [] → exec (.kpop t r n) s = full)))

/-- Special registers (R55, Table 03.1): SRD returns the register of each assigned number, SWR writes the writable ones, and
every other number is ILLEGAL_OP. -/
def Obligations.SpecialRegisters : Prop :=
  ∀ (t : Thread) (r : Reg) (n : BitVec 32) (s : State), ready t 1 s →
    let v := seen t 1 s
    Claims.free t [r] v → (n.toNat = 10 → srBusy t v = false) →
    let th := getThread t v
    let x := sreg t r v
    let set (f : ThreadState → ThreadState) : Out := goesOn t 1 s (modThread t f v)
    (n.toNat < 12 → ∃ w, specialReg t n.toNat v = some w ∧ exec (.srd t r n) s = writes t r w s) ∧
    (n = 1 → exec (.srd t r n) s = writes t r (th.fpc.setWidth 64) s) ∧
    (n = 2 → exec (.srd t r n) s = writes t r (th.fnpc.setWidth 64) s) ∧
    (n = 3 → exec (.srd t r n) s = writes t r th.fval s) ∧
    (n = 4 → exec (.srd t r n) s = writes t r (th.hvec.setWidth 64) s) ∧
    (n = 5 → exec (.srd t r n) s = writes t r (th.rstsel.setWidth 64) s) ∧
    (n = 6 → exec (.srd t r n) s = writes t r ((th.restart.getD th.rstsel.toNat RestartEntry.zero).pc.setWidth 64) s) ∧
    (n = 8 → exec (.srd t r n) s = writes t r v.cycle s) ∧
    (n = 9 → exec (.srd t r n) s = writes t r (v.ballast.budget.setWidth 64) s) ∧
    (n = 10 → exec (.srd t r n) s = writes t r (th.lfsr.setWidth 64) s) ∧
    (n = 11 → exec (.srd t r n) s = writes t r (match t with | .ta => 0 | .tx => 1) s) ∧
    (12 ≤ n.toNat → exec (.srd t r n) s = faults t 1 fcIllegal 0 s) ∧
    (n = 0 → exec (.swr t r n) s = set (fun h =>
      { h with c3 := x.getLsbD 10, restart := if (x >>> 11).toNat % 16 = 0 then [] else h.restart })) ∧
    (n = 1 → exec (.swr t r n) s = set (fun h => { h with fpc := x.setWidth 48 })) ∧
    (n = 2 → exec (.swr t r n) s = set (fun h => { h with fnpc := x.setWidth 48 })) ∧
    (n = 4 → exec (.swr t r n) s = set (fun h => { h with hvec := x.setWidth 48 })) ∧
    (n = 5 → exec (.swr t r n) s = set (fun h => { h with rstsel := x.setWidth 3 })) ∧
    (n = 10 → exec (.swr t r n) s =
      set (fun h => { h with lfsr := if x.setWidth 32 = (0 : Word32) then 1 else x.setWidth 32 })) ∧
    (n.toNat = 3 ∨ (6 ≤ n.toNat ∧ n.toNat ≠ 10) → exec (.swr t r n) s = faults t 1 fcIllegal 0 s)

/-- Coil loops (R71 to R74): COIL.BEGIN with fewer than four levels open and a count below 2^32 opens a level, but for a
count of zero or an empty body, where issue goes on after the COIL.END; at a COIL.END the level counts down, or takes
the count that COIL.SET left, and issue goes on at the body with the next index, or after the loop with the level
closed; COIL.IDX reads an open level's index, COIL.BREAK closes it with the inner ones and goes on after it, COIL.SET
names its next count. Coil faults (R71, R73, R74, R412): a COIL.BEGIN with four levels open is COIL_DEPTH, a count of
2^32 or more to COIL.BEGIN or COIL.SET PARAM_RANGE at position 1, and a COIL.BEGIN offset of 0 or above 2^20, a COIL.END
where no level ends, or a level that is not open, ILLEGAL_OP. -/
def Obligations.CoilLoops : Prop :=
  (∀ (t : Thread) (r : Reg) (n : BitVec 32) (s : State), ready t 1 s →
     let v := seen t 1 s
     let th := getThread t v
     let x := sreg t r v
     let stop := th.pc + BitVec.ofNat 48 (8 * n.toNat)
     let coil (c : List CoilLevel) : State := modThread t (fun h => { h with coil := c }) v
     (Claims.free t [r] v → 0 < n.toNat → n.toNat ≤ 2 ^ 20 → th.coil.length < 4 → x.toNat < 2 ^ 32 →
       exec (.coilBegin t r n) s =
         (if x = 0 ∨ n = 1 then goesTo t 1 (stop + 8) s v
          else goesOn t 1 s (coil ({ remaining := x.setWidth 32, index := 0, body := th.pc + 8, stop := stop,
                                     setTo := none } :: th.coil)))) ∧
     (∀ l outer, th.coil = l :: outer → th.pc = l.stop →
       let left := l.setTo.getD (l.remaining - 1)
       exec (.coilEnd t) s =
         (if left = 0 then goesTo t 1 (l.stop + 8) s (coil outer)
          else goesTo t 1 l.body s (coil ({ l with remaining := left, index := l.index + 1, setTo := none } :: outer)))) ∧
     (∀ l, n.toNat < 4 → th.coil[n.toNat]? = some l →
       exec (.coilBreak t n) s = goesTo t 1 (l.stop + 8) s (coil (th.coil.drop (n.toNat + 1))) ∧
       (Claims.free t [r] v → exec (.coilIdx t r n) s = writes t r l.index s ∧
         (x.toNat < 2 ^ 32 → exec (.coilSet t r n) s = goesOn t 1 s
           (coil (th.coil.set n.toNat { l with setTo := some (x.setWidth 32) })))))) ∧
  (∀ (t : Thread) (r : Reg) (n : BitVec 32) (s : State), ready t 1 s →
     let v := seen t 1 s
     let th := getThread t v
     let ill := faults t 1 fcIllegal 0 s
     (n.toNat = 0 ∨ 2 ^ 20 < n.toNat → exec (.coilBegin t r n) s = ill) ∧
     (Claims.free t [r] v → 0 < n.toNat → n.toNat ≤ 2 ^ 20 →
       (4 ≤ th.coil.length → exec (.coilBegin t r n) s = faults t 1 fcCoil 0 s) ∧
       (th.coil.length < 4 → 2 ^ 32 ≤ (sreg t r v).toNat → exec (.coilBegin t r n) s = faults t 1 fcParam 1 s)) ∧
     (th.coil = [] ∨ (∃ l, th.coil.head? = some l ∧ th.pc ≠ l.stop) → exec (.coilEnd t) s = ill) ∧
     (n.toNat < 4 → n.toNat < th.coil.length → Claims.free t [r] v → 2 ^ 32 ≤ (sreg t r v).toNat →
       exec (.coilSet t r n) s = faults t 1 fcParam 1 s) ∧
     (4 ≤ n.toNat ∨ th.coil.length ≤ n.toNat →
       exec (.coilIdx t r n) s = ill ∧ exec (.coilBreak t n) s = ill ∧ exec (.coilSet t r n) s = ill))

/-- Synchronisation (R61, R63): NOP goes on; FENCE goes on and HALT stops the thread and logs 0x101 once nothing of the
thread is in flight, and both wait while something is; of REPLAY.SYNC the first waits, and the second is the replay
boundary, at which the parameters staged for a pending replay take effect and the session lists age. FRET (R84) outside
a handler is ILLEGAL_OP; in one it clears handler-active and goes on at the first entry of the restart list, which it
reissues, or else at FNPC, or FPC where the two are equal; a PAUSE or an entry to SAFE that is due then stops the thread
(R86). -/
def Obligations.SynchronisationAndReturn : Prop :=
  (∀ (t : Thread) (s : State), ready t 1 s →
     let v := seen t 1 s
     exec (.nop t) s = goesOn t 1 s v ∧
     (flightsOf t v = [] → exec (.fence t) s = goesOn t 1 s v ∧
       exec (.halt t) s = goesOn t 1 s (logEvent 0x101 (threadNum t + (getThread t v).pc.toNat)
         (modThread t (fun h => { h with halted := true }) v))) ∧
     (flightsOf t v ≠ [] → exec (.fence t) s = waits t 1 .earlier s ∧ exec (.halt t) s = waits t 1 .earlier s) ∧
     ((getThread (otherThread t) s).atSync = false →
       exec (.replaySync t) s = goesOn t 1 s (modThread t (fun h => { h with atSync := true }) v)) ∧
     ((getThread (otherThread t) s).atSync = true →
       exec (.replaySync t) s = goesOn t 1 s (listsBoundary (commitStaged
         (modThread (otherThread t) (fun h => { h with atSync := false }) v))))) ∧
  (∀ (t : Thread) (s : State), ready t 1 s →
     let th := getThread t s
     (th.hact = false → exec (.fret t) s = faults t 1 fcIllegal 0 s) ∧
     (th.hact = true → ∃ s', exec (.fret t) s = .next s' ∧ (getThread t s').hact = false ∧
       (∀ u r, sreg u r s' = sreg u r s) ∧ s'.sdm = s.sdm ∧ s'.tiles = s.tiles ∧
       (pauseDue s = true → (getThread t s').paused = true) ∧
       (pauseDue s = false → (getThread t s').restart = th.restart ∧
         (getThread t s').reissuing = !th.restart.isEmpty ∧
         (getThread t s').pc = alignPc ((th.restart.head?.map (fun e => e.pc)).getD
           (if th.fnpc = th.fpc then th.fpc else th.fnpc)))))

/-- The instructions that compute a register or the PC, where they issue: time passes first, as little as the lull and the
tests of earlier instructions need; then the instruction changes no memory, no other thread, no other register, no
table, engine, queue or mode, and of the rest only the Spool, its reservoir requests, its upsets and its two counters.
Where its thread does not issue, nothing changes. -/
def Obligations.ScalarFrame : Prop :=
  ∀ (i : Instr) (t : Thread) (rd : Reg) (s s' : State), scalarDest i = some (t, rd) →
    exec i s = .next s' → s' = s ∨
    (onlyTime s (settle t s) ∧ onlyThreadAndSpool t (settle t s) s' ∧
     (∀ q, q ≠ rd → sreg t q s' = sreg t q s) ∧
     (∀ a, a ≠ cntSpoolCorr → a ≠ cntSpoolUncorr → counter s' a = counter (settle t s) a) ∧
     (let th := getThread t s; let th' := getThread t s'
      th'.hact = th.hact ∧ th'.halted = th.halted ∧ th'.c3 = th.c3 ∧ th'.hvec = th.hvec ∧ th'.rstsel = th.rstsel ∧
      th'.nstat = th.nstat ∧ th'.bind = th.bind ∧ th'.coil = th.coil ∧ th'.atSync = th.atSync ∧ th'.paused = th.paused))

/-- Local-store transfers to and from SDM (R205, R208): with its operands in range, its port not the boundary port, the
limit of eight not reached and the handle checks passed, LS.RD and LS.WR enter flight holding their thread until they
complete, to make one access a cycle on their port; LS.WR takes its bytes at issue, and a word of them that cannot be
corrected stops the thread with event 0x104 (R348). Queue transfers (R67, R68, R205, R209): LS.RQ and LS.RQ.S reserve
the entries that they will fill, LS.WQ the visible rows that it takes; each then enters flight to make one access a
cycle on its port. -/
def Obligations.LocalStoreTransfersIssue : Prop :=
  (∀ (a : LsArgs) (x : Xlate) (s : State), ready .ta 1 s →
     let v := seen .ta 1 s
     let n := rowCount a.n1
     let sa := (sreg .ta a.sa v).toNat
     let rs := (sreg .ta a.rs v).toNat
     let rels := strided rs n 1
     Claims.free .ta [a.sa, a.rs] v → sa % 64 = 0 → sa + 512 * n ≤ 0x40000 → rs < 98304 → n ≤ 8 →
     a.port ≠ v.mould.cfg.bport → engineReady .ta .sequencer v = .ok () →
     (checkHandle .ta a.h .rd rels v = .ok x →
       exec (.lsRd .ta a) s = goesOn .ta 1 s (launched
         { newFlight .ta (.lsRd .ta a) .sequencer v with
           blocking := true, xl := [x], tests := testsFor x (readKind a.clear) rels
           acts := readPlan x a.port a.clear rels } startPlain v)) ∧
     (checkHandle .ta a.h .wr rels v = .ok x →
       (sdmBad v sa (512 * n) = none → exec (.lsWr .ta a) s = goesOn .ta 1 s (launched
         { newFlight .ta (.lsWr .ta a) .sequencer v with
           blocking := true, xl := [x], tests := testsFor x .write rels
           rowsIn := (List.range n).map (fun i => Mem.readBytes v.sdm (sa + 512 * i) 512)
           acts := writePlan x a.port rels } startPlain (sdmCorrect sa (512 * n) v))) ∧
       (∀ k, sdmBad v sa (512 * n) = some k →
         exec (.lsWr .ta a) s = goesTo .ta 1 (getThread .ta v).pc s (sdmUncorr .ta k v)))) ∧
  (∀ (a : LsqArgs) (x : Xlate) (s : State), ready .ta 1 s →
     let v := seen .ta 1 s
     let n := rowCount a.n1
     let r0 := (sreg .ta a.rs v).toNat
     let d := (sreg .ta a.stride v).toInt
     let q := a.q.toNat
     Claims.free .ta [a.rs, a.stride] v → r0 < 98304 → a.port ≠ v.mould.cfg.bport →
     engineReady .ta .sequencer v = .ok () →
     let fl (i : Instr) (k : TestKind) (rels : List Int) : Flight :=
       { newFlight .ta i .sequencer v with xl := [x], tests := testsFor x k rels }
     let reads (i : Instr) (rels : List Int) : Out := goesOn .ta 1 s (launched
       { fl i (readKind a.clear) rels with acts := readPlan x a.port a.clear rels } startPlain (reservePush v.nextId q n v))
     (queueOk .ta q true n v = .ok () → pushReady q n v = .ok () →
       (checkHandle .ta a.h .rd (strided r0 n 1) v = .ok x → exec (.lsRq .ta a) s = reads (.lsRq .ta a) (strided r0 n 1)) ∧
       (-2048 ≤ d → d ≤ 2047 → d ≠ 0 → checkHandle .ta a.h .rd (strided r0 n d) v = .ok x →
         exec (.lsRqS .ta a) s = reads (.lsRqS .ta a) (strided r0 n d))) ∧
     (queueOk .ta q false n v = .ok () → popReady q n v = .ok () → checkHandle .ta a.h .wr (strided r0 n 1) v = .ok x →
       exec (.lsWq .ta a) s = goesOn .ta 1 s (launched
         { fl (.lsWq .ta a) .write (strided r0 n 1) with
           rowsIn := popRows v q n, acts := writePlan x a.port (strided r0 n 1) } startLsWq (reservePop v.nextId q n v))))

/-- A scheduled read (R96, R100, R113) takes the row of its stack and place as it stands, with its errors, to return six
cycles later; a row with single-bit errors alone is corrected, counted and costs three lull cycles; nothing is written,
and a read with CLEAR empties the row's tag (R107). The rows that an LS.RD has so taken stand in SDM at its address when
it completes (R208). -/
def Obligations.LocalStoreReadTakesRows : Prop :=
  ∀ (f : Flight) (a : Access) (clear : Bool) (act : ReturnAct) (s : State),
    a.op = .read clear act → findFlight f.id s = some f → memoriesCanonical s →
    let s' := readStep f a s
    findFlight f.id s' = some { f with
      due := f.due ++ [{ phys := a.phys, rel := a.rel, data := readRow s a.phys, bad := rowBad s a.phys,
                         ready := s.ls.round + 6, act := act }]
      got := f.got ++ [(readRow s a.phys, rowBad s a.phys)] } ∧
    s'.ls.rows = s.ls.rows ∧ s'.sdm = s.sdm ∧ s'.tiles = s.tiles ∧ s'.queues = s.queues ∧
    (∀ u q, sreg u q s' = sreg u q s) ∧
    (∀ p, getTag s' p = if clear = true ∧ p = a.phys then .empty else getTag s p) ∧
    s'.clk.lull = s.clk.lull + (if rowCorrectable s a.phys then 3 else 0) ∧
    (∀ b, f.instr = .lsRd .ta b → f.commit = Commit.empty →
      completeStep f.id s = none ∨
      ∃ t, completeStep f.id s = some t ∧
        t.sdm = (sdmWrite (snapReg f b.sa).toNat (f.got.map (fun p => p.1)).flatten s).sdm)

/-- LS.TAG (R110) sets every tag of its range once none of them is claimed, and waits while one is; an UNTAGGED handle is
PARAM_RANGE at position 0 (R420). -/
def Obligations.TagsAreSetTogether : Prop :=
  ∀ (a : LsTagArgs) (x : Xlate) (s : State), ready .ta 1 s → memoriesCanonical s →
    let v := seen .ta 1 s
    let n := (sreg .ta a.n v).toNat
    let rels := strided (sreg .ta a.rs v).toNat n 1
    let rows := rels.map (fun r => physRow x.map r.toNat)
    let g := if a.full then Tag.full else Tag.empty
    Claims.free .ta [a.rs, a.n] v →
    ((getHandle v a.h).state ≠ .free → (getHandle v a.h).tagged = false →
      exec (.lsTag .ta a) s = faults .ta 1 fcParam 0 s) ∧
    ((getHandle v a.h).tagged = true → (sreg .ta a.rs v).toNat < 98304 → 1 ≤ n → n ≤ 98304 →
      checkHandle .ta a.h .wr rels v = .ok x →
      ((∀ p ∈ rows, getTag v p = .empty ∨ getTag v p = .full) →
        ∃ s', exec (.lsTag .ta a) s = .next s' ∧ (∀ p ∈ rows, getTag s' p = g) ∧
          (∀ p, p ∉ rows → getTag s' p = getTag v p) ∧ s'.ls.rows = s.ls.rows ∧ s'.sdm = s.sdm ∧
          (∀ u q, sreg u q s' = sreg u q s)) ∧
      ((∃ p ∈ rows, getTag v p = .wclaim ∨ getTag v p = .rclaim) →
        exec (.lsTag .ta a) s = waits .ta 1 .earlier s))

/-- Tile loads (R105, R106, R130 to R132): TLD, TLD.S and TLD.T whose operands are in range and whose group fits enter
flight as tile operations that write their group, with the tests and the reads of their rows: each element row writes
its tile rows when it returns, the scale row of an MX group is read before its first element row, and a transposed group
is written at its last row. Tile stores (R105, R130, R132): TST and TST.S of full tiles whose operands are in range
enter flight as tile operations that read their group at issue, and write its stream row by row; an MX group's scale
rows are read too and need RD (the model's reading, log entry 20). -/
def Obligations.TileTransfersIssue : Prop :=
  (∀ (a : TileMoveArgs) (b : TldTArgs) (ts : List Nat) (x : Xlate) (s : State), ready .ta 1 s →
     let v := seen .ta 1 s
     let fm := tileFmt v (ts.headD 0)
     let segs := tileSegs v ts 0
     engineReady .ta .sequencer v = .ok () → tilesReady 0 (tileMask ts) v = .ok () →
     let fl (i : Instr) (k : TestKind) (rels : List Int) : Flight :=
       { newFlight .ta i .sequencer v with
         tileOp := true, wrTiles := tileMask ts, xl := [x], tests := testsFor x k rels }
     let r0 := (sreg .ta a.rs v).toNat
     let loads (i : Instr) (d : Int) : Out :=
       let all := tldRows fm (strided r0 (rowCount a.n1) d)
       goesOn .ta 1 s (launched { fl i (readKind a.clear) all with
         acts := tldPlan x a.port a.clear fm segs (loadTag v x a.port r0 d segs) all 0 all } startPlain v)
     (tileGroup a.tg = some ts → Claims.free .ta [a.rs, a.stride] v →
       let d := (sreg .ta a.stride v).toInt
       (tileMoveParams false a 6 .ta v = .ok () → tileMoveShapes (strided r0 (rowCount a.n1) 1) ts v = .ok () →
         checkHandle .ta a.h .rd (tldRows fm (strided r0 (rowCount a.n1) 1)) v = .ok x →
         exec (.tld .ta a) s = loads (.tld .ta a) 1) ∧
       (tileMoveParams true a 6 .ta v = .ok () → tileMoveShapes (strided r0 (rowCount a.n1) d) ts v = .ok () →
         checkHandle .ta a.h .rd (tldRows fm (strided r0 (rowCount a.n1) d)) v = .ok x →
         exec (.tldS .ta a) s = loads (.tldS .ta a) d)) ∧
     (tileGroup b.tg = some ts → Claims.free .ta [b.rs, b.stride] v →
       let n := if b.wide then 32 else 64
       let d := (sreg .ta b.stride v).toInt
       let rels := strided (sreg .ta b.rs v).toNat n d
       (sreg .ta b.rs v).toNat < 98304 → b.port ≠ v.mould.cfg.bport → -2048 ≤ d → d ≤ 2047 → d ≠ 0 →
       (∀ k ∈ ts, fmtIsMx (tileFmt v k) = false ∧ tileFmt v k ≠ .int4 ∧ tileBytes (tileCfg v k) = 64) →
       (ts.map (fun k => tileRows (tileCfg v k))).sum = n → checkHandle .ta b.h .rd rels v = .ok x →
       ∃ parts, exec (.tldT .ta b) s = goesOn .ta 1 s (launched
           { fl (.tldT .ta b) (readKind b.clear) rels with acts := tldTPlan x b parts rels } startPlain v) ∧
         parts.map (fun p => (p.tile, p.row, p.off, p.len)) = segs.map (fun g => (g.tile, g.row, 0, g.len)))) ∧
  (∀ (a : TileMoveArgs) (ts : List Nat) (x : Xlate) (s : State), ready .ta 1 s →
     let v := seen .ta 1 s
     let fm := tileFmt v (ts.headD 0)
     let segs := tileSegs v ts 0
     let r0 := (sreg .ta a.rs v).toNat
     let d := (sreg .ta a.stride v).toInt
     tileGroup a.tg = some ts → Claims.free .ta [a.rs, a.stride] v → engineReady .ta .sequencer v = .ok () →
     tilesReady (tileMask ts) 0 v = .ok () → (∀ n ∈ ts, (tileCfg v n).full = true) →
     let rels (m : Int) := strided r0 (rowCount a.n1) m
     let use (m : Int) : HandleUse :=
       { h := a.h, epoch := none, needs := if fmtIsMx fm then [.wr, .rd] else [.wr], rels := tldRows fm (rels m) }
     let stores (i : Instr) (m : Int) : Out := goesOn .ta 1 s (launched
       { newFlight .ta i .sequencer v with
         tileOp := true, rdTiles := tileMask ts, xl := [x], tests := testsFor x .write (tldRows fm (rels m))
         rowsIn := (List.range (rels m).length).map (fun i =>
           fitBytes 512 (((groupStream v segs).drop (i * rowData fm)).take (rowData fm)))
         acts := tstPlan x a.port fm (rels m) (groupScales v fm segs) } (startTst a) v)
     (tileMoveParams false a 5 .ta v = .ok () → tileMoveShapes (rels 1) ts v = .ok () →
       handlesOk .ta [use 1] v = .ok [x] → exec (.tst .ta a) s = stores (.tst .ta a) 1) ∧
     (tileMoveParams true a 5 .ta v = .ok () → tileMoveShapes (rels d) ts v = .ok () →
       handlesOk .ta [use d] v = .ok [x] → exec (.tstS .ta a) s = stores (.tstS .ta a) d))

/-- Tile contexts (R137, R138): TCTX.SAVE enters flight to write the context of the tiles at issue, of the rows that their
configurations ask for, and its row count to SD; TCTX.LOAD to read as many rows as the header row names, where that row
passes its tag test and its descriptors are accepted, and the header row alone where it has still to become FULL; a
refused descriptor is TCFG_INVALID with its tile. -/
def Obligations.TileContextsIssue : Prop :=
  ∀ (a : TctxArgs) (x : Xlate) (s : State), ready .ta 1 s →
    let v := seen .ta 1 s
    let r0 := (sreg .ta a.rs v).toNat
    Claims.free .ta [a.rs, a.sd] v → r0 < 98304 → a.port ≠ v.mould.cfg.bport → engineReady .ta .sequencer v = .ok () →
    (tilesReady 0xFFFF 0 v = .ok () →
     let rows := contextImage v
     let rels := strided r0 rows.length 1
     checkHandle .ta a.h .wr rels v = .ok x →
     rows.length = contextRows (allCfgs v) ∧
     exec (.tctxSave .ta a) s = goesOn .ta 1 s (launched
      { newFlight .ta (.tctxSave .ta a) .sequencer v with
        tileOp := true, rdTiles := 0xFFFF, dests := [a.sd], xl := [x], rowsIn := rows
        tests := testsFor x .write rels, acts := writePlan x a.port rels
        commit := { Commit.empty with regs := [(a.sd, BitVec.ofNat 64 rows.length)] } } startTctxSave v)) ∧
    (a.sd = 0 → tilesReady 0 0xFFFF v = .ok () → checkHandle .ta a.h .rd [(r0 : Int)] v = .ok x →
     let header := testsFor x .keep [(r0 : Int)]
     let found := (runTests header v).1.all (fun y => y.passed)
     let fl (ts : List TagTest) (acts : List (List Access)) (o : List Word64) : Flight :=
      { newFlight .ta (.tctxLoad .ta a) .sequencer v with
        tileOp := true, wrTiles := 0xFFFF, xl := [x], tests := ts, acts := acts, opv := o }
     (found = true →
       (∀ cs, standingHeader v x r0 = .ok cs → r0 + contextRows cs ≤ x.map.count.toNat →
         exec (.tctxLoad .ta a) s = goesOn .ta 1 s (launched
           (fl (testsFor x .keep (strided r0 (contextRows cs) 1)) (contextPlan x a.port r0 cs) [1]) startPlain v)) ∧
       (∀ i, standingHeader v x r0 = .error i →
         exec (.tctxLoad .ta a) s = faults .ta 1 fcTcfg (BitVec.ofNat 64 i) s)) ∧
     (found = false → exec (.tctxLoad .ta a) s = goesOn .ta 1 s (launched
       (fl header (contextPlan x a.port r0 []) []) startPlain v)))

/-- DMA.COPY in its four forms (R211 to R215): local to local in batches of eight rows, local to reservoir, reservoir to
local, and tiles to local, which takes its rows at issue through the operand cache (R139). -/
def Obligations.DmaCopiesIssue : Prop :=
  ∀ (a : DmaArgs) (x y : Xlate) (ts : List Nat) (s : State), ready .ta 1 s →
    let v := seen .ta 1 s
    let n := dmaCount a
    let src := (sreg .ta a.src v).toNat
    let dst := (sreg .ta a.dst v).toNat
    let from_ := strided src n 1
    let to_ := strided dst n 1
    let fl : Flight := newFlight .ta (.dmaCopy .ta a) .dma v
    let port := a.port ≠ v.mould.cfg.bport
    let go (f : Flight) (w : State) : Out := goesOn .ta 1 s (launched f (startDma a) w)
    Claims.free .ta [a.src, a.dst] v → engineReady .ta .dma v = .ok () →
    (a.form = 0 → src < 98304 → dst < 98304 → port →
      handlesOk .ta [{ h := a.ha, epoch := none, needs := [.rd], rels := from_ },
        { h := a.hb, epoch := none, needs := [.wr], rels := to_ }] v = .ok [x, y] →
      exec (.dmaCopy .ta a) s = go { fl with
        xl := [x, y], tests := testsFor x (readKind a.clear) from_ ++ testsFor y .write to_
        acts := llPlan x y a.port a.clear (from_.zip to_) } v) ∧
    (a.form = 1 → a.hb = 0 → src < 98304 → dst < 2 ^ 48 → dst % 512 = 0 → port →
      checkHandle .ta a.ha .rd from_ v = .ok x →
      exec (.dmaCopy .ta a) s = go { fl with
        xl := [x], tests := testsFor x (readKind a.clear) from_, dma := dmaRows x from_
        acts := from_.zipIdx.map (fun p =>
          [readAccess x a.port a.clear (.reservoir p.2 (BitVec.ofNat 48 (dst + 512 * p.2))) p.1]) } v) ∧
    (a.form = 2 → a.hb = 0 → src < 2 ^ 48 → src % 512 = 0 → dst < 98304 → checkHandle .ta a.ha .wr to_ v = .ok x →
      exec (.dmaCopy .ta a) s = go { fl with
        xl := [x], tests := testsFor x .write to_, dma := dmaRows x to_ } v) ∧
    (a.form = 3 → a.src = 0 → a.hb.toNat < 64 → tileGroup (a.hb.setWidth 6) = some ts →
      tilesReady (tileMask ts) 0 v = .ok () → dst < 98304 → n ≤ 4 * ts.length → port →
      (∀ k ∈ ts, (tileCfg v k).full = true) → checkHandle .ta a.ha .wr to_ v = .ok x →
      meets v .dma (readsRaw ts n) = none →
      exec (.dmaCopy .ta a) s = go { fl with
          tileOp := true, xl := [x], rowsIn := (rawRows v ts).take n, tests := testsFor x .write to_
          acts := writePlan x a.port to_ }
        ((rawSegs ts n).foldl (fun s g => cacheRow g.1 g.2 s) v))

/-- Remote instructions with a handle as the local end (R205, R216 to R219): with their operands in range, their port
enabled and the limit of eight not reached, PUT and MSG.SEND read its rows through a port that is not the boundary port,
TAKE, MSG.RECV and PEEK write them, FETCH up to 65,535 of them; each enters flight with one request for each row, none
of them sent. Remote instructions with an operand queue as the local end (R67, R68, R217): PUT and MSG.SEND take visible
rows at issue, TAKE, MSG.RECV and PEEK reserve the entries that they will fill. -/
def Obligations.RemoteInstructionsIssue : Prop :=
  (∀ (a : RemoteArgs) (b : FetchArgs) (x : Xlate) (sa : Option Nat) (s : State), ready .ta 2 s →
     let v := seen .ta 2 s
     let rels := strided (sreg .ta a.rs v).toNat (rowCount a.n1) 1
     let rem (q : ReqType) (retry : Bool) (rows : List RemRow) : Option Remote :=
       some (newRemote .ta q retry a.fp a.win a.node a.wr a.key (a.le.setWidth 8) x.tagged false rows a.sd sa v)
     let put (i : Instr) (retry : Bool) : Out := goesOn .ta 2 s (launched
       { newFlight .ta i .remote v with
         dests := [a.sd], xl := [x], tests := testsFor x (readKind a.clear) rels
         remote := rem .put retry (rels.map (fun _ => newRow v none none))
         acts := rels.zipIdx.map (fun p => [readAccess x a.port a.clear (.send p.2) p.1]) } (startPut a) v)
     let get (i : Instr) (q : ReqType) (retry : Bool) : Out := goesOn .ta 2 s (launched
       { newFlight .ta i .remote v with
         dests := [a.sd], xl := [x], tests := testsFor x .write rels
         remote := rem q retry (rels.map (fun k => newRow v none (some (physRow x.map k.toNat)))) } startRemote v)
     engineReady .ta .remote v = .ok () →
     (a.le.toNat < 256 → Claims.free .ta (remoteRegs a) v → (sreg .ta a.rs v).toNat < 98304 →
       (sreg .ta a.node v).toNat < 2 ^ 19 → portEnabled v a.fp = true → (sreg .ta a.wr v).toNat % 2 ^ 32 < 2 ^ 17 →
       (a.saen = true → saOk (sreg .ta a.sa v) = true) → statusArea .ta a.saen a.sa (rowCount a.n1) v = .ok sa →
       (a.port ≠ v.mould.cfg.bport → checkHandle .ta (a.le.setWidth 8) .rd rels v = .ok x →
         exec (.put .ta a) s = put (.put .ta a) false ∧ exec (.msgSend .ta a) s = put (.msgSend .ta a) true) ∧
       (checkHandle .ta (a.le.setWidth 8) .wr rels v = .ok x →
         exec (.take .ta a) s = get (.take .ta a) .take false ∧
         exec (.msgRecv .ta a) s = get (.msgRecv .ta a) .take true ∧
         exec (.peek .ta a) s = get (.peek .ta a) .peek false)) ∧
     (let n := (sreg .ta b.n v).toNat
      let rows := strided (sreg .ta b.rs v).toNat n 1
      b.le.toNat < 256 → Claims.free .ta [b.rs, b.node, b.wr, b.key, b.sd, b.n] v → (sreg .ta b.rs v).toNat < 98304 →
       (sreg .ta b.node v).toNat < 2 ^ 19 → portEnabled v b.fp = true → (sreg .ta b.wr v).toNat % 2 ^ 32 < 2 ^ 17 →
       1 ≤ n → n ≤ 65535 → checkHandle .ta (b.le.setWidth 8) .wr rows v = .ok x →
       exec (.fetch .ta b) s = goesOn .ta 2 s (launched
         { newFlight .ta (.fetch .ta b) .remote v with
           dests := [b.sd], xl := [x], tests := testsFor x .write rows
           remote := some (newRemote .ta .fetch false b.fp b.win b.node b.wr b.key (b.le.setWidth 8) x.tagged false
             (rows.map (fun k => newRow v none (some (physRow x.map k.toNat)))) b.sd none v) } startRemote v))) ∧
  (∀ (a : RemoteArgs) (sa : Option Nat) (s : State), ready .ta 2 s →
     let v := seen .ta 2 s
     let n := rowCount a.n1
     let q := a.le.toNat % 8
     let rem (r : ReqType) (retry toQueue : Bool) (rows : List RemRow) : Option Remote :=
       some (newRemote .ta r retry a.fp a.win a.node a.wr a.key 0 false toQueue rows a.sd sa v)
     let put (i : Instr) (retry : Bool) : Out := goesOn .ta 2 s (launched
       { newFlight .ta i .remote v with
         dests := [a.sd], rowsIn := popRows v q n
         remote := rem .put retry false ((popRows v q n).map (fun b => newRow v (some b) none)) } (startPut a)
       (reservePop v.nextId q n v))
     let get (i : Instr) (r : ReqType) (retry : Bool) : Out := goesOn .ta 2 s (launched
       { newFlight .ta i .remote v with
         dests := [a.sd], remote := rem r retry true (List.replicate n (newRow v none none)) } startRemote
       (reservePush v.nextId q n v))
     256 ≤ a.le.toNat → a.le.toNat < 264 → engineReady .ta .remote v = .ok () → Claims.free .ta (remoteRegs a) v →
     (sreg .ta a.node v).toNat < 2 ^ 19 → portEnabled v a.fp = true → (sreg .ta a.wr v).toNat % 2 ^ 32 < 2 ^ 17 →
     (a.saen = true → saOk (sreg .ta a.sa v) = true) → statusArea .ta a.saen a.sa n v = .ok sa →
     (queueOk .ta q false n v = .ok () → popReady q n v = .ok () →
       exec (.put .ta a) s = put (.put .ta a) false ∧ exec (.msgSend .ta a) s = put (.msgSend .ta a) true) ∧
     (queueOk .ta q true n v = .ok () → pushReady q n v = .ok () →
       exec (.take .ta a) s = get (.take .ta a) .take false ∧
       exec (.msgRecv .ta a) s = get (.msgRecv .ta a) .take true ∧
       exec (.peek .ta a) s = get (.peek .ta a) .peek false))

/-- Binding (R220 to R222) where no release has to wait; neither instruction is ever reissued. BIND leaves each named thread
bound at the handle's epoch, releasing what it held before; UNBIND releases it; no other binding changes. HSWAP (R223)
moves CURRENT and its epoch to PREVIOUS, valid while bindings remain, and installs the descriptor's mapping at the next
epoch; with PREVIOUS valid already it is PARAM_RANGE at position 0. -/
def Obligations.BindingsAndSwaps : Prop :=
  (∀ (h : BitVec 8) (m : BitVec 2) (s : State), ready .ta 1 s → s.ta.reissuing = false → m ≠ 0 →
     let v := seen .ta 1 s
     let others (s' : State) : Prop :=
       (∀ u, u ∉ maskThreads m → (getThread u s').bind = (getThread u s).bind) ∧
       (∀ k, k ≠ h → ∀ u, bindingOf (getThread u s') k = bindingOf (getThread u s) k) ∧ s'.ls = v.ls ∧ s'.sdm = s.sdm
     (∀ u ∈ maskThreads m, releaseWaits u h v = false) →
     ((getHandle s h).state ≠ .free → (getHandle s h).state ≠ .draining →
       (∀ u ∈ maskThreads m, (bindingOf (getThread u s) h).isSome = true ∨ (getThread u s).bind.length < 16) →
       ∃ s', exec (.bind .ta h m) s = .next s' ∧ others s' ∧
         (∀ u ∈ maskThreads m, bindingOf (getThread u s') h = some { h := h, epoch := (getHandle s h).epoch })) ∧
     (∃ s', exec (.unbind .ta h m) s = .next s' ∧ others s' ∧
         (∀ u ∈ maskThreads m, bindingOf (getThread u s') h = none))) ∧
  (∀ (ss : Reg) (h : BitVec 8) (s : State), ready .ta 1 s →
     let v := seen .ta 1 s
     let e := getHandle v h
     let w := sreg .ta ss v
     let m : Mapping := { base := w.setWidth 12, count := (w >>> 12).setWidth 17, mask := (w >>> 29).setWidth 24 }
     Claims.free .ta [ss] v → e.state ≠ .free → e.state ≠ .draining →
     (e.prevValid = false → w.toNat < 2 ^ 53 → entryOk v { e with cur := m } = true →
       exec (.hswap .ta ss h) s = goesOn .ta 1 s (setHandle h
         { e with prev := e.cur, prevEpoch := e.epoch, prevValid := e.refcount != 0, cur := m, epoch := e.epoch + 1 } v)) ∧
     (e.prevValid = true → exec (.hswap .ta ss h) s = faults .ta 1 fcParam 0 s))

/-- SESS.NEXT (R225, R275, R276) with the sequencer enabled, once a third outstanding list has been retired: the selected
sessions are RUNNING, each READY before and of a class within the budget, at most as many as the batch cap; a list of
them is outstanding, unless there are none; and their records and number go to SDM and SD when it completes. -/
def Obligations.SessionSelection : Prop :=
  ∀ (sa sd : Reg) (s : State), ready .ta 1 s →
    let v := seen .ta 1 s
    let a := (sreg .ta sa v).toNat
    let w := retireOldest (sessScan v)
    let sel := selectSessions w
    Claims.free .ta [sa, sd] v → v.mould.cfg.engines.getLsbD 4 = true → a % 64 = 0 → a + 512 ≤ 0x40000 →
    engineReady .ta .session v = .ok () → sdmBad w a (32 * sel.length) = none → memoriesCanonical w →
    ∃ s', exec (.sessNext .ta sa sd) s = goesOn .ta 1 s s' ∧
      s'.sess.lists = w.sess.lists ++
        (if sel = [] then [] else [{ sessions := sel.map (fun p => p.1), boundaries := 0 }]) ∧
      (∀ p ∈ sel, p.2 = getSess w p.1 ∧ p.2.state = .ready ∧ p.2.cls ≤ w.ballast.budget ∧
        getSess s' p.1 = { p.2 with state := .running, stamp := cycleStamp w }) ∧
      (∀ i, i ∉ sel.map (fun p => p.1) → getSess s' i = getSess w i) ∧
      sel.length ≤ batchCap w w.ballast.budget ∧
      ∃ f, s'.flights = v.flights ++ [f] ∧ f.dests = [sd] ∧ f.commit.regs = [(sd, BitVec.ofNat 64 sel.length)] ∧
        ∃ bytes, f.commit.sdm = [(a, bytes)] ∧ bytes.length = 32 * sel.length

/-- Spool control (R78): PREFETCH starts fills of the named lines that are absent, PIN pins those that are resident too,
UNPIN unpins, INV empties the Spool and discards what is in flight. A PIN that would leave a set with four pinned ways
is PARAM_RANGE. -/
def Obligations.SpoolControl : Prop :=
  ∀ (ss : Reg) (n1 : BitVec 6) (s : State), ready .ta 1 s →
    let v := seen .ta 1 s
    let w := sreg .ta ss v
    let ls := spoolNamed w (rowCount n1)
    let pins (a : BitVec 48) : Nat :=
      ((pinnedIn v (spoolSet v a) ++ ls.filter (fun b => spoolSet v b == spoolSet v a)).eraseDups).length
    (Claims.free .ta [ss] v → w.toNat % 128 = 0 → w.toNat < 2 ^ 48 →
      (∃ s', exec (.spoolPrefetch .ta ss n1) s = .next s' ∧ s'.spool.lines = v.spool.lines ∧
        (∀ a ∈ ls, spoolHit v a = true ∨ ∃ f ∈ s'.spool.fills, f.tag = a ∧ f.ahead = true ∧ f.discard = false)) ∧
      ((∀ a ∈ ls, pins a < 4) →
        ∃ s', exec (.spoolPin .ta ss n1) s = .next s' ∧
          (∀ a ∈ ls, (∀ l ∈ s'.spool.lines, l.tag = a → l.pinned = true) ∧
            (spoolHit v a = true ∨ ∃ f ∈ s'.spool.fills, f.tag = a ∧ f.pin = true ∧ f.discard = false))) ∧
      ((∃ a ∈ ls, 4 ≤ pins a) → exec (.spoolPin .ta ss n1) s = faults .ta 1 fcParam 0 s) ∧
      (∃ s', exec (.spoolUnpin .ta ss n1) s = .next s' ∧
        (∀ l ∈ s'.spool.lines, l.tag ∈ ls → l.pinned = false) ∧ (∀ f ∈ s'.spool.fills, f.tag ∈ ls → f.pin = false))) ∧
    (∃ s', exec (.spoolInv .ta) s = .next s' ∧ s'.spool.lines = [] ∧ (∀ f ∈ s'.spool.fills, f.discard = true) ∧
      s'.ls = v.ls ∧ s'.sdm = s.sdm)

/-- A request that arrives in sequence at a live port, for this node and within the port's credits (R286, R288, R298, R299,
R381): it is acknowledged and takes the next SEQ, it is served by the window it names, and the port sends what it can; a
request that a check of Table 13.4 refuses is answered DENIED, and its space freed (R293). A response that arrives in
sequence at a live port and matches a tracker entry of a row that waits for it (R216, R217, R294): data goes to the
row's destination, a status becomes the row's. Without a match it is an orphan and is counted. -/
def Obligations.RemoteBlocksAreServed : Prop :=
  (∀ (p : BitVec 2) (b : Block) (s : State), portLive s p = true → flitsOf b ≤ (getPort s p).space →
     b.seq = (getPort s p).rxSeq → b.dst = s.fab.nodeId →
     let q := getPort s p
     let s1 := readCfg cfgNode (sendLink p true b.seq (takeFlits p (flitsOf b)
       (setPort p { q with rxSeq := q.rxSeq + 1, discarding := false, discards := 0 } (passLull s))))
     let s2 := readCfg (getWindow s b.win.toNat).handle.toNat (readCfg (cfgWindow b.win.toNat) s1)
     let serve (r : ReqType) (c : BitVec 4 × Bool) (i : Instr) : Prop := b.typ = c.1 → b.data = c.2 →
       exec i s = .next (pump p (acceptRequest p b r s1)) ∧
       (∀ why, windowCheck s2 r b.win b.wr b.key b.src = .error why →
         exec i s = .next (pump p (sendResponse p
           (responseBlock (denyRequest b.win why b.src s2) b.src b.txn b.win stDenied none)
           (freeFlits p (if b.data then 18 else 2) (denyRequest b.win why b.src s2)))))
     serve .put (1, true) (.putReq p b) ∧ serve .take (2, false) (.takeReq p b) ∧ serve .peek (3, false) (.peekReq p b) ∧
       serve .fetch (4, false) (.fetchReq p b)) ∧
  (∀ (p : BitVec 2) (b : Block) (s : State), portLive s p = true → flitsOf b ≤ (getPort s p).space →
     b.seq = (getPort s p).rxSeq → b.dst = s.fab.nodeId →
     let q := getPort s p
     let s1 := readCfg cfgNode (sendLink p true b.seq (takeFlits p (flitsOf b)
       (setPort p { q with rxSeq := q.rxSeq + 1, discarding := false, discards := 0 } (passLull s))))
     let mine (t : Track) : Bool := t.txn == b.txn && t.node == b.src && awaits s t
     (∀ (t : Track) (f : Flight) (r : Remote) (x : RemRow), q.tracker.find? mine = some t →
         remoteRow s t.fid t.row = some (f, r, x) →
       (b.typ = 5 → b.data = true →
         exec (.dataRsp p b) s = .next (pump p (rowArrived t.fid t.row (some p) (fitBytes 512 b.row) s1))) ∧
       (b.typ = 6 → b.data = false →
         exec (.statusRsp p b) s = .next (pump p (freeFlits p 2 (rowStatus t.fid t.row b.status s1))))) ∧
     (q.tracker.find? mine = none →
       (b.typ = 5 → b.data = true →
         exec (.dataRsp p b) s = .next (pump p (freeFlits p 18 (bump (cntFabOrphan p.toNat) 1 s1)))) ∧
       (b.typ = 6 → b.data = false →
         exec (.statusRsp p b) s = .next (pump p (freeFlits p 2 (bump (cntFabOrphan p.toNat) 1 s1))))))

/-- Link units, resends, credits and link failures (R288, R289, R381): an ACK drops its block and every earlier one from the
replay buffer, a NAK and a missing answer have it and every later one sent again, eight resends that fail take the port
DOWN, a returned credit is one more up to 1,023; a damaged block is counted and answered with a NAK of the SEQ expected,
its credits returned (the model's choice, log entry 9), a ninth failure of one SEQ takes the port DOWN, a damaged link
unit is only counted, and a block out of sequence is only discarded. Rows of remote instructions whose time has come
(R218, R291, R294): a row whose gap has passed is offered again, behind the rows issued before, and counted, and a row
without a response within the limit ends DENIED with event 0x304. -/
def Obligations.LinkUnitsAndTimers : Prop :=
  (∀ (p : BitVec 2) (seq : BitVec 8) (pre post : List Sent) (x : Sent) (s : State), portLive s p = true →
     let s0 := passLull s
     let q := getPort s p
     let again := pre ++ (x :: post).map (fun y => { y with resend := true })
     (q.replay = pre ++ x :: post → x.b.seq = seq → (∀ y ∈ pre, y.b.seq ≠ seq) →
       exec (.link p true seq) s = .next (pump p (setPort p { q with replay := post } s0)) ∧
       (x.resends < 8 →
         exec (.link p false seq) s = .next (pump p (setPort p { q with replay := again } s0)) ∧
         exec (.linkNoAnswerResend p seq) s = .next (pump p (setPort p { q with replay := again } s0))) ∧
       (8 ≤ x.resends →
         exec (.link p false seq) s = .next (goDown p s0) ∧ exec (.linkNoAnswerResend p seq) s = .next (goDown p s0))) ∧
     exec (.fabricCreditReturn p) s = .next (pump p (setPort p { q with credits := min 1023 (q.credits + 1) } s0)) ∧
     (∀ k d, let s1 := discardFlits p (if d then 18 else 2) s0
       let n := if k = q.rxSeq then q.discards + 1 else q.discards
       let failed (s1 : State) : State := bump (cntFabCrc p.toNat) 1
         (setPort p { getPort s1 p with discarding := true, discards := n } s1)
       let answer (s1 : State) : Out :=
         .next (if 9 ≤ n then goDown p (failed s1) else pump p (sendLink p false q.rxSeq (failed s1)))
       exec (.linkCrcFailure p (.blockCrc d) k) s = answer s1 ∧ exec (.linkCrcFailure p .noCredit k) s = answer s0 ∧
       exec (.linkCrcFailure p (.outOfSeq d) k) s = .next s1) ∧
     (∀ k, exec (.linkCrcFailure p .unitCrc k) s = .next (bump (cntFabCrc p.toNat) 1 s0))) ∧
  (∀ (fid i : Nat) (p : BitVec 2) (n : BitVec 6) (f : Flight) (r : Remote) (x : RemRow) (t : Track) (s : State),
     let s0 := passLull s
     (remoteRow s fid i = some (f, r, x) → x.phase = .retry 0 →
       exec (.msgRetry fid i) s = .next (offerRows fid (bump cntMsgRetries 1
         (modRemRow fid i (fun y => { y with phase := .todo, stamp := s.nextId }) s0)))) ∧
     ((getPort s p).tracker.find? (fun t => t.txn == n && awaits s t) = some t → s.fab.rspLimit ≠ 0 →
       s.fab.rspLimit.toNat ≤ t.age →
       exec (.fabRspTimeout p n) s = .next (pump p (rowStatus t.fid t.row stDenied (freeTrack p t.fid t.row
         (logEvent 0x304 (p.toNat + 256 * n.toNat) (bump (cntFabTimeout p.toNat) 1 s0)))))))

/-- The boundary port performs the oldest access that waits, in the first cycle in which its stack serves no scheduled
access, and counts it (R104, R279): a write puts its row into the local store and makes a TAGGED row FULL, a read
delivers the row as it stands, or as it stood when a TAKE accepted it (R108). -/
def Obligations.BoundaryAccessesInOrder : Prop :=
  ∀ (b : BAccess) (bs : List BAccess) (s u : State), reach boundaryReady s = some u → u.ls.boundary = b :: bs →
    let s1 := countBoundary { u with ls := { u.ls with busy := some (stackOf b.phys), boundary := bs } }
    s1.ballast.boundaryRows = u.ballast.boundaryRows + 1 ∧
    (∀ row, b.row = some row → exec .boundaryAccess s = .next (boundaryWrite b row s1) ∧
      (memoriesCanonical u →
        readRow (boundaryWrite b row s1) b.phys = fitBytes 512 row ∧
        (b.tagged = true → getTag (boundaryWrite b row s1) b.phys = .full) ∧
        (∀ k, k ≠ b.phys → readRow (boundaryWrite b row s1) k = readRow u k ∧
          getTag (boundaryWrite b row s1) k = getTag u k))) ∧
    (b.row = none → exec .boundaryAccess s = .next (boundaryRead b s1))

/-- Answers of the reservoir (R211, R214, R215, R384, R385): a row read for a DMA.COPY is queued for the boundary port, an
error ends that row with event 0x306, and an acknowledged row of a copy to the reservoir is done and counted. A filled
line becomes resident unless its fill was discarded, and a thread that waited for it goes on, once no other fill that it
waits for is in flight; an error of a demand fill faults it with SPOOL_FETCH and the line's address (R77, R79; the
model's choice of the address, log entry 56). -/
def Obligations.ReservoirAnswers : Prop :=
  (∀ (id : BitVec 6) (r : ResReq) (fid i : Nat) (f : Flight) (d : DmaRow) (data : Bytes) (s : State),
     let s0 := passLull s
     f.dma[i]? = some d → findFlight fid s = some f →
     (s.res.reads.find? (fun q => q.id == some id) = some r → r.use = .dmaIn fid i →
       let t := reservoirPump { s0 with res := { s.res with reads := s.res.reads.erase r } }
       exec (.reservoirReadResponse id false data) s = .next (queueBoundary
         { phys := d.phys, handle := (xlate f 0).h, tagged := (xlate f 0).tagged, row := some (fitBytes 512 data)
           use := .dma fid i, buffer := none, taken := none } t) ∧
       exec (.reservoirReadResponse id true data) s = .next (dmaError fid i r.address t)) ∧
     (s.res.writes.find? (fun q => q.id == some id) = some r → r.use = .dmaOut fid i →
       let t := reservoirPump { s0 with res := { s.res with writes := s.res.writes.erase r } }
       exec (.reservoirWriteAck id false) s = .next (bump cntDmaOut 1 (dmaRowDone fid i t)) ∧
       exec (.reservoirWriteAck id true) s = .next (dmaError fid i r.address t))) ∧
  (∀ (th : Thread) (line : BitVec 48) (r : ResReq) (f : SpoolFill) (data : Bytes) (s : State),
     s.res.reads.find? (fun r => r.id.isSome && r.use == .fill line) = some r →
     s.spool.fills.find? (fun f => f.tag == line) = some f → f.discard = false → f.ahead = false →
     f.demandTa = decide (th = .ta) → f.demandTx = decide (th = .tx) → (getThread th s).wait = .spool →
     let t := reservoirPump { passLull s with
       res := { s.res with reads := s.res.reads.erase r }, spool := { s.spool with fills := s.spool.fills.erase f } }
     let t' := installLine { tag := line, pinned := f.pin, data := fitBytes 128 data } t
     exec (.spoolFillArrival line false data) s = .next (if fetchOutstanding th t' then t' else setWait th .none t') ∧
     spoolHit t' line = true ∧
     exec (.spoolFillArrival line true data) s = .next (issueFault th fcSpool (line.setWidth 64) t))

/-- MX.MM issues when its operands are in order (R144, R145, R147, R160), natively and in C3 mode with shapes that fit
(R128, R129, R418). MV.GEMV issues when its operands are in order (R168 to R180), natively and in C3 mode with shapes
that fit (R129, R418); the weight format of the TDC-3 form is a free value (log entry 6). -/
def Obligations.ProductsIssue : Prop :=
  (∀ (a : MxMmArgs) (r : ShapeRecs) (s : State),
     (ready .tx 2 s → mmReady none none a (seen .tx 2 s) →
       exec (.mxMm .tx a) s = goesOn .tx 2 s (mmIssued (.mxMm .tx a) none none a (seen .tx 2 s))) ∧
     (ready .tx 3 s → s.tx.c3 = true → a.half = false → a.fmta = 0 → a.fmtw = 0 → a.ftz = false →
       recLegal a.a r.r0 = true → recLegal a.w r.r1 = true → r.r2 = 0 → r.r3 = 0 → recOverflow (c3MmSlots a r) = none →
       mmReady (c3Carried a.a r.r0) (c3Carried a.w r.r1) a (seen .tx 3 s) →
       exec (.tdc3MxMm .tx a r) s = goesOn .tx 3 s
         (mmIssued (.tdc3MxMm .tx a r) (c3Carried a.a r.r0) (c3Carried a.w r.r1) a (seen .tx 3 s)))) ∧
  (∀ (a : MvGemvArgs) (r : ShapeRecs) (xs : List Xlate) (s : State),
     (ready .tx 2 s → gemvReady none a xs (seen .tx 2 s) →
       exec (.mvGemv .tx a) s = goesOn .tx 2 s (gemvIssued (.mvGemv .tx a) none a xs (seen .tx 2 s))) ∧
     (let b := { a with conv := c3Conv a.conv }
      ready .tx 3 s → s.tx.c3 = true → a.fmtw = 0 → c3ConvZero a.conv = true →
       (∀ p ∈ c3GemvSlots a r, recLegal p.1 p.2 = true) → recOverflow (c3GemvSlots a r) = none →
       gemvReady (some (c3Gemv a r)) b xs (seen .tx 3 s) →
       exec (.tdc3MvGemv .tx a r) s = goesOn .tx 3 s
         (gemvIssued (.tdc3MvGemv .tx a r) (some (c3Gemv a r)) b xs (seen .tx 3 s))))

/-- The loads of the stationary (R151, R152): MX.WLD from tiles, MX.WLD.T transposed from a handle's rows. MX.CONV and
MX.DRAIN issue when their operands are in order (R153 to R155, R161 to R164, R236). -/
def Obligations.StationaryConvolutionAndDrainIssue : Prop :=
  (∀ (a : MxWldArgs) (b : MxWldTArgs) (x : Xlate) (xs ys : List Xlate) (s : State), ready .tx 1 s →
     let v := seen .tx 1 s
     enginePresent 0 v = .ok () →
     (let o := (tilesOpd v none a.w).getD Opd.none
      let n := 1024 * wldBlocks o
      slotIsTiles a.w = true → tilesReady (opdMask o) 0 v = .ok () → halfOk v a.half = true →
       engineReady .tx (mxEngine a.half) v = .ok () → sourcesFull [o] v = .ok () → badFormat mxeFmt o = none →
       sourceBad o n = [] → handlesOk .tx (opdExpUses o 0 n) v = .ok ys →
       exec (.mxWld .tx a) s = goesOn .tx 1 s (launched
         { newFlight .tx (.mxWld .tx a) (mxEngine a.half) v with
           tileOp := true, rdTiles := opdMask o, acts := expansionPlan (opdExpRows v o 0 n), mxRun := some loadRun
           stat := some (wldBlocks o, fmtCode o.fmt) } (startWld o a.half) v)) ∧
     (let r0 := (sreg .tx b.rs v).toNat
      let d := (sreg .tx b.stride v).toInt
      let rels := wldTRows b r0 d
      let fm := codeFmt b.fmtw
      codesLegal [b.fmtw] = .ok () → Claims.free .tx [b.rs, b.stride] v → b.port ≠ v.mould.cfg.bport →
       halfOk v b.half = true → r0 < 98304 → -2048 ≤ d → d ≤ 2047 → d ≠ 0 →
       engineReady .tx (mxEngine b.half) v = .ok () → wldTFmt fm = true →
       handlesOk .tx ({ h := b.h, epoch := none, needs := [.rd], rels := rels } ::
         handleExpUses v b.h fm (wldTElems b rels)) v = .ok (x :: xs) →
       exec (.mxWldT .tx b) s = goesOn .tx 1 s (launched
         { newFlight .tx (.mxWldT .tx b) (mxEngine b.half) v with
           xl := [x], opv := [sreg .tx b.rs v, sreg .tx b.stride v, expansionWord v b.h], mxRun := some loadRun
           stat := some (1, b.fmtw), tests := testsFor x (readKind b.clear) rels
           acts := expansionPlan (handleExpRows v x b.port fm (wldTElems b rels)) ++
             readPlan x b.port b.clear rels } startPlain v))) ∧
  (∀ (a : MxConvArgs) (b : MxDrainArgs) (x : Xlate) (xs : List Xlate) (s : State), ready .tx 2 s →
     let v := seen .tx 2 s
     enginePresent 0 v = .ok () →
     (let r0 := (sreg .tx a.rs v).toNat
      let v1 := sreg .tx a.cvg1 v
      let v2 := sreg .tx a.cvg2 v
      let g := readGeometry v1 v2
      let cs := mxChunks v a.half a.acc.toNat g.n
      let w := convWeights v a g cs
      let ow := opdOf v none a.w a.fmtw
      let fm := codeFmt a.fmta
      let rels := strided r0 g.rows 1
      let elems := (convElems g).map (fun i => r0 * rowElems fm + i)
      slotIsOpd a.w = true → codesLegal [a.fmta, a.fmtw] = .ok () → Claims.free .tx [a.rs, a.cvg1, a.cvg2] v →
       tilesReady (opdMask ow) 0 v = .ok () → a.port ≠ v.mould.cfg.bport → a.port2 ≠ v.mould.cfg.bport →
       a.port ≠ a.port2 → halfOk v a.half = true → r0 < 98304 → cvg1Ok v1 g = true → v2.toNat < 2 ^ 28 →
       nLimit v a.half g.n = true → setsOk v a.half a.acc cs = true →
       (a.accum = true → accsReady (chunkMask cs) v = .ok ()) → queuesOk .tx [(ow, w.2.2)] [] v = .ok () →
       queuesReady [(ow, w.2.2)] [] v = .ok () → engineReady .tx (mxEngine a.half) v = .ok () → sourcesFull [ow] v = .ok () →
       badTypes v a.accum false (chunkMask cs) = none → convFmt fm = true → badFormat mxeFmt ow = none →
       (∀ e ∈ convElems g, e < g.rows * rowElems fm) → sourceBad ow w.2.1 = [] →
       handlesOk .tx ({ h := a.h, epoch := none, needs := [.rd], rels := rels } ::
         handleExpUses v a.h fm elems ++ opdExpUses ow 0 w.2.1) v = .ok (x :: xs) →
       exec (.mxConv .tx a) s = goesOn .tx 2 s (launched
         { newFlight .tx (.mxConv .tx a) (mxEngine a.half) v with
           tileOp := true, rdTiles := opdMask ow, wrAcc := chunkMask cs, xl := [x]
           opv := [sreg .tx a.rs v, v1, v2, expansionWord v a.h], mxRun := some (convRun a g ow.fmt cs.length)
           stat := some (1, fmtCode ow.fmt), tests := testsFor x (readKind a.clear) rels
           acts := expansionPlan (handleExpRows v x a.port fm elems ++ onPort a.port (opdExpRows v ow 0 w.2.1)) ++
             pairPlan x a.port a.port2 a.clear rels }
         (startConv a) (reserveQueues v.nextId [(ow, w.2.2)] [] v))) ∧
     (let d := sreg .tx b.drd v
      let sets := drainSets b
      let r0 := field d 0 8
      let r := field d 8 9
      let n := 32 * (sets.length * r)
      let dst := drainDest v b n
      let od := opdOf v none b.d b.conv.dfmt
      slotIsOpd b.d = true → convLegal b.conv = .ok () → Claims.free .tx [b.drd] v → tilesReady 0 (opdMask od) v = .ok () →
       halfOk v b.half = true → (v.mould.cfg.half = true → ∀ i ∈ sets, i / 2 = (if b.half then 1 else 0)) →
       (v.mould.cfg.half = false → ∀ i ∈ sets, i < 4) → b.conv.amx.toNat < 8 → d.toNat < 2 ^ 17 →
       1 ≤ r → r0 + r ≤ 256 → accsReady (setMask sets) v = .ok () → queuesOk .tx [] [dst] v = .ok () →
       queuesReady [] [dst] v = .ok () → engineReady .tx (drainEngine v b.half) v = .ok () →
       shapeBad od (codeFmt b.conv.dfmt) n = [] →
       exec (.mxDrain .tx b) s = goesOn .tx 2 s (launched
         { newFlight .tx (.mxDrain .tx b) (drainEngine v b.half) v with
           tileOp := true, wrTiles := opdMask od, rdAcc := setMask sets, sr := convSr b.conv, opv := [d] }
         (startDrain r0 r) (reserveQueues v.nextId [] [dst] v))))

/-- VX.EW with one micro-op and EP.RUN with a loaded program issue when their operands are in order (R181 to R191), and the
TDC-3 VX.EW with shapes that fit (R129, R418). Reductions, scans and conversions issue when their operands are in order
(R192 to R202), and the TDC-3 forms of VX.RED and CVT with shapes that fit (R129, R418). -/
def Obligations.VectorEngineInstructionsIssue : Prop :=
  (∀ (a : VxEwArgs) (b : EpRunArgs) (p : Program) (r : ShapeRecs) (s : State),
     let c3 := { a with conv := c3Conv a.conv }
     (slotsLegal [a.i0, a.i1, a.i2, a.d] = .ok () → codesLegal [a.wf, a.f0, a.f1, a.f2] = .ok () →
       (uopArity a.uop.toNat).isSome = true → enginePresent 2 s = .ok () → ewWf a = none →
       (ready .tx 2 s → convLegal a.conv = .ok () →
         ewReady none (ewArgs a) (ewNin a) (codeFmt a.wf) true (seen .tx 2 s) →
         exec (.vxEw .tx a) s = goesOn .tx 2 s
           (ewIssued (.vxEw .tx a) none (ewArgs a) (ewNin a) none (seen .tx 2 s))) ∧
       (ready .tx 3 s → s.tx.c3 = true → a.group = false → a.f0 = 0 → a.f1 = 0 → a.f2 = 0 → c3ConvZero a.conv = true →
         (∀ p ∈ c3EwSlots a r, recLegal p.1 p.2 = true) → recOverflow (c3EwSlots a r) = none →
         ewReady (some (c3Ew a r)) (ewArgs c3) (ewNin c3) (codeFmt a.wf) true (seen .tx 3 s) →
         exec (.tdc3VxEw .tx a r) s = goesOn .tx 3 s
           (ewIssued (.tdc3VxEw .tx a r) (some (c3Ew a r)) (ewArgs c3) (ewNin c3) none (seen .tx 3 s)))) ∧
     (ready .tx 2 s → slotsLegal [b.i0, b.i1, b.i2, b.d] = .ok () → codesLegal [b.f0, b.f1, b.f2] = .ok () →
       convLegal b.conv = .ok () → enginePresent 2 s = .ok () → vxSlot s b.slot.toNat = some p →
       ewReady none (epArgs b) p.nin (codeFmt p.wf) false (seen .tx 2 s) →
       exec (.epRun .tx b) s = goesOn .tx 2 s
         (ewIssued (.epRun .tx b) none (epArgs b) p.nin (some b.slot) (seen .tx 2 s)))) ∧
  (∀ (a : VxRedArgs) (b : VxScanArgs) (c : CvtArgs) (r : ShapeRecs) (s : State),
     (ready .tx 2 s → redReady none a (seen .tx 2 s) →
       exec (.vxRed .tx a) s = goesOn .tx 2 s (redIssued (.vxRed .tx a) none a (seen .tx 2 s))) ∧
     (ready .tx 3 s → s.tx.c3 = true → a.group = false → a.f0 = 0 → a.rnd = 0 → a.ftz = false → a.ieee = false →
       recLegal a.i0 r.r0 = true → r.r1 = 0 → r.r2 = 0 → r.r3 = 0 → recOverflow [(a.i0, r.r0)] = none →
       redReady (c3Carried a.i0 r.r0) a (seen .tx 3 s) →
       exec (.tdc3VxRed .tx a r) s = goesOn .tx 3 s
         (redIssued (.tdc3VxRed .tx a r) (c3Carried a.i0 r.r0) a (seen .tx 3 s))) ∧
     (ready .tx 2 s → scanReady false b (seen .tx 2 s) →
       exec (.vxScan .tx b) s = goesOn .tx 2 s (scanIssued (.vxScan .tx b) false b (seen .tx 2 s))) ∧
     (ready .tx 2 s → scanReady true b (seen .tx 2 s) →
       exec (.vxSegscan .tx b) s = goesOn .tx 2 s (scanIssued (.vxSegscan .tx b) true b (seen .tx 2 s))) ∧
     (ready .tx 2 s → cvtReady none none c (seen .tx 2 s) →
       exec (.cvt .tx c) s = goesOn .tx 2 s (cvtIssued (.cvt .tx c) none none c (seen .tx 2 s))) ∧
     (ready .tx 3 s → s.tx.c3 = true → c.group = false → c.f0 = 0 → c3ConvZero c.conv = true → recLegal c.i0 r.r0 = true →
       recLegal c.d r.r1 = true → r.r2 = 0 → r.r3 = 0 → recOverflow [(c.i0, r.r0), (c.d, r.r1)] = none →
       cvtReady (c3Carried c.i0 r.r0) (c3Carried c.d r.r1) (c3Cvt c) (seen .tx 3 s) →
       exec (.tdc3Cvt .tx c r) s = goesOn .tx 3 s
         (cvtIssued (.tdc3Cvt .tx c r) (c3Carried c.i0 r.r0) (c3Carried c.d r.r1) (c3Cvt c) (seen .tx 3 s))))

/-- Glaze steps and sparse updates issue when their operands are in order (R239 to R256). -/
def Obligations.GlazeInstructionsIssue : Prop :=
  ∀ (a : GlzArgs) (xs : List Xlate) (s : State), ready .tx 2 s →
    let v := seen .tx 2 s
    (glazeReady false a xs v → exec (.glzStep .tx a) s = goesOn .tx 2 s (glazeIssued (.glzStep .tx a) false a xs v)) ∧
    (glazeReady true a xs v → exec (.glzRows .tx a) s = goesOn .tx 2 s (glazeIssued (.glzRows .tx a) true a xs v))

/-- Tile configuration and element programs (R119, R121 to R124, R136, R185, R250): TCFG and TCFG.R give each named tile the
shape, emptying those that change; TREL empties the named tiles; an inconsistent shape is TCFG_INVALID with the lowest
tile; TREL waits while an instruction in flight names one of its tiles; EP.LOAD takes its program from row 0 of three
tiles. -/
def Obligations.TileConfiguration : Prop :=
  ∀ (m : BitVec 16) (rows1 : BitVec 5) (bytes1 : BitVec 6) (fmt : BitVec 4) (r : Reg) (k : BitVec 3) (n : BitVec 4)
    (p : Program) (s : State), ready .tx 1 s → memoriesCanonical s →
    let v := seen .tx 1 s
    let done (s' : State) : Prop :=
      (∀ i, i ∈ tilesOf m → (tileCfg s' i).rows1 = rows1 ∧ (tileCfg s' i).bytes1 = bytes1 ∧ (tileCfg s' i).fmt = fmt ∧
        (if changesConfig rows1 bytes1 fmt (tileCfg s i) then (tileCfg s' i).full = false ∧ (tileCfg s' i).valid = 0
         else tileCfg s' i = tileCfg s i)) ∧
      (∀ i, i ∉ tilesOf m → tileCfg s' i = tileCfg s i) ∧ s'.tiles.data = s.tiles.data ∧ (∀ u q, sreg u q s' = sreg u q s)
    let shape := shapeOk (rows1.toNat + 1) (bytes1.toNat + 1) fmt
    (m ≠ 0 → shape = true → tilesNamed m v = false →
      (∃ s', exec (.tcfg .tx m rows1 bytes1 fmt) s = .next s' ∧ done s') ∧
      (Claims.free .tx [r] v →
        (sreg .tx r v).toNat % 2 ^ 20 = rows1.toNat + 2 ^ 5 * bytes1.toNat + 2 ^ 11 * fmt.toNat →
        ∃ s', exec (.tcfgR .tx r m) s = .next s' ∧ done s')) ∧
    (m ≠ 0 → shape = false →
      exec (.tcfg .tx m rows1 bytes1 fmt) s = faults .tx 1 fcTcfg (BitVec.ofNat 64 (lowestTile m)) s) ∧
    (m ≠ 0 → tilesNamed m v = false → ∃ s', exec (.trel .tx m) s = .next s' ∧
      (∀ i, i ∈ tilesOf m → (tileCfg s' i).full = false ∧ (tileCfg s' i).valid = 0 ∧ (tileCfg s' i).xtag = XTag.none ∧
        (tileCfg s' i).rows1 = (tileCfg s i).rows1 ∧ (tileCfg s' i).bytes1 = (tileCfg s i).bytes1 ∧
        (tileCfg s' i).fmt = (tileCfg s i).fmt) ∧
      (∀ i, i ∉ tilesOf m → tileCfg s' i = tileCfg s i)) ∧
    (m ≠ 0 → tilesNamed m v = true → exec (.trel .tx m) s = waits .tx 1 .interlock s) ∧
    (n.toNat ≤ 13 → enginePresent 2 s = .ok () → tilesReady (tileMask [n.toNat, n.toNat + 1, n.toNat + 2]) 0 v = .ok () →
      (∀ f ∈ liveFlights v, f.slot ≠ some k) → tilesFull [n.toNat, n.toNat + 1, n.toNat + 2] s = .ok () →
      s.upsets.parity = [] →
      programOf (tileRow s n.toNat 0) (tileRow s (n.toNat + 1) 0) (tileRow s (n.toNat + 2) 0) = some p →
      ∃ s', exec (.epLoad .tx k n) s = .next s' ∧ vxSlot s' k.toNat = some p ∧
        (∀ j, j ≠ k.toNat → vxSlot s' j = vxSlot s j) ∧ s'.tiles.data = s.tiles.data)

/-- The instructions of one thread only fault at the other with ILLEGAL_OP (R19): those of the access stream at TX, those of
the execute stream at TA. One that names an engine that is fused off or disabled faults with ENGINE_ABSENT and the
engine's number (R3), MXE 0, MVP 1, VXE 2, Glaze 3, session sequencer 4. -/
def Obligations.WrongThreadAndAbsentEngineFault : Prop :=
  ∀ (a : LsArgs) (q : LsqArgs) (g : LsTagArgs) (m : TileMoveArgs) (l : TldTArgs) (c : TctxArgs) (d : DmaArgs)
    (p : RemoteArgs) (e : FetchArgs) (w : MxWldArgs) (wt : MxWldTArgs) (mm : MxMmArgs) (cv : MxConvArgs) (dr : MxDrainArgs)
    (mv : MvGemvArgs) (ew : VxEwArgs) (ep : EpRunArgs) (rd : VxRedArgs) (sc : VxScanArgs) (ct : CvtArgs) (z : GlzArgs)
    (rs : ShapeRecs) (r1 r2 : Reg) (h : BitVec 8) (b2 : BitVec 2) (n1 b6 : BitVec 6) (m16 : BitVec 16) (b5 : BitVec 5)
    (b4 : BitVec 4) (b3 : BitVec 3) (s : State),
    (ready .tx 1 s → ∀ i ∈ [Instr.lsRd .tx a, .lsWr .tx a, .lsRq .tx q, .lsRqS .tx q, .lsWq .tx q, .lsTag .tx g, .tld .tx m,
        .tldS .tx m, .tldT .tx l, .tst .tx m, .tstS .tx m, .tctxSave .tx c, .tctxLoad .tx c, .dmaCopy .tx d, .bind .tx h b2,
        .unbind .tx h b2, .hswap .tx r1 h, .spoolPrefetch .tx r1 n1, .spoolPin .tx r1 n1, .spoolUnpin .tx r1 n1,
        .spoolInv .tx, .sessNext .tx r1 r2], exec i s = faults .tx 1 fcIllegal 0 s) ∧
    (ready .tx 2 s → ∀ i ∈ [Instr.put .tx p, .msgSend .tx p, .take .tx p, .msgRecv .tx p, .peek .tx p, .fetch .tx e],
      exec i s = faults .tx 2 fcIllegal 0 s) ∧
    (ready .ta 1 s → ∀ i ∈ [Instr.mxWld .ta w, .mxWldT .ta wt, .tcfg .ta m16 b5 b6 b4, .tcfgR .ta r1 m16, .trel .ta m16,
        .epLoad .ta b3 b4], exec i s = faults .ta 1 fcIllegal 0 s) ∧
    (ready .ta 2 s → ∀ i ∈ [Instr.mxMm .ta mm, .mxConv .ta cv, .mxDrain .ta dr, .mvGemv .ta mv, .vxEw .ta ew, .epRun .ta ep,
        .vxRed .ta rd, .vxScan .ta sc, .vxSegscan .ta sc, .cvt .ta ct, .glzStep .ta z, .glzRows .ta z],
      exec i s = faults .ta 2 fcIllegal 0 s) ∧
    (ready .ta 3 s → ∀ i ∈ [Instr.tdc3MxMm .ta mm rs, .tdc3MvGemv .ta mv rs, .tdc3VxEw .ta ew rs, .tdc3VxRed .ta rd rs,
        .tdc3Cvt .ta ct rs], exec i s = faults .ta 3 fcIllegal 0 s) ∧
    (let gone (k : Nat) : Prop := s.mould.cfg.engines.getLsbD k = false
     (ready .tx 1 s → slotsLegal [w.w] = .ok () → gone 0 → exec (.mxWld .tx w) s = faults .tx 1 fcAbsent 0 s) ∧
     (ready .tx 2 s → slotsLegal [mv.va, mv.vb, mv.d, mv.d2] = .ok () → codesLegal [mv.fmtw] = .ok () →
       convLegal mv.conv = .ok () → gone 1 → exec (.mvGemv .tx mv) s = faults .tx 2 fcAbsent 1 s) ∧
     (ready .tx 1 s → gone 2 → exec (.epLoad .tx b3 b4) s = faults .tx 1 fcAbsent 2 s) ∧
     (ready .tx 2 s → slotsLegal [z.grad] = .ok () → codesLegal [z.pfmt, z.gfmt] = .ok () →
       (rndOfCode z.rnd).isSome = true → gone 3 → exec (.glzStep .tx z) s = faults .tx 2 fcAbsent 3 s) ∧
     (ready .ta 1 s → gone 4 → exec (.sessNext .ta r1 r2) s = faults .ta 1 fcAbsent 4 s))

/-- A tag test (R107, Table 04.3): a write claims an EMPTY row, a CLEAR read a FULL one, and a KEEP read needs FULL or
R-CLAIM and takes no claim; every other tag fails the test and stays. A copy of the tag that disagrees is repaired and
counted (R112). Tag waits (R66, R109, R111): in a cycle the failed tests of a waiting instruction and up to 32 new ones
are made; while one fails the wait counts, and once all pass the accesses begin with the next cycle. TAG_TEST_PASS is
the cycles in which they come to pass. Beyond TAG_WAIT_LIMIT the instruction leaves flight, gives its claims back and
faults with TAG_TIMEOUT at its own PC. -/
def Obligations.TagTestsAndWaits : Prop :=
  (∀ (x : TagTest) (s : State), x.passed = false →
     let g := getTag s x.phys
     let r := tagTest x s
     let took := (x.kind = .write ∧ g = .empty) ∨ (x.kind = .clear ∧ g = .full)
     (r.1.passed = true ↔ took ∨ (x.kind = .keep ∧ (g = .full ∨ g = .rclaim))) ∧
     (took → getTag r.2 x.phys = if x.kind = .write then .wclaim else .rclaim) ∧
     (¬took → getTag r.2 x.phys = g) ∧ (∀ p, p ≠ x.phys → getTag r.2 p = getTag s p) ∧
     r.2.ls.rows = s.ls.rows ∧ r.1.phys = x.phys ∧
     counter r.2 cntTagCorr =
       if s.upsets.tags.contains x.phys then min (2 ^ 48 - 1) (counter s cntTagCorr + 1) else counter s cntTagCorr) ∧
  (∀ (f : Flight) (s : State), findFlight f.id s = some f → waitsOnTags f = true → unjudged f = false →
     let g := (testCycle f s).1
     let s1 := modFlight f.id (fun _ => g) (testCycle f s).2
     let begun := { g with notBefore := max g.notBefore (s.ls.round + 1) }
     let u := passUntil (fun s => (tagWaiting f.id s).isNone) 2 (passLull s)
     (testFailed g = true → waitTick f.id s = modFlight f.id (fun g => { g with tagWait := g.tagWait + 1 }) s1) ∧
     (allPassed g = true → waitTick f.id s = startFlight begun (modThread f.thread (fun th =>
       { th with nextIssue := max th.nextIssue (s.ls.round + 1) }) (modFlight f.id (fun _ => begun) s1))) ∧
     ((tagWaiting f.id u).isNone = true → exec (.tagTestPass f.id) s = .next u) ∧
     (gated f s = false → s.ls.waitLimit ≠ 0 → s.ls.waitLimit.toNat < f.tagWait → testFailed f = true →
       let fault := exec (.tagTimeout f.id) s
       let th := getThread f.thread s
       (th.phase = .normal → th.stopped = false → th.paused = false →
         fault = .next (issueFault f.thread fcTagTimeout (timeoutDetail f)
           (unissue f (releaseTests f.tests (passLull s))))) ∧
       (th.phase ≠ .normal ∨ th.stopped = true ∨ th.paused = true →
         fault = .next (execFault f.id fcTagTimeout (timeoutDetail f) (passLull s)))))

/-- The next read of an instruction returns once it is due (R100, R114): the data does what it was read for, and a word that
could not be corrected is logged and faults the instruction with LS_UNCORR. An instruction that has made its accesses
and is done completes: it commits all that it computes in one step and leaves flight (R44, R65, R207); of an LS.RD that
is the rows that it read, in SDM at its address (R208). -/
def Obligations.ReadsReturnAndInstructionsComplete : Prop :=
  (∀ (f : Flight) (d : DueRead) (ds : List DueRead) (s u : State), reach (readDue f.id) s = some u →
     findFlight f.id u = some f → f.faulted = none → gated f u = false → f.due = d :: ds →
     let rest := { f with due := ds }
     (d.bad = none → exec (.lsReadReturn f.id) s = .next (applyReturn rest d (modFlight f.id (fun _ => rest) u))) ∧
     (∀ w, d.bad = some w → exec (.lsReadReturn f.id) s = .next (execFault f.id fcLsUncorr
       (BitVec.ofNat 64 (d.phys + 2 ^ 17 * w + 2 ^ 23 * d.rel)) (logEvent 0x201 (d.phys + 2 ^ 17 * w) u)))) ∧
  (∀ (f : Flight) (s u : State), reach (accessesDone f.id) s = some u → findFlight f.id u = some f → isDone f u = true →
     gated f u = false →
     exec (.tensorCompletion f.id) s = .next (dropFlight f.id (commitFlight f u)) ∧
     (∀ a, f.instr = .lsRd f.thread a → f.commit = Commit.empty → memoriesCanonical u →
       let p := (snapReg f a.sa).toNat
       let bs := (f.got.map (fun x => x.1)).flatten
       ∃ s', exec (.tensorCompletion f.id) s = .next s' ∧ findFlight f.id s' = none ∧
         Mem.readBytes s'.sdm p bs.length = bs ∧
         (∀ b, b < p ∨ p + bs.length ≤ b → Mem.read s'.sdm b = Mem.read u.sdm b) ∧
         s'.ls = u.ls ∧ s'.tiles = u.tiles ∧ (∀ t r, sreg t r s' = sreg t r u)))

/-- A commit of a tensor instruction counts into the cumulative counters of its thread and, unless a later one has
completed, gives NSTAT its counts (R44 to R46); its register and its AMAX register take their values in the same step
(R48). -/
def Obligations.CommitsCountNumericEvents : Prop :=
  ∀ (f : Flight) (s : State), f.tensor = true → f.commit.counters = [] → memoriesCanonical s → threadsWellFormed s →
    let s' := commitAll f s
    let th := getThread f.thread s
    (getThread f.thread s').nstat = (if f.snap.first < th.nstatBy then th.nstat else f.commit.nstat) ∧
    (getThread (otherThread f.thread) s').nstat = (getThread (otherThread f.thread) s).nstat ∧
    (f.commit.events = [] → counter s' (cntNsat f.thread) =
      min (2 ^ 48 - 1) (counter s (cntNsat f.thread) + f.commit.nstat.nsat.toNat)) ∧
    (∀ r v, f.commit.regs = [(r, v)] → sreg f.thread r s' = if r = 0 then 0 else v) ∧
    (∀ r b v, f.commit.amax = some (r, b, v) → s'.amax = (commitAmax r b v s).amax)

/-- A fault handler is entered (R81 to R83): after an issue fault at once, after an execution fault once nothing of the
thread but faulted instructions is in flight, with the restart list of the faulted instructions, oldest first; the
oldest gives FC, FPC and FVAL, issue would go on at FNPC, and the PC is HVEC. A fault that no handler can take stops its
thread (R85): with HVEC zero, and while a handler is active, where the state of the first fault stays and T_PC names the
second. -/
def Obligations.FaultsReachTheirHandlers : Prop :=
  (∀ (t : Thread) (s : State), s.run.retained = false → (getThread t s).hact = false →
     (getThread t s).reissuing = false → (getThread t s).hvec ≠ 0 →
     let th := getThread t s
     let next (s' : State) (fc : BitVec 8) (pc fnpc : BitVec 48) (v : Word64) (l : List RestartEntry) : Prop :=
       (getThread t s').fc = fc ∧ (getThread t s').fpc = pc ∧ (getThread t s').fval = v ∧ (getThread t s').fnpc = fnpc ∧
       (getThread t s').restart = l ∧ (getThread t s').hact = true ∧ (getThread t s').pc = alignPc th.hvec ∧
       (getThread t s').phase = .normal ∧ (∀ u r, sreg u r s' = sreg u r s) ∧ s'.sdm = s.sdm ∧ s'.tiles = s.tiles ∧
       getThread (otherThread t) s' = getThread (otherThread t) s
     (∀ f : FaultRec, th.phase = .issueFault f → ∃ s', exec (.faultHandlerEntry t) s = .next s' ∧
       next s' f.fc f.pc th.pc f.fval []) ∧
     (∀ (e : RestartEntry) (l : List RestartEntry), th.phase = .execFault →
       (∀ f ∈ s.flights, f.thread = t → f.tensor = true → f.faulted ≠ none) →
       (s.flights.filter (fun f => f.thread == t && f.faulted.isSome)).map flightEntry = e :: l →
       ∃ s', exec (.faultHandlerEntry t) s = .next s' ∧ next s' e.fc e.pc th.pc e.detail (e :: l) ∧
         (∀ f ∈ s'.flights, f.thread = t → f.faulted = none))) ∧
  (∀ (t : Thread) (f : FaultRec) (s : State), s.run.retained = false → (getThread t s).phase = .issueFault f →
     (getThread t s).reissuing = false →
     let th := getThread t s
     (th.hact = false → th.hvec = 0 → ∃ s', exec (.faultHandlerEntry t) s = .next s' ∧ (getThread t s').stopped = true ∧
       (getThread t s').fc = f.fc ∧ (getThread t s').hact = false ∧
       (s.evt.queue.length < 64 → queued 0x103 s')) ∧
     (th.hact = true → ∃ s', exec (.faultHandlerEntry t) s = .next s' ∧ (getThread t s').stopped = true ∧
       (getThread t s').fc = th.fc ∧ (getThread t s').fpc = th.fpc ∧ (getThread t s').fval = th.fval ∧
       (getThread t s').pc = alignPc f.pc ∧ (s.evt.queue.length < 64 → queued 0x102 s')))

/-- Waits that end outside the issue of an instruction (R20, R222, R224, R303): in RUN, both threads on queues for 2^24
cycles log 0x008 and stay waiting; a release that waited takes effect once no instruction of the thread uses the
binding, and a BIND then binds at the handle's epoch; a DRAINING handle that nothing uses becomes FREE. The scrubbers
(R114, R116, R117, R348), in the first cycle in which their stack is idle: a stack's scrubber checks the row at its
pointer and moves on, logs an uncorrectable word, and has a correctable row written back; due write-backs go first. The
forced slots of the stacks that have had no idle cycle for 2^20 cycles share one lull cycle, and their counts start
again. -/
def Obligations.WaitsAndScrubbers : Prop :=
  (∀ (t : Thread) (h : BitVec 8) (qa qx : BitVec 4) (f : Flight) (fs : List Flight) (m : BitVec 2) (s : State),
     (s.run.state = .run → s.ta.wait = .queue qa → s.tx.wait = .queue qx → 2 ^ 24 ≤ s.queues.idle →
       ∃ s', exec .mutualWait s = .next s' ∧ s'.queues.idle = 0 ∧ s'.ta = s.ta ∧ s'.tx = s.tx ∧
         (s.evt.queue.length < 64 → queued 0x008 s')) ∧
     (s.flights = f :: fs → f.releases = [t] → releaseWaits t h s = false →
       (f.instr = .unbind .ta h m → ∃ s', exec (.bindingRelease t h) s = .next s' ∧
         bindingOf (getThread t s') h = none ∧ findFlight f.id s' = none) ∧
       (f.instr = .bind .ta h m → ∃ s', exec (.bindingRelease t h) s = .next s' ∧
         bindingOf (getThread t s') h = some { h := h, epoch := (getHandle s h).epoch } ∧ findFlight f.id s' = none)) ∧
     ((getHandle s h).state = .draining → handleIdle s h = true →
       exec (.handleDrainComplete h) s = .next (setHandle h { getHandle s h with state := .free } (passLull s)))) ∧
  (∀ (k : BitVec 5) (due : BitVec 24) (p : Nat) (s : State),
     (∀ u, idleCycle k.toNat s = some u →
       let row := 4096 * k.toNat + (Sparse.get 0 u.ls.ptr k.toNat).toNat
       (dueWriteBack u k.toNat = none → ∃ s', exec (.scrubRead k) s = .next s' ∧ s'.ls.rows = u.ls.rows ∧
         s'.ls.tags = u.ls.tags ∧ s'.ta = u.ta ∧ s'.tx = u.tx ∧
         (memoriesCanonical u → Sparse.get 0 s'.ls.ptr k.toNat = Sparse.get 0 u.ls.ptr k.toNat + 1) ∧
         ((rowBad u row).isSome = true → u.evt.queue.length < 64 → queued 0x203 s') ∧
         (rowCorrectable u row = true → row ∈ s'.ls.writeBacks)) ∧
       (dueWriteBack u k.toNat = some p → exec (.scrubWriteBack k) s = .next (writeBack p u) ∧
         (writeBack p u).ls.rows = u.ls.rows ∧ p ∉ (writeBack p u).ls.rewrites ∧ p ∉ (writeBack p u).ls.writeBacks)) ∧
     (let s0 := passLull s
      let ks := (List.range 24).filter (fun j => due.getLsbD j && starved s0 j)
      ks ≠ [] → memoriesCanonical s → ∃ s', exec (.forcedScrubSlot due) s = .next s' ∧ s'.clk.lull = s0.clk.lull + 1 ∧
         s'.ls.rows = s.ls.rows ∧ s'.ls.tags = s.ls.tags ∧ (∀ j ∈ ks, Sparse.get 0 s'.ls.starve j = 0) ∧
         (∀ j, j ∉ ks → Sparse.get 0 s'.ls.starve j = Sparse.get 0 s.ls.starve j)))

/-- The commands that change the run state (R22, R86, R330, R335): START issues from the entry addresses, PAUSE stops the
threads that may stop and ends when both have, RESUME leaves PAUSE, or SAFE for the state held before it, MAINT is
entered and left; SAFE is entered when it is due and both threads, in RUN, have stopped. Where the copies differ at a
RESUME in SAFE, the cluster stays in SAFE (the end FAIL of that RESUME is the model's, log entry 65). -/
def Obligations.RunStateCommands : Prop :=
  ∀ s : State,
    let keeps : Prop := s.run.safeDue = true → s.run.owner ≠ .bridle
    (halvesAgree s →
      (hostMay 0x01 s → keeps → ∃ s', exec .start s = .next s' ∧ entered .run .tether s s' ∧ s'.cmd.status = .ok ∧
        s'.csr.status = .ok ∧ s'.ta.pc = alignPc s.run.entryTa ∧ s'.tx.pc = alignPc s.run.entryTx ∧
        s'.ta.paused = false ∧ s'.tx.paused = false ∧ (∀ u r, sreg u r s' = sreg u r s) ∧ s'.sdm = s.sdm) ∧
      (hostMay 0x02 s → ∃ s', exec .pause s = .next s' ∧ s'.cmd.status = .busy ∧ s'.cmd.op = 2 ∧
        s'.run.state = s.run.state ∧
        (∀ t, if mayPause (getThread t s) then (getThread t s').paused = true else getThread t s' = getThread t s)) ∧
      (busyWith s 0x02 = true → s.ta.paused = true → s.tx.paused = true → keeps → ∃ s', exec .pauseComplete s = .next s' ∧
        entered .pause .host s s' ∧ s'.cmd.status = .ok ∧ s'.ta = s.ta ∧ s'.tx = s.tx ∧ s'.flights = s.flights) ∧
      (hostMay 0x03 s → s.run.state = .pause → keeps → ∃ s', exec .resume s = .next s' ∧ entered .run .tether s s' ∧
        s'.cmd.status = .ok ∧ ∀ t, getThread t s' = { getThread t s with paused := false }) ∧
      (hostMay 0x03 s → s.run.state = .safe →
        (s.brg.restarting = false → ∃ s', exec .resume s = .next s' ∧ entered s.run.held (ownerOf s.run.held s.run.owner) s s' ∧
          s'.run.safeCause = .none ∧ s'.run.safeDue = false ∧ s'.cmd.status = .ok) ∧
        (s.brg.restarting = true → ∃ s', exec .resume s = .next s' ∧ s'.run = s.run ∧ s'.cmd.status = .busy ∧ s'.cmd.op = 3)) ∧
      (hostMay 0x05 s → keeps → ∃ s', exec .maintEnter s = .next s' ∧ entered .maint .host s s' ∧ s'.cmd.status = .ok) ∧
      (hostMay 0x06 s → s.mould.pendingFlag = false → keeps → ∃ s', exec .maintExit s = .next s' ∧ entered .ready .host s s' ∧
        s'.cmd.status = .ok) ∧
      (s.run.safeDue = true → canEnterSafe s.run.state = true →
        (s.run.state = .run → s.ta.paused = true ∧ s.tx.paused = true) → ∃ s', exec .safeEntry s = .next s' ∧
        entered .safe .bridle s s' ∧ s'.run.held = s.run.state ∧ s'.run.safeDue = false ∧ s'.run.safeCause = s.run.safeCause)) ∧
    (s.run.west ≠ s.run.east → hostMay 0x03 s → s.run.state = .safe → ∃ s', exec .resume s = .next s' ∧ s'.run.state = .safe ∧
      s'.run.safeCause = .splitAuthority ∧ halvesAgree s' ∧ s'.cmd.status = .fail ∧ s'.cmd.arg3 = 0x004 ∧
      (s.evt.queue.length < 64 → queued 0x004 s'))

/-- Parameter staging is armed by REPLAY (R60); SET_STEP, RETAIN and WAKE lock the synthesiser to a step, or end at once
where it is in force, and the switch puts the step in force and ends them, RETAIN in retention and WAKE out of it; a
synthesiser that does not lock fails the command and leaves the step (R317, R318, R327). -/
def Obligations.StepChanges : Prop :=
  ∀ (t : BitVec 4) (s : State), halvesAgree s →
    (hostMay 0x10 s → s.stage.pending = false → ∃ s', exec .replay s = .next s' ∧
      s'.stage = { s.stage with pending := true } ∧ s'.preg = s.preg ∧ s'.cmd.status = .ok) ∧
    (hostMay 0x11 s → s.cmd.arg0.toNat = t.toNat → ∃ s', exec .setStep s = .next s' ∧ s'.clk.step = s.clk.step ∧
      (if t = s.clk.step then s'.cmd.status = .ok ∧ s'.clk = (passLull s).clk
       else s'.cmd.status = .busy ∧ s'.cmd.op = 0x11 ∧ s'.clk.target = some t)) ∧
    (hostMay 0x12 s → ∃ s', exec .retain s = .next s' ∧ s'.clk.step = s.clk.step ∧ s'.clk.saved = s.clk.step ∧
      (if s.clk.step = 0 then s'.cmd.status = .ok ∧ s'.run.retained = true
       else s'.cmd.status = .busy ∧ s'.cmd.op = 0x12 ∧ s'.clk.target = some 0 ∧ s'.run.retained = s.run.retained)) ∧
    (hostMay 0x13 s → ∃ s', exec .wake s = .next s' ∧ s'.clk.step = s.clk.step ∧
      (if s.clk.saved = s.clk.step then s'.cmd.status = .ok ∧ s'.run.retained = false
       else s'.cmd.status = .busy ∧ s'.cmd.op = 0x13 ∧ s'.clk.target = some s.clk.saved)) ∧
    (s.clk.target = some t →
      (∃ s', exec .switchBoundary s = .next s' ∧ s'.clk.step = t ∧ s'.clk.target = none ∧
        (s.brg.retuneWait = false → counter s' cntClkSwitches = min (2 ^ 48 - 1) (counter s cntClkSwitches + 1)) ∧
        (busyWith s 0x11 = true → s'.cmd.status = .ok ∧ s'.run.retained = s.run.retained) ∧
        (busyWith s 0x12 = true → s'.cmd.status = .ok ∧ s'.run.retained = true) ∧
        (busyWith s 0x13 = true → s'.cmd.status = .ok ∧ s'.run.retained = false)) ∧
      ∃ s', exec .synthLockFail s = .next s' ∧ s'.clk.step = s.clk.step ∧ s'.clk.target = none ∧ s'.cmd.status = .fail ∧
        s'.cmd.arg3 = 0x504 ∧ (s.evt.queue.length < 64 → queued 0x504 s'))

/-- The commands on handles, sessions and links (R277, R289, R303, R306, R382): HPIN, HUNPIN and HFREE move a handle by
Table 14.1; HEVICT frees the handle that has been idle longest and reports it; SESS_RESUME takes the lowest free slot
and SESS_PARK queues its rows, the entry DRAINING; LINK_RETRAIN clears an enabled port's link until the partner answers
or does not. -/
def Obligations.HandleSessionAndLinkCommands : Prop :=
  ∀ (h : BitVec 8) (p : BitVec 2) (s : State), halvesAgree s →
    let e := getHandle s h
    let i := s.cmd.arg0.toNat
    let s0 := sessTouch i s
    let x := getSess s0 i
    let now := passLull s
    let goes (st : HState) (s' : State) : Prop := s'.handles = (setHandle h { e with state := st } s).handles ∧ s'.cmd.status = .ok
    (s.cmd.arg0 = h.setWidth 32 →
      (hostMay 0x20 s → e.state = .bound → ∃ s', exec .hpin s = .next s' ∧ goes .pinned s') ∧
      (hostMay 0x21 s → e.state = .pinned → ∃ s', exec .hunpin s = .next s' ∧ goes .bound s') ∧
      (hostMay 0x22 s → e.state = .bound → ∃ s', exec .hfree s = .next s' ∧
        goes (if handleIdle s h then .free else .draining) s')) ∧
    (hostMay 0x23 s → evictChoice now = none → ∃ s', exec .hevict s = .next s' ∧ s'.cmd.status = .fail ∧
      s'.cmd.arg0 = 0xFFFF ∧ s'.handles = s.handles) ∧
    (hostMay 0x23 s → evictChoice now = some h → evictable s h = true ∧
      (∀ g, evictable s g = true → handleAge now g ≤ handleAge now h) ∧
      ∃ s', exec .hevict s = .next s' ∧ goes .free s' ∧ s'.cmd.arg0 = h.setWidth 32 ∧
        s'.cmd.arg2 ++ s'.cmd.arg1 = mapDescriptor e.cur) ∧
    (i < s.sess.used.toNat → s.mould.cfg.engines.getLsbD 4 = true →
      (hostMay 0x18 s → resumeOk s0 i = true → ∃ s', exec .sessResume s = .next s' ∧ s'.cmd.status = .busy ∧
        (∃ k, freeSlot s0 = some k ∧ getSess s' i = { x with state := .draining, slot := BitVec.ofNat 12 k }) ∧
        s'.sess.xfer = some { index := i, park := false, done := 0, prior := .parked, map := (getHandle s s.sess.handle).cur } ∧
        s'.res.reads.length = s.res.reads.length + s.sess.rows.toNat) ∧
      (hostMay 0x19 s → parkOk s0 i = true → ∃ s', exec .sessPark s = .next s' ∧ s'.cmd.status = .busy ∧
        getSess s' i = { x with state := .draining } ∧
        s'.sess.xfer = some { index := i, park := true, done := 0, prior := x.state, map := (getHandle s s.sess.handle).cur } ∧
        s'.ls.boundary.length = s.ls.boundary.length + s.sess.rows.toNat)) ∧
    (hostMay 0x28 s → s.cmd.arg0 = p.setWidth 32 → ∃ s', exec .linkRetrain s = .next s' ∧
      (if portEnabled s p then s'.cmd.status = .busy ∧ getPort s' p = { Port.reset with tx := (getPort s p).tx, retrain := true }
       else s'.cmd.status = .fail ∧ s'.fab = s.fab)) ∧
    ((getPort s p).retrain = true →
      (∃ s', exec (.retrainAck p) s = .next s' ∧ (getPort s' p).retrain = false ∧
        (busyWith s 0x28 = true → s.cmd.arg0 = p.setWidth 32 → s'.cmd.status = .ok)) ∧
      ∃ s', exec (.retrainTimeout p) s = .next s' ∧ (getPort s' p).retrain = false ∧ (getPort s' p).down = true ∧
        (busyWith s 0x28 = true → s.cmd.arg0 = p.setWidth 32 → s'.cmd.status = .fail ∧ s'.cmd.arg3 = 0x301))

/-- A CMD_OP write while a command is BUSY, in a state where the command is not legal, or where the block does not answer,
gives ERR_STATE and has no side effect but the event CMD_REJECTED and CMD_STATUS, which reads IDLE unless a command is
BUSY (R331, R379); the lull before it passes, and it has been a write, so that no lower word is held (R15, R393). -/
def Obligations.RejectedCommandsHaveNoSideEffect : Prop :=
  ∀ (i : Instr) (op : Nat) (s : State), hostCode i = some op → portOpen s = true →
    blockOpen s 0x200 = false ∨ s.cmd.status = .busy ∨ commandLegal s op = false →
    let p := passLull s
    ∃ s', exec i s = .next s' ∧ s'.csr.status = .errState ∧ s'.csr.held = none ∧ s'.csr.capture = s.csr.capture ∧
      (s.evt.queue.length < 64 → queued 0x001 s') ∧
      s'.cmd = { s.cmd with status := if s.cmd.status = .busy then .busy else .idle } ∧
      { s' with csr := p.csr, cmd := p.cmd, evt := p.evt, counters := p.counters } = p

/-- Mould load, refire and life cycle (R331, R339, R340, R343 to R345, R358): MOULD_LOAD reads the stream; one that a check
refuses changes nothing but MOULD_ERR and MOULD_WORD; an accepted one comes into force at bisque start, which ends in
READY, and waits for a refire in MAINT; REFIRE wipes the threads, SDM and every handle that is not pinned and reads the
stream again, and its end puts the same stream in force, OK, or falls back to step 2, FAIL; LC_SET moves the life cycle
and starts again from step 3, out of FIELD with a ticket only, and waits for a Bridle that restarts. -/
def Obligations.MouldRefireAndLifeCycle : Prop :=
  ∀ (readErr : Bool) (stream : List Bytes) (linkUp : BitVec 4) (o : RefireOutcome) (c : Checked) (s : State), halvesAgree s →
    let keeps : Prop := s.run.safeDue = true → s.run.owner ≠ .bridle
    (hostMay 0x07 s → s.cmd.arg0.toNat % 512 = 0 → s.cmd.arg1.toNat < 2 ^ 16 → ∃ s', exec .mouldLoad s = .next s' ∧
      s'.cmd.status = .busy ∧ s'.cmd.op = 7 ∧ s'.run = s.run ∧
      s'.mould = { s.mould with rows := [], retried := [], failed := none } ∧
      (∃ r ∈ s'.res.reads, r.use = .stream 0 ∧ r.address = mouldArg s)) ∧
    (busyWith s 0x07 = true → streamEnded s = true →
      (∀ err word, checkRead s = .error (err, word) →
        ∃ s', exec (.mouldLoadComplete readErr stream linkUp) s = .next s' ∧ s'.cmd.status = .fail ∧ s'.run = s.run ∧
          s'.mould = { s.mould with err := BitVec.ofNat 8 err, word := BitVec.ofNat 12 word }) ∧
      (checkRead s = .ok c → keeps →
        ∃ s', exec (.mouldLoadComplete readErr stream linkUp) s = .next s' ∧ s'.cmd.status = .ok ∧ s'.mould.crc = c.crc ∧
          s'.mould.err = 0 ∧ s'.mould.address = mouldArg s ∧ s'.mould.length = BitVec.ofNat 13 c.length ∧
          (if s.run.state = .bisque then entered .ready .host s s' ∧ s'.mould.cfg = c.cfg ∧ s'.clk.step = 0
           else s'.run = s.run ∧ s'.mould.cfg = s.mould.cfg ∧ s'.mould.pending = some c.cfg ∧ s'.mould.pendingFlag = true))) ∧
    (hostMay 0x04 s → ∃ s', exec .refire s = .next s' ∧ s'.run.state = .refire ∧ s'.run.owner = .bridle ∧ s'.run.epoch = 0 ∧
      halvesAgree s' ∧ s'.cmd.status = .busy ∧ s'.cmd.op = 4 ∧ s'.flights = [] ∧ (∀ u r, sreg u r s' = 0) ∧
      (∀ a, Mem.read s'.sdm a = 0) ∧ s'.mould.cfg = s.mould.cfg ∧ s'.fab.nodeId = s.fab.nodeId ∧
      (∀ q ∈ s'.handles, q.2.state = .pinned ∧ q.2.prevValid = false ∧ q.2.refcount = 0) ∧
      (∃ r ∈ s'.res.reads, r.use = .stream 0 ∧ r.address = s.mould.address)) ∧
    (s.run.state = .refire → s.brg.restarting = false →
      (o.failStep = 0 → streamEnded s = true → checkRead s = .ok c → c.crc = s.mould.crc →
        c.length = s.mould.length.toNat → s.mbx.status ≠ .busy → keeps → ∃ s', exec (.refireComplete o) s = .next s' ∧
        entered .ready .host s s' ∧ s'.cmd.status = .ok ∧ s'.mould.cfg = c.cfg ∧ s'.clk.step = 0 ∧ s'.clk.align = o.trims ∧
        s'.brg.wear.latest = quickCheck o s.brg.wear.latest) ∧
      (o.failStep ≠ 0 → ∃ s', exec (.refireComplete o) s = .next s' ∧ s'.run.state = .bisque ∧ s'.run.step = 2 ∧
        s'.cmd.status = .fail ∧ s'.cmd.arg3 = 0x003 ∧ s'.handles = [] ∧
        s'.mould.cfg = (State.resetOf s.build s.fuses).mould.cfg ∧ queued 0x003 s')) ∧
    (hostMay 0x08 s → lcTargetOk s = true →
      (s.brg.restarting = true → ∃ s', exec .lcSet s = .next s' ∧ s'.cmd.status = .busy ∧ s'.cmd.op = 8 ∧ s'.run = s.run ∧
        s'.ls = s.ls) ∧
      (s.brg.restarting = false → ∃ s', exec .lcSet s = .next s' ∧
        (if s.run.lc = 2 ∧ ticketOk s = false then s'.cmd.status = .fail ∧ s'.run = s.run ∧ s'.ls = s.ls
         else s'.cmd.status = .ok ∧ s'.run.lc = s.cmd.arg0.setWidth 3 ∧ s'.fuseBus.lc = s'.run.lc ∧ s'.run.state = .bisque ∧
          s'.run.step = 3 ∧ s'.flights = [] ∧ s'.ls.rows = [] ∧ s'.sdm = [] ∧ s'.handles = [])))

/-- The pins and the bisque start (R330, R341, R342, R366, R372, R374, R375): por_n low turns the cluster OFF, rst_n holds
it at step 1 with the life cycle kept, neither has an effect on the queue, and the outputs hold their reset values; the
fuses are read at the release of por_n; the ROM starts the best image that runs, and the start goes on to the wait for
MOULD_LOAD, or ends FAULTED with the code of the step that failed. The test access port (R374, R388): TRST_N resets it
alone; each instruction is loaded on the way from reset or idle to idle, selects its register and leaves the rest of the
cluster as it is, EXTEST and CLAMP putting the boundary-scan register on the outputs in MAINT and FAULTED only and
behaving as SAMPLE/PRELOAD elsewhere; tdo_en is low when the port is not shifting. -/
def Obligations.PinsAndTestPort : Prop :=
  (∀ (o : BisqueOutcome) (s : State),
     let wiped (s' : State) : Prop :=
       s'.flights = [] ∧ s'.handles = [] ∧ s'.sdm = [] ∧ s'.ls.rows = [] ∧ s'.pending = s.pending ∧ portOpen s' = false ∧
       halvesAgree s' ∧ (∀ u r, sreg u r s' = 0) ∧ corePins s' = Pins.reset
     let z : Fuses := if s.run.state = .off then s.fuseBus else s.fuses
     let started : Option (BitVec 1 × ImageRead) :=
       (romOrder z o.image0 o.image1).find? (fun x => if x.1 = 0 then o.runs0 else o.runs1)
     (∃ s', exec .porNLow s = .next s' ∧ s'.run.state = .off ∧ s'.run.porN = false ∧ s'.tap = { Tap.reset with scans := s.tap.scans } ∧ wiped s') ∧
     (s.run.state = .off → exec .rstNAssert s = .next s) ∧
     (s.run.state ≠ .off → ∃ s', exec .rstNAssert s = .next s' ∧ s'.run.state = .bisque ∧ s'.run.step = 1 ∧
       s'.run.rstN = false ∧ s'.run.lc = s.run.lc ∧ s'.tap = s.tap ∧ wiped s') ∧
     (s.run.state = .off ∨ (s.run.state = .bisque ∧ s.run.step ≠ 8 ∧ s.run.owner = .bridle) → halvesAgree s →
       (s.run.step.toNat ≤ 2 → started = none → ∃ s', exec (.bisqueStart o) s = .next s' ∧ entered .faulted .bridle s s' ∧
         s'.run.startCode = 1) ∧
       ((s.run.step.toNat ≤ 2 → started.isSome = true) →
         (startFailure s.build o = 0 → ∃ s', exec (.bisqueStart o) s = .next s' ∧ entered .bisque .bridle s s' ∧
           s'.run.step = 8 ∧ s'.run.porN = true ∧ s'.run.rstN = true ∧ s'.fuses = z ∧
           (s.run.state = .off → s'.run.lc = z.lc ∧ s'.fab.nodeId = z.cluster.setWidth 19) ∧ s'.clk.align = o.trims ∧
           s'.brg.wear.latest = o.offsets ∧ (s'.mx.full, s'.mx.h0, s'.mx.h1) = mxWidths o.badCols ∧
           s'.ls.repairs = failedRows s.build o.badRows ∧
           (∀ x, s.run.step.toNat ≤ 2 → started = some x →
             s'.brg.slot = x.1 ∧ s'.brg.svn = x.2.svn ∧ s'.brg.seq = x.2.seq)) ∧
         (startFailure s.build o ≠ 0 → ∃ s', exec (.bisqueStart o) s = .next s' ∧
           entered .faulted .bridle s s' ∧ s'.run.startCode = startFailure s.build o ∧
           (s.brg.retuneWait = false → s.evt.queue.length < 61 → queued 0x002 s'))))) ∧
  (∀ (s : State),
     let mode : Bool := s.run.state == .maint || s.run.state == .faulted
     let selects (i : Instr) (held : List Bool) (r : TapReg) (drives : Bool) : Prop :=
       ∃ s', exec i s = .next s' ∧ { s' with tap := s.tap } = s ∧ tapReg s' = r ∧ tapDrives s' = drives ∧
         s'.tap.cells = held ∧ pins s' = (if drives then cellPins held else corePins s) ∧
         (s.tap.state = .testLogicReset ∨ s.tap.state = .runTestIdle → s'.tap.state = .runTestIdle ∧ tdoEn s' = false)
     (∃ s', exec .trstN s = .next s' ∧ { s' with tap := s.tap } = s ∧ s'.tap.ir = .idcode ∧ tdoEn s' = false) ∧
     selects .bypass s.tap.cells .bypassReg false ∧
     selects .idcode s.tap.cells (.idReg (Tap.idcode s.fuses.jtagMfr)) false ∧
     selects .samplePreload (Config.scanIn s.tap.scans) .boundary false ∧ selects .extest s.tap.cells .boundary mode ∧
     selects .clamp s.tap.cells (if mode then .bypassReg else .boundary) mode)

/-- The mailbox (R357, R358, R360, R364, R365, R367 to R370): an accepted operation leaves MBX_STATUS BUSY, and each ends
with its results; UPDATE_ACTIVATE restarts the Bridle at once, without a watchdog count. -/
def Obligations.MailboxOperations : Prop :=
  ∀ (img : ImageRead) (s : State), memoriesCanonical s →
    let accepts (i : Instr) (op : BitVec 8) : Prop :=
      mailboxMay op.toNat s → ∃ s', exec i s = .next s' ∧ s'.csr.status = .ok ∧ s'.run = s.run ∧
        (∀ u r, sreg u r s' = sreg u r s) ∧
        s'.mbx = { s.mbx with op := op, status := .busy, waits := s.run.state == .refire } ∧ s'.mon = s.mon ∧
        (op ≠ 6 ∨ bridleRuns s = false → s'.brg = s.brg) ∧
        (op = 6 → bridleRuns s = true → s'.brg.restarting = true ∧ s'.brg.activate = true ∧
          counter s' cntBrgRestarts = counter s cntBrgRestarts)
    let ends (op : BitVec 8) (st : CmdStatus) (P : State → Prop) : Prop :=
      mailboxRuns s = true → s.mbx.op = op → ∃ s', exec (.mailboxOperationEnd img) s = .next s' ∧ s'.mbx.status = st ∧
        s'.run = s.run ∧ (∀ u r, sreg u r s' = sreg u r s) ∧ P s'
    let fits : Prop := 67 ≤ s.mbx.arg0.toNat ∧ s.mbx.arg0.toNat ≤ 65535
    (accepts .version 0x01 ∧ accepts .telemetry 0x02 ∧ accepts .wearRead 0x03 ∧ accepts .wearWrite 0x04 ∧
      accepts .updateVerify 0x05 ∧ accepts .updateActivate 0x06 ∧ accepts .monToken 0x07 ∧ accepts .monLock 0x08 ∧
      accepts .lcChallenge 0x09 ∧ accepts .lcAuthorize 0x0A ∧ accepts .uartCfg 0x0B) ∧
    ends 0x01 .ok (fun s' => s'.mbx.arg0 = s.brg.romVersion ∧ s'.mbx.arg1 = s.brg.slot.setWidth 32 ∧
      s'.mbx.arg2 = s.brg.svn.setWidth 32 ∧ s'.mbx.arg3 = s.brg.seq) ∧
    ends 0x02 .ok (fun s' => ∀ k, k < 12 → mbxData s' k = s.brg.record.getD k 0) ∧
    ends 0x03 .ok (fun s' => ∀ k, k < 64 → mbxData s' k = (wearRecord s).getD k 0) ∧
    (wearOk s = true → ends 0x04 .ok (fun s' => s'.brg.restored = true ∧
      s'.brg.wear.baseline = some ((List.range 12).map (wearByte s)) ∧
      s'.clk.vidOfs.toNat = max s.clk.vidOfs.toNat ((mbxData s 9).toNat % 16) ∧
      s'.clk.freqOfs = (s.clk.freqOfs || (mbxData s 9).getLsbD 4))) ∧
    (wearOk s = false → ends 0x04 .fail (fun s' => s'.brg = s.brg ∧ s'.clk = s.clk)) ∧
    ends 0x05 (if imageVerifies s.fuses img then .ok else .fail) (fun s' =>
      s'.brg = s.brg ∧ (imageVerifies s.fuses img = false → s.evt.queue.length < 64 → queued 0x602 s')) ∧
    ends 0x07 .ok (fun s' => s'.mon.token = some (s.mbx.arg1 ++ s.mbx.arg0) ∧ s'.mon.fails = 0) ∧
    ends 0x08 .ok (fun s' => s'.mon.access = if s.mon.access = .closed then .closed else .locked) ∧
    ends 0x09 .ok (fun s' => s'.brg.nonce = some (s'.mbx.arg1 ++ s'.mbx.arg0) ∧ s'.brg.ticket = none) ∧
    ends 0x0A (if authOk s then .ok else .fail) (fun s' =>
      if authOk s then s'.brg.ticket = some (s.mbx.arg0.setWidth 3, s'.mbx.arg1 ++ s'.mbx.arg0)
      else s'.brg.nonce = none ∧ s'.brg.ticket = s.brg.ticket) ∧
    ends 0x0B (if 67 ≤ s.mbx.arg0.toNat ∧ s.mbx.arg0.toNat ≤ 65535 then .ok else .fail) (fun s' =>
      (fits → s'.mon.divisor.toNat = s.mbx.arg0.toNat) ∧ (¬ fits → s'.mon.divisor = s.mon.divisor))

/-- The serial monitor (R369 to R371, R389): an open monitor answers every command, a locked one HELP and UNLOCK and else
LOCKED, a closed one nothing; UNLOCK opens it with the token once, and three failures void the token; a line that the
UART receives is the command that it spells, and one that spells none gets the prompt alone (the model's choice, log
entry 45); the characters of each line of an answer end with CR LF and the answer with the prompt. -/
def Obligations.MonitorAnswers : Prop :=
  ∀ (n : Nat) (a : BitVec 16) (k : BitVec 64) (xs : List Bool) (s : State), bridleRuns s = true →
    let sends (i : Instr) (r : MonReply) : Prop :=
      ∃ s', exec i s = .next s' ∧ s'.mon.out = r :: s.mon.out ∧ s'.run = s.run ∧ s'.brg = s.brg ∧ (∀ u r, sreg u r s' = sreg u r s)
    let line (t : String) : Prop := ∃ l, lineOf (uartReceive xs.length xs) = some l ∧ lineChars l = t.toList
    let plain : List Instr := [.id, .state, .temp, .power, .cones, .steps, .log n, .cnt a, .lock]
    (s.mon.access ≠ .closed → sends .help (.commands commandNames) ∧
      (if k ≠ 0 ∧ s.mon.token = some k then
        sends (.unlock k) (.word "OPEN") ∧ ∃ s', exec (.unlock k) s = .next s' ∧ s'.mon.access = .opened ∧ s'.mon.token = none
       else sends (.unlock k) (.word "DENIED") ∧ ∃ s', exec (.unlock k) s = .next s' ∧ s'.mon.access = s.mon.access ∧
        s'.mon.fails = min 3 (s.mon.fails + 1) ∧ (3 ≤ s.mon.fails + 1 → s'.mon.token = none) ∧
        (s.evt.queue.length < 64 → queued 0x604 s'))) ∧
    (s.mon.access = .opened →
      sends .state (.values [stateCode s.run.state, ownerCode s.run.owner, s.run.epoch.toNat, if s.run.retained then 1 else 0,
        causeCode s.run.safeCause, s.run.startCode.toNat]) ∧
      sends .id (.values [idVersion, s.fuses.grade.toNat, idConfig s.build, s.run.lc.toNat, s.fab.nodeId.toNat,
        s.brg.slot.toNat, s.brg.seq.toNat]) ∧
      sends .temp (.values ((List.range 4).map (fun j => (s.brg.diodes.getD j 0).toNat) ++
        [s.ballast.tM.toNat, s.ballast.tJ.toNat, s.ballast.tP.toNat])) ∧
      sends .power (.values [s.brg.core.toNat, s.brg.sram.toNat, s.ballast.ewScale.toNat, s.ballast.balance.toNat,
        s.ballast.budget.toNat, s.ballast.d.toNat]) ∧
      (sends .cones (.values ((List.range 12).map (fun j => (s.clk.coneCodes.getD j 63).toNat) ++
        [s.mon.coneMin.toNat, drogueRank s.clk.level])) ∧
        ∃ s', exec .cones s = .next s' ∧ s'.mon.coneMin = 63 ∧ s'.clk.coneMin = s.clk.coneMin) ∧
      sends .steps (.values ((List.range 16).map (fun j => (s.clk.fsteps.getD j 0).toNat) ++
        [s.clk.vidOfs.toNat, if s.clk.freqOfs then 1 else 0, s.clk.step.toNat])) ∧
      (1 ≤ n → n ≤ 64 → sends (.log n) (.entries ((lastEntries s n).map decodeEntry)) ∧
        (lastEntries s n).length = min n (min s.evt.written 4096)) ∧
      (a.toNat % 2 = 0 → a.toNat < 0x7000 → regCounter s a.toNat ≠ none → a.toNat ≠ 0x6000 → sends (.cnt a) (.values [counter s a.toNat])) ∧
      (sends .lock (.word "LOCKED") ∧ ∃ s', exec .lock s = .next s' ∧ s'.mon.access = .locked)) ∧
    (s.mon.access = .locked → ∀ i ∈ plain, sends i (.word "LOCKED")) ∧
    (s.mon.access = .closed → ∀ i ∈ plain ++ [.help, .unlock k, .uartCommandLine xs], exec i s = .next s) ∧
    (line "STATE" → exec (.uartCommandLine xs) s = exec .state s) ∧
    (line "LOG 64" → exec (.uartCommandLine xs) s = exec (.log 64) s) ∧
    (line "CNT FAULT TX" → exec (.uartCommandLine xs) s = exec (.cnt 0x602E) s) ∧
    (lineOf (uartReceive xs.length xs) = none → exec (.uartCommandLine xs) s = .next s) ∧
    (∀ l, lineOf (uartReceive xs.length xs) = some l → 80 < l.length → s.mon.access = .opened →
      sends (.uartCommandLine xs) .prompt) ∧
    (∀ r, replyBytes r = ((replyLines r).map (fun l => l ++ [13, 10])).flatten ++ [0x3E, 0x20])

/-- CSR accesses (R15, R274, R321, R350, R362, R363, R376 to R379, R392 to R395, R400, R401): what a write of each block
does, the lower word of a wide register that is held for its upper word, the capture of a wide register's upper word by
the read of its lower one, the responses that wait in order, and the accesses that are refused; what happens inside the
cluster happens after a lull. -/
def Obligations.CsrAccesses : Prop :=
  ∀ (a : BitVec 16) (d : Word32) (n : Nat) (h : BitVec 8) (s : State), memoriesCanonical s →
    let i := s.sess.idx.toNat
    let s0 := sessTouch i s
    let does (c : Instr) (st : CsrStatus) (P : State → Prop) : Prop :=
      ∃ s', exec c s = .next s' ∧ s'.csr.status = st ∧ s'.run = s.run ∧ (∀ u r, sreg u r s' = sreg u r s) ∧
        (s.csr.waiting.length < 4 → s'.csr.waiting = s.csr.waiting ++ [(st, s'.csr.rdata)]) ∧ P s'
    let now := passLull s
    let wide : Prop := regAt s a.toNat = some { base := a.toNat, wide := true, acc := .ro } ∨
      regAt s a.toNat = some { base := a.toNat, wide := true, acc := .rw }
    (csrMay 0x3001 s → i < s.sess.used.toNat →
      does .sessRead .ok (fun s' => s'.sess.data = sessImage (getSess s0 i)) ∧
      (∀ st e, sessStateOf (s.sess.data.toNat % 8) = some st → sessAccept (getSess s0 i) st s.sess.data = some e →
        does .sessWrite .ok (fun s' => getSess s' i = e ∧ ∀ j, j ≠ i → getSess s' j = getSess s j))) ∧
    (csrMay 0x3008 s → d.toNat % 2 ^ 16 < s.sess.used.toNat → d.toNat / 2 ^ 16 % 2 ^ 8 ≠ 0 →
      let j := d.toNat % 2 ^ 16
      let e := getSess (sessTouch j s) j
      e.state ≠ .free → does (.sessCreditAdd d) .ok (fun s' => getSess s' j = withCredits
        { e with credits := BitVec.ofNat 8 (min 255 (e.credits.toNat + d.toNat / 2 ^ 16 % 2 ^ 8)) })) ∧
    (csrMay 0x1000 s → a.toNat = 0x1000 + 8 * h.toNat →
      let e := handleFields (getHandle s h) d.toNat
      (getHandle s h).state = .free → handleState d.toNat = .bound ∨ handleState d.toNat = .pinned → entryOk s e = true →
      does (.handleEntryWrite a d) .ok (fun s' => s'.handles = (setHandle h { e with
        state := handleState d.toNat, prevValid := false, refcount := 0, lastuse := cycleStamp now } s).handles)) ∧
    (csrMay 0x800 s → s.stage.pending = false → n < 64 →
      (a.toNat = 0x800 + 2 * n → does (.pstageWrite a d) .ok (fun s' => s'.csr.held = some (a, d) ∧ s'.stage = s.stage)) ∧
      (∀ (b : BitVec 16) (low : Word32), b.toNat = 0x800 + 2 * n → a.toNat = b.toNat + 1 → s.csr.held = some (b, low) →
        does (.pstageWrite a d) .ok (fun s' => s'.csr.held = none ∧
          s'.stage.vals = Sparse.set 0 s.stage.vals n (d ++ low) ∧ (∀ k, s'.stage.mask.getLsbD k =
            (s.stage.mask.getLsbD k || k == n))))) ∧
    (csrMay 0x400 s →
      does (.evtCauseClear d) .ok (fun s' => s'.evt = { s.evt with cause := s.evt.cause &&& ~~~(d.setWidth 4) }) ∧
      does (.evtLogSel d) .ok (fun s' => s'.evt.sel = d.setWidth 16 ∧ s'.evt.entry = Sparse.get 0 s.evt.log (d.toNat % 4096)) ∧
      does (.evtLogRdptr d) .ok (fun s' => s'.evt = { s.evt with rdptr := d.setWidth 16, lostArmed := true })) ∧
    (csrMay 0x5805 s → does .coneMinRead .ok (fun s' => s'.csr.rdata = s.clk.coneMin.setWidth 32 ∧
      s'.clk = { now.clk with coneMin := 63 })) ∧
    (csrMay a.toNat s → wide → mirrorClosed s a.toNat = false →
      let v := regValue (if islandBlock a.toNat then now else s) a.toNat
      does (.wideRegisterLowerRead a) .ok (fun s' => s'.csr.rdata.toNat = v % 2 ^ 32 ∧
        captured s' a.toNat = some (BitVec.ofNat 32 (v / 2 ^ 32)))) ∧
    (csrMay 0x1800 s → does (.csrWrite 0x1800 d) .ok (fun s' => s'.ls = { s.ls with waitLimit := d } ∧ s'.handles = s.handles)) ∧
    (csrMay 0x2080 s → windowsOpen s = true → does (.csrWrite 0x2080 d) .ok (fun s' => s'.fab = { s.fab with epoch := d })) ∧
    (csrMay a.toNat s → a ≠ 0x200 → a ≠ 0x7800 →
      (regAt s a.toNat = none → does (.csrWrite a d) .errAddr (fun s' => { s' with csr := now.csr } = now)) ∧
      (∀ r, regAt s a.toNat = some r → r.acc = .ro → writeBarred s a.toNat = false →
        does (.csrWrite a d) .errRights (fun s' => { s' with csr := now.csr } = now)))

/-- Power windows, Drogue and crossings (R278 to R282, R314, R321 to R324, R358): a strobe latches the next window's credit;
its update boundary, or a missed one with no credit, brings the written parameters into force, keeps BALANCE in its
limits and writes the outputs; the Drogue rises at once and falls one level after DRG_HOLD good cycles, a Cone under
calibration left out; a crossing one entry off is counted, and one that has slipped asks for SAFE. -/
def Obligations.PowerAndClockEvents : Prop :=
  ∀ (credit : BitVec 16) (codes : List (Option (BitVec 6))) (cone : BitVec 4) (src dst occ : BitVec 3) (s : State),
    let now := passLull s
    let closes (i : Instr) (c : BitVec 16) (miss : Nat) : Prop :=
      ∃ s', exec i s = .next s' ∧ s'.ballast.credit = c ∧ s'.ballast.strobe = none ∧ s'.ballast.missRun = miss ∧
        s'.ballast.par = s.ballast.written ∧
        s'.ballast.ewScale = (if s.brg.restarting then s.ballast.ewScale else s.ballast.scaleNext) ∧
        (s.ballast.written.balMin.toInt ≤ s.ballast.written.balMax.toInt →
          s.ballast.written.balMin.toInt ≤ s'.ballast.balance.toInt ∧ s'.ballast.balance.toInt ≤ s.ballast.written.balMax.toInt) ∧
        (s'.ballast.trip = true → s'.ballast.budget = 0 ∧ s'.ballast.d = 1) ∧ s'.clk = now.clk ∧ s'.ta = s.ta ∧ s'.tx = s.tx
    let d := src.toNat + 2 ^ 4 * dst.toNat + 2 ^ 8 * occ.toNat
    (portOpen s = true →
      exec (.windowStrobe credit) s = .next { s with ballast := { s.ballast with strobe := some credit } } ∧
      (∀ c, s.ballast.strobe = some c → closes .updateBoundary c 0) ∧
      (s.ballast.strobe = none → closes .ballastMissed 0 (s.ballast.missRun + 1) ∧ ∃ s', exec .ballastMissed s = .next s' ∧
        counter s' cntBallastMissed = min (2 ^ 48 - 1) (counter s cntBallastMissed + 1) ∧
        (s.ballast.missRun = 3 → s.evt.queue.length < 64 → queued 0x506 s'))) ∧
    (∀ l, drogueLimits s = some l → portOpen s = true →
      let cs := (List.range 12).map (fun k => codes.getD k none)
      let least := (leastCode cs).toNat
      (least < l.2 → s.clk.level ≠ .s50 → ∃ s', exec (.drogueLevelRise codes) s = .next s' ∧ s'.clk.level = .s50 ∧
        s'.clk.coneLast = cs ∧ s'.clk.coneMin.toNat = min s.clk.coneMin.toNat least) ∧
      (l.2 ≤ least → least < l.1 → s.clk.level = .none → ∃ s', exec (.drogueLevelRise codes) s = .next s' ∧
        s'.clk.level = .s25 ∧ s'.clk.good = 0) ∧
      (s.clk.drgHold.toNat ≤ s.clk.good → l.2 ≤ least →
        (s.clk.level = .s50 → ∃ s', exec (.drogueLevelFall codes) s = .next s' ∧ s'.clk.level = .s25 ∧
          s'.clk.good = 0 ∧ s'.clk.marginLogged = s.clk.marginLogged ∧ s'.clk.coneLast = cs) ∧
        (s.clk.level = .s25 → l.1 ≤ least → ∃ s', exec (.drogueLevelFall codes) s = .next s' ∧ s'.clk.level = .none ∧
          s'.clk.marginLogged = false ∧ s'.clk.coneLast = cs))) ∧
    (s.clk.level = .s50 → 4096 ≤ s.clk.low → s.clk.marginLogged = false →
      s.clk.coneLast[cone.toNat]? = some (some (leastCode s.clk.coneLast)) → exec (.marginLow cone) s =
        .next (logEvent 0x503 cone.toNat { s with clk := { s.clk with marginLogged := true } })) ∧
    (src.toNat ≤ 4 → dst.toNat ≤ 4 → src ≠ dst → portOpen s = true →
      (occ = 2 → exec (.crossingOccupancyCheck src dst occ) s = .next now) ∧
      (occ = 1 ∨ occ = 3 → exec (.crossingOccupancyCheck src dst occ) s = .next (logEvent 0x501 d (bump cntClkDrift 1 now))) ∧
      (occ = 0 ∨ occ = 4 → ∃ s', exec (.crossingOccupancyCheck src dst occ) s = .next s' ∧ s'.ta = s.ta ∧ s'.tx = s.tx ∧
        (canEnterSafe s.run.state = true → s'.run.safeDue = true ∧ s'.run.safeCause ≠ .none) ∧
        (s.evt.queue.length < 64 → queued 0x502 s')))

/-- The Bridle's duties (R324, R325, R347, R355 to R362, R366, R367, R387): the tick's samples, the diodes left out of T_M,
EW_SCALE and the telemetry record; the offsets of a calibration, and the retune that its drift asks for; a watchdog
restart, the images that the ROM tries and how the restart ends; the log's entries; and the sweep of the triple-copied
settings. That an UPDATE_ACTIVATE after which the old image runs ends FAIL is the model's (log entry 67). -/
def Obligations.BridleDuties : Prop :=
  ∀ (x : TickSample) (offsets : List (BitVec 8)) (slot : BitVec 1) (late : Bool) (i0 i1 : ImageRead) (s : State),
    (bridleRuns s = true →
      (sampleOk x = true → ∃ s', exec (.bridleTick x) s = .next s' ∧ s'.brg.diodes = x.diodes ∧ s'.brg.core = codeMean x.core ∧
        s'.brg.sram = codeMean x.sram ∧ s'.brg.ticks = s.brg.ticks + 1 ∧ s'.brg.stepMoved = false ∧ s'.ballast.tmNew = true ∧
        s'.ballast.eDyn = 0 ∧ s'.ballast.par = s.ballast.par ∧ s'.ballast.scaleNext = tickScale x s ∧
        s'.brg.record = telemetryRecord x.diodes s'.brg.core s'.brg.sram s'.ballast.scaleNext s'.brg.ticks s ∧
        (∀ (k : Nat) (c : BitVec 16), x.diodes[k]? = some c →
          s'.ballast.diodeBad.getLsbD k = !(decide (-320 ≤ c.toInt) && decide (c.toInt ≤ 1200)))) ∧
      (s.run.state ≠ .refire → offsets.length = 12 → ∃ s', exec (.coneCalibration offsets) s = .next s' ∧
        s'.brg.wear.latest = offsets ∧ s'.brg.wearDue = true ∧
        (∀ b, s.brg.wear.baseline = some b → s.run.started = false ∨ s.brg.restored = true → s'.brg.wear.baseline = some b) ∧
        (s.brg.wear.baseline = none → s'.brg.wear.baseline = some offsets) ∧ s'.clk = s.clk) ∧
      (s.brg.wearDue = true → ∃ s', exec .wearEvaluation s = .next s' ∧ s'.brg.wearDue = false ∧
        s'.clk.vidOfs.toNat = max s.clk.vidOfs.toNat (min 8 (2 * (wearDrift s.brg.wear / 3))) ∧
        s'.clk.freqOfs = (s.clk.freqOfs || decide (15 ≤ wearDrift s.brg.wear))) ∧
      (∃ s', exec .watchdogExpiry s = .next s' ∧ s'.brg.restarting = true ∧ s'.brg.activate = false ∧ s'.run = s.run ∧
        counter s' cntBrgRestarts = min (2 ^ 48 - 1) (counter s cntBrgRestarts + 1) ∧
        (s.mbx.status = .busy → s'.mbx.status = if s.mbx.waits then .busy else .fail)) ∧
      (∀ e rest, s.evt.queue = e :: rest → ∃ s', exec .eventLogEntry s = .next s' ∧ s'.evt.head = s.evt.head + 1 ∧
        s'.evt.written = s.evt.written + 1 ∧ s'.evt.log = Sparse.set 0 s.evt.log (s.evt.head.toNat % 4096) (logImage e s.evt.head) ∧
        (overwritesUnread s = false → s'.evt.queue = rest) ∧
        (overwritesUnread s = true → s.evt.lostArmed = true → s.evt.queue.length ≤ 64 → queued 0x605 s'))) ∧
    (s.brg.restarting = true → portOpen s = true →
      (s.brg.failedSlot.isSome = true ∨ romLeft i0 i1 s = [] → exec (.imageSelfCheckTimeout slot late i0 i1) s = .next s) ∧
      (∀ y ys, s.brg.failedSlot = none → romLeft i0 i1 s = y :: ys →
        ∃ s', exec (.imageSelfCheckTimeout y.1 late i0 i1) s = .next s' ∧ s'.brg.failedSlot = some y.1 ∧ s'.brg.restarting = true ∧
          (ys ≠ [] → s.evt.queue.length < 64 → queued 0x603 s')) ∧
      (∀ y ys, romLeft i0 i1 s = y :: ys →
        ∃ s', exec (.imageSelfCheckPass y.1 i0 i1) s = .next s' ∧
          s'.brg.slot = y.1 ∧ s'.brg.svn = y.2.svn ∧ s'.brg.seq = y.2.seq ∧
          (busyWith s 0x08 = false →
            (s.mbx.status ≠ .busy ∨ s.brg.activate = true → s'.brg.restarting = false) ∧
            (s.brg.activate = true →
              if y.1 = s.brg.slot then s'.mbx.status = .fail
              else s'.mbx.status = .ok ∧ (s.evt.queue.length < 64 → queued 0x601 s'))) ∧
          (s.run.state = .safe → busyWith s 0x03 = true → halvesAgree s → s'.run.state = s.run.held ∧ s'.cmd.status = .ok) ∧
          (busyWith s 0x08 = true → s.run.lc ≠ 2 → s'.run.lc = s.cmd.arg0.setWidth 3 ∧ s'.cmd.status = .ok))) ∧
    (portOpen s = true → s.upsets.sweep < sweepLength → ∃ s', exec .configurationSweep s = .next s' ∧
      s'.upsets.sweep = (s.upsets.sweep + 1) % 354 ∧ s.upsets.sweep ∉ s'.upsets.cfg ∧
      (∀ n, n ≠ s.upsets.sweep → (n ∈ s'.upsets.cfg ↔ n ∈ s.upsets.cfg)) ∧ s'.handles = s.handles ∧ s'.mould = s.mould)

/-- R96: a relative row r of a mapping lies in stack m(r mod k), row BASE + r / k, of the k set bits m(0) < m(1) < ... of
MASK. -/
def Obligations.RowsTranslateThroughTheMask : Prop :=
  ∀ (m : Mapping) (pos : List Nat) (r stack : Nat), pos.Pairwise (fun a b => a < b) →
    (∀ i, i ∈ pos ↔ i < 24 ∧ m.mask.getLsbD i = true) → pos[r % pos.length]? = some stack →
    m.base.toNat + r / pos.length < 4096 →
    physRow m r = 4096 * stack + (m.base.toNat + r / pos.length)

/-- R24: elements are packed in ascending index from byte 0, 4-bit ones two to a byte with the even one low, six-bit ones
four to a 3-byte group, and wider ones in little-endian bytes. -/
def Obligations.ElementsArePackedInOrder : Prop :=
  ∀ (bs : Bytes) (k j : Nat) (a b c d : Byte),
    (bs[k]? = some a → (unpack 4 bs)[2 * k]? = some (a.toNat % 16) ∧ (unpack 4 bs)[2 * k + 1]? = some (a.toNat / 16) ∧
      (unpack 8 bs)[k]? = some a.toNat) ∧
    (bs[2 * k]? = some a → bs[2 * k + 1]? = some b → (unpack 16 bs)[k]? = some (a.toNat + 2 ^ 8 * b.toNat)) ∧
    (bs[4 * k]? = some a → bs[4 * k + 1]? = some b → bs[4 * k + 2]? = some c → bs[4 * k + 3]? = some d →
      (unpack 32 bs)[k]? = some (a.toNat + 2 ^ 8 * b.toNat + 2 ^ 16 * c.toNat + 2 ^ 24 * d.toNat)) ∧
    (bs[3 * k]? = some a → bs[3 * k + 1]? = some b → bs[3 * k + 2]? = some c → j < 4 →
      (unpack 6 bs)[4 * k + j]? = some ((a.toNat + 2 ^ 8 * b.toNat + 2 ^ 16 * c.toNat) / 2 ^ (6 * j) % 2 ^ 6)) ∧
    (∀ (n : Nat) (ws : List Nat), n = 4 ∨ n = 6 ∨ n = 8 ∨ n = 16 ∨ n = 32 → (∀ w ∈ ws, w < 2 ^ n) →
      (n = 4 → ws.length % 2 = 0) → (n = 6 → ws.length % 4 = 0) → unpack n (pack n ws) = ws)

/-- R26: an element of an MX block is 2 to the power X - 127 times its own value, and with the scale byte 0xFF every element
of the block is a NaN. -/
def Obligations.MxElementValues : Prop :=
  ∀ (f : Fmt) (g : FloatFmt) (x : Byte) (ws : List Nat) (t : Tally) (i w : Nat), fmtIsMx f = true → floatFmt f = some g →
    ws[i]? = some w → w < 2 ^ fmtBits f →
    let v := (decodeBlock f false x ws t).1
    v.length = ws.length ∧ (decodeBlock f false x ws t).2 = t ∧
    (x = 0xFF → ∃ y, v[i]? = some y ∧ y.isNan = true) ∧
    (x ≠ 0xFF → ∃ (neg : Bool) (m : Nat) (e : Int), decodeFloat g w = .fin neg m e ∧
      v[i]? = some (.fin neg m (e + ((x.toNat : Int) - 127))))

/-- The frame of the host's commands but REFIRE and LC_SET, of the mailbox, the monitor and the test access port: none of
them changes a register, a parameter, SDM, a tile, an accumulator or its type, an AMAX register, an element program, a
row of the local store, a binding, NSTAT, an LFSR, the build or the queue of commands. -/
def Obligations.HostCommandFrame : Prop :=
  ∀ (i : Instr) (s s' : State), exec i s = .next s' →
    (∃ op, hostCode i = some op ∧ op ≠ 0x04 ∧ op ≠ 0x08) ∨ i ∈ ([.pauseComplete, .safeEntry, .switchBoundary, .synthLockFail,
      .version, .telemetry, .wearRead, .wearWrite, .updateVerify, .updateActivate, .monToken, .monLock, .lcChallenge,
      .lcAuthorize, .uartCfg, .help, .id, .state, .temp, .power, .cones, .steps, .lock, .trstN, .bypass, .idcode,
      .samplePreload, .extest, .clamp] : List Instr) ∨ (∃ img, i = .mailboxOperationEnd img) →
    (∀ t r, sreg t r s' = sreg t r s ∧ (getThread t s').bind = (getThread t s).bind ∧
      (getThread t s').nstat = (getThread t s).nstat ∧ (getThread t s').lfsr = (getThread t s).lfsr ∧
      (getThread t s').coil = (getThread t s).coil) ∧
    s'.preg = s.preg ∧ s'.sdm = s.sdm ∧ s'.tiles = s.tiles ∧ s'.mx = s.mx ∧ s'.amax = s.amax ∧ s'.vx = s.vx ∧
    s'.ls.rows = s.ls.rows ∧ s'.build = s.build ∧ s'.pending = s.pending

/-- The words at a thread's PC (R77, R410 to R412): words that are an instruction have its meaning, all others raise
ILLEGAL_OP at their address; among those are a first word with the extension opcode or an opcode above the TDC-3 forms,
a later word without 0xFE in its low byte, and a scalar word with a set bit that its instruction does not carry, shown
for NOP, the three-register instructions 0x01 to 0x08 and the branches. A thread whose words are in the Spool issues
those at its PC. -/
def Obligations.InstructionWords : Prop :=
  ∀ (t : Thread) (w0 w1 w2 : Word64) (s : State),
    let opc := wordBits w0 0 8
    let n := wordCount opc
    let none? : Prop := decodeWords t w0 w1 w2 = none
    let pc := (getThread t (settle t s)).pc
    let at_ (k : Nat) : Word64 := (spoolWord s (pc + BitVec.ofNat 48 (8 * k))).getD 0
    (∀ i, decodeWords t w0 w1 w2 = some i → issueWords t w0 w1 w2 s = exec i s) ∧
    (none? → ready t n s → issueWords t w0 w1 w2 s = faults t n fcIllegal 0 s) ∧
    (0xC4 < opc → none?) ∧
    (2 ≤ n → wordBits w1 0 8 ≠ 0xFE → none?) ∧
    (n = 3 → wordBits w2 0 8 ≠ 0xFE → none?) ∧
    (opc = 0 → w0 ≠ 0 → none?) ∧
    (1 ≤ opc → opc ≤ 8 → 2 ^ 23 ≤ w0.toNat → none?) ∧
    (0x20 ≤ opc → opc ≤ 0x25 → wordBits w0 8 5 ≠ 0 ∨ wordBits w0 23 9 ≠ 0 → none?) ∧
    (wordsThere t s = true → issueNext t s = issueWords t (at_ 0) (at_ 1) (at_ 2) s)
end

