-- ==== Sys2Proof/Laws/Sparse.lean ====
section
/-! SUPPORT. Laws of the sparse maps and of byte memories: what a read gives after a write, and that every operation
keeps the canonical form. -/

namespace Sys2Proof

namespace Sparse

variable {α : Type}

/-- What a key reads after it has been put. -/
theorem get_put_self (d : α) (m : Sparse α) (k : Nat) (v : α) : get d (put m k v) k = v := by
  induction m with
  | nil => simp [put, get]
  | cons p m ih =>
    obtain ⟨j, w⟩ := p
    simp only [put]
    split
    · simp [get]
    · split
      · simp [get]
      · simp [get, *]

/-- The other keys read as before. -/
theorem get_put_ne (d : α) (m : Sparse α) {k i : Nat} (v : α) (h : i ≠ k) : get d (put m k v) i = get d m i := by
  induction m with
  | nil => simp [put, get, h]
  | cons p m ih =>
    obtain ⟨j, w⟩ := p
    simp only [put]
    split
    · subst_vars; simp [get, h]
    · split
      · simp only [get, if_neg h]
        split
        · rw [if_neg (by omega), if_pos (by omega)]
        · rfl
      · simp only [get]
        split
        · rfl
        · split
          · rfl
          · exact ih

/-- A canonical form from a bound on reads as its default below the bound. -/
theorem get_of_wfFrom [DecidableEq α] (d : α) (m : Sparse α) {lo k : Nat} (h : wfFrom d lo m = true) (hk : k < lo) :
    get d m k = d := by
  cases m with
  | nil => rfl
  | cons p m =>
    obtain ⟨j, v⟩ := p
    simp only [wfFrom, Bool.and_eq_true, decide_eq_true_eq] at h
    simp only [get]
    rw [if_neg (by omega), if_pos (by omega)]

/-- A key that has been dropped reads as its default. -/
theorem get_drop_self [DecidableEq α] (d : α) (m : Sparse α) {lo : Nat} (k : Nat) (h : wfFrom d lo m = true) :
    get d (drop m k) k = d := by
  induction m generalizing lo with
  | nil => rfl
  | cons p m ih =>
    obtain ⟨j, v⟩ := p
    simp only [wfFrom, Bool.and_eq_true, decide_eq_true_eq] at h
    simp only [drop]
    split
    · subst_vars; exact get_of_wfFrom d m h.2 (by omega)
    · split
      · simp [get, *]
      · simp only [get]
        rw [if_neg (by omega), if_neg (by omega)]
        exact ih h.2

/-- The other keys read as before. -/
theorem get_drop_ne [DecidableEq α] (d : α) (m : Sparse α) {lo k i : Nat} (h : wfFrom d lo m = true) (hi : i ≠ k) :
    get d (drop m k) i = get d m i := by
  induction m generalizing lo with
  | nil => rfl
  | cons p m ih =>
    obtain ⟨j, v⟩ := p
    simp only [wfFrom, Bool.and_eq_true, decide_eq_true_eq] at h
    simp only [drop]
    split
    · subst_vars
      simp only [get, if_neg hi]
      split
      · exact get_of_wfFrom d m h.2 (by omega)
      · rfl
    · split
      · rfl
      · simp only [get]
        split
        · rfl
        · split
          · rfl
          · exact ih h.2

/-- What a key reads after it has been set. -/
theorem get_set_self [DecidableEq α] (d : α) (m : Sparse α) (k : Nat) (v : α) (h : wf d m = true) :
    get d (set d m k v) k = v := by
  unfold set
  split
  · subst_vars; exact get_drop_self _ m k h
  · exact get_put_self d m k v

/-- The other keys read as before. -/
theorem get_set_ne [DecidableEq α] (d : α) (m : Sparse α) {k i : Nat} (v : α) (h : wf d m = true) (hi : i ≠ k) :
    get d (set d m k v) i = get d m i := by
  unfold set
  split
  · exact get_drop_ne d m h hi
  · exact get_put_ne d m v hi

/-- A value that is not the default reads back from any map. -/
theorem get_set_of_ne [DecidableEq α] (d : α) (m : Sparse α) (k : Nat) {v : α} (hv : v ≠ d) :
    get d (set d m k v) k = v := by
  rw [set, if_neg hv]; exact get_put_self d m k v

/-- A lower bound weakens. -/
theorem wfFrom_mono [DecidableEq α] (d : α) (m : Sparse α) {lo hi : Nat} (hle : lo ≤ hi) (h : wfFrom d hi m = true) :
    wfFrom d lo m = true := by
  cases m with
  | nil => rfl
  | cons p m =>
    obtain ⟨j, v⟩ := p
    simp only [wfFrom, Bool.and_eq_true, decide_eq_true_eq] at h ⊢
    exact ⟨⟨by omega, h.1.2⟩, h.2⟩

theorem wfFrom_put [DecidableEq α] (d : α) (m : Sparse α) {lo k : Nat} {v : α} (h : wfFrom d lo m = true)
    (hk : lo ≤ k) (hv : v ≠ d) : wfFrom d lo (put m k v) = true := by
  induction m generalizing lo with
  | nil => simp [put, wfFrom, hk, hv]
  | cons p m ih =>
    obtain ⟨j, w⟩ := p
    simp only [wfFrom, Bool.and_eq_true, decide_eq_true_eq] at h
    simp only [put]
    split
    · subst_vars; simp [wfFrom, hk, hv, h.2]
    · split
      · simp only [wfFrom, Bool.and_eq_true, decide_eq_true_eq]
        exact ⟨⟨hk, hv⟩, ⟨by omega, h.1.2⟩, h.2⟩
      · simp only [wfFrom, Bool.and_eq_true, decide_eq_true_eq]
        exact ⟨h.1, ih h.2 (by omega)⟩

theorem wfFrom_drop [DecidableEq α] (d : α) (m : Sparse α) {lo : Nat} (k : Nat) (h : wfFrom d lo m = true) :
    wfFrom d lo (drop m k) = true := by
  induction m generalizing lo with
  | nil => rfl
  | cons p m ih =>
    obtain ⟨j, w⟩ := p
    have hh := h
    simp only [wfFrom, Bool.and_eq_true, decide_eq_true_eq] at h
    simp only [drop]
    split
    · exact wfFrom_mono d m (by omega) h.2
    · split
      · exact hh
      · simp only [wfFrom, Bool.and_eq_true, decide_eq_true_eq]
        exact ⟨h.1, ih h.2⟩

/-- Setting a key keeps the canonical form. -/
theorem wf_set [DecidableEq α] (d : α) (m : Sparse α) (k : Nat) (v : α) (h : wf d m = true) : wf d (set d m k v) = true := by
  unfold set
  split
  · exact wfFrom_drop d m k h
  · exact wfFrom_put d m h (Nat.zero_le k) (by assumption)

/-- Dropping a key keeps the canonical form. -/
theorem wf_drop [DecidableEq α] (d : α) (m : Sparse α) (k : Nat) (h : wf d m = true) : wf d (drop m k) = true :=
  wfFrom_drop d m k h

/-- Keeping some of the entries keeps the canonical form. -/
theorem wfFrom_filter [DecidableEq α] (d : α) (m : Sparse α) {lo : Nat} (p : Nat × α → Bool) (h : wfFrom d lo m = true) :
    wfFrom d lo (m.filter p) = true := by
  induction m generalizing lo with
  | nil => rfl
  | cons x m ih =>
    obtain ⟨j, w⟩ := x
    simp only [wfFrom, Bool.and_eq_true, decide_eq_true_eq] at h
    by_cases hp : p (j, w) = true
    · rw [List.filter_cons_of_pos hp]
      simp only [wfFrom, Bool.and_eq_true, decide_eq_true_eq]
      exact ⟨h.1, ih h.2⟩
    · rw [List.filter_cons_of_neg hp]
      exact wfFrom_mono d _ (by omega) (ih h.2)

theorem wf_filter [DecidableEq α] (d : α) (m : Sparse α) (p : Nat × α → Bool) (h : wf d m = true) :
    wf d (m.filter p) = true := wfFrom_filter d m p h

/-- Canonical maps that read the same are equal. -/
theorem ext_wfFrom [DecidableEq α] (d : α) (m n : Sparse α) {lo : Nat} (hm : wfFrom d lo m = true)
    (hn : wfFrom d lo n = true) (h : ∀ k, get d m k = get d n k) : m = n := by
  induction m generalizing n lo with
  | nil =>
    cases n with
    | nil => rfl
    | cons q n =>
      obtain ⟨j, w⟩ := q
      simp only [wfFrom, Bool.and_eq_true, decide_eq_true_eq] at hn
      have := h j
      simp [get] at this
      exact absurd this.symm hn.1.2
  | cons p m ih =>
    obtain ⟨i, v⟩ := p
    simp only [wfFrom, Bool.and_eq_true, decide_eq_true_eq] at hm
    cases n with
    | nil =>
      have := h i
      simp [get] at this
      exact absurd this hm.1.2
    | cons q n =>
      obtain ⟨j, w⟩ := q
      simp only [wfFrom, Bool.and_eq_true, decide_eq_true_eq] at hn
      have hij : i = j := by
        rcases Nat.lt_trichotomy i j with hlt | heq | hgt
        · have := h i
          simp only [get, if_true] at this
          rw [if_neg (by omega), if_pos hlt] at this
          exact absurd this hm.1.2
        · exact heq
        · have := h j
          simp only [get, if_true] at this
          rw [if_neg (by omega), if_pos hgt] at this
          exact absurd this.symm hn.1.2
      subst hij
      have hv : v = w := by simpa [get] using h i
      subst hv
      have hrest : ∀ k, get d m k = get d n k := by
        intro k
        by_cases hk : k < i + 1
        · rw [get_of_wfFrom d m hm.2 hk, get_of_wfFrom d n hn.2 hk]
        · have := h k
          simp only [get] at this
          rwa [if_neg (by omega), if_neg (by omega), if_neg (by omega), if_neg (by omega)] at this
      rw [ih n hm.2 hn.2 hrest]

end Sparse

namespace Mem

/-- A byte reads back. -/
theorem read_write_self (m : Mem) (a : Nat) (b : Byte) (h : wf m = true) : read (write m a b) a = b :=
  Sparse.get_set_self 0 m a b h

/-- A write leaves every other byte alone. -/
theorem read_write_ne (m : Mem) {a c : Nat} (b : Byte) (h : wf m = true) (hc : c ≠ a) : read (write m a b) c = read m c :=
  Sparse.get_set_ne 0 m b h hc

/-- A write of a byte keeps the canonical form. -/
theorem wf_write (m : Mem) (a : Nat) (b : Byte) (h : wf m = true) : wf (write m a b) = true := Sparse.wf_set 0 m a b h

/-- A write of bytes keeps the canonical form. -/
theorem wf_writeBytes (m : Mem) (a : Nat) (bs : Bytes) (h : wf m = true) : wf (writeBytes m a bs) = true := by
  induction bs generalizing m a with
  | nil => exact h
  | cons b bs ih => exact ih _ _ (wf_write m a b h)

/-- A write of bytes leaves every byte outside them alone. -/
theorem read_writeBytes_ne (m : Mem) (a : Nat) (bs : Bytes) {c : Nat} (h : wf m = true) (hc : c < a ∨ a + bs.length ≤ c) :
    read (writeBytes m a bs) c = read m c := by
  induction bs generalizing m a with
  | nil => rfl
  | cons b bs ih =>
    simp only [List.length_cons] at hc
    rw [writeBytes, ih _ _ (wf_write m a b h) (by omega), read_write_ne m b h (by omega)]

/-- Written bytes read back one by one. -/
theorem read_writeBytes (m : Mem) (a : Nat) (bs : Bytes) (k : Nat) (h : wf m = true) (hk : k < bs.length) :
    read (writeBytes m a bs) (a + k) = bs[k] := by
  induction bs generalizing m a k with
  | nil => simp at hk
  | cons b bs ih =>
    cases k with
    | zero =>
      rw [writeBytes, read_writeBytes_ne _ _ _ (wf_write m a b h) (by omega)]
      simpa using read_write_self m a b h
    | succ k =>
      have := ih (write m a b) (a + 1) k (wf_write m a b h) (by simpa using hk)
      rw [writeBytes, show a + (k + 1) = a + 1 + k by omega]
      simpa using this

theorem readBytes_length (m : Mem) (a n : Nat) : (readBytes m a n).length = n := by
  induction n generalizing a with
  | zero => rfl
  | succ n ih => simp [readBytes, ih]

/-- Written bytes read back. -/
theorem readBytes_writeBytes (m : Mem) (a : Nat) (bs : Bytes) (h : wf m = true) :
    readBytes (writeBytes m a bs) a bs.length = bs := by
  induction bs generalizing m a with
  | nil => rfl
  | cons b bs ih =>
    simp only [List.length_cons, readBytes, writeBytes]
    rw [ih _ _ (wf_write m a b h), read_writeBytes_ne _ _ _ (wf_write m a b h) (by omega), read_write_self m a b h]

end Mem

end Sys2Proof
end

