-- ==== Sys2Proof/Laws/State.lean ====
section
/-! SUPPORT. What each update of the state leaves alone: one lemma for each field. -/

namespace Sys2Proof.Machine

/-! Counting. -/

@[simp] theorem bump_build (a n : Nat) (s : State) : (bump a n s).build = s.build := rfl
@[simp] theorem bump_fuseBus (a n : Nat) (s : State) : (bump a n s).fuseBus = s.fuseBus := rfl
@[simp] theorem bump_fuses (a n : Nat) (s : State) : (bump a n s).fuses = s.fuses := rfl
@[simp] theorem bump_run (a n : Nat) (s : State) : (bump a n s).run = s.run := rfl
@[simp] theorem bump_cmd (a n : Nat) (s : State) : (bump a n s).cmd = s.cmd := rfl
@[simp] theorem bump_csr (a n : Nat) (s : State) : (bump a n s).csr = s.csr := rfl
@[simp] theorem bump_evt (a n : Nat) (s : State) : (bump a n s).evt = s.evt := rfl
@[simp] theorem bump_ta (a n : Nat) (s : State) : (bump a n s).ta = s.ta := rfl
@[simp] theorem bump_tx (a n : Nat) (s : State) : (bump a n s).tx = s.tx := rfl
@[simp] theorem bump_sdm (a n : Nat) (s : State) : (bump a n s).sdm = s.sdm := rfl
@[simp] theorem bump_preg (a n : Nat) (s : State) : (bump a n s).preg = s.preg := rfl
@[simp] theorem bump_stage (a n : Nat) (s : State) : (bump a n s).stage = s.stage := rfl
@[simp] theorem bump_queues (a n : Nat) (s : State) : (bump a n s).queues = s.queues := rfl
@[simp] theorem bump_spool (a n : Nat) (s : State) : (bump a n s).spool = s.spool := rfl
@[simp] theorem bump_tiles (a n : Nat) (s : State) : (bump a n s).tiles = s.tiles := rfl
@[simp] theorem bump_toc (a n : Nat) (s : State) : (bump a n s).toc = s.toc := rfl
@[simp] theorem bump_amax (a n : Nat) (s : State) : (bump a n s).amax = s.amax := rfl
@[simp] theorem bump_mx (a n : Nat) (s : State) : (bump a n s).mx = s.mx := rfl
@[simp] theorem bump_vx (a n : Nat) (s : State) : (bump a n s).vx = s.vx := rfl
@[simp] theorem bump_glz (a n : Nat) (s : State) : (bump a n s).glz = s.glz := rfl
@[simp] theorem bump_ls (a n : Nat) (s : State) : (bump a n s).ls = s.ls := rfl
@[simp] theorem bump_handles (a n : Nat) (s : State) : (bump a n s).handles = s.handles := rfl
@[simp] theorem bump_res (a n : Nat) (s : State) : (bump a n s).res = s.res := rfl
@[simp] theorem bump_fab (a n : Nat) (s : State) : (bump a n s).fab = s.fab := rfl
@[simp] theorem bump_sess (a n : Nat) (s : State) : (bump a n s).sess = s.sess := rfl
@[simp] theorem bump_ballast (a n : Nat) (s : State) : (bump a n s).ballast = s.ballast := rfl
@[simp] theorem bump_clk (a n : Nat) (s : State) : (bump a n s).clk = s.clk := rfl
@[simp] theorem bump_mould (a n : Nat) (s : State) : (bump a n s).mould = s.mould := rfl
@[simp] theorem bump_brg (a n : Nat) (s : State) : (bump a n s).brg = s.brg := rfl
@[simp] theorem bump_mbx (a n : Nat) (s : State) : (bump a n s).mbx = s.mbx := rfl
@[simp] theorem bump_mon (a n : Nat) (s : State) : (bump a n s).mon = s.mon := rfl
@[simp] theorem bump_tap (a n : Nat) (s : State) : (bump a n s).tap = s.tap := rfl
@[simp] theorem bump_cycle (a n : Nat) (s : State) : (bump a n s).cycle = s.cycle := rfl
@[simp] theorem bump_upsets (a n : Nat) (s : State) : (bump a n s).upsets = s.upsets := rfl
@[simp] theorem bump_flights (a n : Nat) (s : State) : (bump a n s).flights = s.flights := rfl
@[simp] theorem bump_nextId (a n : Nat) (s : State) : (bump a n s).nextId = s.nextId := rfl
@[simp] theorem bump_free (a n : Nat) (s : State) : (bump a n s).free = s.free := rfl
@[simp] theorem bump_pending (a n : Nat) (s : State) : (bump a n s).pending = s.pending := rfl

/-! Replacing a handle-table entry. -/

@[simp] theorem setHandle_build (h : BitVec 8) (e : Handle) (s : State) : (setHandle h e s).build = s.build := rfl
@[simp] theorem setHandle_fuseBus (h : BitVec 8) (e : Handle) (s : State) : (setHandle h e s).fuseBus = s.fuseBus := rfl
@[simp] theorem setHandle_fuses (h : BitVec 8) (e : Handle) (s : State) : (setHandle h e s).fuses = s.fuses := rfl
@[simp] theorem setHandle_run (h : BitVec 8) (e : Handle) (s : State) : (setHandle h e s).run = s.run := rfl
@[simp] theorem setHandle_cmd (h : BitVec 8) (e : Handle) (s : State) : (setHandle h e s).cmd = s.cmd := rfl
@[simp] theorem setHandle_csr (h : BitVec 8) (e : Handle) (s : State) : (setHandle h e s).csr = s.csr := rfl
@[simp] theorem setHandle_evt (h : BitVec 8) (e : Handle) (s : State) : (setHandle h e s).evt = s.evt := rfl
@[simp] theorem setHandle_ta (h : BitVec 8) (e : Handle) (s : State) : (setHandle h e s).ta = s.ta := rfl
@[simp] theorem setHandle_tx (h : BitVec 8) (e : Handle) (s : State) : (setHandle h e s).tx = s.tx := rfl
@[simp] theorem setHandle_sdm (h : BitVec 8) (e : Handle) (s : State) : (setHandle h e s).sdm = s.sdm := rfl
@[simp] theorem setHandle_preg (h : BitVec 8) (e : Handle) (s : State) : (setHandle h e s).preg = s.preg := rfl
@[simp] theorem setHandle_stage (h : BitVec 8) (e : Handle) (s : State) : (setHandle h e s).stage = s.stage := rfl
@[simp] theorem setHandle_queues (h : BitVec 8) (e : Handle) (s : State) : (setHandle h e s).queues = s.queues := rfl
@[simp] theorem setHandle_spool (h : BitVec 8) (e : Handle) (s : State) : (setHandle h e s).spool = s.spool := rfl
@[simp] theorem setHandle_tiles (h : BitVec 8) (e : Handle) (s : State) : (setHandle h e s).tiles = s.tiles := rfl
@[simp] theorem setHandle_toc (h : BitVec 8) (e : Handle) (s : State) : (setHandle h e s).toc = s.toc := rfl
@[simp] theorem setHandle_amax (h : BitVec 8) (e : Handle) (s : State) : (setHandle h e s).amax = s.amax := rfl
@[simp] theorem setHandle_mx (h : BitVec 8) (e : Handle) (s : State) : (setHandle h e s).mx = s.mx := rfl
@[simp] theorem setHandle_vx (h : BitVec 8) (e : Handle) (s : State) : (setHandle h e s).vx = s.vx := rfl
@[simp] theorem setHandle_glz (h : BitVec 8) (e : Handle) (s : State) : (setHandle h e s).glz = s.glz := rfl
@[simp] theorem setHandle_ls (h : BitVec 8) (e : Handle) (s : State) : (setHandle h e s).ls = s.ls := rfl
@[simp] theorem setHandle_res (h : BitVec 8) (e : Handle) (s : State) : (setHandle h e s).res = s.res := rfl
@[simp] theorem setHandle_fab (h : BitVec 8) (e : Handle) (s : State) : (setHandle h e s).fab = s.fab := rfl
@[simp] theorem setHandle_sess (h : BitVec 8) (e : Handle) (s : State) : (setHandle h e s).sess = s.sess := rfl
@[simp] theorem setHandle_ballast (h : BitVec 8) (e : Handle) (s : State) : (setHandle h e s).ballast = s.ballast := rfl
@[simp] theorem setHandle_clk (h : BitVec 8) (e : Handle) (s : State) : (setHandle h e s).clk = s.clk := rfl
@[simp] theorem setHandle_mould (h : BitVec 8) (e : Handle) (s : State) : (setHandle h e s).mould = s.mould := rfl
@[simp] theorem setHandle_brg (h : BitVec 8) (e : Handle) (s : State) : (setHandle h e s).brg = s.brg := rfl
@[simp] theorem setHandle_mbx (h : BitVec 8) (e : Handle) (s : State) : (setHandle h e s).mbx = s.mbx := rfl
@[simp] theorem setHandle_mon (h : BitVec 8) (e : Handle) (s : State) : (setHandle h e s).mon = s.mon := rfl
@[simp] theorem setHandle_tap (h : BitVec 8) (e : Handle) (s : State) : (setHandle h e s).tap = s.tap := rfl
@[simp] theorem setHandle_cycle (h : BitVec 8) (e : Handle) (s : State) : (setHandle h e s).cycle = s.cycle := rfl
@[simp] theorem setHandle_counters (h : BitVec 8) (e : Handle) (s : State) : (setHandle h e s).counters = s.counters := rfl
@[simp] theorem setHandle_upsets (h : BitVec 8) (e : Handle) (s : State) : (setHandle h e s).upsets = s.upsets := rfl
@[simp] theorem setHandle_flights (h : BitVec 8) (e : Handle) (s : State) : (setHandle h e s).flights = s.flights := rfl
@[simp] theorem setHandle_nextId (h : BitVec 8) (e : Handle) (s : State) : (setHandle h e s).nextId = s.nextId := rfl
@[simp] theorem setHandle_free (h : BitVec 8) (e : Handle) (s : State) : (setHandle h e s).free = s.free := rfl
@[simp] theorem setHandle_pending (h : BitVec 8) (e : Handle) (s : State) : (setHandle h e s).pending = s.pending := rfl

/-! The state of a handle. -/

@[simp] theorem setHState_build (h : BitVec 8) (st : HState) (s : State) : (setHState h st s).build = s.build := rfl
@[simp] theorem setHState_fuseBus (h : BitVec 8) (st : HState) (s : State) : (setHState h st s).fuseBus = s.fuseBus := rfl
@[simp] theorem setHState_fuses (h : BitVec 8) (st : HState) (s : State) : (setHState h st s).fuses = s.fuses := rfl
@[simp] theorem setHState_run (h : BitVec 8) (st : HState) (s : State) : (setHState h st s).run = s.run := rfl
@[simp] theorem setHState_cmd (h : BitVec 8) (st : HState) (s : State) : (setHState h st s).cmd = s.cmd := rfl
@[simp] theorem setHState_csr (h : BitVec 8) (st : HState) (s : State) : (setHState h st s).csr = s.csr := rfl
@[simp] theorem setHState_evt (h : BitVec 8) (st : HState) (s : State) : (setHState h st s).evt = s.evt := rfl
@[simp] theorem setHState_ta (h : BitVec 8) (st : HState) (s : State) : (setHState h st s).ta = s.ta := rfl
@[simp] theorem setHState_tx (h : BitVec 8) (st : HState) (s : State) : (setHState h st s).tx = s.tx := rfl
@[simp] theorem setHState_sdm (h : BitVec 8) (st : HState) (s : State) : (setHState h st s).sdm = s.sdm := rfl
@[simp] theorem setHState_preg (h : BitVec 8) (st : HState) (s : State) : (setHState h st s).preg = s.preg := rfl
@[simp] theorem setHState_stage (h : BitVec 8) (st : HState) (s : State) : (setHState h st s).stage = s.stage := rfl
@[simp] theorem setHState_queues (h : BitVec 8) (st : HState) (s : State) : (setHState h st s).queues = s.queues := rfl
@[simp] theorem setHState_spool (h : BitVec 8) (st : HState) (s : State) : (setHState h st s).spool = s.spool := rfl
@[simp] theorem setHState_tiles (h : BitVec 8) (st : HState) (s : State) : (setHState h st s).tiles = s.tiles := rfl
@[simp] theorem setHState_toc (h : BitVec 8) (st : HState) (s : State) : (setHState h st s).toc = s.toc := rfl
@[simp] theorem setHState_amax (h : BitVec 8) (st : HState) (s : State) : (setHState h st s).amax = s.amax := rfl
@[simp] theorem setHState_mx (h : BitVec 8) (st : HState) (s : State) : (setHState h st s).mx = s.mx := rfl
@[simp] theorem setHState_vx (h : BitVec 8) (st : HState) (s : State) : (setHState h st s).vx = s.vx := rfl
@[simp] theorem setHState_glz (h : BitVec 8) (st : HState) (s : State) : (setHState h st s).glz = s.glz := rfl
@[simp] theorem setHState_ls (h : BitVec 8) (st : HState) (s : State) : (setHState h st s).ls = s.ls := rfl
@[simp] theorem setHState_res (h : BitVec 8) (st : HState) (s : State) : (setHState h st s).res = s.res := rfl
@[simp] theorem setHState_fab (h : BitVec 8) (st : HState) (s : State) : (setHState h st s).fab = s.fab := rfl
@[simp] theorem setHState_sess (h : BitVec 8) (st : HState) (s : State) : (setHState h st s).sess = s.sess := rfl
@[simp] theorem setHState_ballast (h : BitVec 8) (st : HState) (s : State) : (setHState h st s).ballast = s.ballast := rfl
@[simp] theorem setHState_clk (h : BitVec 8) (st : HState) (s : State) : (setHState h st s).clk = s.clk := rfl
@[simp] theorem setHState_mould (h : BitVec 8) (st : HState) (s : State) : (setHState h st s).mould = s.mould := rfl
@[simp] theorem setHState_brg (h : BitVec 8) (st : HState) (s : State) : (setHState h st s).brg = s.brg := rfl
@[simp] theorem setHState_mbx (h : BitVec 8) (st : HState) (s : State) : (setHState h st s).mbx = s.mbx := rfl
@[simp] theorem setHState_mon (h : BitVec 8) (st : HState) (s : State) : (setHState h st s).mon = s.mon := rfl
@[simp] theorem setHState_tap (h : BitVec 8) (st : HState) (s : State) : (setHState h st s).tap = s.tap := rfl
@[simp] theorem setHState_cycle (h : BitVec 8) (st : HState) (s : State) : (setHState h st s).cycle = s.cycle := rfl
@[simp] theorem setHState_counters (h : BitVec 8) (st : HState) (s : State) : (setHState h st s).counters = s.counters := rfl
@[simp] theorem setHState_upsets (h : BitVec 8) (st : HState) (s : State) : (setHState h st s).upsets = s.upsets := rfl
@[simp] theorem setHState_flights (h : BitVec 8) (st : HState) (s : State) : (setHState h st s).flights = s.flights := rfl
@[simp] theorem setHState_nextId (h : BitVec 8) (st : HState) (s : State) : (setHState h st s).nextId = s.nextId := rfl
@[simp] theorem setHState_free (h : BitVec 8) (st : HState) (s : State) : (setHState h st s).free = s.free := rfl
@[simp] theorem setHState_pending (h : BitVec 8) (st : HState) (s : State) : (setHState h st s).pending = s.pending := rfl

/-! Replacing a session entry. -/

@[simp] theorem setSess_build (i : Nat) (e : Session) (s : State) : (setSess i e s).build = s.build := rfl
@[simp] theorem setSess_fuseBus (i : Nat) (e : Session) (s : State) : (setSess i e s).fuseBus = s.fuseBus := rfl
@[simp] theorem setSess_fuses (i : Nat) (e : Session) (s : State) : (setSess i e s).fuses = s.fuses := rfl
@[simp] theorem setSess_run (i : Nat) (e : Session) (s : State) : (setSess i e s).run = s.run := rfl
@[simp] theorem setSess_cmd (i : Nat) (e : Session) (s : State) : (setSess i e s).cmd = s.cmd := rfl
@[simp] theorem setSess_csr (i : Nat) (e : Session) (s : State) : (setSess i e s).csr = s.csr := rfl
@[simp] theorem setSess_evt (i : Nat) (e : Session) (s : State) : (setSess i e s).evt = s.evt := rfl
@[simp] theorem setSess_ta (i : Nat) (e : Session) (s : State) : (setSess i e s).ta = s.ta := rfl
@[simp] theorem setSess_tx (i : Nat) (e : Session) (s : State) : (setSess i e s).tx = s.tx := rfl
@[simp] theorem setSess_sdm (i : Nat) (e : Session) (s : State) : (setSess i e s).sdm = s.sdm := rfl
@[simp] theorem setSess_preg (i : Nat) (e : Session) (s : State) : (setSess i e s).preg = s.preg := rfl
@[simp] theorem setSess_stage (i : Nat) (e : Session) (s : State) : (setSess i e s).stage = s.stage := rfl
@[simp] theorem setSess_queues (i : Nat) (e : Session) (s : State) : (setSess i e s).queues = s.queues := rfl
@[simp] theorem setSess_spool (i : Nat) (e : Session) (s : State) : (setSess i e s).spool = s.spool := rfl
@[simp] theorem setSess_tiles (i : Nat) (e : Session) (s : State) : (setSess i e s).tiles = s.tiles := rfl
@[simp] theorem setSess_toc (i : Nat) (e : Session) (s : State) : (setSess i e s).toc = s.toc := rfl
@[simp] theorem setSess_amax (i : Nat) (e : Session) (s : State) : (setSess i e s).amax = s.amax := rfl
@[simp] theorem setSess_mx (i : Nat) (e : Session) (s : State) : (setSess i e s).mx = s.mx := rfl
@[simp] theorem setSess_vx (i : Nat) (e : Session) (s : State) : (setSess i e s).vx = s.vx := rfl
@[simp] theorem setSess_glz (i : Nat) (e : Session) (s : State) : (setSess i e s).glz = s.glz := rfl
@[simp] theorem setSess_ls (i : Nat) (e : Session) (s : State) : (setSess i e s).ls = s.ls := rfl
@[simp] theorem setSess_handles (i : Nat) (e : Session) (s : State) : (setSess i e s).handles = s.handles := rfl
@[simp] theorem setSess_res (i : Nat) (e : Session) (s : State) : (setSess i e s).res = s.res := rfl
@[simp] theorem setSess_fab (i : Nat) (e : Session) (s : State) : (setSess i e s).fab = s.fab := rfl
@[simp] theorem setSess_ballast (i : Nat) (e : Session) (s : State) : (setSess i e s).ballast = s.ballast := rfl
@[simp] theorem setSess_clk (i : Nat) (e : Session) (s : State) : (setSess i e s).clk = s.clk := rfl
@[simp] theorem setSess_mould (i : Nat) (e : Session) (s : State) : (setSess i e s).mould = s.mould := rfl
@[simp] theorem setSess_brg (i : Nat) (e : Session) (s : State) : (setSess i e s).brg = s.brg := rfl
@[simp] theorem setSess_mbx (i : Nat) (e : Session) (s : State) : (setSess i e s).mbx = s.mbx := rfl
@[simp] theorem setSess_mon (i : Nat) (e : Session) (s : State) : (setSess i e s).mon = s.mon := rfl
@[simp] theorem setSess_tap (i : Nat) (e : Session) (s : State) : (setSess i e s).tap = s.tap := rfl
@[simp] theorem setSess_cycle (i : Nat) (e : Session) (s : State) : (setSess i e s).cycle = s.cycle := rfl
@[simp] theorem setSess_counters (i : Nat) (e : Session) (s : State) : (setSess i e s).counters = s.counters := rfl
@[simp] theorem setSess_upsets (i : Nat) (e : Session) (s : State) : (setSess i e s).upsets = s.upsets := rfl
@[simp] theorem setSess_flights (i : Nat) (e : Session) (s : State) : (setSess i e s).flights = s.flights := rfl
@[simp] theorem setSess_nextId (i : Nat) (e : Session) (s : State) : (setSess i e s).nextId = s.nextId := rfl
@[simp] theorem setSess_free (i : Nat) (e : Session) (s : State) : (setSess i e s).free = s.free := rfl
@[simp] theorem setSess_pending (i : Nat) (e : Session) (s : State) : (setSess i e s).pending = s.pending := rfl

/-! Replacing an operand queue. -/

@[simp] theorem setQueue_build (q : Nat) (l : List QEntry) (s : State) : (setQueue q l s).build = s.build := rfl
@[simp] theorem setQueue_fuseBus (q : Nat) (l : List QEntry) (s : State) : (setQueue q l s).fuseBus = s.fuseBus := rfl
@[simp] theorem setQueue_fuses (q : Nat) (l : List QEntry) (s : State) : (setQueue q l s).fuses = s.fuses := rfl
@[simp] theorem setQueue_run (q : Nat) (l : List QEntry) (s : State) : (setQueue q l s).run = s.run := rfl
@[simp] theorem setQueue_cmd (q : Nat) (l : List QEntry) (s : State) : (setQueue q l s).cmd = s.cmd := rfl
@[simp] theorem setQueue_csr (q : Nat) (l : List QEntry) (s : State) : (setQueue q l s).csr = s.csr := rfl
@[simp] theorem setQueue_evt (q : Nat) (l : List QEntry) (s : State) : (setQueue q l s).evt = s.evt := rfl
@[simp] theorem setQueue_ta (q : Nat) (l : List QEntry) (s : State) : (setQueue q l s).ta = s.ta := rfl
@[simp] theorem setQueue_tx (q : Nat) (l : List QEntry) (s : State) : (setQueue q l s).tx = s.tx := rfl
@[simp] theorem setQueue_sdm (q : Nat) (l : List QEntry) (s : State) : (setQueue q l s).sdm = s.sdm := rfl
@[simp] theorem setQueue_preg (q : Nat) (l : List QEntry) (s : State) : (setQueue q l s).preg = s.preg := rfl
@[simp] theorem setQueue_stage (q : Nat) (l : List QEntry) (s : State) : (setQueue q l s).stage = s.stage := rfl
@[simp] theorem setQueue_spool (q : Nat) (l : List QEntry) (s : State) : (setQueue q l s).spool = s.spool := rfl
@[simp] theorem setQueue_tiles (q : Nat) (l : List QEntry) (s : State) : (setQueue q l s).tiles = s.tiles := rfl
@[simp] theorem setQueue_toc (q : Nat) (l : List QEntry) (s : State) : (setQueue q l s).toc = s.toc := rfl
@[simp] theorem setQueue_amax (q : Nat) (l : List QEntry) (s : State) : (setQueue q l s).amax = s.amax := rfl
@[simp] theorem setQueue_mx (q : Nat) (l : List QEntry) (s : State) : (setQueue q l s).mx = s.mx := rfl
@[simp] theorem setQueue_vx (q : Nat) (l : List QEntry) (s : State) : (setQueue q l s).vx = s.vx := rfl
@[simp] theorem setQueue_glz (q : Nat) (l : List QEntry) (s : State) : (setQueue q l s).glz = s.glz := rfl
@[simp] theorem setQueue_ls (q : Nat) (l : List QEntry) (s : State) : (setQueue q l s).ls = s.ls := rfl
@[simp] theorem setQueue_handles (q : Nat) (l : List QEntry) (s : State) : (setQueue q l s).handles = s.handles := rfl
@[simp] theorem setQueue_res (q : Nat) (l : List QEntry) (s : State) : (setQueue q l s).res = s.res := rfl
@[simp] theorem setQueue_fab (q : Nat) (l : List QEntry) (s : State) : (setQueue q l s).fab = s.fab := rfl
@[simp] theorem setQueue_sess (q : Nat) (l : List QEntry) (s : State) : (setQueue q l s).sess = s.sess := rfl
@[simp] theorem setQueue_ballast (q : Nat) (l : List QEntry) (s : State) : (setQueue q l s).ballast = s.ballast := rfl
@[simp] theorem setQueue_clk (q : Nat) (l : List QEntry) (s : State) : (setQueue q l s).clk = s.clk := rfl
@[simp] theorem setQueue_mould (q : Nat) (l : List QEntry) (s : State) : (setQueue q l s).mould = s.mould := rfl
@[simp] theorem setQueue_brg (q : Nat) (l : List QEntry) (s : State) : (setQueue q l s).brg = s.brg := rfl
@[simp] theorem setQueue_mbx (q : Nat) (l : List QEntry) (s : State) : (setQueue q l s).mbx = s.mbx := rfl
@[simp] theorem setQueue_mon (q : Nat) (l : List QEntry) (s : State) : (setQueue q l s).mon = s.mon := rfl
@[simp] theorem setQueue_tap (q : Nat) (l : List QEntry) (s : State) : (setQueue q l s).tap = s.tap := rfl
@[simp] theorem setQueue_cycle (q : Nat) (l : List QEntry) (s : State) : (setQueue q l s).cycle = s.cycle := rfl
@[simp] theorem setQueue_counters (q : Nat) (l : List QEntry) (s : State) : (setQueue q l s).counters = s.counters := rfl
@[simp] theorem setQueue_upsets (q : Nat) (l : List QEntry) (s : State) : (setQueue q l s).upsets = s.upsets := rfl
@[simp] theorem setQueue_flights (q : Nat) (l : List QEntry) (s : State) : (setQueue q l s).flights = s.flights := rfl
@[simp] theorem setQueue_nextId (q : Nat) (l : List QEntry) (s : State) : (setQueue q l s).nextId = s.nextId := rfl
@[simp] theorem setQueue_free (q : Nat) (l : List QEntry) (s : State) : (setQueue q l s).free = s.free := rfl
@[simp] theorem setQueue_pending (q : Nat) (l : List QEntry) (s : State) : (setQueue q l s).pending = s.pending := rfl

/-! Replacing a token queue. -/

@[simp] theorem setTokens_build (k : Nat) (l : List KEntry) (s : State) : (setTokens k l s).build = s.build := rfl
@[simp] theorem setTokens_fuseBus (k : Nat) (l : List KEntry) (s : State) : (setTokens k l s).fuseBus = s.fuseBus := rfl
@[simp] theorem setTokens_fuses (k : Nat) (l : List KEntry) (s : State) : (setTokens k l s).fuses = s.fuses := rfl
@[simp] theorem setTokens_run (k : Nat) (l : List KEntry) (s : State) : (setTokens k l s).run = s.run := rfl
@[simp] theorem setTokens_cmd (k : Nat) (l : List KEntry) (s : State) : (setTokens k l s).cmd = s.cmd := rfl
@[simp] theorem setTokens_csr (k : Nat) (l : List KEntry) (s : State) : (setTokens k l s).csr = s.csr := rfl
@[simp] theorem setTokens_evt (k : Nat) (l : List KEntry) (s : State) : (setTokens k l s).evt = s.evt := rfl
@[simp] theorem setTokens_ta (k : Nat) (l : List KEntry) (s : State) : (setTokens k l s).ta = s.ta := rfl
@[simp] theorem setTokens_tx (k : Nat) (l : List KEntry) (s : State) : (setTokens k l s).tx = s.tx := rfl
@[simp] theorem setTokens_sdm (k : Nat) (l : List KEntry) (s : State) : (setTokens k l s).sdm = s.sdm := rfl
@[simp] theorem setTokens_preg (k : Nat) (l : List KEntry) (s : State) : (setTokens k l s).preg = s.preg := rfl
@[simp] theorem setTokens_stage (k : Nat) (l : List KEntry) (s : State) : (setTokens k l s).stage = s.stage := rfl
@[simp] theorem setTokens_spool (k : Nat) (l : List KEntry) (s : State) : (setTokens k l s).spool = s.spool := rfl
@[simp] theorem setTokens_tiles (k : Nat) (l : List KEntry) (s : State) : (setTokens k l s).tiles = s.tiles := rfl
@[simp] theorem setTokens_toc (k : Nat) (l : List KEntry) (s : State) : (setTokens k l s).toc = s.toc := rfl
@[simp] theorem setTokens_amax (k : Nat) (l : List KEntry) (s : State) : (setTokens k l s).amax = s.amax := rfl
@[simp] theorem setTokens_mx (k : Nat) (l : List KEntry) (s : State) : (setTokens k l s).mx = s.mx := rfl
@[simp] theorem setTokens_vx (k : Nat) (l : List KEntry) (s : State) : (setTokens k l s).vx = s.vx := rfl
@[simp] theorem setTokens_glz (k : Nat) (l : List KEntry) (s : State) : (setTokens k l s).glz = s.glz := rfl
@[simp] theorem setTokens_ls (k : Nat) (l : List KEntry) (s : State) : (setTokens k l s).ls = s.ls := rfl
@[simp] theorem setTokens_handles (k : Nat) (l : List KEntry) (s : State) : (setTokens k l s).handles = s.handles := rfl
@[simp] theorem setTokens_res (k : Nat) (l : List KEntry) (s : State) : (setTokens k l s).res = s.res := rfl
@[simp] theorem setTokens_fab (k : Nat) (l : List KEntry) (s : State) : (setTokens k l s).fab = s.fab := rfl
@[simp] theorem setTokens_sess (k : Nat) (l : List KEntry) (s : State) : (setTokens k l s).sess = s.sess := rfl
@[simp] theorem setTokens_ballast (k : Nat) (l : List KEntry) (s : State) : (setTokens k l s).ballast = s.ballast := rfl
@[simp] theorem setTokens_clk (k : Nat) (l : List KEntry) (s : State) : (setTokens k l s).clk = s.clk := rfl
@[simp] theorem setTokens_mould (k : Nat) (l : List KEntry) (s : State) : (setTokens k l s).mould = s.mould := rfl
@[simp] theorem setTokens_brg (k : Nat) (l : List KEntry) (s : State) : (setTokens k l s).brg = s.brg := rfl
@[simp] theorem setTokens_mbx (k : Nat) (l : List KEntry) (s : State) : (setTokens k l s).mbx = s.mbx := rfl
@[simp] theorem setTokens_mon (k : Nat) (l : List KEntry) (s : State) : (setTokens k l s).mon = s.mon := rfl
@[simp] theorem setTokens_tap (k : Nat) (l : List KEntry) (s : State) : (setTokens k l s).tap = s.tap := rfl
@[simp] theorem setTokens_cycle (k : Nat) (l : List KEntry) (s : State) : (setTokens k l s).cycle = s.cycle := rfl
@[simp] theorem setTokens_counters (k : Nat) (l : List KEntry) (s : State) : (setTokens k l s).counters = s.counters := rfl
@[simp] theorem setTokens_upsets (k : Nat) (l : List KEntry) (s : State) : (setTokens k l s).upsets = s.upsets := rfl
@[simp] theorem setTokens_flights (k : Nat) (l : List KEntry) (s : State) : (setTokens k l s).flights = s.flights := rfl
@[simp] theorem setTokens_nextId (k : Nat) (l : List KEntry) (s : State) : (setTokens k l s).nextId = s.nextId := rfl
@[simp] theorem setTokens_free (k : Nat) (l : List KEntry) (s : State) : (setTokens k l s).free = s.free := rfl
@[simp] theorem setTokens_pending (k : Nat) (l : List KEntry) (s : State) : (setTokens k l s).pending = s.pending := rfl

/-! Changing an instruction in flight. -/

@[simp] theorem modFlight_build (i : Nat) (g : Flight → Flight) (s : State) : (modFlight i g s).build = s.build := rfl
@[simp] theorem modFlight_fuseBus (i : Nat) (g : Flight → Flight) (s : State) : (modFlight i g s).fuseBus = s.fuseBus := rfl
@[simp] theorem modFlight_fuses (i : Nat) (g : Flight → Flight) (s : State) : (modFlight i g s).fuses = s.fuses := rfl
@[simp] theorem modFlight_run (i : Nat) (g : Flight → Flight) (s : State) : (modFlight i g s).run = s.run := rfl
@[simp] theorem modFlight_cmd (i : Nat) (g : Flight → Flight) (s : State) : (modFlight i g s).cmd = s.cmd := rfl
@[simp] theorem modFlight_csr (i : Nat) (g : Flight → Flight) (s : State) : (modFlight i g s).csr = s.csr := rfl
@[simp] theorem modFlight_evt (i : Nat) (g : Flight → Flight) (s : State) : (modFlight i g s).evt = s.evt := rfl
@[simp] theorem modFlight_ta (i : Nat) (g : Flight → Flight) (s : State) : (modFlight i g s).ta = s.ta := rfl
@[simp] theorem modFlight_tx (i : Nat) (g : Flight → Flight) (s : State) : (modFlight i g s).tx = s.tx := rfl
@[simp] theorem modFlight_sdm (i : Nat) (g : Flight → Flight) (s : State) : (modFlight i g s).sdm = s.sdm := rfl
@[simp] theorem modFlight_preg (i : Nat) (g : Flight → Flight) (s : State) : (modFlight i g s).preg = s.preg := rfl
@[simp] theorem modFlight_stage (i : Nat) (g : Flight → Flight) (s : State) : (modFlight i g s).stage = s.stage := rfl
@[simp] theorem modFlight_queues (i : Nat) (g : Flight → Flight) (s : State) : (modFlight i g s).queues = s.queues := rfl
@[simp] theorem modFlight_spool (i : Nat) (g : Flight → Flight) (s : State) : (modFlight i g s).spool = s.spool := rfl
@[simp] theorem modFlight_tiles (i : Nat) (g : Flight → Flight) (s : State) : (modFlight i g s).tiles = s.tiles := rfl
@[simp] theorem modFlight_toc (i : Nat) (g : Flight → Flight) (s : State) : (modFlight i g s).toc = s.toc := rfl
@[simp] theorem modFlight_amax (i : Nat) (g : Flight → Flight) (s : State) : (modFlight i g s).amax = s.amax := rfl
@[simp] theorem modFlight_mx (i : Nat) (g : Flight → Flight) (s : State) : (modFlight i g s).mx = s.mx := rfl
@[simp] theorem modFlight_vx (i : Nat) (g : Flight → Flight) (s : State) : (modFlight i g s).vx = s.vx := rfl
@[simp] theorem modFlight_glz (i : Nat) (g : Flight → Flight) (s : State) : (modFlight i g s).glz = s.glz := rfl
@[simp] theorem modFlight_ls (i : Nat) (g : Flight → Flight) (s : State) : (modFlight i g s).ls = s.ls := rfl
@[simp] theorem modFlight_handles (i : Nat) (g : Flight → Flight) (s : State) : (modFlight i g s).handles = s.handles := rfl
@[simp] theorem modFlight_res (i : Nat) (g : Flight → Flight) (s : State) : (modFlight i g s).res = s.res := rfl
@[simp] theorem modFlight_fab (i : Nat) (g : Flight → Flight) (s : State) : (modFlight i g s).fab = s.fab := rfl
@[simp] theorem modFlight_sess (i : Nat) (g : Flight → Flight) (s : State) : (modFlight i g s).sess = s.sess := rfl
@[simp] theorem modFlight_ballast (i : Nat) (g : Flight → Flight) (s : State) : (modFlight i g s).ballast = s.ballast := rfl
@[simp] theorem modFlight_clk (i : Nat) (g : Flight → Flight) (s : State) : (modFlight i g s).clk = s.clk := rfl
@[simp] theorem modFlight_mould (i : Nat) (g : Flight → Flight) (s : State) : (modFlight i g s).mould = s.mould := rfl
@[simp] theorem modFlight_brg (i : Nat) (g : Flight → Flight) (s : State) : (modFlight i g s).brg = s.brg := rfl
@[simp] theorem modFlight_mbx (i : Nat) (g : Flight → Flight) (s : State) : (modFlight i g s).mbx = s.mbx := rfl
@[simp] theorem modFlight_mon (i : Nat) (g : Flight → Flight) (s : State) : (modFlight i g s).mon = s.mon := rfl
@[simp] theorem modFlight_tap (i : Nat) (g : Flight → Flight) (s : State) : (modFlight i g s).tap = s.tap := rfl
@[simp] theorem modFlight_cycle (i : Nat) (g : Flight → Flight) (s : State) : (modFlight i g s).cycle = s.cycle := rfl
@[simp] theorem modFlight_counters (i : Nat) (g : Flight → Flight) (s : State) : (modFlight i g s).counters = s.counters := rfl
@[simp] theorem modFlight_upsets (i : Nat) (g : Flight → Flight) (s : State) : (modFlight i g s).upsets = s.upsets := rfl
@[simp] theorem modFlight_nextId (i : Nat) (g : Flight → Flight) (s : State) : (modFlight i g s).nextId = s.nextId := rfl
@[simp] theorem modFlight_free (i : Nat) (g : Flight → Flight) (s : State) : (modFlight i g s).free = s.free := rfl
@[simp] theorem modFlight_pending (i : Nat) (g : Flight → Flight) (s : State) : (modFlight i g s).pending = s.pending := rfl

/-! Taking an instruction out of flight. -/

@[simp] theorem dropFlight_build (i : Nat) (s : State) : (dropFlight i s).build = s.build := rfl
@[simp] theorem dropFlight_fuseBus (i : Nat) (s : State) : (dropFlight i s).fuseBus = s.fuseBus := rfl
@[simp] theorem dropFlight_fuses (i : Nat) (s : State) : (dropFlight i s).fuses = s.fuses := rfl
@[simp] theorem dropFlight_run (i : Nat) (s : State) : (dropFlight i s).run = s.run := rfl
@[simp] theorem dropFlight_cmd (i : Nat) (s : State) : (dropFlight i s).cmd = s.cmd := rfl
@[simp] theorem dropFlight_csr (i : Nat) (s : State) : (dropFlight i s).csr = s.csr := rfl
@[simp] theorem dropFlight_evt (i : Nat) (s : State) : (dropFlight i s).evt = s.evt := rfl
@[simp] theorem dropFlight_ta (i : Nat) (s : State) : (dropFlight i s).ta = s.ta := rfl
@[simp] theorem dropFlight_tx (i : Nat) (s : State) : (dropFlight i s).tx = s.tx := rfl
@[simp] theorem dropFlight_sdm (i : Nat) (s : State) : (dropFlight i s).sdm = s.sdm := rfl
@[simp] theorem dropFlight_preg (i : Nat) (s : State) : (dropFlight i s).preg = s.preg := rfl
@[simp] theorem dropFlight_stage (i : Nat) (s : State) : (dropFlight i s).stage = s.stage := rfl
@[simp] theorem dropFlight_queues (i : Nat) (s : State) : (dropFlight i s).queues = s.queues := rfl
@[simp] theorem dropFlight_spool (i : Nat) (s : State) : (dropFlight i s).spool = s.spool := rfl
@[simp] theorem dropFlight_tiles (i : Nat) (s : State) : (dropFlight i s).tiles = s.tiles := rfl
@[simp] theorem dropFlight_toc (i : Nat) (s : State) : (dropFlight i s).toc = s.toc := rfl
@[simp] theorem dropFlight_amax (i : Nat) (s : State) : (dropFlight i s).amax = s.amax := rfl
@[simp] theorem dropFlight_mx (i : Nat) (s : State) : (dropFlight i s).mx = s.mx := rfl
@[simp] theorem dropFlight_vx (i : Nat) (s : State) : (dropFlight i s).vx = s.vx := rfl
@[simp] theorem dropFlight_glz (i : Nat) (s : State) : (dropFlight i s).glz = s.glz := rfl
@[simp] theorem dropFlight_ls (i : Nat) (s : State) : (dropFlight i s).ls = s.ls := rfl
@[simp] theorem dropFlight_handles (i : Nat) (s : State) : (dropFlight i s).handles = s.handles := rfl
@[simp] theorem dropFlight_res (i : Nat) (s : State) : (dropFlight i s).res = s.res := rfl
@[simp] theorem dropFlight_fab (i : Nat) (s : State) : (dropFlight i s).fab = s.fab := rfl
@[simp] theorem dropFlight_sess (i : Nat) (s : State) : (dropFlight i s).sess = s.sess := rfl
@[simp] theorem dropFlight_ballast (i : Nat) (s : State) : (dropFlight i s).ballast = s.ballast := rfl
@[simp] theorem dropFlight_clk (i : Nat) (s : State) : (dropFlight i s).clk = s.clk := rfl
@[simp] theorem dropFlight_mould (i : Nat) (s : State) : (dropFlight i s).mould = s.mould := rfl
@[simp] theorem dropFlight_brg (i : Nat) (s : State) : (dropFlight i s).brg = s.brg := rfl
@[simp] theorem dropFlight_mbx (i : Nat) (s : State) : (dropFlight i s).mbx = s.mbx := rfl
@[simp] theorem dropFlight_mon (i : Nat) (s : State) : (dropFlight i s).mon = s.mon := rfl
@[simp] theorem dropFlight_tap (i : Nat) (s : State) : (dropFlight i s).tap = s.tap := rfl
@[simp] theorem dropFlight_cycle (i : Nat) (s : State) : (dropFlight i s).cycle = s.cycle := rfl
@[simp] theorem dropFlight_counters (i : Nat) (s : State) : (dropFlight i s).counters = s.counters := rfl
@[simp] theorem dropFlight_upsets (i : Nat) (s : State) : (dropFlight i s).upsets = s.upsets := rfl
@[simp] theorem dropFlight_nextId (i : Nat) (s : State) : (dropFlight i s).nextId = s.nextId := rfl
@[simp] theorem dropFlight_free (i : Nat) (s : State) : (dropFlight i s).free = s.free := rfl
@[simp] theorem dropFlight_pending (i : Nat) (s : State) : (dropFlight i s).pending = s.pending := rfl

/-! Writing a row. -/

@[simp] theorem writeRow_build (p : Nat) (bs : Bytes) (s : State) : (writeRow p bs s).build = s.build := rfl
@[simp] theorem writeRow_fuseBus (p : Nat) (bs : Bytes) (s : State) : (writeRow p bs s).fuseBus = s.fuseBus := rfl
@[simp] theorem writeRow_fuses (p : Nat) (bs : Bytes) (s : State) : (writeRow p bs s).fuses = s.fuses := rfl
@[simp] theorem writeRow_run (p : Nat) (bs : Bytes) (s : State) : (writeRow p bs s).run = s.run := rfl
@[simp] theorem writeRow_cmd (p : Nat) (bs : Bytes) (s : State) : (writeRow p bs s).cmd = s.cmd := rfl
@[simp] theorem writeRow_csr (p : Nat) (bs : Bytes) (s : State) : (writeRow p bs s).csr = s.csr := rfl
@[simp] theorem writeRow_evt (p : Nat) (bs : Bytes) (s : State) : (writeRow p bs s).evt = s.evt := rfl
@[simp] theorem writeRow_ta (p : Nat) (bs : Bytes) (s : State) : (writeRow p bs s).ta = s.ta := rfl
@[simp] theorem writeRow_tx (p : Nat) (bs : Bytes) (s : State) : (writeRow p bs s).tx = s.tx := rfl
@[simp] theorem writeRow_sdm (p : Nat) (bs : Bytes) (s : State) : (writeRow p bs s).sdm = s.sdm := rfl
@[simp] theorem writeRow_preg (p : Nat) (bs : Bytes) (s : State) : (writeRow p bs s).preg = s.preg := rfl
@[simp] theorem writeRow_stage (p : Nat) (bs : Bytes) (s : State) : (writeRow p bs s).stage = s.stage := rfl
@[simp] theorem writeRow_queues (p : Nat) (bs : Bytes) (s : State) : (writeRow p bs s).queues = s.queues := rfl
@[simp] theorem writeRow_spool (p : Nat) (bs : Bytes) (s : State) : (writeRow p bs s).spool = s.spool := rfl
@[simp] theorem writeRow_tiles (p : Nat) (bs : Bytes) (s : State) : (writeRow p bs s).tiles = s.tiles := rfl
@[simp] theorem writeRow_toc (p : Nat) (bs : Bytes) (s : State) : (writeRow p bs s).toc = s.toc := rfl
@[simp] theorem writeRow_amax (p : Nat) (bs : Bytes) (s : State) : (writeRow p bs s).amax = s.amax := rfl
@[simp] theorem writeRow_mx (p : Nat) (bs : Bytes) (s : State) : (writeRow p bs s).mx = s.mx := rfl
@[simp] theorem writeRow_vx (p : Nat) (bs : Bytes) (s : State) : (writeRow p bs s).vx = s.vx := rfl
@[simp] theorem writeRow_glz (p : Nat) (bs : Bytes) (s : State) : (writeRow p bs s).glz = s.glz := rfl
@[simp] theorem writeRow_handles (p : Nat) (bs : Bytes) (s : State) : (writeRow p bs s).handles = s.handles := rfl
@[simp] theorem writeRow_res (p : Nat) (bs : Bytes) (s : State) : (writeRow p bs s).res = s.res := rfl
@[simp] theorem writeRow_fab (p : Nat) (bs : Bytes) (s : State) : (writeRow p bs s).fab = s.fab := rfl
@[simp] theorem writeRow_sess (p : Nat) (bs : Bytes) (s : State) : (writeRow p bs s).sess = s.sess := rfl
@[simp] theorem writeRow_ballast (p : Nat) (bs : Bytes) (s : State) : (writeRow p bs s).ballast = s.ballast := rfl
@[simp] theorem writeRow_clk (p : Nat) (bs : Bytes) (s : State) : (writeRow p bs s).clk = s.clk := rfl
@[simp] theorem writeRow_mould (p : Nat) (bs : Bytes) (s : State) : (writeRow p bs s).mould = s.mould := rfl
@[simp] theorem writeRow_brg (p : Nat) (bs : Bytes) (s : State) : (writeRow p bs s).brg = s.brg := rfl
@[simp] theorem writeRow_mbx (p : Nat) (bs : Bytes) (s : State) : (writeRow p bs s).mbx = s.mbx := rfl
@[simp] theorem writeRow_mon (p : Nat) (bs : Bytes) (s : State) : (writeRow p bs s).mon = s.mon := rfl
@[simp] theorem writeRow_tap (p : Nat) (bs : Bytes) (s : State) : (writeRow p bs s).tap = s.tap := rfl
@[simp] theorem writeRow_cycle (p : Nat) (bs : Bytes) (s : State) : (writeRow p bs s).cycle = s.cycle := rfl
@[simp] theorem writeRow_counters (p : Nat) (bs : Bytes) (s : State) : (writeRow p bs s).counters = s.counters := rfl
@[simp] theorem writeRow_upsets (p : Nat) (bs : Bytes) (s : State) : (writeRow p bs s).upsets = s.upsets := rfl
@[simp] theorem writeRow_flights (p : Nat) (bs : Bytes) (s : State) : (writeRow p bs s).flights = s.flights := rfl
@[simp] theorem writeRow_nextId (p : Nat) (bs : Bytes) (s : State) : (writeRow p bs s).nextId = s.nextId := rfl
@[simp] theorem writeRow_free (p : Nat) (bs : Bytes) (s : State) : (writeRow p bs s).free = s.free := rfl
@[simp] theorem writeRow_pending (p : Nat) (bs : Bytes) (s : State) : (writeRow p bs s).pending = s.pending := rfl

/-! Setting a tag. -/

@[simp] theorem setTag_build (p : Nat) (g : Tag) (s : State) : (setTag p g s).build = s.build := rfl
@[simp] theorem setTag_fuseBus (p : Nat) (g : Tag) (s : State) : (setTag p g s).fuseBus = s.fuseBus := rfl
@[simp] theorem setTag_fuses (p : Nat) (g : Tag) (s : State) : (setTag p g s).fuses = s.fuses := rfl
@[simp] theorem setTag_run (p : Nat) (g : Tag) (s : State) : (setTag p g s).run = s.run := rfl
@[simp] theorem setTag_cmd (p : Nat) (g : Tag) (s : State) : (setTag p g s).cmd = s.cmd := rfl
@[simp] theorem setTag_csr (p : Nat) (g : Tag) (s : State) : (setTag p g s).csr = s.csr := rfl
@[simp] theorem setTag_evt (p : Nat) (g : Tag) (s : State) : (setTag p g s).evt = s.evt := rfl
@[simp] theorem setTag_ta (p : Nat) (g : Tag) (s : State) : (setTag p g s).ta = s.ta := rfl
@[simp] theorem setTag_tx (p : Nat) (g : Tag) (s : State) : (setTag p g s).tx = s.tx := rfl
@[simp] theorem setTag_sdm (p : Nat) (g : Tag) (s : State) : (setTag p g s).sdm = s.sdm := rfl
@[simp] theorem setTag_preg (p : Nat) (g : Tag) (s : State) : (setTag p g s).preg = s.preg := rfl
@[simp] theorem setTag_stage (p : Nat) (g : Tag) (s : State) : (setTag p g s).stage = s.stage := rfl
@[simp] theorem setTag_queues (p : Nat) (g : Tag) (s : State) : (setTag p g s).queues = s.queues := rfl
@[simp] theorem setTag_spool (p : Nat) (g : Tag) (s : State) : (setTag p g s).spool = s.spool := rfl
@[simp] theorem setTag_tiles (p : Nat) (g : Tag) (s : State) : (setTag p g s).tiles = s.tiles := rfl
@[simp] theorem setTag_toc (p : Nat) (g : Tag) (s : State) : (setTag p g s).toc = s.toc := rfl
@[simp] theorem setTag_amax (p : Nat) (g : Tag) (s : State) : (setTag p g s).amax = s.amax := rfl
@[simp] theorem setTag_mx (p : Nat) (g : Tag) (s : State) : (setTag p g s).mx = s.mx := rfl
@[simp] theorem setTag_vx (p : Nat) (g : Tag) (s : State) : (setTag p g s).vx = s.vx := rfl
@[simp] theorem setTag_glz (p : Nat) (g : Tag) (s : State) : (setTag p g s).glz = s.glz := rfl
@[simp] theorem setTag_handles (p : Nat) (g : Tag) (s : State) : (setTag p g s).handles = s.handles := rfl
@[simp] theorem setTag_res (p : Nat) (g : Tag) (s : State) : (setTag p g s).res = s.res := rfl
@[simp] theorem setTag_fab (p : Nat) (g : Tag) (s : State) : (setTag p g s).fab = s.fab := rfl
@[simp] theorem setTag_sess (p : Nat) (g : Tag) (s : State) : (setTag p g s).sess = s.sess := rfl
@[simp] theorem setTag_ballast (p : Nat) (g : Tag) (s : State) : (setTag p g s).ballast = s.ballast := rfl
@[simp] theorem setTag_clk (p : Nat) (g : Tag) (s : State) : (setTag p g s).clk = s.clk := rfl
@[simp] theorem setTag_mould (p : Nat) (g : Tag) (s : State) : (setTag p g s).mould = s.mould := rfl
@[simp] theorem setTag_brg (p : Nat) (g : Tag) (s : State) : (setTag p g s).brg = s.brg := rfl
@[simp] theorem setTag_mbx (p : Nat) (g : Tag) (s : State) : (setTag p g s).mbx = s.mbx := rfl
@[simp] theorem setTag_mon (p : Nat) (g : Tag) (s : State) : (setTag p g s).mon = s.mon := rfl
@[simp] theorem setTag_tap (p : Nat) (g : Tag) (s : State) : (setTag p g s).tap = s.tap := rfl
@[simp] theorem setTag_cycle (p : Nat) (g : Tag) (s : State) : (setTag p g s).cycle = s.cycle := rfl
@[simp] theorem setTag_counters (p : Nat) (g : Tag) (s : State) : (setTag p g s).counters = s.counters := rfl
@[simp] theorem setTag_upsets (p : Nat) (g : Tag) (s : State) : (setTag p g s).upsets = s.upsets := rfl
@[simp] theorem setTag_flights (p : Nat) (g : Tag) (s : State) : (setTag p g s).flights = s.flights := rfl
@[simp] theorem setTag_nextId (p : Nat) (g : Tag) (s : State) : (setTag p g s).nextId = s.nextId := rfl
@[simp] theorem setTag_free (p : Nat) (g : Tag) (s : State) : (setTag p g s).free = s.free := rfl
@[simp] theorem setTag_pending (p : Nat) (g : Tag) (s : State) : (setTag p g s).pending = s.pending := rfl

/-! Queueing a boundary access. -/

@[simp] theorem queueBoundary_build (b : BAccess) (s : State) : (queueBoundary b s).build = s.build := rfl
@[simp] theorem queueBoundary_fuseBus (b : BAccess) (s : State) : (queueBoundary b s).fuseBus = s.fuseBus := rfl
@[simp] theorem queueBoundary_fuses (b : BAccess) (s : State) : (queueBoundary b s).fuses = s.fuses := rfl
@[simp] theorem queueBoundary_run (b : BAccess) (s : State) : (queueBoundary b s).run = s.run := rfl
@[simp] theorem queueBoundary_cmd (b : BAccess) (s : State) : (queueBoundary b s).cmd = s.cmd := rfl
@[simp] theorem queueBoundary_csr (b : BAccess) (s : State) : (queueBoundary b s).csr = s.csr := rfl
@[simp] theorem queueBoundary_evt (b : BAccess) (s : State) : (queueBoundary b s).evt = s.evt := rfl
@[simp] theorem queueBoundary_ta (b : BAccess) (s : State) : (queueBoundary b s).ta = s.ta := rfl
@[simp] theorem queueBoundary_tx (b : BAccess) (s : State) : (queueBoundary b s).tx = s.tx := rfl
@[simp] theorem queueBoundary_sdm (b : BAccess) (s : State) : (queueBoundary b s).sdm = s.sdm := rfl
@[simp] theorem queueBoundary_preg (b : BAccess) (s : State) : (queueBoundary b s).preg = s.preg := rfl
@[simp] theorem queueBoundary_stage (b : BAccess) (s : State) : (queueBoundary b s).stage = s.stage := rfl
@[simp] theorem queueBoundary_queues (b : BAccess) (s : State) : (queueBoundary b s).queues = s.queues := rfl
@[simp] theorem queueBoundary_spool (b : BAccess) (s : State) : (queueBoundary b s).spool = s.spool := rfl
@[simp] theorem queueBoundary_tiles (b : BAccess) (s : State) : (queueBoundary b s).tiles = s.tiles := rfl
@[simp] theorem queueBoundary_toc (b : BAccess) (s : State) : (queueBoundary b s).toc = s.toc := rfl
@[simp] theorem queueBoundary_amax (b : BAccess) (s : State) : (queueBoundary b s).amax = s.amax := rfl
@[simp] theorem queueBoundary_mx (b : BAccess) (s : State) : (queueBoundary b s).mx = s.mx := rfl
@[simp] theorem queueBoundary_vx (b : BAccess) (s : State) : (queueBoundary b s).vx = s.vx := rfl
@[simp] theorem queueBoundary_glz (b : BAccess) (s : State) : (queueBoundary b s).glz = s.glz := rfl
@[simp] theorem queueBoundary_handles (b : BAccess) (s : State) : (queueBoundary b s).handles = s.handles := rfl
@[simp] theorem queueBoundary_res (b : BAccess) (s : State) : (queueBoundary b s).res = s.res := rfl
@[simp] theorem queueBoundary_fab (b : BAccess) (s : State) : (queueBoundary b s).fab = s.fab := rfl
@[simp] theorem queueBoundary_sess (b : BAccess) (s : State) : (queueBoundary b s).sess = s.sess := rfl
@[simp] theorem queueBoundary_ballast (b : BAccess) (s : State) : (queueBoundary b s).ballast = s.ballast := rfl
@[simp] theorem queueBoundary_clk (b : BAccess) (s : State) : (queueBoundary b s).clk = s.clk := rfl
@[simp] theorem queueBoundary_mould (b : BAccess) (s : State) : (queueBoundary b s).mould = s.mould := rfl
@[simp] theorem queueBoundary_brg (b : BAccess) (s : State) : (queueBoundary b s).brg = s.brg := rfl
@[simp] theorem queueBoundary_mbx (b : BAccess) (s : State) : (queueBoundary b s).mbx = s.mbx := rfl
@[simp] theorem queueBoundary_mon (b : BAccess) (s : State) : (queueBoundary b s).mon = s.mon := rfl
@[simp] theorem queueBoundary_tap (b : BAccess) (s : State) : (queueBoundary b s).tap = s.tap := rfl
@[simp] theorem queueBoundary_cycle (b : BAccess) (s : State) : (queueBoundary b s).cycle = s.cycle := rfl
@[simp] theorem queueBoundary_counters (b : BAccess) (s : State) : (queueBoundary b s).counters = s.counters := rfl
@[simp] theorem queueBoundary_upsets (b : BAccess) (s : State) : (queueBoundary b s).upsets = s.upsets := rfl
@[simp] theorem queueBoundary_flights (b : BAccess) (s : State) : (queueBoundary b s).flights = s.flights := rfl
@[simp] theorem queueBoundary_nextId (b : BAccess) (s : State) : (queueBoundary b s).nextId = s.nextId := rfl
@[simp] theorem queueBoundary_free (b : BAccess) (s : State) : (queueBoundary b s).free = s.free := rfl
@[simp] theorem queueBoundary_pending (b : BAccess) (s : State) : (queueBoundary b s).pending = s.pending := rfl

/-! Counting a boundary access. -/

@[simp] theorem countBoundary_build (s : State) : (countBoundary s).build = s.build := rfl
@[simp] theorem countBoundary_fuseBus (s : State) : (countBoundary s).fuseBus = s.fuseBus := rfl
@[simp] theorem countBoundary_fuses (s : State) : (countBoundary s).fuses = s.fuses := rfl
@[simp] theorem countBoundary_run (s : State) : (countBoundary s).run = s.run := rfl
@[simp] theorem countBoundary_cmd (s : State) : (countBoundary s).cmd = s.cmd := rfl
@[simp] theorem countBoundary_csr (s : State) : (countBoundary s).csr = s.csr := rfl
@[simp] theorem countBoundary_evt (s : State) : (countBoundary s).evt = s.evt := rfl
@[simp] theorem countBoundary_ta (s : State) : (countBoundary s).ta = s.ta := rfl
@[simp] theorem countBoundary_tx (s : State) : (countBoundary s).tx = s.tx := rfl
@[simp] theorem countBoundary_sdm (s : State) : (countBoundary s).sdm = s.sdm := rfl
@[simp] theorem countBoundary_preg (s : State) : (countBoundary s).preg = s.preg := rfl
@[simp] theorem countBoundary_stage (s : State) : (countBoundary s).stage = s.stage := rfl
@[simp] theorem countBoundary_queues (s : State) : (countBoundary s).queues = s.queues := rfl
@[simp] theorem countBoundary_spool (s : State) : (countBoundary s).spool = s.spool := rfl
@[simp] theorem countBoundary_tiles (s : State) : (countBoundary s).tiles = s.tiles := rfl
@[simp] theorem countBoundary_toc (s : State) : (countBoundary s).toc = s.toc := rfl
@[simp] theorem countBoundary_amax (s : State) : (countBoundary s).amax = s.amax := rfl
@[simp] theorem countBoundary_mx (s : State) : (countBoundary s).mx = s.mx := rfl
@[simp] theorem countBoundary_vx (s : State) : (countBoundary s).vx = s.vx := rfl
@[simp] theorem countBoundary_glz (s : State) : (countBoundary s).glz = s.glz := rfl
@[simp] theorem countBoundary_ls (s : State) : (countBoundary s).ls = s.ls := rfl
@[simp] theorem countBoundary_handles (s : State) : (countBoundary s).handles = s.handles := rfl
@[simp] theorem countBoundary_res (s : State) : (countBoundary s).res = s.res := rfl
@[simp] theorem countBoundary_fab (s : State) : (countBoundary s).fab = s.fab := rfl
@[simp] theorem countBoundary_sess (s : State) : (countBoundary s).sess = s.sess := rfl
@[simp] theorem countBoundary_clk (s : State) : (countBoundary s).clk = s.clk := rfl
@[simp] theorem countBoundary_mould (s : State) : (countBoundary s).mould = s.mould := rfl
@[simp] theorem countBoundary_brg (s : State) : (countBoundary s).brg = s.brg := rfl
@[simp] theorem countBoundary_mbx (s : State) : (countBoundary s).mbx = s.mbx := rfl
@[simp] theorem countBoundary_mon (s : State) : (countBoundary s).mon = s.mon := rfl
@[simp] theorem countBoundary_tap (s : State) : (countBoundary s).tap = s.tap := rfl
@[simp] theorem countBoundary_cycle (s : State) : (countBoundary s).cycle = s.cycle := rfl
@[simp] theorem countBoundary_counters (s : State) : (countBoundary s).counters = s.counters := rfl
@[simp] theorem countBoundary_upsets (s : State) : (countBoundary s).upsets = s.upsets := rfl
@[simp] theorem countBoundary_flights (s : State) : (countBoundary s).flights = s.flights := rfl
@[simp] theorem countBoundary_nextId (s : State) : (countBoundary s).nextId = s.nextId := rfl
@[simp] theorem countBoundary_free (s : State) : (countBoundary s).free = s.free := rfl
@[simp] theorem countBoundary_pending (s : State) : (countBoundary s).pending = s.pending := rfl

/-! Sending reservoir requests. -/

@[simp] theorem reservoirPump_build (s : State) : (reservoirPump s).build = s.build := rfl
@[simp] theorem reservoirPump_fuseBus (s : State) : (reservoirPump s).fuseBus = s.fuseBus := rfl
@[simp] theorem reservoirPump_fuses (s : State) : (reservoirPump s).fuses = s.fuses := rfl
@[simp] theorem reservoirPump_run (s : State) : (reservoirPump s).run = s.run := rfl
@[simp] theorem reservoirPump_cmd (s : State) : (reservoirPump s).cmd = s.cmd := rfl
@[simp] theorem reservoirPump_csr (s : State) : (reservoirPump s).csr = s.csr := rfl
@[simp] theorem reservoirPump_evt (s : State) : (reservoirPump s).evt = s.evt := rfl
@[simp] theorem reservoirPump_ta (s : State) : (reservoirPump s).ta = s.ta := rfl
@[simp] theorem reservoirPump_tx (s : State) : (reservoirPump s).tx = s.tx := rfl
@[simp] theorem reservoirPump_sdm (s : State) : (reservoirPump s).sdm = s.sdm := rfl
@[simp] theorem reservoirPump_preg (s : State) : (reservoirPump s).preg = s.preg := rfl
@[simp] theorem reservoirPump_stage (s : State) : (reservoirPump s).stage = s.stage := rfl
@[simp] theorem reservoirPump_queues (s : State) : (reservoirPump s).queues = s.queues := rfl
@[simp] theorem reservoirPump_spool (s : State) : (reservoirPump s).spool = s.spool := rfl
@[simp] theorem reservoirPump_tiles (s : State) : (reservoirPump s).tiles = s.tiles := rfl
@[simp] theorem reservoirPump_toc (s : State) : (reservoirPump s).toc = s.toc := rfl
@[simp] theorem reservoirPump_amax (s : State) : (reservoirPump s).amax = s.amax := rfl
@[simp] theorem reservoirPump_mx (s : State) : (reservoirPump s).mx = s.mx := rfl
@[simp] theorem reservoirPump_vx (s : State) : (reservoirPump s).vx = s.vx := rfl
@[simp] theorem reservoirPump_glz (s : State) : (reservoirPump s).glz = s.glz := rfl
@[simp] theorem reservoirPump_ls (s : State) : (reservoirPump s).ls = s.ls := rfl
@[simp] theorem reservoirPump_handles (s : State) : (reservoirPump s).handles = s.handles := rfl
@[simp] theorem reservoirPump_fab (s : State) : (reservoirPump s).fab = s.fab := rfl
@[simp] theorem reservoirPump_sess (s : State) : (reservoirPump s).sess = s.sess := rfl
@[simp] theorem reservoirPump_ballast (s : State) : (reservoirPump s).ballast = s.ballast := rfl
@[simp] theorem reservoirPump_clk (s : State) : (reservoirPump s).clk = s.clk := rfl
@[simp] theorem reservoirPump_mould (s : State) : (reservoirPump s).mould = s.mould := rfl
@[simp] theorem reservoirPump_brg (s : State) : (reservoirPump s).brg = s.brg := rfl
@[simp] theorem reservoirPump_mbx (s : State) : (reservoirPump s).mbx = s.mbx := rfl
@[simp] theorem reservoirPump_mon (s : State) : (reservoirPump s).mon = s.mon := rfl
@[simp] theorem reservoirPump_tap (s : State) : (reservoirPump s).tap = s.tap := rfl
@[simp] theorem reservoirPump_cycle (s : State) : (reservoirPump s).cycle = s.cycle := rfl
@[simp] theorem reservoirPump_counters (s : State) : (reservoirPump s).counters = s.counters := rfl
@[simp] theorem reservoirPump_upsets (s : State) : (reservoirPump s).upsets = s.upsets := rfl
@[simp] theorem reservoirPump_flights (s : State) : (reservoirPump s).flights = s.flights := rfl
@[simp] theorem reservoirPump_nextId (s : State) : (reservoirPump s).nextId = s.nextId := rfl
@[simp] theorem reservoirPump_free (s : State) : (reservoirPump s).free = s.free := rfl
@[simp] theorem reservoirPump_pending (s : State) : (reservoirPump s).pending = s.pending := rfl

/-! A command that ends OK. -/

@[simp] theorem cmdOk_build (s : State) : (cmdOk s).build = s.build := rfl
@[simp] theorem cmdOk_fuseBus (s : State) : (cmdOk s).fuseBus = s.fuseBus := rfl
@[simp] theorem cmdOk_fuses (s : State) : (cmdOk s).fuses = s.fuses := rfl
@[simp] theorem cmdOk_run (s : State) : (cmdOk s).run = s.run := rfl
@[simp] theorem cmdOk_csr (s : State) : (cmdOk s).csr = s.csr := rfl
@[simp] theorem cmdOk_evt (s : State) : (cmdOk s).evt = s.evt := rfl
@[simp] theorem cmdOk_ta (s : State) : (cmdOk s).ta = s.ta := rfl
@[simp] theorem cmdOk_tx (s : State) : (cmdOk s).tx = s.tx := rfl
@[simp] theorem cmdOk_sdm (s : State) : (cmdOk s).sdm = s.sdm := rfl
@[simp] theorem cmdOk_preg (s : State) : (cmdOk s).preg = s.preg := rfl
@[simp] theorem cmdOk_stage (s : State) : (cmdOk s).stage = s.stage := rfl
@[simp] theorem cmdOk_queues (s : State) : (cmdOk s).queues = s.queues := rfl
@[simp] theorem cmdOk_spool (s : State) : (cmdOk s).spool = s.spool := rfl
@[simp] theorem cmdOk_tiles (s : State) : (cmdOk s).tiles = s.tiles := rfl
@[simp] theorem cmdOk_toc (s : State) : (cmdOk s).toc = s.toc := rfl
@[simp] theorem cmdOk_amax (s : State) : (cmdOk s).amax = s.amax := rfl
@[simp] theorem cmdOk_mx (s : State) : (cmdOk s).mx = s.mx := rfl
@[simp] theorem cmdOk_vx (s : State) : (cmdOk s).vx = s.vx := rfl
@[simp] theorem cmdOk_glz (s : State) : (cmdOk s).glz = s.glz := rfl
@[simp] theorem cmdOk_ls (s : State) : (cmdOk s).ls = s.ls := rfl
@[simp] theorem cmdOk_handles (s : State) : (cmdOk s).handles = s.handles := rfl
@[simp] theorem cmdOk_res (s : State) : (cmdOk s).res = s.res := rfl
@[simp] theorem cmdOk_fab (s : State) : (cmdOk s).fab = s.fab := rfl
@[simp] theorem cmdOk_sess (s : State) : (cmdOk s).sess = s.sess := rfl
@[simp] theorem cmdOk_ballast (s : State) : (cmdOk s).ballast = s.ballast := rfl
@[simp] theorem cmdOk_clk (s : State) : (cmdOk s).clk = s.clk := rfl
@[simp] theorem cmdOk_mould (s : State) : (cmdOk s).mould = s.mould := rfl
@[simp] theorem cmdOk_brg (s : State) : (cmdOk s).brg = s.brg := rfl
@[simp] theorem cmdOk_mbx (s : State) : (cmdOk s).mbx = s.mbx := rfl
@[simp] theorem cmdOk_mon (s : State) : (cmdOk s).mon = s.mon := rfl
@[simp] theorem cmdOk_tap (s : State) : (cmdOk s).tap = s.tap := rfl
@[simp] theorem cmdOk_cycle (s : State) : (cmdOk s).cycle = s.cycle := rfl
@[simp] theorem cmdOk_counters (s : State) : (cmdOk s).counters = s.counters := rfl
@[simp] theorem cmdOk_upsets (s : State) : (cmdOk s).upsets = s.upsets := rfl
@[simp] theorem cmdOk_flights (s : State) : (cmdOk s).flights = s.flights := rfl
@[simp] theorem cmdOk_nextId (s : State) : (cmdOk s).nextId = s.nextId := rfl
@[simp] theorem cmdOk_free (s : State) : (cmdOk s).free = s.free := rfl
@[simp] theorem cmdOk_pending (s : State) : (cmdOk s).pending = s.pending := rfl

/-! A command that ends FAIL. -/

@[simp] theorem cmdFail_build (c : Word32) (s : State) : (cmdFail c s).build = s.build := rfl
@[simp] theorem cmdFail_fuseBus (c : Word32) (s : State) : (cmdFail c s).fuseBus = s.fuseBus := rfl
@[simp] theorem cmdFail_fuses (c : Word32) (s : State) : (cmdFail c s).fuses = s.fuses := rfl
@[simp] theorem cmdFail_run (c : Word32) (s : State) : (cmdFail c s).run = s.run := rfl
@[simp] theorem cmdFail_csr (c : Word32) (s : State) : (cmdFail c s).csr = s.csr := rfl
@[simp] theorem cmdFail_evt (c : Word32) (s : State) : (cmdFail c s).evt = s.evt := rfl
@[simp] theorem cmdFail_ta (c : Word32) (s : State) : (cmdFail c s).ta = s.ta := rfl
@[simp] theorem cmdFail_tx (c : Word32) (s : State) : (cmdFail c s).tx = s.tx := rfl
@[simp] theorem cmdFail_sdm (c : Word32) (s : State) : (cmdFail c s).sdm = s.sdm := rfl
@[simp] theorem cmdFail_preg (c : Word32) (s : State) : (cmdFail c s).preg = s.preg := rfl
@[simp] theorem cmdFail_stage (c : Word32) (s : State) : (cmdFail c s).stage = s.stage := rfl
@[simp] theorem cmdFail_queues (c : Word32) (s : State) : (cmdFail c s).queues = s.queues := rfl
@[simp] theorem cmdFail_spool (c : Word32) (s : State) : (cmdFail c s).spool = s.spool := rfl
@[simp] theorem cmdFail_tiles (c : Word32) (s : State) : (cmdFail c s).tiles = s.tiles := rfl
@[simp] theorem cmdFail_toc (c : Word32) (s : State) : (cmdFail c s).toc = s.toc := rfl
@[simp] theorem cmdFail_amax (c : Word32) (s : State) : (cmdFail c s).amax = s.amax := rfl
@[simp] theorem cmdFail_mx (c : Word32) (s : State) : (cmdFail c s).mx = s.mx := rfl
@[simp] theorem cmdFail_vx (c : Word32) (s : State) : (cmdFail c s).vx = s.vx := rfl
@[simp] theorem cmdFail_glz (c : Word32) (s : State) : (cmdFail c s).glz = s.glz := rfl
@[simp] theorem cmdFail_ls (c : Word32) (s : State) : (cmdFail c s).ls = s.ls := rfl
@[simp] theorem cmdFail_handles (c : Word32) (s : State) : (cmdFail c s).handles = s.handles := rfl
@[simp] theorem cmdFail_res (c : Word32) (s : State) : (cmdFail c s).res = s.res := rfl
@[simp] theorem cmdFail_fab (c : Word32) (s : State) : (cmdFail c s).fab = s.fab := rfl
@[simp] theorem cmdFail_sess (c : Word32) (s : State) : (cmdFail c s).sess = s.sess := rfl
@[simp] theorem cmdFail_ballast (c : Word32) (s : State) : (cmdFail c s).ballast = s.ballast := rfl
@[simp] theorem cmdFail_clk (c : Word32) (s : State) : (cmdFail c s).clk = s.clk := rfl
@[simp] theorem cmdFail_mould (c : Word32) (s : State) : (cmdFail c s).mould = s.mould := rfl
@[simp] theorem cmdFail_brg (c : Word32) (s : State) : (cmdFail c s).brg = s.brg := rfl
@[simp] theorem cmdFail_mbx (c : Word32) (s : State) : (cmdFail c s).mbx = s.mbx := rfl
@[simp] theorem cmdFail_mon (c : Word32) (s : State) : (cmdFail c s).mon = s.mon := rfl
@[simp] theorem cmdFail_tap (c : Word32) (s : State) : (cmdFail c s).tap = s.tap := rfl
@[simp] theorem cmdFail_cycle (c : Word32) (s : State) : (cmdFail c s).cycle = s.cycle := rfl
@[simp] theorem cmdFail_counters (c : Word32) (s : State) : (cmdFail c s).counters = s.counters := rfl
@[simp] theorem cmdFail_upsets (c : Word32) (s : State) : (cmdFail c s).upsets = s.upsets := rfl
@[simp] theorem cmdFail_flights (c : Word32) (s : State) : (cmdFail c s).flights = s.flights := rfl
@[simp] theorem cmdFail_nextId (c : Word32) (s : State) : (cmdFail c s).nextId = s.nextId := rfl
@[simp] theorem cmdFail_free (c : Word32) (s : State) : (cmdFail c s).free = s.free := rfl
@[simp] theorem cmdFail_pending (c : Word32) (s : State) : (cmdFail c s).pending = s.pending := rfl

/-! A CSR response. -/

@[simp] theorem answer_build (st : CsrStatus) (w : Word32) (s : State) : (answer st w s).build = s.build := rfl
@[simp] theorem answer_fuseBus (st : CsrStatus) (w : Word32) (s : State) : (answer st w s).fuseBus = s.fuseBus := rfl
@[simp] theorem answer_fuses (st : CsrStatus) (w : Word32) (s : State) : (answer st w s).fuses = s.fuses := rfl
@[simp] theorem answer_run (st : CsrStatus) (w : Word32) (s : State) : (answer st w s).run = s.run := rfl
@[simp] theorem answer_cmd (st : CsrStatus) (w : Word32) (s : State) : (answer st w s).cmd = s.cmd := rfl
@[simp] theorem answer_evt (st : CsrStatus) (w : Word32) (s : State) : (answer st w s).evt = s.evt := rfl
@[simp] theorem answer_ta (st : CsrStatus) (w : Word32) (s : State) : (answer st w s).ta = s.ta := rfl
@[simp] theorem answer_tx (st : CsrStatus) (w : Word32) (s : State) : (answer st w s).tx = s.tx := rfl
@[simp] theorem answer_sdm (st : CsrStatus) (w : Word32) (s : State) : (answer st w s).sdm = s.sdm := rfl
@[simp] theorem answer_preg (st : CsrStatus) (w : Word32) (s : State) : (answer st w s).preg = s.preg := rfl
@[simp] theorem answer_stage (st : CsrStatus) (w : Word32) (s : State) : (answer st w s).stage = s.stage := rfl
@[simp] theorem answer_queues (st : CsrStatus) (w : Word32) (s : State) : (answer st w s).queues = s.queues := rfl
@[simp] theorem answer_spool (st : CsrStatus) (w : Word32) (s : State) : (answer st w s).spool = s.spool := rfl
@[simp] theorem answer_tiles (st : CsrStatus) (w : Word32) (s : State) : (answer st w s).tiles = s.tiles := rfl
@[simp] theorem answer_toc (st : CsrStatus) (w : Word32) (s : State) : (answer st w s).toc = s.toc := rfl
@[simp] theorem answer_amax (st : CsrStatus) (w : Word32) (s : State) : (answer st w s).amax = s.amax := rfl
@[simp] theorem answer_mx (st : CsrStatus) (w : Word32) (s : State) : (answer st w s).mx = s.mx := rfl
@[simp] theorem answer_vx (st : CsrStatus) (w : Word32) (s : State) : (answer st w s).vx = s.vx := rfl
@[simp] theorem answer_glz (st : CsrStatus) (w : Word32) (s : State) : (answer st w s).glz = s.glz := rfl
@[simp] theorem answer_ls (st : CsrStatus) (w : Word32) (s : State) : (answer st w s).ls = s.ls := rfl
@[simp] theorem answer_handles (st : CsrStatus) (w : Word32) (s : State) : (answer st w s).handles = s.handles := rfl
@[simp] theorem answer_res (st : CsrStatus) (w : Word32) (s : State) : (answer st w s).res = s.res := rfl
@[simp] theorem answer_fab (st : CsrStatus) (w : Word32) (s : State) : (answer st w s).fab = s.fab := rfl
@[simp] theorem answer_sess (st : CsrStatus) (w : Word32) (s : State) : (answer st w s).sess = s.sess := rfl
@[simp] theorem answer_ballast (st : CsrStatus) (w : Word32) (s : State) : (answer st w s).ballast = s.ballast := rfl
@[simp] theorem answer_clk (st : CsrStatus) (w : Word32) (s : State) : (answer st w s).clk = s.clk := rfl
@[simp] theorem answer_mould (st : CsrStatus) (w : Word32) (s : State) : (answer st w s).mould = s.mould := rfl
@[simp] theorem answer_brg (st : CsrStatus) (w : Word32) (s : State) : (answer st w s).brg = s.brg := rfl
@[simp] theorem answer_mbx (st : CsrStatus) (w : Word32) (s : State) : (answer st w s).mbx = s.mbx := rfl
@[simp] theorem answer_mon (st : CsrStatus) (w : Word32) (s : State) : (answer st w s).mon = s.mon := rfl
@[simp] theorem answer_tap (st : CsrStatus) (w : Word32) (s : State) : (answer st w s).tap = s.tap := rfl
@[simp] theorem answer_cycle (st : CsrStatus) (w : Word32) (s : State) : (answer st w s).cycle = s.cycle := rfl
@[simp] theorem answer_counters (st : CsrStatus) (w : Word32) (s : State) : (answer st w s).counters = s.counters := rfl
@[simp] theorem answer_upsets (st : CsrStatus) (w : Word32) (s : State) : (answer st w s).upsets = s.upsets := rfl
@[simp] theorem answer_flights (st : CsrStatus) (w : Word32) (s : State) : (answer st w s).flights = s.flights := rfl
@[simp] theorem answer_nextId (st : CsrStatus) (w : Word32) (s : State) : (answer st w s).nextId = s.nextId := rfl
@[simp] theorem answer_free (st : CsrStatus) (w : Word32) (s : State) : (answer st w s).free = s.free := rfl
@[simp] theorem answer_pending (st : CsrStatus) (w : Word32) (s : State) : (answer st w s).pending = s.pending := rfl

/-! Dropping a held lower word. -/

@[simp] theorem dropHeld_build (s : State) : (dropHeld s).build = s.build := rfl
@[simp] theorem dropHeld_fuseBus (s : State) : (dropHeld s).fuseBus = s.fuseBus := rfl
@[simp] theorem dropHeld_fuses (s : State) : (dropHeld s).fuses = s.fuses := rfl
@[simp] theorem dropHeld_run (s : State) : (dropHeld s).run = s.run := rfl
@[simp] theorem dropHeld_cmd (s : State) : (dropHeld s).cmd = s.cmd := rfl
@[simp] theorem dropHeld_evt (s : State) : (dropHeld s).evt = s.evt := rfl
@[simp] theorem dropHeld_ta (s : State) : (dropHeld s).ta = s.ta := rfl
@[simp] theorem dropHeld_tx (s : State) : (dropHeld s).tx = s.tx := rfl
@[simp] theorem dropHeld_sdm (s : State) : (dropHeld s).sdm = s.sdm := rfl
@[simp] theorem dropHeld_preg (s : State) : (dropHeld s).preg = s.preg := rfl
@[simp] theorem dropHeld_stage (s : State) : (dropHeld s).stage = s.stage := rfl
@[simp] theorem dropHeld_queues (s : State) : (dropHeld s).queues = s.queues := rfl
@[simp] theorem dropHeld_spool (s : State) : (dropHeld s).spool = s.spool := rfl
@[simp] theorem dropHeld_tiles (s : State) : (dropHeld s).tiles = s.tiles := rfl
@[simp] theorem dropHeld_toc (s : State) : (dropHeld s).toc = s.toc := rfl
@[simp] theorem dropHeld_amax (s : State) : (dropHeld s).amax = s.amax := rfl
@[simp] theorem dropHeld_mx (s : State) : (dropHeld s).mx = s.mx := rfl
@[simp] theorem dropHeld_vx (s : State) : (dropHeld s).vx = s.vx := rfl
@[simp] theorem dropHeld_glz (s : State) : (dropHeld s).glz = s.glz := rfl
@[simp] theorem dropHeld_ls (s : State) : (dropHeld s).ls = s.ls := rfl
@[simp] theorem dropHeld_handles (s : State) : (dropHeld s).handles = s.handles := rfl
@[simp] theorem dropHeld_res (s : State) : (dropHeld s).res = s.res := rfl
@[simp] theorem dropHeld_fab (s : State) : (dropHeld s).fab = s.fab := rfl
@[simp] theorem dropHeld_sess (s : State) : (dropHeld s).sess = s.sess := rfl
@[simp] theorem dropHeld_ballast (s : State) : (dropHeld s).ballast = s.ballast := rfl
@[simp] theorem dropHeld_clk (s : State) : (dropHeld s).clk = s.clk := rfl
@[simp] theorem dropHeld_mould (s : State) : (dropHeld s).mould = s.mould := rfl
@[simp] theorem dropHeld_brg (s : State) : (dropHeld s).brg = s.brg := rfl
@[simp] theorem dropHeld_mbx (s : State) : (dropHeld s).mbx = s.mbx := rfl
@[simp] theorem dropHeld_mon (s : State) : (dropHeld s).mon = s.mon := rfl
@[simp] theorem dropHeld_tap (s : State) : (dropHeld s).tap = s.tap := rfl
@[simp] theorem dropHeld_cycle (s : State) : (dropHeld s).cycle = s.cycle := rfl
@[simp] theorem dropHeld_counters (s : State) : (dropHeld s).counters = s.counters := rfl
@[simp] theorem dropHeld_upsets (s : State) : (dropHeld s).upsets = s.upsets := rfl
@[simp] theorem dropHeld_flights (s : State) : (dropHeld s).flights = s.flights := rfl
@[simp] theorem dropHeld_nextId (s : State) : (dropHeld s).nextId = s.nextId := rfl
@[simp] theorem dropHeld_free (s : State) : (dropHeld s).free = s.free := rfl
@[simp] theorem dropHeld_pending (s : State) : (dropHeld s).pending = s.pending := rfl

/-! A mailbox operation that ends OK. -/

@[simp] theorem mbxOk_build (s : State) : (mbxOk s).build = s.build := rfl
@[simp] theorem mbxOk_fuseBus (s : State) : (mbxOk s).fuseBus = s.fuseBus := rfl
@[simp] theorem mbxOk_fuses (s : State) : (mbxOk s).fuses = s.fuses := rfl
@[simp] theorem mbxOk_run (s : State) : (mbxOk s).run = s.run := rfl
@[simp] theorem mbxOk_cmd (s : State) : (mbxOk s).cmd = s.cmd := rfl
@[simp] theorem mbxOk_csr (s : State) : (mbxOk s).csr = s.csr := rfl
@[simp] theorem mbxOk_evt (s : State) : (mbxOk s).evt = s.evt := rfl
@[simp] theorem mbxOk_ta (s : State) : (mbxOk s).ta = s.ta := rfl
@[simp] theorem mbxOk_tx (s : State) : (mbxOk s).tx = s.tx := rfl
@[simp] theorem mbxOk_sdm (s : State) : (mbxOk s).sdm = s.sdm := rfl
@[simp] theorem mbxOk_preg (s : State) : (mbxOk s).preg = s.preg := rfl
@[simp] theorem mbxOk_stage (s : State) : (mbxOk s).stage = s.stage := rfl
@[simp] theorem mbxOk_queues (s : State) : (mbxOk s).queues = s.queues := rfl
@[simp] theorem mbxOk_spool (s : State) : (mbxOk s).spool = s.spool := rfl
@[simp] theorem mbxOk_tiles (s : State) : (mbxOk s).tiles = s.tiles := rfl
@[simp] theorem mbxOk_toc (s : State) : (mbxOk s).toc = s.toc := rfl
@[simp] theorem mbxOk_amax (s : State) : (mbxOk s).amax = s.amax := rfl
@[simp] theorem mbxOk_mx (s : State) : (mbxOk s).mx = s.mx := rfl
@[simp] theorem mbxOk_vx (s : State) : (mbxOk s).vx = s.vx := rfl
@[simp] theorem mbxOk_glz (s : State) : (mbxOk s).glz = s.glz := rfl
@[simp] theorem mbxOk_ls (s : State) : (mbxOk s).ls = s.ls := rfl
@[simp] theorem mbxOk_handles (s : State) : (mbxOk s).handles = s.handles := rfl
@[simp] theorem mbxOk_res (s : State) : (mbxOk s).res = s.res := rfl
@[simp] theorem mbxOk_fab (s : State) : (mbxOk s).fab = s.fab := rfl
@[simp] theorem mbxOk_sess (s : State) : (mbxOk s).sess = s.sess := rfl
@[simp] theorem mbxOk_ballast (s : State) : (mbxOk s).ballast = s.ballast := rfl
@[simp] theorem mbxOk_clk (s : State) : (mbxOk s).clk = s.clk := rfl
@[simp] theorem mbxOk_mould (s : State) : (mbxOk s).mould = s.mould := rfl
@[simp] theorem mbxOk_brg (s : State) : (mbxOk s).brg = s.brg := rfl
@[simp] theorem mbxOk_mon (s : State) : (mbxOk s).mon = s.mon := rfl
@[simp] theorem mbxOk_tap (s : State) : (mbxOk s).tap = s.tap := rfl
@[simp] theorem mbxOk_cycle (s : State) : (mbxOk s).cycle = s.cycle := rfl
@[simp] theorem mbxOk_counters (s : State) : (mbxOk s).counters = s.counters := rfl
@[simp] theorem mbxOk_upsets (s : State) : (mbxOk s).upsets = s.upsets := rfl
@[simp] theorem mbxOk_flights (s : State) : (mbxOk s).flights = s.flights := rfl
@[simp] theorem mbxOk_nextId (s : State) : (mbxOk s).nextId = s.nextId := rfl
@[simp] theorem mbxOk_free (s : State) : (mbxOk s).free = s.free := rfl
@[simp] theorem mbxOk_pending (s : State) : (mbxOk s).pending = s.pending := rfl

/-! A mailbox operation that ends FAIL. -/

@[simp] theorem mbxFail_build (s : State) : (mbxFail s).build = s.build := rfl
@[simp] theorem mbxFail_fuseBus (s : State) : (mbxFail s).fuseBus = s.fuseBus := rfl
@[simp] theorem mbxFail_fuses (s : State) : (mbxFail s).fuses = s.fuses := rfl
@[simp] theorem mbxFail_run (s : State) : (mbxFail s).run = s.run := rfl
@[simp] theorem mbxFail_cmd (s : State) : (mbxFail s).cmd = s.cmd := rfl
@[simp] theorem mbxFail_csr (s : State) : (mbxFail s).csr = s.csr := rfl
@[simp] theorem mbxFail_evt (s : State) : (mbxFail s).evt = s.evt := rfl
@[simp] theorem mbxFail_ta (s : State) : (mbxFail s).ta = s.ta := rfl
@[simp] theorem mbxFail_tx (s : State) : (mbxFail s).tx = s.tx := rfl
@[simp] theorem mbxFail_sdm (s : State) : (mbxFail s).sdm = s.sdm := rfl
@[simp] theorem mbxFail_preg (s : State) : (mbxFail s).preg = s.preg := rfl
@[simp] theorem mbxFail_stage (s : State) : (mbxFail s).stage = s.stage := rfl
@[simp] theorem mbxFail_queues (s : State) : (mbxFail s).queues = s.queues := rfl
@[simp] theorem mbxFail_spool (s : State) : (mbxFail s).spool = s.spool := rfl
@[simp] theorem mbxFail_tiles (s : State) : (mbxFail s).tiles = s.tiles := rfl
@[simp] theorem mbxFail_toc (s : State) : (mbxFail s).toc = s.toc := rfl
@[simp] theorem mbxFail_amax (s : State) : (mbxFail s).amax = s.amax := rfl
@[simp] theorem mbxFail_mx (s : State) : (mbxFail s).mx = s.mx := rfl
@[simp] theorem mbxFail_vx (s : State) : (mbxFail s).vx = s.vx := rfl
@[simp] theorem mbxFail_glz (s : State) : (mbxFail s).glz = s.glz := rfl
@[simp] theorem mbxFail_ls (s : State) : (mbxFail s).ls = s.ls := rfl
@[simp] theorem mbxFail_handles (s : State) : (mbxFail s).handles = s.handles := rfl
@[simp] theorem mbxFail_res (s : State) : (mbxFail s).res = s.res := rfl
@[simp] theorem mbxFail_fab (s : State) : (mbxFail s).fab = s.fab := rfl
@[simp] theorem mbxFail_sess (s : State) : (mbxFail s).sess = s.sess := rfl
@[simp] theorem mbxFail_ballast (s : State) : (mbxFail s).ballast = s.ballast := rfl
@[simp] theorem mbxFail_clk (s : State) : (mbxFail s).clk = s.clk := rfl
@[simp] theorem mbxFail_mould (s : State) : (mbxFail s).mould = s.mould := rfl
@[simp] theorem mbxFail_brg (s : State) : (mbxFail s).brg = s.brg := rfl
@[simp] theorem mbxFail_mon (s : State) : (mbxFail s).mon = s.mon := rfl
@[simp] theorem mbxFail_tap (s : State) : (mbxFail s).tap = s.tap := rfl
@[simp] theorem mbxFail_cycle (s : State) : (mbxFail s).cycle = s.cycle := rfl
@[simp] theorem mbxFail_counters (s : State) : (mbxFail s).counters = s.counters := rfl
@[simp] theorem mbxFail_upsets (s : State) : (mbxFail s).upsets = s.upsets := rfl
@[simp] theorem mbxFail_flights (s : State) : (mbxFail s).flights = s.flights := rfl
@[simp] theorem mbxFail_nextId (s : State) : (mbxFail s).nextId = s.nextId := rfl
@[simp] theorem mbxFail_free (s : State) : (mbxFail s).free = s.free := rfl
@[simp] theorem mbxFail_pending (s : State) : (mbxFail s).pending = s.pending := rfl

/-! Writing the mailbox buffer. -/

@[simp] theorem setMbxData_build (k : Nat) (w : Word32) (s : State) : (setMbxData k w s).build = s.build := rfl
@[simp] theorem setMbxData_fuseBus (k : Nat) (w : Word32) (s : State) : (setMbxData k w s).fuseBus = s.fuseBus := rfl
@[simp] theorem setMbxData_fuses (k : Nat) (w : Word32) (s : State) : (setMbxData k w s).fuses = s.fuses := rfl
@[simp] theorem setMbxData_run (k : Nat) (w : Word32) (s : State) : (setMbxData k w s).run = s.run := rfl
@[simp] theorem setMbxData_cmd (k : Nat) (w : Word32) (s : State) : (setMbxData k w s).cmd = s.cmd := rfl
@[simp] theorem setMbxData_csr (k : Nat) (w : Word32) (s : State) : (setMbxData k w s).csr = s.csr := rfl
@[simp] theorem setMbxData_evt (k : Nat) (w : Word32) (s : State) : (setMbxData k w s).evt = s.evt := rfl
@[simp] theorem setMbxData_ta (k : Nat) (w : Word32) (s : State) : (setMbxData k w s).ta = s.ta := rfl
@[simp] theorem setMbxData_tx (k : Nat) (w : Word32) (s : State) : (setMbxData k w s).tx = s.tx := rfl
@[simp] theorem setMbxData_sdm (k : Nat) (w : Word32) (s : State) : (setMbxData k w s).sdm = s.sdm := rfl
@[simp] theorem setMbxData_preg (k : Nat) (w : Word32) (s : State) : (setMbxData k w s).preg = s.preg := rfl
@[simp] theorem setMbxData_stage (k : Nat) (w : Word32) (s : State) : (setMbxData k w s).stage = s.stage := rfl
@[simp] theorem setMbxData_queues (k : Nat) (w : Word32) (s : State) : (setMbxData k w s).queues = s.queues := rfl
@[simp] theorem setMbxData_spool (k : Nat) (w : Word32) (s : State) : (setMbxData k w s).spool = s.spool := rfl
@[simp] theorem setMbxData_tiles (k : Nat) (w : Word32) (s : State) : (setMbxData k w s).tiles = s.tiles := rfl
@[simp] theorem setMbxData_toc (k : Nat) (w : Word32) (s : State) : (setMbxData k w s).toc = s.toc := rfl
@[simp] theorem setMbxData_amax (k : Nat) (w : Word32) (s : State) : (setMbxData k w s).amax = s.amax := rfl
@[simp] theorem setMbxData_mx (k : Nat) (w : Word32) (s : State) : (setMbxData k w s).mx = s.mx := rfl
@[simp] theorem setMbxData_vx (k : Nat) (w : Word32) (s : State) : (setMbxData k w s).vx = s.vx := rfl
@[simp] theorem setMbxData_glz (k : Nat) (w : Word32) (s : State) : (setMbxData k w s).glz = s.glz := rfl
@[simp] theorem setMbxData_ls (k : Nat) (w : Word32) (s : State) : (setMbxData k w s).ls = s.ls := rfl
@[simp] theorem setMbxData_handles (k : Nat) (w : Word32) (s : State) : (setMbxData k w s).handles = s.handles := rfl
@[simp] theorem setMbxData_res (k : Nat) (w : Word32) (s : State) : (setMbxData k w s).res = s.res := rfl
@[simp] theorem setMbxData_fab (k : Nat) (w : Word32) (s : State) : (setMbxData k w s).fab = s.fab := rfl
@[simp] theorem setMbxData_sess (k : Nat) (w : Word32) (s : State) : (setMbxData k w s).sess = s.sess := rfl
@[simp] theorem setMbxData_ballast (k : Nat) (w : Word32) (s : State) : (setMbxData k w s).ballast = s.ballast := rfl
@[simp] theorem setMbxData_clk (k : Nat) (w : Word32) (s : State) : (setMbxData k w s).clk = s.clk := rfl
@[simp] theorem setMbxData_mould (k : Nat) (w : Word32) (s : State) : (setMbxData k w s).mould = s.mould := rfl
@[simp] theorem setMbxData_brg (k : Nat) (w : Word32) (s : State) : (setMbxData k w s).brg = s.brg := rfl
@[simp] theorem setMbxData_mon (k : Nat) (w : Word32) (s : State) : (setMbxData k w s).mon = s.mon := rfl
@[simp] theorem setMbxData_tap (k : Nat) (w : Word32) (s : State) : (setMbxData k w s).tap = s.tap := rfl
@[simp] theorem setMbxData_cycle (k : Nat) (w : Word32) (s : State) : (setMbxData k w s).cycle = s.cycle := rfl
@[simp] theorem setMbxData_counters (k : Nat) (w : Word32) (s : State) : (setMbxData k w s).counters = s.counters := rfl
@[simp] theorem setMbxData_upsets (k : Nat) (w : Word32) (s : State) : (setMbxData k w s).upsets = s.upsets := rfl
@[simp] theorem setMbxData_flights (k : Nat) (w : Word32) (s : State) : (setMbxData k w s).flights = s.flights := rfl
@[simp] theorem setMbxData_nextId (k : Nat) (w : Word32) (s : State) : (setMbxData k w s).nextId = s.nextId := rfl
@[simp] theorem setMbxData_free (k : Nat) (w : Word32) (s : State) : (setMbxData k w s).free = s.free := rfl
@[simp] theorem setMbxData_pending (k : Nat) (w : Word32) (s : State) : (setMbxData k w s).pending = s.pending := rfl

/-! A reply of the monitor. -/

@[simp] theorem reply_build (r : MonReply) (s : State) : (reply r s).build = s.build := rfl
@[simp] theorem reply_fuseBus (r : MonReply) (s : State) : (reply r s).fuseBus = s.fuseBus := rfl
@[simp] theorem reply_fuses (r : MonReply) (s : State) : (reply r s).fuses = s.fuses := rfl
@[simp] theorem reply_run (r : MonReply) (s : State) : (reply r s).run = s.run := rfl
@[simp] theorem reply_cmd (r : MonReply) (s : State) : (reply r s).cmd = s.cmd := rfl
@[simp] theorem reply_csr (r : MonReply) (s : State) : (reply r s).csr = s.csr := rfl
@[simp] theorem reply_evt (r : MonReply) (s : State) : (reply r s).evt = s.evt := rfl
@[simp] theorem reply_ta (r : MonReply) (s : State) : (reply r s).ta = s.ta := rfl
@[simp] theorem reply_tx (r : MonReply) (s : State) : (reply r s).tx = s.tx := rfl
@[simp] theorem reply_sdm (r : MonReply) (s : State) : (reply r s).sdm = s.sdm := rfl
@[simp] theorem reply_preg (r : MonReply) (s : State) : (reply r s).preg = s.preg := rfl
@[simp] theorem reply_stage (r : MonReply) (s : State) : (reply r s).stage = s.stage := rfl
@[simp] theorem reply_queues (r : MonReply) (s : State) : (reply r s).queues = s.queues := rfl
@[simp] theorem reply_spool (r : MonReply) (s : State) : (reply r s).spool = s.spool := rfl
@[simp] theorem reply_tiles (r : MonReply) (s : State) : (reply r s).tiles = s.tiles := rfl
@[simp] theorem reply_toc (r : MonReply) (s : State) : (reply r s).toc = s.toc := rfl
@[simp] theorem reply_amax (r : MonReply) (s : State) : (reply r s).amax = s.amax := rfl
@[simp] theorem reply_mx (r : MonReply) (s : State) : (reply r s).mx = s.mx := rfl
@[simp] theorem reply_vx (r : MonReply) (s : State) : (reply r s).vx = s.vx := rfl
@[simp] theorem reply_glz (r : MonReply) (s : State) : (reply r s).glz = s.glz := rfl
@[simp] theorem reply_ls (r : MonReply) (s : State) : (reply r s).ls = s.ls := rfl
@[simp] theorem reply_handles (r : MonReply) (s : State) : (reply r s).handles = s.handles := rfl
@[simp] theorem reply_res (r : MonReply) (s : State) : (reply r s).res = s.res := rfl
@[simp] theorem reply_fab (r : MonReply) (s : State) : (reply r s).fab = s.fab := rfl
@[simp] theorem reply_sess (r : MonReply) (s : State) : (reply r s).sess = s.sess := rfl
@[simp] theorem reply_ballast (r : MonReply) (s : State) : (reply r s).ballast = s.ballast := rfl
@[simp] theorem reply_clk (r : MonReply) (s : State) : (reply r s).clk = s.clk := rfl
@[simp] theorem reply_mould (r : MonReply) (s : State) : (reply r s).mould = s.mould := rfl
@[simp] theorem reply_brg (r : MonReply) (s : State) : (reply r s).brg = s.brg := rfl
@[simp] theorem reply_mbx (r : MonReply) (s : State) : (reply r s).mbx = s.mbx := rfl
@[simp] theorem reply_tap (r : MonReply) (s : State) : (reply r s).tap = s.tap := rfl
@[simp] theorem reply_cycle (r : MonReply) (s : State) : (reply r s).cycle = s.cycle := rfl
@[simp] theorem reply_counters (r : MonReply) (s : State) : (reply r s).counters = s.counters := rfl
@[simp] theorem reply_upsets (r : MonReply) (s : State) : (reply r s).upsets = s.upsets := rfl
@[simp] theorem reply_flights (r : MonReply) (s : State) : (reply r s).flights = s.flights := rfl
@[simp] theorem reply_nextId (r : MonReply) (s : State) : (reply r s).nextId = s.nextId := rfl
@[simp] theorem reply_free (r : MonReply) (s : State) : (reply r s).free = s.free := rfl
@[simp] theorem reply_pending (r : MonReply) (s : State) : (reply r s).pending = s.pending := rfl

/-! Locking the monitor. -/

@[simp] theorem lockMonitor_build (s : State) : (lockMonitor s).build = s.build := rfl
@[simp] theorem lockMonitor_fuseBus (s : State) : (lockMonitor s).fuseBus = s.fuseBus := rfl
@[simp] theorem lockMonitor_fuses (s : State) : (lockMonitor s).fuses = s.fuses := rfl
@[simp] theorem lockMonitor_run (s : State) : (lockMonitor s).run = s.run := rfl
@[simp] theorem lockMonitor_cmd (s : State) : (lockMonitor s).cmd = s.cmd := rfl
@[simp] theorem lockMonitor_csr (s : State) : (lockMonitor s).csr = s.csr := rfl
@[simp] theorem lockMonitor_evt (s : State) : (lockMonitor s).evt = s.evt := rfl
@[simp] theorem lockMonitor_ta (s : State) : (lockMonitor s).ta = s.ta := rfl
@[simp] theorem lockMonitor_tx (s : State) : (lockMonitor s).tx = s.tx := rfl
@[simp] theorem lockMonitor_sdm (s : State) : (lockMonitor s).sdm = s.sdm := rfl
@[simp] theorem lockMonitor_preg (s : State) : (lockMonitor s).preg = s.preg := rfl
@[simp] theorem lockMonitor_stage (s : State) : (lockMonitor s).stage = s.stage := rfl
@[simp] theorem lockMonitor_queues (s : State) : (lockMonitor s).queues = s.queues := rfl
@[simp] theorem lockMonitor_spool (s : State) : (lockMonitor s).spool = s.spool := rfl
@[simp] theorem lockMonitor_tiles (s : State) : (lockMonitor s).tiles = s.tiles := rfl
@[simp] theorem lockMonitor_toc (s : State) : (lockMonitor s).toc = s.toc := rfl
@[simp] theorem lockMonitor_amax (s : State) : (lockMonitor s).amax = s.amax := rfl
@[simp] theorem lockMonitor_mx (s : State) : (lockMonitor s).mx = s.mx := rfl
@[simp] theorem lockMonitor_vx (s : State) : (lockMonitor s).vx = s.vx := rfl
@[simp] theorem lockMonitor_glz (s : State) : (lockMonitor s).glz = s.glz := rfl
@[simp] theorem lockMonitor_ls (s : State) : (lockMonitor s).ls = s.ls := rfl
@[simp] theorem lockMonitor_handles (s : State) : (lockMonitor s).handles = s.handles := rfl
@[simp] theorem lockMonitor_res (s : State) : (lockMonitor s).res = s.res := rfl
@[simp] theorem lockMonitor_fab (s : State) : (lockMonitor s).fab = s.fab := rfl
@[simp] theorem lockMonitor_sess (s : State) : (lockMonitor s).sess = s.sess := rfl
@[simp] theorem lockMonitor_ballast (s : State) : (lockMonitor s).ballast = s.ballast := rfl
@[simp] theorem lockMonitor_clk (s : State) : (lockMonitor s).clk = s.clk := rfl
@[simp] theorem lockMonitor_mould (s : State) : (lockMonitor s).mould = s.mould := rfl
@[simp] theorem lockMonitor_brg (s : State) : (lockMonitor s).brg = s.brg := rfl
@[simp] theorem lockMonitor_mbx (s : State) : (lockMonitor s).mbx = s.mbx := rfl
@[simp] theorem lockMonitor_tap (s : State) : (lockMonitor s).tap = s.tap := rfl
@[simp] theorem lockMonitor_cycle (s : State) : (lockMonitor s).cycle = s.cycle := rfl
@[simp] theorem lockMonitor_counters (s : State) : (lockMonitor s).counters = s.counters := rfl
@[simp] theorem lockMonitor_upsets (s : State) : (lockMonitor s).upsets = s.upsets := rfl
@[simp] theorem lockMonitor_flights (s : State) : (lockMonitor s).flights = s.flights := rfl
@[simp] theorem lockMonitor_nextId (s : State) : (lockMonitor s).nextId = s.nextId := rfl
@[simp] theorem lockMonitor_free (s : State) : (lockMonitor s).free = s.free := rfl
@[simp] theorem lockMonitor_pending (s : State) : (lockMonitor s).pending = s.pending := rfl

/-! Loading an instruction into the test access port. -/

@[simp] theorem tapLoad_build (ir : TapInstr) (s : State) : (tapLoad ir s).build = s.build := rfl
@[simp] theorem tapLoad_fuseBus (ir : TapInstr) (s : State) : (tapLoad ir s).fuseBus = s.fuseBus := rfl
@[simp] theorem tapLoad_fuses (ir : TapInstr) (s : State) : (tapLoad ir s).fuses = s.fuses := rfl
@[simp] theorem tapLoad_run (ir : TapInstr) (s : State) : (tapLoad ir s).run = s.run := rfl
@[simp] theorem tapLoad_cmd (ir : TapInstr) (s : State) : (tapLoad ir s).cmd = s.cmd := rfl
@[simp] theorem tapLoad_csr (ir : TapInstr) (s : State) : (tapLoad ir s).csr = s.csr := rfl
@[simp] theorem tapLoad_evt (ir : TapInstr) (s : State) : (tapLoad ir s).evt = s.evt := rfl
@[simp] theorem tapLoad_ta (ir : TapInstr) (s : State) : (tapLoad ir s).ta = s.ta := rfl
@[simp] theorem tapLoad_tx (ir : TapInstr) (s : State) : (tapLoad ir s).tx = s.tx := rfl
@[simp] theorem tapLoad_sdm (ir : TapInstr) (s : State) : (tapLoad ir s).sdm = s.sdm := rfl
@[simp] theorem tapLoad_preg (ir : TapInstr) (s : State) : (tapLoad ir s).preg = s.preg := rfl
@[simp] theorem tapLoad_stage (ir : TapInstr) (s : State) : (tapLoad ir s).stage = s.stage := rfl
@[simp] theorem tapLoad_queues (ir : TapInstr) (s : State) : (tapLoad ir s).queues = s.queues := rfl
@[simp] theorem tapLoad_spool (ir : TapInstr) (s : State) : (tapLoad ir s).spool = s.spool := rfl
@[simp] theorem tapLoad_tiles (ir : TapInstr) (s : State) : (tapLoad ir s).tiles = s.tiles := rfl
@[simp] theorem tapLoad_toc (ir : TapInstr) (s : State) : (tapLoad ir s).toc = s.toc := rfl
@[simp] theorem tapLoad_amax (ir : TapInstr) (s : State) : (tapLoad ir s).amax = s.amax := rfl
@[simp] theorem tapLoad_mx (ir : TapInstr) (s : State) : (tapLoad ir s).mx = s.mx := rfl
@[simp] theorem tapLoad_vx (ir : TapInstr) (s : State) : (tapLoad ir s).vx = s.vx := rfl
@[simp] theorem tapLoad_glz (ir : TapInstr) (s : State) : (tapLoad ir s).glz = s.glz := rfl
@[simp] theorem tapLoad_ls (ir : TapInstr) (s : State) : (tapLoad ir s).ls = s.ls := rfl
@[simp] theorem tapLoad_handles (ir : TapInstr) (s : State) : (tapLoad ir s).handles = s.handles := rfl
@[simp] theorem tapLoad_res (ir : TapInstr) (s : State) : (tapLoad ir s).res = s.res := rfl
@[simp] theorem tapLoad_fab (ir : TapInstr) (s : State) : (tapLoad ir s).fab = s.fab := rfl
@[simp] theorem tapLoad_sess (ir : TapInstr) (s : State) : (tapLoad ir s).sess = s.sess := rfl
@[simp] theorem tapLoad_ballast (ir : TapInstr) (s : State) : (tapLoad ir s).ballast = s.ballast := rfl
@[simp] theorem tapLoad_clk (ir : TapInstr) (s : State) : (tapLoad ir s).clk = s.clk := rfl
@[simp] theorem tapLoad_mould (ir : TapInstr) (s : State) : (tapLoad ir s).mould = s.mould := rfl
@[simp] theorem tapLoad_brg (ir : TapInstr) (s : State) : (tapLoad ir s).brg = s.brg := rfl
@[simp] theorem tapLoad_mbx (ir : TapInstr) (s : State) : (tapLoad ir s).mbx = s.mbx := rfl
@[simp] theorem tapLoad_mon (ir : TapInstr) (s : State) : (tapLoad ir s).mon = s.mon := rfl
@[simp] theorem tapLoad_cycle (ir : TapInstr) (s : State) : (tapLoad ir s).cycle = s.cycle := rfl
@[simp] theorem tapLoad_counters (ir : TapInstr) (s : State) : (tapLoad ir s).counters = s.counters := rfl
@[simp] theorem tapLoad_upsets (ir : TapInstr) (s : State) : (tapLoad ir s).upsets = s.upsets := rfl
@[simp] theorem tapLoad_flights (ir : TapInstr) (s : State) : (tapLoad ir s).flights = s.flights := rfl
@[simp] theorem tapLoad_nextId (ir : TapInstr) (s : State) : (tapLoad ir s).nextId = s.nextId := rfl
@[simp] theorem tapLoad_free (ir : TapInstr) (s : State) : (tapLoad ir s).free = s.free := rfl
@[simp] theorem tapLoad_pending (ir : TapInstr) (s : State) : (tapLoad ir s).pending = s.pending := rfl

/-! Changing a port. -/

@[simp] theorem modPort_build (p : BitVec 2) (g : Port → Port) (s : State) : (modPort p g s).build = s.build := by
  unfold modPort setPort; split <;> rfl
@[simp] theorem modPort_fuseBus (p : BitVec 2) (g : Port → Port) (s : State) : (modPort p g s).fuseBus = s.fuseBus := by
  unfold modPort setPort; split <;> rfl
@[simp] theorem modPort_fuses (p : BitVec 2) (g : Port → Port) (s : State) : (modPort p g s).fuses = s.fuses := by
  unfold modPort setPort; split <;> rfl
@[simp] theorem modPort_run (p : BitVec 2) (g : Port → Port) (s : State) : (modPort p g s).run = s.run := by
  unfold modPort setPort; split <;> rfl
@[simp] theorem modPort_cmd (p : BitVec 2) (g : Port → Port) (s : State) : (modPort p g s).cmd = s.cmd := by
  unfold modPort setPort; split <;> rfl
@[simp] theorem modPort_csr (p : BitVec 2) (g : Port → Port) (s : State) : (modPort p g s).csr = s.csr := by
  unfold modPort setPort; split <;> rfl
@[simp] theorem modPort_evt (p : BitVec 2) (g : Port → Port) (s : State) : (modPort p g s).evt = s.evt := by
  unfold modPort setPort; split <;> rfl
@[simp] theorem modPort_ta (p : BitVec 2) (g : Port → Port) (s : State) : (modPort p g s).ta = s.ta := by
  unfold modPort setPort; split <;> rfl
@[simp] theorem modPort_tx (p : BitVec 2) (g : Port → Port) (s : State) : (modPort p g s).tx = s.tx := by
  unfold modPort setPort; split <;> rfl
@[simp] theorem modPort_sdm (p : BitVec 2) (g : Port → Port) (s : State) : (modPort p g s).sdm = s.sdm := by
  unfold modPort setPort; split <;> rfl
@[simp] theorem modPort_preg (p : BitVec 2) (g : Port → Port) (s : State) : (modPort p g s).preg = s.preg := by
  unfold modPort setPort; split <;> rfl
@[simp] theorem modPort_stage (p : BitVec 2) (g : Port → Port) (s : State) : (modPort p g s).stage = s.stage := by
  unfold modPort setPort; split <;> rfl
@[simp] theorem modPort_queues (p : BitVec 2) (g : Port → Port) (s : State) : (modPort p g s).queues = s.queues := by
  unfold modPort setPort; split <;> rfl
@[simp] theorem modPort_spool (p : BitVec 2) (g : Port → Port) (s : State) : (modPort p g s).spool = s.spool := by
  unfold modPort setPort; split <;> rfl
@[simp] theorem modPort_tiles (p : BitVec 2) (g : Port → Port) (s : State) : (modPort p g s).tiles = s.tiles := by
  unfold modPort setPort; split <;> rfl
@[simp] theorem modPort_toc (p : BitVec 2) (g : Port → Port) (s : State) : (modPort p g s).toc = s.toc := by
  unfold modPort setPort; split <;> rfl
@[simp] theorem modPort_amax (p : BitVec 2) (g : Port → Port) (s : State) : (modPort p g s).amax = s.amax := by
  unfold modPort setPort; split <;> rfl
@[simp] theorem modPort_mx (p : BitVec 2) (g : Port → Port) (s : State) : (modPort p g s).mx = s.mx := by
  unfold modPort setPort; split <;> rfl
@[simp] theorem modPort_vx (p : BitVec 2) (g : Port → Port) (s : State) : (modPort p g s).vx = s.vx := by
  unfold modPort setPort; split <;> rfl
@[simp] theorem modPort_glz (p : BitVec 2) (g : Port → Port) (s : State) : (modPort p g s).glz = s.glz := by
  unfold modPort setPort; split <;> rfl
@[simp] theorem modPort_ls (p : BitVec 2) (g : Port → Port) (s : State) : (modPort p g s).ls = s.ls := by
  unfold modPort setPort; split <;> rfl
@[simp] theorem modPort_handles (p : BitVec 2) (g : Port → Port) (s : State) : (modPort p g s).handles = s.handles := by
  unfold modPort setPort; split <;> rfl
@[simp] theorem modPort_res (p : BitVec 2) (g : Port → Port) (s : State) : (modPort p g s).res = s.res := by
  unfold modPort setPort; split <;> rfl
@[simp] theorem modPort_sess (p : BitVec 2) (g : Port → Port) (s : State) : (modPort p g s).sess = s.sess := by
  unfold modPort setPort; split <;> rfl
@[simp] theorem modPort_ballast (p : BitVec 2) (g : Port → Port) (s : State) : (modPort p g s).ballast = s.ballast := by
  unfold modPort setPort; split <;> rfl
@[simp] theorem modPort_clk (p : BitVec 2) (g : Port → Port) (s : State) : (modPort p g s).clk = s.clk := by
  unfold modPort setPort; split <;> rfl
@[simp] theorem modPort_mould (p : BitVec 2) (g : Port → Port) (s : State) : (modPort p g s).mould = s.mould := by
  unfold modPort setPort; split <;> rfl
@[simp] theorem modPort_brg (p : BitVec 2) (g : Port → Port) (s : State) : (modPort p g s).brg = s.brg := by
  unfold modPort setPort; split <;> rfl
@[simp] theorem modPort_mbx (p : BitVec 2) (g : Port → Port) (s : State) : (modPort p g s).mbx = s.mbx := by
  unfold modPort setPort; split <;> rfl
@[simp] theorem modPort_mon (p : BitVec 2) (g : Port → Port) (s : State) : (modPort p g s).mon = s.mon := by
  unfold modPort setPort; split <;> rfl
@[simp] theorem modPort_tap (p : BitVec 2) (g : Port → Port) (s : State) : (modPort p g s).tap = s.tap := by
  unfold modPort setPort; split <;> rfl
@[simp] theorem modPort_cycle (p : BitVec 2) (g : Port → Port) (s : State) : (modPort p g s).cycle = s.cycle := by
  unfold modPort setPort; split <;> rfl
@[simp] theorem modPort_counters (p : BitVec 2) (g : Port → Port) (s : State) : (modPort p g s).counters = s.counters := by
  unfold modPort setPort; split <;> rfl
@[simp] theorem modPort_upsets (p : BitVec 2) (g : Port → Port) (s : State) : (modPort p g s).upsets = s.upsets := by
  unfold modPort setPort; split <;> rfl
@[simp] theorem modPort_flights (p : BitVec 2) (g : Port → Port) (s : State) : (modPort p g s).flights = s.flights := by
  unfold modPort setPort; split <;> rfl
@[simp] theorem modPort_nextId (p : BitVec 2) (g : Port → Port) (s : State) : (modPort p g s).nextId = s.nextId := by
  unfold modPort setPort; split <;> rfl
@[simp] theorem modPort_free (p : BitVec 2) (g : Port → Port) (s : State) : (modPort p g s).free = s.free := by
  unfold modPort setPort; split <;> rfl
@[simp] theorem modPort_pending (p : BitVec 2) (g : Port → Port) (s : State) : (modPort p g s).pending = s.pending := by
  unfold modPort setPort; split <;> rfl

/-! Changing a thread. -/

@[simp] theorem modThread_build (t : Thread) (f : ThreadState → ThreadState) (s : State) : (modThread t f s).build = s.build := by cases t <;> rfl
@[simp] theorem modThread_fuseBus (t : Thread) (f : ThreadState → ThreadState) (s : State) : (modThread t f s).fuseBus = s.fuseBus := by cases t <;> rfl
@[simp] theorem modThread_fuses (t : Thread) (f : ThreadState → ThreadState) (s : State) : (modThread t f s).fuses = s.fuses := by cases t <;> rfl
@[simp] theorem modThread_run (t : Thread) (f : ThreadState → ThreadState) (s : State) : (modThread t f s).run = s.run := by cases t <;> rfl
@[simp] theorem modThread_cmd (t : Thread) (f : ThreadState → ThreadState) (s : State) : (modThread t f s).cmd = s.cmd := by cases t <;> rfl
@[simp] theorem modThread_csr (t : Thread) (f : ThreadState → ThreadState) (s : State) : (modThread t f s).csr = s.csr := by cases t <;> rfl
@[simp] theorem modThread_evt (t : Thread) (f : ThreadState → ThreadState) (s : State) : (modThread t f s).evt = s.evt := by cases t <;> rfl
@[simp] theorem modThread_sdm (t : Thread) (f : ThreadState → ThreadState) (s : State) : (modThread t f s).sdm = s.sdm := by cases t <;> rfl
@[simp] theorem modThread_preg (t : Thread) (f : ThreadState → ThreadState) (s : State) : (modThread t f s).preg = s.preg := by cases t <;> rfl
@[simp] theorem modThread_stage (t : Thread) (f : ThreadState → ThreadState) (s : State) : (modThread t f s).stage = s.stage := by cases t <;> rfl
@[simp] theorem modThread_queues (t : Thread) (f : ThreadState → ThreadState) (s : State) : (modThread t f s).queues = s.queues := by cases t <;> rfl
@[simp] theorem modThread_spool (t : Thread) (f : ThreadState → ThreadState) (s : State) : (modThread t f s).spool = s.spool := by cases t <;> rfl
@[simp] theorem modThread_tiles (t : Thread) (f : ThreadState → ThreadState) (s : State) : (modThread t f s).tiles = s.tiles := by cases t <;> rfl
@[simp] theorem modThread_toc (t : Thread) (f : ThreadState → ThreadState) (s : State) : (modThread t f s).toc = s.toc := by cases t <;> rfl
@[simp] theorem modThread_amax (t : Thread) (f : ThreadState → ThreadState) (s : State) : (modThread t f s).amax = s.amax := by cases t <;> rfl
@[simp] theorem modThread_mx (t : Thread) (f : ThreadState → ThreadState) (s : State) : (modThread t f s).mx = s.mx := by cases t <;> rfl
@[simp] theorem modThread_vx (t : Thread) (f : ThreadState → ThreadState) (s : State) : (modThread t f s).vx = s.vx := by cases t <;> rfl
@[simp] theorem modThread_glz (t : Thread) (f : ThreadState → ThreadState) (s : State) : (modThread t f s).glz = s.glz := by cases t <;> rfl
@[simp] theorem modThread_ls (t : Thread) (f : ThreadState → ThreadState) (s : State) : (modThread t f s).ls = s.ls := by cases t <;> rfl
@[simp] theorem modThread_handles (t : Thread) (f : ThreadState → ThreadState) (s : State) : (modThread t f s).handles = s.handles := by cases t <;> rfl
@[simp] theorem modThread_res (t : Thread) (f : ThreadState → ThreadState) (s : State) : (modThread t f s).res = s.res := by cases t <;> rfl
@[simp] theorem modThread_fab (t : Thread) (f : ThreadState → ThreadState) (s : State) : (modThread t f s).fab = s.fab := by cases t <;> rfl
@[simp] theorem modThread_sess (t : Thread) (f : ThreadState → ThreadState) (s : State) : (modThread t f s).sess = s.sess := by cases t <;> rfl
@[simp] theorem modThread_ballast (t : Thread) (f : ThreadState → ThreadState) (s : State) : (modThread t f s).ballast = s.ballast := by cases t <;> rfl
@[simp] theorem modThread_clk (t : Thread) (f : ThreadState → ThreadState) (s : State) : (modThread t f s).clk = s.clk := by cases t <;> rfl
@[simp] theorem modThread_mould (t : Thread) (f : ThreadState → ThreadState) (s : State) : (modThread t f s).mould = s.mould := by cases t <;> rfl
@[simp] theorem modThread_brg (t : Thread) (f : ThreadState → ThreadState) (s : State) : (modThread t f s).brg = s.brg := by cases t <;> rfl
@[simp] theorem modThread_mbx (t : Thread) (f : ThreadState → ThreadState) (s : State) : (modThread t f s).mbx = s.mbx := by cases t <;> rfl
@[simp] theorem modThread_mon (t : Thread) (f : ThreadState → ThreadState) (s : State) : (modThread t f s).mon = s.mon := by cases t <;> rfl
@[simp] theorem modThread_tap (t : Thread) (f : ThreadState → ThreadState) (s : State) : (modThread t f s).tap = s.tap := by cases t <;> rfl
@[simp] theorem modThread_cycle (t : Thread) (f : ThreadState → ThreadState) (s : State) : (modThread t f s).cycle = s.cycle := by cases t <;> rfl
@[simp] theorem modThread_counters (t : Thread) (f : ThreadState → ThreadState) (s : State) : (modThread t f s).counters = s.counters := by cases t <;> rfl
@[simp] theorem modThread_upsets (t : Thread) (f : ThreadState → ThreadState) (s : State) : (modThread t f s).upsets = s.upsets := by cases t <;> rfl
@[simp] theorem modThread_flights (t : Thread) (f : ThreadState → ThreadState) (s : State) : (modThread t f s).flights = s.flights := by cases t <;> rfl
@[simp] theorem modThread_nextId (t : Thread) (f : ThreadState → ThreadState) (s : State) : (modThread t f s).nextId = s.nextId := by cases t <;> rfl
@[simp] theorem modThread_free (t : Thread) (f : ThreadState → ThreadState) (s : State) : (modThread t f s).free = s.free := by cases t <;> rfl
@[simp] theorem modThread_pending (t : Thread) (f : ThreadState → ThreadState) (s : State) : (modThread t f s).pending = s.pending := by cases t <;> rfl

/-! Logging an event at a place of the queue. -/

@[simp] theorem logAt_build (w : Event → List Event → List Event) (x : BitVec 48) (c : BitVec 12) (d : Nat) (s : State) : (logAt w x c d s).build = s.build := by
  unfold logAt; dsimp only; split <;> rfl
@[simp] theorem logAt_fuseBus (w : Event → List Event → List Event) (x : BitVec 48) (c : BitVec 12) (d : Nat) (s : State) : (logAt w x c d s).fuseBus = s.fuseBus := by
  unfold logAt; dsimp only; split <;> rfl
@[simp] theorem logAt_fuses (w : Event → List Event → List Event) (x : BitVec 48) (c : BitVec 12) (d : Nat) (s : State) : (logAt w x c d s).fuses = s.fuses := by
  unfold logAt; dsimp only; split <;> rfl
@[simp] theorem logAt_run (w : Event → List Event → List Event) (x : BitVec 48) (c : BitVec 12) (d : Nat) (s : State) : (logAt w x c d s).run = s.run := by
  unfold logAt; dsimp only; split <;> rfl
@[simp] theorem logAt_cmd (w : Event → List Event → List Event) (x : BitVec 48) (c : BitVec 12) (d : Nat) (s : State) : (logAt w x c d s).cmd = s.cmd := by
  unfold logAt; dsimp only; split <;> rfl
@[simp] theorem logAt_csr (w : Event → List Event → List Event) (x : BitVec 48) (c : BitVec 12) (d : Nat) (s : State) : (logAt w x c d s).csr = s.csr := by
  unfold logAt; dsimp only; split <;> rfl
@[simp] theorem logAt_ta (w : Event → List Event → List Event) (x : BitVec 48) (c : BitVec 12) (d : Nat) (s : State) : (logAt w x c d s).ta = s.ta := by
  unfold logAt; dsimp only; split <;> rfl
@[simp] theorem logAt_tx (w : Event → List Event → List Event) (x : BitVec 48) (c : BitVec 12) (d : Nat) (s : State) : (logAt w x c d s).tx = s.tx := by
  unfold logAt; dsimp only; split <;> rfl
@[simp] theorem logAt_sdm (w : Event → List Event → List Event) (x : BitVec 48) (c : BitVec 12) (d : Nat) (s : State) : (logAt w x c d s).sdm = s.sdm := by
  unfold logAt; dsimp only; split <;> rfl
@[simp] theorem logAt_preg (w : Event → List Event → List Event) (x : BitVec 48) (c : BitVec 12) (d : Nat) (s : State) : (logAt w x c d s).preg = s.preg := by
  unfold logAt; dsimp only; split <;> rfl
@[simp] theorem logAt_stage (w : Event → List Event → List Event) (x : BitVec 48) (c : BitVec 12) (d : Nat) (s : State) : (logAt w x c d s).stage = s.stage := by
  unfold logAt; dsimp only; split <;> rfl
@[simp] theorem logAt_queues (w : Event → List Event → List Event) (x : BitVec 48) (c : BitVec 12) (d : Nat) (s : State) : (logAt w x c d s).queues = s.queues := by
  unfold logAt; dsimp only; split <;> rfl
@[simp] theorem logAt_spool (w : Event → List Event → List Event) (x : BitVec 48) (c : BitVec 12) (d : Nat) (s : State) : (logAt w x c d s).spool = s.spool := by
  unfold logAt; dsimp only; split <;> rfl
@[simp] theorem logAt_tiles (w : Event → List Event → List Event) (x : BitVec 48) (c : BitVec 12) (d : Nat) (s : State) : (logAt w x c d s).tiles = s.tiles := by
  unfold logAt; dsimp only; split <;> rfl
@[simp] theorem logAt_toc (w : Event → List Event → List Event) (x : BitVec 48) (c : BitVec 12) (d : Nat) (s : State) : (logAt w x c d s).toc = s.toc := by
  unfold logAt; dsimp only; split <;> rfl
@[simp] theorem logAt_amax (w : Event → List Event → List Event) (x : BitVec 48) (c : BitVec 12) (d : Nat) (s : State) : (logAt w x c d s).amax = s.amax := by
  unfold logAt; dsimp only; split <;> rfl
@[simp] theorem logAt_mx (w : Event → List Event → List Event) (x : BitVec 48) (c : BitVec 12) (d : Nat) (s : State) : (logAt w x c d s).mx = s.mx := by
  unfold logAt; dsimp only; split <;> rfl
@[simp] theorem logAt_vx (w : Event → List Event → List Event) (x : BitVec 48) (c : BitVec 12) (d : Nat) (s : State) : (logAt w x c d s).vx = s.vx := by
  unfold logAt; dsimp only; split <;> rfl
@[simp] theorem logAt_glz (w : Event → List Event → List Event) (x : BitVec 48) (c : BitVec 12) (d : Nat) (s : State) : (logAt w x c d s).glz = s.glz := by
  unfold logAt; dsimp only; split <;> rfl
@[simp] theorem logAt_ls (w : Event → List Event → List Event) (x : BitVec 48) (c : BitVec 12) (d : Nat) (s : State) : (logAt w x c d s).ls = s.ls := by
  unfold logAt; dsimp only; split <;> rfl
@[simp] theorem logAt_handles (w : Event → List Event → List Event) (x : BitVec 48) (c : BitVec 12) (d : Nat) (s : State) : (logAt w x c d s).handles = s.handles := by
  unfold logAt; dsimp only; split <;> rfl
@[simp] theorem logAt_res (w : Event → List Event → List Event) (x : BitVec 48) (c : BitVec 12) (d : Nat) (s : State) : (logAt w x c d s).res = s.res := by
  unfold logAt; dsimp only; split <;> rfl
@[simp] theorem logAt_fab (w : Event → List Event → List Event) (x : BitVec 48) (c : BitVec 12) (d : Nat) (s : State) : (logAt w x c d s).fab = s.fab := by
  unfold logAt; dsimp only; split <;> rfl
@[simp] theorem logAt_sess (w : Event → List Event → List Event) (x : BitVec 48) (c : BitVec 12) (d : Nat) (s : State) : (logAt w x c d s).sess = s.sess := by
  unfold logAt; dsimp only; split <;> rfl
@[simp] theorem logAt_ballast (w : Event → List Event → List Event) (x : BitVec 48) (c : BitVec 12) (d : Nat) (s : State) : (logAt w x c d s).ballast = s.ballast := by
  unfold logAt; dsimp only; split <;> rfl
@[simp] theorem logAt_clk (w : Event → List Event → List Event) (x : BitVec 48) (c : BitVec 12) (d : Nat) (s : State) : (logAt w x c d s).clk = s.clk := by
  unfold logAt; dsimp only; split <;> rfl
@[simp] theorem logAt_mould (w : Event → List Event → List Event) (x : BitVec 48) (c : BitVec 12) (d : Nat) (s : State) : (logAt w x c d s).mould = s.mould := by
  unfold logAt; dsimp only; split <;> rfl
@[simp] theorem logAt_brg (w : Event → List Event → List Event) (x : BitVec 48) (c : BitVec 12) (d : Nat) (s : State) : (logAt w x c d s).brg = s.brg := by
  unfold logAt; dsimp only; split <;> rfl
@[simp] theorem logAt_mbx (w : Event → List Event → List Event) (x : BitVec 48) (c : BitVec 12) (d : Nat) (s : State) : (logAt w x c d s).mbx = s.mbx := by
  unfold logAt; dsimp only; split <;> rfl
@[simp] theorem logAt_mon (w : Event → List Event → List Event) (x : BitVec 48) (c : BitVec 12) (d : Nat) (s : State) : (logAt w x c d s).mon = s.mon := by
  unfold logAt; dsimp only; split <;> rfl
@[simp] theorem logAt_tap (w : Event → List Event → List Event) (x : BitVec 48) (c : BitVec 12) (d : Nat) (s : State) : (logAt w x c d s).tap = s.tap := by
  unfold logAt; dsimp only; split <;> rfl
@[simp] theorem logAt_cycle (w : Event → List Event → List Event) (x : BitVec 48) (c : BitVec 12) (d : Nat) (s : State) : (logAt w x c d s).cycle = s.cycle := by
  unfold logAt; dsimp only; split <;> rfl
@[simp] theorem logAt_upsets (w : Event → List Event → List Event) (x : BitVec 48) (c : BitVec 12) (d : Nat) (s : State) : (logAt w x c d s).upsets = s.upsets := by
  unfold logAt; dsimp only; split <;> rfl
@[simp] theorem logAt_flights (w : Event → List Event → List Event) (x : BitVec 48) (c : BitVec 12) (d : Nat) (s : State) : (logAt w x c d s).flights = s.flights := by
  unfold logAt; dsimp only; split <;> rfl
@[simp] theorem logAt_nextId (w : Event → List Event → List Event) (x : BitVec 48) (c : BitVec 12) (d : Nat) (s : State) : (logAt w x c d s).nextId = s.nextId := by
  unfold logAt; dsimp only; split <;> rfl
@[simp] theorem logAt_free (w : Event → List Event → List Event) (x : BitVec 48) (c : BitVec 12) (d : Nat) (s : State) : (logAt w x c d s).free = s.free := by
  unfold logAt; dsimp only; split <;> rfl
@[simp] theorem logAt_pending (w : Event → List Event → List Event) (x : BitVec 48) (c : BitVec 12) (d : Nat) (s : State) : (logAt w x c d s).pending = s.pending := by
  unfold logAt; dsimp only; split <;> rfl

/-! Logging an event. -/

@[simp] theorem logEvent_build (c : BitVec 12) (d : Nat) (s : State) : (logEvent c d s).build = s.build := by
  unfold logEvent; simp
@[simp] theorem logEvent_fuseBus (c : BitVec 12) (d : Nat) (s : State) : (logEvent c d s).fuseBus = s.fuseBus := by
  unfold logEvent; simp
@[simp] theorem logEvent_fuses (c : BitVec 12) (d : Nat) (s : State) : (logEvent c d s).fuses = s.fuses := by
  unfold logEvent; simp
@[simp] theorem logEvent_run (c : BitVec 12) (d : Nat) (s : State) : (logEvent c d s).run = s.run := by
  unfold logEvent; simp
@[simp] theorem logEvent_cmd (c : BitVec 12) (d : Nat) (s : State) : (logEvent c d s).cmd = s.cmd := by
  unfold logEvent; simp
@[simp] theorem logEvent_csr (c : BitVec 12) (d : Nat) (s : State) : (logEvent c d s).csr = s.csr := by
  unfold logEvent; simp
@[simp] theorem logEvent_ta (c : BitVec 12) (d : Nat) (s : State) : (logEvent c d s).ta = s.ta := by
  unfold logEvent; simp
@[simp] theorem logEvent_tx (c : BitVec 12) (d : Nat) (s : State) : (logEvent c d s).tx = s.tx := by
  unfold logEvent; simp
@[simp] theorem logEvent_sdm (c : BitVec 12) (d : Nat) (s : State) : (logEvent c d s).sdm = s.sdm := by
  unfold logEvent; simp
@[simp] theorem logEvent_preg (c : BitVec 12) (d : Nat) (s : State) : (logEvent c d s).preg = s.preg := by
  unfold logEvent; simp
@[simp] theorem logEvent_stage (c : BitVec 12) (d : Nat) (s : State) : (logEvent c d s).stage = s.stage := by
  unfold logEvent; simp
@[simp] theorem logEvent_queues (c : BitVec 12) (d : Nat) (s : State) : (logEvent c d s).queues = s.queues := by
  unfold logEvent; simp
@[simp] theorem logEvent_spool (c : BitVec 12) (d : Nat) (s : State) : (logEvent c d s).spool = s.spool := by
  unfold logEvent; simp
@[simp] theorem logEvent_tiles (c : BitVec 12) (d : Nat) (s : State) : (logEvent c d s).tiles = s.tiles := by
  unfold logEvent; simp
@[simp] theorem logEvent_toc (c : BitVec 12) (d : Nat) (s : State) : (logEvent c d s).toc = s.toc := by
  unfold logEvent; simp
@[simp] theorem logEvent_amax (c : BitVec 12) (d : Nat) (s : State) : (logEvent c d s).amax = s.amax := by
  unfold logEvent; simp
@[simp] theorem logEvent_mx (c : BitVec 12) (d : Nat) (s : State) : (logEvent c d s).mx = s.mx := by
  unfold logEvent; simp
@[simp] theorem logEvent_vx (c : BitVec 12) (d : Nat) (s : State) : (logEvent c d s).vx = s.vx := by
  unfold logEvent; simp
@[simp] theorem logEvent_glz (c : BitVec 12) (d : Nat) (s : State) : (logEvent c d s).glz = s.glz := by
  unfold logEvent; simp
@[simp] theorem logEvent_ls (c : BitVec 12) (d : Nat) (s : State) : (logEvent c d s).ls = s.ls := by
  unfold logEvent; simp
@[simp] theorem logEvent_handles (c : BitVec 12) (d : Nat) (s : State) : (logEvent c d s).handles = s.handles := by
  unfold logEvent; simp
@[simp] theorem logEvent_res (c : BitVec 12) (d : Nat) (s : State) : (logEvent c d s).res = s.res := by
  unfold logEvent; simp
@[simp] theorem logEvent_fab (c : BitVec 12) (d : Nat) (s : State) : (logEvent c d s).fab = s.fab := by
  unfold logEvent; simp
@[simp] theorem logEvent_sess (c : BitVec 12) (d : Nat) (s : State) : (logEvent c d s).sess = s.sess := by
  unfold logEvent; simp
@[simp] theorem logEvent_ballast (c : BitVec 12) (d : Nat) (s : State) : (logEvent c d s).ballast = s.ballast := by
  unfold logEvent; simp
@[simp] theorem logEvent_clk (c : BitVec 12) (d : Nat) (s : State) : (logEvent c d s).clk = s.clk := by
  unfold logEvent; simp
@[simp] theorem logEvent_mould (c : BitVec 12) (d : Nat) (s : State) : (logEvent c d s).mould = s.mould := by
  unfold logEvent; simp
@[simp] theorem logEvent_brg (c : BitVec 12) (d : Nat) (s : State) : (logEvent c d s).brg = s.brg := by
  unfold logEvent; simp
@[simp] theorem logEvent_mbx (c : BitVec 12) (d : Nat) (s : State) : (logEvent c d s).mbx = s.mbx := by
  unfold logEvent; simp
@[simp] theorem logEvent_mon (c : BitVec 12) (d : Nat) (s : State) : (logEvent c d s).mon = s.mon := by
  unfold logEvent; simp
@[simp] theorem logEvent_tap (c : BitVec 12) (d : Nat) (s : State) : (logEvent c d s).tap = s.tap := by
  unfold logEvent; simp
@[simp] theorem logEvent_cycle (c : BitVec 12) (d : Nat) (s : State) : (logEvent c d s).cycle = s.cycle := by
  unfold logEvent; simp
@[simp] theorem logEvent_upsets (c : BitVec 12) (d : Nat) (s : State) : (logEvent c d s).upsets = s.upsets := by
  unfold logEvent; simp
@[simp] theorem logEvent_flights (c : BitVec 12) (d : Nat) (s : State) : (logEvent c d s).flights = s.flights := by
  unfold logEvent; simp
@[simp] theorem logEvent_nextId (c : BitVec 12) (d : Nat) (s : State) : (logEvent c d s).nextId = s.nextId := by
  unfold logEvent; simp
@[simp] theorem logEvent_free (c : BitVec 12) (d : Nat) (s : State) : (logEvent c d s).free = s.free := by
  unfold logEvent; simp
@[simp] theorem logEvent_pending (c : BitVec 12) (d : Nat) (s : State) : (logEvent c d s).pending = s.pending := by
  unfold logEvent; simp

/-! Logging an event of the Bridle. -/

@[simp] theorem bridleEvent_build (c : BitVec 12) (d : Nat) (s : State) : (bridleEvent c d s).build = s.build := by
  unfold bridleEvent; split <;> simp
@[simp] theorem bridleEvent_fuseBus (c : BitVec 12) (d : Nat) (s : State) : (bridleEvent c d s).fuseBus = s.fuseBus := by
  unfold bridleEvent; split <;> simp
@[simp] theorem bridleEvent_fuses (c : BitVec 12) (d : Nat) (s : State) : (bridleEvent c d s).fuses = s.fuses := by
  unfold bridleEvent; split <;> simp
@[simp] theorem bridleEvent_run (c : BitVec 12) (d : Nat) (s : State) : (bridleEvent c d s).run = s.run := by
  unfold bridleEvent; split <;> simp
@[simp] theorem bridleEvent_cmd (c : BitVec 12) (d : Nat) (s : State) : (bridleEvent c d s).cmd = s.cmd := by
  unfold bridleEvent; split <;> simp
@[simp] theorem bridleEvent_csr (c : BitVec 12) (d : Nat) (s : State) : (bridleEvent c d s).csr = s.csr := by
  unfold bridleEvent; split <;> simp
@[simp] theorem bridleEvent_ta (c : BitVec 12) (d : Nat) (s : State) : (bridleEvent c d s).ta = s.ta := by
  unfold bridleEvent; split <;> simp
@[simp] theorem bridleEvent_tx (c : BitVec 12) (d : Nat) (s : State) : (bridleEvent c d s).tx = s.tx := by
  unfold bridleEvent; split <;> simp
@[simp] theorem bridleEvent_sdm (c : BitVec 12) (d : Nat) (s : State) : (bridleEvent c d s).sdm = s.sdm := by
  unfold bridleEvent; split <;> simp
@[simp] theorem bridleEvent_preg (c : BitVec 12) (d : Nat) (s : State) : (bridleEvent c d s).preg = s.preg := by
  unfold bridleEvent; split <;> simp
@[simp] theorem bridleEvent_stage (c : BitVec 12) (d : Nat) (s : State) : (bridleEvent c d s).stage = s.stage := by
  unfold bridleEvent; split <;> simp
@[simp] theorem bridleEvent_queues (c : BitVec 12) (d : Nat) (s : State) : (bridleEvent c d s).queues = s.queues := by
  unfold bridleEvent; split <;> simp
@[simp] theorem bridleEvent_spool (c : BitVec 12) (d : Nat) (s : State) : (bridleEvent c d s).spool = s.spool := by
  unfold bridleEvent; split <;> simp
@[simp] theorem bridleEvent_tiles (c : BitVec 12) (d : Nat) (s : State) : (bridleEvent c d s).tiles = s.tiles := by
  unfold bridleEvent; split <;> simp
@[simp] theorem bridleEvent_toc (c : BitVec 12) (d : Nat) (s : State) : (bridleEvent c d s).toc = s.toc := by
  unfold bridleEvent; split <;> simp
@[simp] theorem bridleEvent_amax (c : BitVec 12) (d : Nat) (s : State) : (bridleEvent c d s).amax = s.amax := by
  unfold bridleEvent; split <;> simp
@[simp] theorem bridleEvent_mx (c : BitVec 12) (d : Nat) (s : State) : (bridleEvent c d s).mx = s.mx := by
  unfold bridleEvent; split <;> simp
@[simp] theorem bridleEvent_vx (c : BitVec 12) (d : Nat) (s : State) : (bridleEvent c d s).vx = s.vx := by
  unfold bridleEvent; split <;> simp
@[simp] theorem bridleEvent_glz (c : BitVec 12) (d : Nat) (s : State) : (bridleEvent c d s).glz = s.glz := by
  unfold bridleEvent; split <;> simp
@[simp] theorem bridleEvent_ls (c : BitVec 12) (d : Nat) (s : State) : (bridleEvent c d s).ls = s.ls := by
  unfold bridleEvent; split <;> simp
@[simp] theorem bridleEvent_handles (c : BitVec 12) (d : Nat) (s : State) : (bridleEvent c d s).handles = s.handles := by
  unfold bridleEvent; split <;> simp
@[simp] theorem bridleEvent_res (c : BitVec 12) (d : Nat) (s : State) : (bridleEvent c d s).res = s.res := by
  unfold bridleEvent; split <;> simp
@[simp] theorem bridleEvent_fab (c : BitVec 12) (d : Nat) (s : State) : (bridleEvent c d s).fab = s.fab := by
  unfold bridleEvent; split <;> simp
@[simp] theorem bridleEvent_sess (c : BitVec 12) (d : Nat) (s : State) : (bridleEvent c d s).sess = s.sess := by
  unfold bridleEvent; split <;> simp
@[simp] theorem bridleEvent_ballast (c : BitVec 12) (d : Nat) (s : State) : (bridleEvent c d s).ballast = s.ballast := by
  unfold bridleEvent; split <;> simp
@[simp] theorem bridleEvent_clk (c : BitVec 12) (d : Nat) (s : State) : (bridleEvent c d s).clk = s.clk := by
  unfold bridleEvent; split <;> simp
@[simp] theorem bridleEvent_mould (c : BitVec 12) (d : Nat) (s : State) : (bridleEvent c d s).mould = s.mould := by
  unfold bridleEvent; split <;> simp
@[simp] theorem bridleEvent_brg (c : BitVec 12) (d : Nat) (s : State) : (bridleEvent c d s).brg = s.brg := by
  unfold bridleEvent; split <;> simp
@[simp] theorem bridleEvent_mbx (c : BitVec 12) (d : Nat) (s : State) : (bridleEvent c d s).mbx = s.mbx := by
  unfold bridleEvent; split <;> simp
@[simp] theorem bridleEvent_mon (c : BitVec 12) (d : Nat) (s : State) : (bridleEvent c d s).mon = s.mon := by
  unfold bridleEvent; split <;> simp
@[simp] theorem bridleEvent_tap (c : BitVec 12) (d : Nat) (s : State) : (bridleEvent c d s).tap = s.tap := by
  unfold bridleEvent; split <;> simp
@[simp] theorem bridleEvent_cycle (c : BitVec 12) (d : Nat) (s : State) : (bridleEvent c d s).cycle = s.cycle := by
  unfold bridleEvent; split <;> simp
@[simp] theorem bridleEvent_upsets (c : BitVec 12) (d : Nat) (s : State) : (bridleEvent c d s).upsets = s.upsets := by
  unfold bridleEvent; split <;> simp
@[simp] theorem bridleEvent_flights (c : BitVec 12) (d : Nat) (s : State) : (bridleEvent c d s).flights = s.flights := by
  unfold bridleEvent; split <;> simp
@[simp] theorem bridleEvent_nextId (c : BitVec 12) (d : Nat) (s : State) : (bridleEvent c d s).nextId = s.nextId := by
  unfold bridleEvent; split <;> simp
@[simp] theorem bridleEvent_free (c : BitVec 12) (d : Nat) (s : State) : (bridleEvent c d s).free = s.free := by
  unfold bridleEvent; split <;> simp
@[simp] theorem bridleEvent_pending (c : BitVec 12) (d : Nat) (s : State) : (bridleEvent c d s).pending = s.pending := by
  unfold bridleEvent; split <;> simp

/-! Reading an entry of a triple-copied table. -/

@[simp] theorem readCfg_build (n : Nat) (s : State) : (readCfg n s).build = s.build := by
  unfold readCfg; split <;> simp
@[simp] theorem readCfg_fuseBus (n : Nat) (s : State) : (readCfg n s).fuseBus = s.fuseBus := by
  unfold readCfg; split <;> simp
@[simp] theorem readCfg_fuses (n : Nat) (s : State) : (readCfg n s).fuses = s.fuses := by
  unfold readCfg; split <;> simp
@[simp] theorem readCfg_run (n : Nat) (s : State) : (readCfg n s).run = s.run := by
  unfold readCfg; split <;> simp
@[simp] theorem readCfg_cmd (n : Nat) (s : State) : (readCfg n s).cmd = s.cmd := by
  unfold readCfg; split <;> simp
@[simp] theorem readCfg_csr (n : Nat) (s : State) : (readCfg n s).csr = s.csr := by
  unfold readCfg; split <;> simp
@[simp] theorem readCfg_evt (n : Nat) (s : State) : (readCfg n s).evt = s.evt := by
  unfold readCfg; split <;> simp
@[simp] theorem readCfg_ta (n : Nat) (s : State) : (readCfg n s).ta = s.ta := by
  unfold readCfg; split <;> simp
@[simp] theorem readCfg_tx (n : Nat) (s : State) : (readCfg n s).tx = s.tx := by
  unfold readCfg; split <;> simp
@[simp] theorem readCfg_sdm (n : Nat) (s : State) : (readCfg n s).sdm = s.sdm := by
  unfold readCfg; split <;> simp
@[simp] theorem readCfg_preg (n : Nat) (s : State) : (readCfg n s).preg = s.preg := by
  unfold readCfg; split <;> simp
@[simp] theorem readCfg_stage (n : Nat) (s : State) : (readCfg n s).stage = s.stage := by
  unfold readCfg; split <;> simp
@[simp] theorem readCfg_queues (n : Nat) (s : State) : (readCfg n s).queues = s.queues := by
  unfold readCfg; split <;> simp
@[simp] theorem readCfg_spool (n : Nat) (s : State) : (readCfg n s).spool = s.spool := by
  unfold readCfg; split <;> simp
@[simp] theorem readCfg_tiles (n : Nat) (s : State) : (readCfg n s).tiles = s.tiles := by
  unfold readCfg; split <;> simp
@[simp] theorem readCfg_toc (n : Nat) (s : State) : (readCfg n s).toc = s.toc := by
  unfold readCfg; split <;> simp
@[simp] theorem readCfg_amax (n : Nat) (s : State) : (readCfg n s).amax = s.amax := by
  unfold readCfg; split <;> simp
@[simp] theorem readCfg_mx (n : Nat) (s : State) : (readCfg n s).mx = s.mx := by
  unfold readCfg; split <;> simp
@[simp] theorem readCfg_vx (n : Nat) (s : State) : (readCfg n s).vx = s.vx := by
  unfold readCfg; split <;> simp
@[simp] theorem readCfg_glz (n : Nat) (s : State) : (readCfg n s).glz = s.glz := by
  unfold readCfg; split <;> simp
@[simp] theorem readCfg_ls (n : Nat) (s : State) : (readCfg n s).ls = s.ls := by
  unfold readCfg; split <;> simp
@[simp] theorem readCfg_handles (n : Nat) (s : State) : (readCfg n s).handles = s.handles := by
  unfold readCfg; split <;> simp
@[simp] theorem readCfg_res (n : Nat) (s : State) : (readCfg n s).res = s.res := by
  unfold readCfg; split <;> simp
@[simp] theorem readCfg_fab (n : Nat) (s : State) : (readCfg n s).fab = s.fab := by
  unfold readCfg; split <;> simp
@[simp] theorem readCfg_sess (n : Nat) (s : State) : (readCfg n s).sess = s.sess := by
  unfold readCfg; split <;> simp
@[simp] theorem readCfg_ballast (n : Nat) (s : State) : (readCfg n s).ballast = s.ballast := by
  unfold readCfg; split <;> simp
@[simp] theorem readCfg_clk (n : Nat) (s : State) : (readCfg n s).clk = s.clk := by
  unfold readCfg; split <;> simp
@[simp] theorem readCfg_mould (n : Nat) (s : State) : (readCfg n s).mould = s.mould := by
  unfold readCfg; split <;> simp
@[simp] theorem readCfg_brg (n : Nat) (s : State) : (readCfg n s).brg = s.brg := by
  unfold readCfg; split <;> simp
@[simp] theorem readCfg_mbx (n : Nat) (s : State) : (readCfg n s).mbx = s.mbx := by
  unfold readCfg; split <;> simp
@[simp] theorem readCfg_mon (n : Nat) (s : State) : (readCfg n s).mon = s.mon := by
  unfold readCfg; split <;> simp
@[simp] theorem readCfg_tap (n : Nat) (s : State) : (readCfg n s).tap = s.tap := by
  unfold readCfg; split <;> simp
@[simp] theorem readCfg_cycle (n : Nat) (s : State) : (readCfg n s).cycle = s.cycle := by
  unfold readCfg; split <;> simp
@[simp] theorem readCfg_flights (n : Nat) (s : State) : (readCfg n s).flights = s.flights := by
  unfold readCfg; split <;> simp
@[simp] theorem readCfg_nextId (n : Nat) (s : State) : (readCfg n s).nextId = s.nextId := by
  unfold readCfg; split <;> simp
@[simp] theorem readCfg_free (n : Nat) (s : State) : (readCfg n s).free = s.free := by
  unfold readCfg; split <;> simp
@[simp] theorem readCfg_pending (n : Nat) (s : State) : (readCfg n s).pending = s.pending := by
  unfold readCfg; split <;> simp

/-! A Drogue level. -/

@[simp] theorem setLevel_build (l : Drogue) (s : State) : (setLevel l s).build = s.build := rfl
@[simp] theorem setLevel_fuseBus (l : Drogue) (s : State) : (setLevel l s).fuseBus = s.fuseBus := rfl
@[simp] theorem setLevel_fuses (l : Drogue) (s : State) : (setLevel l s).fuses = s.fuses := rfl
@[simp] theorem setLevel_run (l : Drogue) (s : State) : (setLevel l s).run = s.run := rfl
@[simp] theorem setLevel_cmd (l : Drogue) (s : State) : (setLevel l s).cmd = s.cmd := rfl
@[simp] theorem setLevel_csr (l : Drogue) (s : State) : (setLevel l s).csr = s.csr := rfl
@[simp] theorem setLevel_evt (l : Drogue) (s : State) : (setLevel l s).evt = s.evt := rfl
@[simp] theorem setLevel_ta (l : Drogue) (s : State) : (setLevel l s).ta = s.ta := rfl
@[simp] theorem setLevel_tx (l : Drogue) (s : State) : (setLevel l s).tx = s.tx := rfl
@[simp] theorem setLevel_sdm (l : Drogue) (s : State) : (setLevel l s).sdm = s.sdm := rfl
@[simp] theorem setLevel_preg (l : Drogue) (s : State) : (setLevel l s).preg = s.preg := rfl
@[simp] theorem setLevel_stage (l : Drogue) (s : State) : (setLevel l s).stage = s.stage := rfl
@[simp] theorem setLevel_queues (l : Drogue) (s : State) : (setLevel l s).queues = s.queues := rfl
@[simp] theorem setLevel_spool (l : Drogue) (s : State) : (setLevel l s).spool = s.spool := rfl
@[simp] theorem setLevel_tiles (l : Drogue) (s : State) : (setLevel l s).tiles = s.tiles := rfl
@[simp] theorem setLevel_toc (l : Drogue) (s : State) : (setLevel l s).toc = s.toc := rfl
@[simp] theorem setLevel_amax (l : Drogue) (s : State) : (setLevel l s).amax = s.amax := rfl
@[simp] theorem setLevel_mx (l : Drogue) (s : State) : (setLevel l s).mx = s.mx := rfl
@[simp] theorem setLevel_vx (l : Drogue) (s : State) : (setLevel l s).vx = s.vx := rfl
@[simp] theorem setLevel_glz (l : Drogue) (s : State) : (setLevel l s).glz = s.glz := rfl
@[simp] theorem setLevel_ls (l : Drogue) (s : State) : (setLevel l s).ls = s.ls := rfl
@[simp] theorem setLevel_handles (l : Drogue) (s : State) : (setLevel l s).handles = s.handles := rfl
@[simp] theorem setLevel_res (l : Drogue) (s : State) : (setLevel l s).res = s.res := rfl
@[simp] theorem setLevel_fab (l : Drogue) (s : State) : (setLevel l s).fab = s.fab := rfl
@[simp] theorem setLevel_sess (l : Drogue) (s : State) : (setLevel l s).sess = s.sess := rfl
@[simp] theorem setLevel_ballast (l : Drogue) (s : State) : (setLevel l s).ballast = s.ballast := rfl
@[simp] theorem setLevel_mould (l : Drogue) (s : State) : (setLevel l s).mould = s.mould := rfl
@[simp] theorem setLevel_brg (l : Drogue) (s : State) : (setLevel l s).brg = s.brg := rfl
@[simp] theorem setLevel_mbx (l : Drogue) (s : State) : (setLevel l s).mbx = s.mbx := rfl
@[simp] theorem setLevel_mon (l : Drogue) (s : State) : (setLevel l s).mon = s.mon := rfl
@[simp] theorem setLevel_tap (l : Drogue) (s : State) : (setLevel l s).tap = s.tap := rfl
@[simp] theorem setLevel_cycle (l : Drogue) (s : State) : (setLevel l s).cycle = s.cycle := rfl
@[simp] theorem setLevel_counters (l : Drogue) (s : State) : (setLevel l s).counters = s.counters := rfl
@[simp] theorem setLevel_upsets (l : Drogue) (s : State) : (setLevel l s).upsets = s.upsets := rfl
@[simp] theorem setLevel_flights (l : Drogue) (s : State) : (setLevel l s).flights = s.flights := rfl
@[simp] theorem setLevel_nextId (l : Drogue) (s : State) : (setLevel l s).nextId = s.nextId := rfl
@[simp] theorem setLevel_free (l : Drogue) (s : State) : (setLevel l s).free = s.free := rfl
@[simp] theorem setLevel_pending (l : Drogue) (s : State) : (setLevel l s).pending = s.pending := rfl

end Sys2Proof.Machine
end

