-- ==== Sys2Proof/Laws/Threads.lean ====
section
/-! SUPPORT. Laws of the threads and their registers. -/

namespace Sys2Proof.Machine

/-- The changed thread. -/
@[simp] theorem getThread_modThread_self (t : Thread) (f : ThreadState → ThreadState) (s : State) :
    getThread t (modThread t f s) = f (getThread t s) := by cases t <;> rfl

/-- The other thread stays. -/
theorem getThread_modThread_ne {t u : Thread} (f : ThreadState → ThreadState) (s : State) (h : u ≠ t) :
    getThread u (modThread t f s) = getThread u s := by
  cases t <;> cases u <;> first | rfl | exact absurd rfl h

@[simp] theorem getThread_modThread_other (t : Thread) (f : ThreadState → ThreadState) (s : State) :
    getThread (otherThread t) (modThread t f s) = getThread (otherThread t) s := by cases t <;> rfl

/-- A register of a thread whose registers are the same reads the same. -/
theorem sreg_congr (t : Thread) (r : Reg) {s s' : State} (h : (getThread t s').regs = (getThread t s).regs) :
    sreg t r s' = sreg t r s := by simp only [sreg, readReg, h]

/-- A change of a thread that leaves its registers changes no register of either. -/
theorem sreg_modThread (t u : Thread) (r : Reg) (f : ThreadState → ThreadState) (s : State)
    (h : (f (getThread t s)).regs = (getThread t s).regs) : sreg u r (modThread t f s) = sreg u r s := by
  by_cases hu : u = t
  · subst hu; exact sreg_congr u r (by simpa using h)
  · exact sreg_congr u r (by rw [getThread_modThread_ne f s hu])

/-- Register s0 reads as zero (R54). -/
@[simp] theorem sreg_zero (t : Thread) (s : State) : sreg t 0 s = 0 := by simp [sreg, readReg]

/-- A write to s0 is discarded (R54). -/
@[simp] theorem setSreg_zero (t : Thread) (v : Word64) (s : State) : setSreg t 0 v s = s := by
  cases t <;> simp [setSreg, modThread, writeReg, setThread, getThread]

/-- What a register reads after a write to a register, s0 apart. -/
theorem sreg_setSreg (t u : Thread) (r q : Reg) (v : Word64) (s : State)
    (h : Sparse.wf 0 (getThread t s).regs = true) :
    sreg u q (setSreg t r v s) = if u = t ∧ q = r ∧ r ≠ 0 then v else sreg u q s := by
  by_cases hr : r = 0
  · rw [hr, setSreg_zero, if_neg (by simp)]
  · by_cases hu : u = t
    · subst hu
      simp only [sreg, setSreg, getThread_modThread_self, readReg, writeReg, if_neg hr]
      by_cases hq : q = 0
      · simp [hq]
        intro e; exact absurd e.symm hr
      · rw [if_neg hq, if_neg hq]
        by_cases hqr : q = r
        · rw [hqr, Sparse.get_set_self 0 _ _ v h]; simp only [true_and]; rw [if_pos hr]
        · simp only [hqr, false_and, and_false, if_false]
          exact Sparse.get_set_ne 0 _ v h (fun hn => hqr (BitVec.eq_of_toNat_eq hn))
    · rw [if_neg (fun hn => hu hn.1)]
      exact sreg_congr u q (by rw [setSreg, getThread_modThread_ne _ _ hu])

/-- A write to a register leaves the rest of its thread alone. -/
theorem getThread_setSreg (t : Thread) (r : Reg) (v : Word64) (s : State) :
    ∃ m, getThread t (setSreg t r v s) = { getThread t s with regs := m } := by
  simp only [setSreg, getThread_modThread_self, writeReg]
  split
  · exact ⟨_, rfl⟩
  · exact ⟨_, rfl⟩

/-- A write to a register keeps its thread well formed. -/
theorem threadWellFormed_writeReg (th : ThreadState) (r : Reg) (v : Word64) (h : Claims.threadWellFormed th) :
    Claims.threadWellFormed (writeReg th r v) := by
  unfold writeReg
  split
  · exact h
  · exact ⟨h.1, Sparse.wf_set 0 _ _ _ h.2.1, h.2.2⟩

/-- The PC is the address of a word (R54). -/
theorem alignPc_mod (a : BitVec 48) : (alignPc a).toNat % 8 = 0 := by
  have h8 : (alignPc a).toNat % 8 = ((alignPc a).setWidth 3).toNat := by simp
  rw [h8]
  have : (alignPc a).setWidth 3 = 0#3 := by
    unfold alignPc
    ext i hi
    rcases i with _ | _ | _ | i
    · simp
    · simp
    · simp
    · omega
  simp [this]

/-! What the ends of an issue do to a thread. -/

/-- The thread after `advance`: its registers, Coil levels and status stay; it waits no more. -/
theorem getThread_advance (t : Thread) (n : Nat) (s : State) :
    ∃ l b p k, getThread t (advance t n s) =
      { getThread t s with wait := .none, restart := l, reissuing := b, pc := alignPc p, nextIssue := k } := by
  simp only [advance, getThread_modThread_self]
  split
  · split
    · exact ⟨[], false, _, _, rfl⟩
    · exact ⟨_, (getThread t s).reissuing, _, _, rfl⟩
  · exact ⟨(getThread t s).restart, (getThread t s).reissuing, _, _, rfl⟩

/-- Issue goes on with the next word where nothing is being reissued. -/
theorem getThread_advance_of_not_reissuing (t : Thread) (n : Nat) (s : State) (h : (getThread t s).reissuing = false) :
    getThread t (advance t n s) =
      { getThread t s with
        wait := .none, pc := alignPc ((getThread t s).pc + BitVec.ofNat 48 (8 * n))
        nextIssue := max (getThread t s).nextIssue s.ls.round + 1 } := by
  simp only [advance, getThread_modThread_self, h, Bool.false_eq_true, if_false]

/-- The thread after a jump. -/
theorem getThread_jumpTo (t : Thread) (a : BitVec 48) (s : State) :
    getThread t (jumpTo t a s) =
      { getThread t s with wait := .none, pc := alignPc a, nextIssue := max (getThread t s).nextIssue s.ls.round + 1 } :=
  getThread_modThread_self _ _ _

/-- An instruction that is not reissued sees the state as it is (R87). -/
theorem firstView_of_not_reissuing {t : Thread} {s : State} (h : (getThread t s).reissuing = false) :
    firstView t s = s := by
  unfold firstView
  rw [h]

/-- What a reissued instruction sees differs in the registers and bindings of its thread only (R87). -/
theorem firstView_eq (t : Thread) (s : State) :
    ∃ m b, firstView t s = modThread t (fun th => { th with regs := m, bind := b }) s := by
  unfold firstView
  split
  · exact ⟨_, _, rfl⟩
  · exact ⟨(getThread t s).regs, (getThread t s).bind, by cases t <;> rfl⟩

/-- An instruction that is not reissued leaves its thread as its rules do. -/
theorem liveView_of_not_reissuing {t : Thread} {old : State} (s : State) (h : (getThread t old).reissuing = false) :
    liveView t old s = s := by
  unfold liveView
  rw [h]
  exact if_neg (by decide)

/-- After an instruction that is reissued the thread has its own registers and bindings (R87). -/
theorem getThread_liveView_of_reissuing {t : Thread} {old : State} (s : State)
    (h : (getThread t old).reissuing = true) :
    getThread t (liveView t old s) =
      { getThread t s with regs := (getThread t old).regs, bind := (getThread t old).bind } := by
  unfold liveView
  rw [if_pos h, getThread_modThread_self]

/-- The thread after an issue fault: it issues nothing further; registers, PC and Coil levels stay (R81). -/
theorem getThread_issueFault (t : Thread) (fc : BitVec 8) (v : Word64) (s : State) :
    (getThread t (issueFault t fc v s)).phase = .issueFault { fc := fc, pc := (getThread t s).pc, fval := v } ∧
      (getThread t (issueFault t fc v s)).pc = (getThread t s).pc ∧
      (getThread t (issueFault t fc v s)).regs = (getThread t s).regs ∧
      (getThread t (issueFault t fc v s)).coil = (getThread t s).coil := by
  simp only [issueFault, getThread_modThread_self]
  split <;> exact ⟨rfl, rfl, rfl, rfl⟩

/-- Well-formed threads and parameters, thread by thread. -/
theorem threadsWellFormed_iff (s : State) : Claims.threadsWellFormed s ↔
    (∀ t, Claims.threadWellFormed (getThread t s)) ∧ Sparse.wf 0 s.preg = true := by
  constructor
  · rintro ⟨ha, hx, hp⟩
    exact ⟨fun t => by cases t <;> assumption, hp⟩
  · rintro ⟨h, hp⟩
    exact ⟨h .ta, h .tx, hp⟩

/-- A change of one thread keeps both well formed if it keeps that one so. -/
theorem threadsWellFormed_modThread (t : Thread) (f : ThreadState → ThreadState) {s : State}
    (h : Claims.threadsWellFormed s) (hf : Claims.threadWellFormed (f (getThread t s))) :
    Claims.threadsWellFormed (modThread t f s) := by
  obtain ⟨ht, hp⟩ := (threadsWellFormed_iff s).1 h
  refine (threadsWellFormed_iff _).2 ⟨fun u => ?_, by simpa using hp⟩
  by_cases hu : u = t
  · subst hu; simpa using hf
  · rw [getThread_modThread_ne f s hu]; exact ht u

theorem threadsWellFormed_setSreg (t : Thread) (r : Reg) (v : Word64) {s : State} (h : Claims.threadsWellFormed s) :
    Claims.threadsWellFormed (setSreg t r v s) :=
  threadsWellFormed_modThread t _ h (threadWellFormed_writeReg _ _ _ (((threadsWellFormed_iff s).1 h).1 t))

theorem threadsWellFormed_setWait (t : Thread) (w : Wait) {s : State} (h : Claims.threadsWellFormed s) :
    Claims.threadsWellFormed (setWait t w s) :=
  threadsWellFormed_modThread t _ h (((threadsWellFormed_iff s).1 h).1 t)

theorem threadsWellFormed_jumpTo (t : Thread) (a : BitVec 48) {s : State} (h : Claims.threadsWellFormed s) :
    Claims.threadsWellFormed (jumpTo t a s) :=
  threadsWellFormed_modThread t _ h ⟨alignPc_mod a, (((threadsWellFormed_iff s).1 h).1 t).2⟩

theorem threadsWellFormed_issueFault (t : Thread) (fc : BitVec 8) (v : Word64) {s : State}
    (h : Claims.threadsWellFormed s) : Claims.threadsWellFormed (issueFault t fc v s) := by
  refine threadsWellFormed_modThread t _ h ?_
  have := ((threadsWellFormed_iff s).1 h).1 t
  dsimp only
  split <;> exact this

theorem threadsWellFormed_advance (t : Thread) (n : Nat) {s : State} (h : Claims.threadsWellFormed s) :
    Claims.threadsWellFormed (advance t n s) := by
  refine threadsWellFormed_modThread t _ h ?_
  have := ((threadsWellFormed_iff s).1 h).1 t
  dsimp only
  split
  · split <;> exact ⟨alignPc_mod _, this.2⟩
  · exact ⟨alignPc_mod _, this.2⟩

theorem threadsWellFormed_liveView (t : Thread) {old s : State} (ho : Claims.threadsWellFormed old)
    (h : Claims.threadsWellFormed s) : Claims.threadsWellFormed (liveView t old s) := by
  unfold liveView
  split
  · have hs := ((threadsWellFormed_iff s).1 h).1 t
    exact threadsWellFormed_modThread t _ h ⟨hs.1, (((threadsWellFormed_iff old).1 ho).1 t).2.1, hs.2.2⟩
  · exact h

end Sys2Proof.Machine
end

