-- ==== Sys2Proof/Laws/Cycles.lean ====
section
/-! SUPPORT. Laws of the cycles that pass before a command: what a lull and the tag tests before an issue can change, and
where the cycles until a condition end. -/

namespace Sys2Proof.Machine

/-- The state `s` at another cycle: other counts of the clock, counters, instructions in flight, tags with their upsets, and
other next issue cycles. -/
def timeChange (c : Word64) (k : Clocks) (cs : Sparse Nat) (fs : List Flight) (tg : Sparse Tag) (ut : List Nat)
    (a x : Nat) (s : State) : State :=
  { s with
    cycle := c, clk := k, counters := cs, flights := fs
    ls := { s.ls with tags := tg }, upsets := { s.upsets with tags := ut }
    ta := { s.ta with nextIssue := a }, tx := { s.tx with nextIssue := x } }

/-- Two states differ in no more than the passing of cycles before an issue moves. -/
def TimeOnly (s s' : State) : Prop := ∃ c k cs fs tg ut a x, s' = timeChange c k cs fs tg ut a x s

theorem timeOnly_refl (s : State) : TimeOnly s s :=
  ⟨s.cycle, s.clk, s.counters, s.flights, s.ls.tags, s.upsets.tags, s.ta.nextIssue, s.tx.nextIssue, rfl⟩

theorem timeOnly_trans {a b c : State} (h : TimeOnly a b) (k : TimeOnly b c) : TimeOnly a c := by
  obtain ⟨_, _, _, _, _, _, _, _, rfl⟩ := h
  obtain ⟨c, k, cs, fs, tg, ut, a, x, rfl⟩ := k
  exact ⟨c, k, cs, fs, tg, ut, a, x, rfl⟩

theorem timeOnly_iff (s s' : State) : TimeOnly s s' ↔ Claims.onlyTime s s' := by
  constructor
  · rintro ⟨_, _, _, _, _, _, _, _, rfl⟩; rfl
  · intro h
    refine ⟨s'.cycle, s'.clk, s'.counters, s'.flights, s'.ls.tags, s'.upsets.tags, s'.ta.nextIssue, s'.tx.nextIssue, ?_⟩
    rw [← h]; rfl

theorem timeOnly_foldl {α : Type} (f : State → α → State) (h : ∀ s a, TimeOnly s (f s a)) (l : List α) (s : State) :
    TimeOnly s (l.foldl f s) := by
  induction l generalizing s with
  | nil => exact timeOnly_refl s
  | cons a l ih => exact timeOnly_trans (h s a) (ih (f s a))

/-- Counting changes a counter only. -/
theorem timeOnly_bump (a n : Nat) (s : State) : TimeOnly s (bump a n s) :=
  ⟨s.cycle, s.clk, _, s.flights, s.ls.tags, s.upsets.tags, s.ta.nextIssue, s.tx.nextIssue, rfl⟩

/-- The Drogue's counts of a cycle. -/
theorem timeOnly_drogueTick (s : State) : TimeOnly s (drogueTick s) := by
  have h1 : TimeOnly s (if s.clk.level = .none then s else bump cntLullDrogue 1 s) := by
    split
    · exact timeOnly_refl s
    · exact timeOnly_bump _ _ _
  unfold drogueTick
  generalize (if s.clk.level = .none then s else bump cntLullDrogue 1 s) = s1 at h1
  have h2 : TimeOnly s (if s1.clk.level = .s50 then bump cntDrogue50 1 s1 else s1) := by
    split
    · exact timeOnly_trans h1 (timeOnly_bump _ _ _)
    · exact h1
  dsimp only
  generalize (if s1.clk.level = .s50 then bump cntDrogue50 1 s1 else s1) = s2 at h2
  split
  · exact h2
  · exact timeOnly_trans h2 ⟨s2.cycle, _, s2.counters, s2.flights, s2.ls.tags, s2.upsets.tags, s2.ta.nextIssue,
      s2.tx.nextIssue, rfl⟩

/-- A lull cycle moves CYCLE, the clock's counts and counters only (R12). -/
theorem timeOnly_lullTick (s : State) : TimeOnly s (lullTick s) := by
  have h : TimeOnly s { s with cycle := s.cycle + 1 } :=
    ⟨_, s.clk, s.counters, s.flights, s.ls.tags, s.upsets.tags, s.ta.nextIssue, s.tx.nextIssue, rfl⟩
  have k := timeOnly_trans h (timeOnly_drogueTick { s with cycle := s.cycle + 1 })
  refine timeOnly_trans k ⟨_, _, _, _, _, _, _, _, rfl⟩

/-- The passing of a lull moves CYCLE, the clock's counts and counters only (R12). -/
theorem timeOnly_passLull (s : State) : TimeOnly s (passLull s) := by
  unfold passLull
  split
  · exact timeOnly_foldl _ (fun s _ => timeOnly_lullTick s) _ _
  · exact timeOnly_refl s

/-- A state outside a lull lets no cycle pass. -/
theorem passLull_of_no_lull {s : State} (h : s.clk.lull = 0) : passLull s = s := by
  unfold passLull
  rw [h]
  simp

/-- A tag test moves its row's tag, the upsets of tags and a counter only. -/
theorem timeOnly_tagTest (x : TagTest) (s : State) : TimeOnly s (tagTest x s).2 := by
  have hr : TimeOnly s (repairTag x.phys s) := by
    unfold repairTag
    split
    · exact ⟨s.cycle, s.clk, _, s.flights, s.ls.tags, _, s.ta.nextIssue, s.tx.nextIssue, rfl⟩
    · exact timeOnly_refl s
  have hs : ∀ g, TimeOnly s (setTag x.phys g (repairTag x.phys s)) := fun g =>
    timeOnly_trans hr ⟨_, _, _, _, _, _, _, _, rfl⟩
  unfold tagTest
  split
  · exact timeOnly_refl s
  · dsimp only
    split
    · exact hs _
    · exact hr
    · exact hr
    · exact hs _
    · exact hr

theorem timeOnly_runTests (xs : List TagTest) (s : State) : TimeOnly s (runTests xs s).2 := by
  induction xs generalizing s with
  | nil => exact timeOnly_refl s
  | cons x xs ih => exact timeOnly_trans (timeOnly_tagTest x s) (ih _)

theorem timeOnly_reachTests (n : Nat) (f : Flight) (s : State) : TimeOnly s (reachTests n f s).2 := by
  induction n generalizing f s with
  | zero => exact timeOnly_refl s
  | succ n ih =>
    simp only [reachTests]
    split
    · exact timeOnly_refl s
    · exact timeOnly_trans (timeOnly_runTests _ _) (ih _ _)

/-- A change of the cycle from which a thread issues. -/
theorem timeOnly_nextIssue (t : Thread) (g : ThreadState → Nat) (s : State) :
    TimeOnly s (modThread t (fun th => { th with nextIssue := g th }) s) := by
  cases t
  · exact ⟨s.cycle, s.clk, s.counters, s.flights, s.ls.tags, s.upsets.tags, _, s.tx.nextIssue, rfl⟩
  · exact ⟨s.cycle, s.clk, s.counters, s.flights, s.ls.tags, s.upsets.tags, s.ta.nextIssue, _, rfl⟩

/-- What settles before a thread issues moves CYCLE, the clock's counts, tags and counters only (R12, R109). -/
theorem timeOnly_settle (t : Thread) (s : State) : TimeOnly s (settle t s) := by
  unfold settle
  refine timeOnly_trans (timeOnly_passLull s) (timeOnly_foldl _ (fun s f => ?_) _ _)
  refine timeOnly_trans (timeOnly_trans (timeOnly_reachTests f.tests.length f s) ?_) (timeOnly_nextIssue t _ _)
  exact ⟨_, _, _, _, _, _, _, _, rfl⟩

/-- Threads after cycles that passed before an issue. -/
theorem timeOnly_getThread {s s' : State} (h : TimeOnly s s') (t : Thread) :
    ∃ k, getThread t s' = { getThread t s with nextIssue := k } := by
  obtain ⟨_, _, _, _, _, _, a, x, rfl⟩ := h
  cases t
  · exact ⟨a, rfl⟩
  · exact ⟨x, rfl⟩

/-- Registers after cycles that passed before an issue. -/
theorem timeOnly_sreg {s s' : State} (h : TimeOnly s s') (t : Thread) (r : Reg) : sreg t r s' = sreg t r s := by
  obtain ⟨k, e⟩ := timeOnly_getThread h t
  exact sreg_congr t r (by rw [e])

/-- The state that the cycles until a condition end in meets it. -/
theorem goal_of_reach {goal : State → Bool} {s t : State} (h : reach goal s = some t) : goal t = true := by
  unfold reach at h
  dsimp only at h
  split at h
  · next hg => rw [← Option.some.inj h]; exact hg
  · cases h

/-- No cycle passes where the condition holds already. -/
theorem reach_of_goal {goal : State → Bool} {s : State} (h : goal (passLull s) = true) :
    reach goal s = some (passLull s) := by
  have hp : passUntil goal (enoughCycles s) (passLull s) = passLull s := by
    cases enoughCycles s <;> simp [passUntil, h]
  unfold reach
  simp [hp, h]

end Sys2Proof.Machine
end

