-- ==== Sys2Proof/Laws/Control.lean ====
section
/-! SUPPORT. Laws of the run-control handshake, of a change of the run state and of the CMD_OP write. -/

namespace Sys2Proof.Machine

/-- A handshake between halves that agree changes nothing (R22). -/
theorem handshake_of_agree {s : State} (h : Claims.halvesAgree s) : handshake s = s := by
  obtain ⟨hw, he⟩ := h
  unfold handshake
  rw [if_pos (hw.trans he.symm)]
  conv => lhs; rw [← hw]
  conv => rhs; rw [show s = { s with run := { s.run with west := s.run.west, east := s.run.east } } from rfl]
  rw [he, ← hw]

/-- A handshake after a change of the run state under copies that are equal puts the new state into both. -/
theorem handshake_of_equal {s : State} (h : s.run.west = s.run.east) :
    handshake s = { s with run := { s.run with west := copyOf s.run, east := copyOf s.run } } := by
  unfold handshake
  rw [if_pos h]

/-- What a change of the run state leaves where no command is BUSY (R330, R334), in a cluster that the Bridle does not own on
its way to SAFE (R22). -/
theorem setRun_of_idle {st : RunState} {s : State} (hc : s.cmd.status ≠ .busy) (h : s.run.west = s.run.east)
    (hk : s.run.safeDue = true → s.run.owner ≠ .bridle) :
    ∃ r : RunCtl, setRun st s = { s with run := r } ∧ r.state = st ∧ r.owner = ownerOf st s.run.owner ∧
      r.epoch = (if ownerOf st s.run.owner = s.run.owner then s.run.epoch else s.run.epoch + 1) ∧
      r.west = copyOf r ∧ r.east = copyOf r ∧ r.held = s.run.held ∧ r.safeCause = s.run.safeCause ∧
      r.safeDue = s.run.safeDue ∧ r.step = s.run.step ∧ r.lc = s.run.lc ∧ r.retained = s.run.retained ∧
      r.entryTa = s.run.entryTa ∧ r.entryTx = s.run.entryTx := by
  have ho : (if s.run.safeDue && s.run.owner == .bridle then .bridle else ownerOf st s.run.owner) =
      ownerOf st s.run.owner := by
    refine if_neg (fun hb => ?_)
    rw [Bool.and_eq_true, beq_iff_eq] at hb
    exact hk hb.1 hb.2
  unfold setRun
  simp only [hc, false_and, if_false, ho]
  rw [handshake_of_equal (by exact h)]
  exact ⟨_, rfl, rfl, rfl, rfl, rfl, rfl, rfl, rfl, rfl, rfl, rfl, rfl, rfl, rfl⟩

/-- What the passing of a lull leaves of the state that a CMD_OP write reads. -/
theorem passLull_control (s : State) : (passLull s).run = s.run ∧ (passLull s).cmd = s.cmd ∧ (passLull s).mould = s.mould ∧
    (passLull s).csr = s.csr := by
  obtain ⟨_, _, _, _, _, _, _, _, e⟩ := timeOnly_passLull s
  rw [e]
  exact ⟨rfl, rfl, rfl, rfl⟩

/-- A command's legality depends on the run state alone (R332). -/
theorem commandLegal_congr {s s' : State} (h : s'.run = s.run) (op : Nat) : commandLegal s' op = commandLegal s op := by
  unfold commandLegal
  rw [h]

/-- The blocks that answer depend on the run state alone (R379). -/
theorem blockOpen_congr {s s' : State} (h : s'.run = s.run) (a : Nat) : blockOpen s' a = blockOpen s a := by
  unfold blockOpen
  rw [h]

/-- The state in which the checks of a CMD_OP write are made (R15, R393). -/
def posted (s : State) : State := dropHeld (passLull s)

theorem posted_control (s : State) : (posted s).run = s.run ∧ (posted s).cmd = s.cmd := by
  obtain ⟨h1, h2, -, -⟩ := passLull_control s
  exact ⟨h1, h2⟩

/-- The state in which an accepted command is performed (R331). -/
def accepted (op : Nat) (s : State) : State :=
  answer .ok 0 { posted s with cmd := { (posted s).cmd with op := BitVec.ofNat 8 op, status := .busy } }

/-- A CMD_OP write that no check refuses is performed (R331). -/
theorem postCommand_of_may {op : Nat} {args absent object : State → Bool} {run : State → State} {s : State}
    (h : Claims.hostMay op s) (ha : Claims.halvesAgree s) (h1 : args (posted s) = true)
    (h2 : absent (posted s) = false) (h3 : object (posted s) = true) :
    postCommand op args absent object run s = run (accepted op s) := by
  obtain ⟨hp, hb, hc, hl⟩ := h
  obtain ⟨hr, hcmd⟩ := posted_control s
  have hh : Claims.halvesAgree (accepted op s) := by
    have hrun : (accepted op s).run = s.run := hr
    unfold Claims.halvesAgree
    rw [hrun]
    exact ha
  unfold postCommand
  simp only [hp, Bool.not_true, Bool.false_eq_true, if_false]
  change (if (!blockOpen (posted s) 0x200) = true ∨ (posted s).cmd.status = .busy ∨ (!commandLegal (posted s) op) = true
    then _ else _) = _
  rw [blockOpen_congr hr, commandLegal_congr hr, hcmd, hb, hl]
  simp only [Bool.not_true, Bool.false_eq_true, hc, or_self, if_false]
  change (if (!args (posted s)) = true then _ else if absent (posted s) = true then _ else
    if (!object (posted s)) = true then _ else run (acceptCommand op (posted s))) = _
  simp only [h1, h2, h3, Bool.not_true, Bool.false_eq_true, if_false]
  exact congrArg run (handshake_of_agree hh)

/-- A CMD_OP write where the block does not answer, while a command is BUSY, or in a state where the command is not legal
(R331, R379). -/
theorem postCommand_of_not_may {op : Nat} {args absent object : State → Bool} {run : State → State} {s : State}
    (hp : portOpen s = true)
    (h : blockOpen s 0x200 = false ∨ s.cmd.status = .busy ∨ commandLegal s op = false) :
    postCommand op args absent object run s = rejectCommand op .errState (posted s) := by
  obtain ⟨hr, hcmd⟩ := posted_control s
  unfold postCommand
  simp only [hp, Bool.not_true, Bool.false_eq_true, if_false]
  refine if_pos ?_
  change (!blockOpen (posted s) 0x200) = true ∨ (posted s).cmd.status = .busy ∨ (!commandLegal (posted s) op) = true
  rw [blockOpen_congr hr, commandLegal_congr hr, hcmd, Bool.not_eq_true', Bool.not_eq_true']
  exact h

end Sys2Proof.Machine
end

