-- ==== Sys2Proof/Laws/Events.lean ====
section
/-! SUPPORT. Laws of the counters and of the event queue. -/

namespace Sys2Proof.Machine

/-- A counter after counting: it saturates at 48 bits (R407). -/
theorem counter_bump_self (a n : Nat) (s : State) (h : 0 < counter s a + n) :
    counter (bump a n s) a = min (2 ^ 48 - 1) (counter s a + n) := by
  refine Sparse.get_set_of_ne 0 _ _ ?_
  simp only [satAdd]
  omega

/-- The other counters of a canonical table stay. -/
theorem counter_bump_ne (a n : Nat) {b : Nat} (s : State) (h : Sparse.wf 0 s.counters = true) (hb : b ≠ a) :
    counter (bump a n s) b = counter s b := Sparse.get_set_ne 0 _ _ h hb

/-- The other counters stay when something is counted. -/
theorem counter_bump_ne_of_pos (a n : Nat) {b : Nat} (s : State) (h : 0 < n) (hb : b ≠ a) :
    counter (bump a n s) b = counter s b := by
  unfold counter bump Sparse.set
  rw [if_neg (by simp only [satAdd]; omega)]
  exact Sparse.get_put_ne 0 _ _ hb

/-- An event placed among others is there with them. -/
theorem mem_insertEvent (e x : Event) (l : List Event) : x ∈ insertEvent e l ↔ x = e ∨ x ∈ l := by
  induction l with
  | nil => simp [insertEvent]
  | cons y l ih =>
    simp only [insertEvent]
    split
    · simp only [List.mem_cons, ih]; tauto
    · simp only [List.mem_cons]

/-- An event placed by its code is there with the others (R350). -/
theorem mem_byCode (e x : Event) (l : List Event) : x ∈ byCode e l ↔ x = e ∨ x ∈ l := by
  simp [byCode, mem_insertEvent]

/-- An event is queued where the queue has room (R361). -/
theorem queued_logEvent (code : BitVec 12) (d : Nat) (s : State) (h : s.evt.queue.length < 64) :
    Claims.queued code (logEvent code d s) := by
  unfold Claims.queued logEvent logAt
  dsimp only
  rw [if_pos h]
  refine ⟨{ code := code, sev := (eventSeverity code).1, cycle := s.cycle.setWidth 48, detail := BitVec.ofNat 48 d }, ?_, rfl⟩
  simp [mem_byCode]

/-- What waits in the queue stays there when another event is logged. -/
theorem queued_logEvent_of_queued {c : BitVec 12} (code : BitVec 12) (d : Nat) {s : State} (h : Claims.queued c s) :
    Claims.queued c (logEvent code d s) := by
  obtain ⟨e, he, hc⟩ := h
  refine ⟨e, ?_, hc⟩
  unfold logEvent logAt
  dsimp only
  split
  · simp [mem_byCode, he]
  · simpa using he

/-- Logging an event in a canonical table of counters changes no counter but EVT_LOST. -/
theorem counter_logEvent (code : BitVec 12) (d : Nat) (s : State) {a : Nat} (ha : a ≠ cntEvtLost) :
    counter (logEvent code d s) a = counter s a := by
  unfold logEvent logAt
  dsimp only
  split
  · rfl
  · exact counter_bump_ne_of_pos _ _ _ (by decide) ha

end Sys2Proof.Machine
end

