-- ==== Sys2Proof/Laws/Issue.lean ====
section
/-! SUPPORT. Laws of the fetch and of the issue of an instruction: what a fetch can change, and what an instruction that
may issue comes to. -/

namespace Sys2Proof.Machine

/-- The state `s` with another Spool, other reservoir requests and counters, and other Spool upsets. -/
def spoolChange (sp : Spool) (rs : ResPort) (cs : Sparse Nat) (u1 u2 : List (BitVec 48)) (s : State) : State :=
  { s with
    spool := sp, res := rs, counters := cs
    upsets := { s.upsets with spoolSingle := u1, spoolDouble := u2 } }

/-- Two states differ in no more than the Spool, the reservoir requests, the counters and the Spool upsets. -/
def SpoolOnly (s s' : State) : Prop := ∃ sp rs cs u1 u2, s' = spoolChange sp rs cs u1 u2 s

theorem spoolOnly_refl (s : State) : SpoolOnly s s := ⟨s.spool, s.res, s.counters, _, _, rfl⟩

theorem spoolOnly_trans {a b c : State} (h : SpoolOnly a b) (k : SpoolOnly b c) : SpoolOnly a c := by
  obtain ⟨_, _, _, _, _, rfl⟩ := h
  obtain ⟨sp, rs, cs, u1, u2, rfl⟩ := k
  exact ⟨sp, rs, cs, u1, u2, rfl⟩

/-- A reservoir request changes the reservoir's queues only. -/
theorem spoolOnly_reservoirRead (b : Bool) (r : ResReq) (s : State) : SpoolOnly s (reservoirRead b r s) := by
  unfold reservoirRead
  split <;> exact ⟨s.spool, _, s.counters, _, _, rfl⟩

theorem spoolOnly_reservoirPump (s : State) : SpoolOnly s (reservoirPump s) := ⟨s.spool, _, s.counters, _, _, rfl⟩

theorem spoolOnly_bump (a n : Nat) (s : State) : SpoolOnly s (bump a n s) := ⟨s.spool, s.res, _, _, _, rfl⟩

/-- A fill changes the Spool and the reservoir's queues only. -/
theorem spoolOnly_spoolFill (l : BitVec 48) (t : Option Thread) (a p : Bool) (s : State) :
    SpoolOnly s (spoolFill l t a p s) := by
  unfold spoolFill
  dsimp only
  split
  · exact ⟨_, s.res, s.counters, _, _, rfl⟩
  · exact spoolOnly_trans ⟨_, s.res, s.counters, _, _, rfl⟩
      (spoolOnly_trans (spoolOnly_reservoirRead true _ _) (spoolOnly_reservoirPump _))

/-- The fetch of a line changes the Spool, the reservoir's queues, a counter and the Spool upsets only. -/
theorem spoolOnly_fetchLine (t : Thread) (l : BitVec 48) (ws : List (BitVec 48)) (s : State) :
    SpoolOnly s (fetchLine t l ws s).1 := by
  unfold fetchLine
  split
  · split
    · exact spoolOnly_trans (spoolOnly_trans ⟨_, s.res, s.counters, _, _, rfl⟩ (spoolOnly_bump _ _ _))
        (spoolOnly_spoolFill _ _ _ _ _)
    · exact ⟨_, s.res, s.counters, _, _, rfl⟩
  · exact spoolOnly_spoolFill _ _ _ _ _

/-- The correction of a fetched word changes its counter and the Spool upsets only. -/
theorem spoolOnly_fetchWord (a : BitVec 48) (s : State) : SpoolOnly s (fetchWord a s) := by
  unfold fetchWord
  split
  · exact spoolOnly_trans ⟨s.spool, s.res, s.counters, _, _, rfl⟩ (spoolOnly_bump _ _ _)
  · exact spoolOnly_refl s

theorem spoolOnly_foldl {α : Type} (f : State → α → State) (h : ∀ s a, SpoolOnly s (f s a)) (l : List α) (s : State) :
    SpoolOnly s (l.foldl f s) := by
  induction l generalizing s with
  | nil => exact spoolOnly_refl s
  | cons a l ih => exact spoolOnly_trans (h s a) (ih (f s a))

/-- A fetch that has its words changes the Spool, the reservoir's queues, counters and the Spool upsets only; one that has
not makes its thread wait as well. -/
theorem spoolOnly_fetch (t : Thread) (n : Nat) (s : State) :
    if (fetch t n s).2 then SpoolOnly s (fetch t n s).1
    else ∃ s', SpoolOnly s s' ∧ (fetch t n s).1 = setWait t .spool s' := by
  have h1 := spoolOnly_fetchLine t (spoolLineOf (getThread t s).pc)
    ((List.range n).map (fun i => (getThread t s).pc + BitVec.ofNat 48 (8 * i))) s
  rcases e1 : fetchLine t (spoolLineOf (getThread t s).pc)
    ((List.range n).map (fun i => (getThread t s).pc + BitVec.ofNat 48 (8 * i))) s with ⟨s1, a⟩
  rw [e1] at h1
  have h2 : SpoolOnly s (if spoolLineOf ((getThread t s).pc + BitVec.ofNat 48 (8 * n - 8)) =
      spoolLineOf (getThread t s).pc then (s1, true)
      else fetchLine t (spoolLineOf ((getThread t s).pc + BitVec.ofNat 48 (8 * n - 8)))
        ((List.range n).map (fun i => (getThread t s).pc + BitVec.ofNat 48 (8 * i))) s1).1 := by
    split
    · exact h1
    · exact spoolOnly_trans h1 (spoolOnly_fetchLine _ _ _ _)
  rcases e2 : (if spoolLineOf ((getThread t s).pc + BitVec.ofNat 48 (8 * n - 8)) = spoolLineOf (getThread t s).pc then (s1, true)
      else fetchLine t (spoolLineOf ((getThread t s).pc + BitVec.ofNat 48 (8 * n - 8)))
        ((List.range n).map (fun i => (getThread t s).pc + BitVec.ofNat 48 (8 * i))) s1) with ⟨s2, b⟩
  rw [e2] at h2
  by_cases hab : (a && b) = true
  · simp only [fetch, e1, e2, hab, if_true]
    exact spoolOnly_trans h2 (spoolOnly_foldl _ (fun s _ => spoolOnly_fetchWord _ s) _ _)
  · simp only [fetch, e1, e2, hab, Bool.false_eq_true, if_false]
    exact ⟨s2, h2, rfl⟩

/-- What an instruction that may issue and has its words leaves of the settled state before its own rules. -/
theorem spoolOnly_fetched {t : Thread} {n : Nat} {s : State} (h : Claims.ready t n s) :
    SpoolOnly (settle t s) (Claims.fetched t n s) := by
  have := spoolOnly_fetch t n (settle t s)
  rwa [if_pos h.2] at this

/-- Threads after a change of the Spool. -/
theorem spoolOnly_getThread {s s' : State} (h : SpoolOnly s s') (t : Thread) : getThread t s' = getThread t s := by
  obtain ⟨_, _, _, _, _, rfl⟩ := h; cases t <;> rfl

/-- Registers after a change of the Spool. -/
theorem spoolOnly_sreg {s s' : State} (h : SpoolOnly s s') (t : Thread) (r : Reg) : sreg t r s' = sreg t r s :=
  sreg_congr t r (by rw [spoolOnly_getThread h])

/-- Instructions in flight after a change of the Spool. -/
theorem spoolOnly_flights {s s' : State} (h : SpoolOnly s s') : s'.flights = s.flights := by
  obtain ⟨_, _, _, _, _, rfl⟩ := h; rfl

/-- The scoreboard after a change of the Spool. -/
theorem spoolOnly_regsHeld {s s' : State} (h : SpoolOnly s s') (t : Thread) (rs : List Reg) :
    regsHeld t rs s' = regsHeld t rs s := by
  simp only [regsHeld, pendingDests, flightsOf, spoolOnly_flights h]

/-- The thread of a fetched instruction: only the cycle from which it issues may have moved. -/
theorem getThread_fetched {t : Thread} {n : Nat} {s : State} (h : Claims.ready t n s) (u : Thread) :
    ∃ k, getThread u (Claims.fetched t n s) = { getThread u s with nextIssue := k } := by
  rw [spoolOnly_getThread (spoolOnly_fetched h)]
  exact timeOnly_getThread (timeOnly_settle t s) u

/-- An instruction that is not reissued sees the registers as they are. -/
theorem sreg_seen {t : Thread} {n : Nat} {s : State} (h : Claims.ready t n s) (hr : (getThread t s).reissuing = false)
    (u : Thread) (r : Reg) : sreg u r (Claims.seen t n s) = sreg u r s := by
  obtain ⟨k, e⟩ := getThread_fetched h t
  unfold Claims.seen
  rw [firstView_of_not_reissuing (by rw [e]; exact hr), spoolOnly_sreg (spoolOnly_fetched h),
    timeOnly_sreg (timeOnly_settle t s)]

/-- What an instruction does that may issue and has its words: its own rules decide on the state that it sees. -/
theorem issue_of_ready {t : Thread} {n : Nat} {f : State → Verdict} {s : State} (h : Claims.ready t n s) :
    issue t n f s = (match f (Claims.seen t n s) with
      | .wait w => setWait t w (Claims.fetched t n s)
      | .fault fc fval => issueFault t fc fval (Claims.fetched t n s)
      | .go s' => advance t n (liveView t (Claims.fetched t n s) s')
      | .jump s' a => jumpTo t a (liveView t (Claims.fetched t n s) s')) := by
  unfold issue
  simp only [h.1, if_true]
  unfold Claims.seen Claims.fetched
  exact if_pos h.2

/-- A thread that may not issue leaves the state as it is. -/
theorem issue_of_not_mayIssue {t : Thread} {n : Nat} {f : State → Verdict} {s : State}
    (h : mayIssue t (settle t s) = false) : issue t n f s = s := by
  unfold issue; simp [h]

/-- A thread without its words waits for the Spool. -/
theorem issue_of_miss {t : Thread} {n : Nat} {f : State → Verdict} {s : State} (h : mayIssue t (settle t s) = true)
    (hm : (fetch t n (settle t s)).2 = false) : issue t n f s = (fetch t n (settle t s)).1 := by
  unfold issue; simp [h, hm]

/-- A scalar instruction whose registers are free: its own rules decide on the state that it sees. -/
theorem scalar_of_ready {t : Thread} {rs : List Reg} {f : State → Verdict} {s : State} (h : Claims.ready t 1 s)
    (hf : Claims.free t rs (Claims.seen t 1 s)) : scalar t rs f s = (match f (Claims.seen t 1 s) with
      | .wait w => setWait t w (Claims.fetched t 1 s)
      | .fault fc fval => issueFault t fc fval (Claims.fetched t 1 s)
      | .go s' => advance t 1 (liveView t (Claims.fetched t 1 s) s')
      | .jump s' a => jumpTo t a (liveView t (Claims.fetched t 1 s) s')) := by
  unfold scalar
  rw [issue_of_ready h]
  have : regsHeld t rs (Claims.seen t 1 s) = false := hf
  simp only [this, Bool.false_eq_true, if_false]

/-- A scalar instruction that writes one register. -/
theorem scalarWrite_of_ready {t : Thread} {rd : Reg} {srcs : List Reg} {v : State → Word64} {s : State}
    (h : Claims.ready t 1 s) (hf : Claims.free t (rd :: srcs) (Claims.seen t 1 s)) :
    Host.Outcome.next (scalarWrite t rd srcs v s) = Claims.writes t rd (v (Claims.seen t 1 s)) s := by
  unfold scalarWrite Claims.writes Claims.goesOn
  rw [scalar_of_ready h hf]

/-- An instruction that enters flight always issues (R66). -/
theorem launch_eq (f : Flight) (start : Flight → State → State) (s : State) :
    launch f start s = .go (Claims.launched f start s) := rfl

/-- Fewer registers are free when more are. -/
theorem free_of_subset {t : Thread} {l m : List Reg} {s : State} (h : Claims.free t l s) (hm : ∀ r ∈ m, r ∈ l) :
    Claims.free t m s := by
  unfold Claims.free regsHeld at *
  rw [List.any_eq_false] at *
  exact fun r hr => h r (hm r hr)

end Sys2Proof.Machine
end

