-- ==== Sys2Proof/Laws/Store.lean ====
section
/-! SUPPORT. Laws of the memories: every operation on a memory keeps its canonical form, and what rows, tags, tile
configurations and SDM read after a write. -/

namespace Sys2Proof.Machine

/-! The canonical form. -/

/-- Reset memories are canonical. -/
theorem memoriesCanonical_reset : Claims.memoriesCanonical State.reset := by
  refine ⟨rfl, rfl, rfl, rfl, rfl, rfl, rfl, rfl, rfl, rfl, rfl⟩

/-- The canonical form is of the memories, tables and counters alone. -/
theorem memoriesCanonical_congr {s s' : State} (h : Claims.memoriesCanonical s) (h1 : s'.sdm = s.sdm)
    (h2 : s'.ls = s.ls) (h3 : s'.counters = s.counters) (h4 : s'.tiles = s.tiles)
    (h5 : s'.sess.entries = s.sess.entries) (h6 : s'.mbx.data = s.mbx.data) : Claims.memoriesCanonical s' := by
  unfold Claims.memoriesCanonical at *
  rw [h1, h2, h3, h4, h5, h6]
  exact h

/-- Counting keeps the canonical form. -/
theorem memoriesCanonical_bump (a n : Nat) {s : State} (h : Claims.memoriesCanonical s) :
    Claims.memoriesCanonical (bump a n s) := by
  obtain ⟨h1, h2, h3, h4, h5, h6, h7⟩ := h
  exact ⟨h1, h2, h3, h4, h5, Sparse.wf_set 0 _ _ _ h6, h7⟩

theorem memoriesCanonical_sdmWrite (a : Nat) (bs : Bytes) {s : State} (h : Claims.memoriesCanonical s) :
    Claims.memoriesCanonical (sdmWrite a bs s) := ⟨Mem.wf_writeBytes _ _ _ h.1, h.2⟩

theorem memoriesCanonical_writeRow (p : Nat) (bs : Bytes) {s : State} (h : Claims.memoriesCanonical s) :
    Claims.memoriesCanonical (writeRow p bs s) := ⟨h.1, Mem.wf_writeBytes _ _ _ h.2.1, h.2.2⟩

theorem memoriesCanonical_setTag (p : Nat) (g : Tag) {s : State} (h : Claims.memoriesCanonical s) :
    Claims.memoriesCanonical (setTag p g s) := ⟨h.1, h.2.1, Sparse.wf_set _ _ _ _ h.2.2.1, h.2.2.2⟩

theorem memoriesCanonical_setTileCfg (n : Nat) (c : TileCfg) {s : State} (h : Claims.memoriesCanonical s) :
    Claims.memoriesCanonical (setTileCfg n c s) := by
  obtain ⟨h1, h2, h3, h4, h5, h6, h7, h8, h9, h10⟩ := h
  exact ⟨h1, h2, h3, h4, h5, h6, h7, h8, Sparse.wf_set _ _ _ _ h9, h10⟩

theorem memoriesCanonical_setSess (i : Nat) (e : Session) {s : State} (h : Claims.memoriesCanonical s) :
    Claims.memoriesCanonical (setSess i e s) := by
  obtain ⟨h1, h2, h3, h4, h5, h6, h7, h8, h9, h10, h11⟩ := h
  exact ⟨h1, h2, h3, h4, h5, h6, h7, h8, h9, Sparse.wf_set _ _ _ _ h10, h11⟩

theorem memoriesCanonical_setMbxData (k : Nat) (w : Word32) {s : State} (h : Claims.memoriesCanonical s) :
    Claims.memoriesCanonical (setMbxData k w s) := by
  obtain ⟨h1, h2, h3, h4, h5, h6, h7, h8, h9, h10, h11⟩ := h
  exact ⟨h1, h2, h3, h4, h5, h6, h7, h8, h9, h10, Sparse.wf_set _ _ _ _ h11⟩

/-- Single bytes written in turn keep the canonical form. -/
theorem wf_foldl_write (l : List (Nat × Byte)) (b : Nat) (m : Mem) (h : Mem.wf m = true) :
    Mem.wf (l.foldl (fun (m : Mem) (x : Nat × Byte) => Mem.write m (b + x.1) x.2) m) = true := by
  induction l generalizing m with
  | nil => exact h
  | cons x l ih => exact ih _ (Mem.wf_write m _ _ h)

theorem memoriesCanonical_writeTile (w : TileWrite) {s : State} (h : Claims.memoriesCanonical s) :
    Claims.memoriesCanonical (writeTile w s) := by
  obtain ⟨h1, h2, h3, h4, h5, h6, h7, h8, h9, h10⟩ := h
  refine ⟨h1, h2, h3, h4, h5, h6, ?_, ?_, Sparse.wf_set _ _ _ _ h9, h10⟩
  · refine Mem.wf_writeBytes _ _ _ ?_
    split
    · exact Mem.wf_writeBytes _ _ _ h7
    · exact h7
  · refine wf_foldl_write _ _ _ ?_
    split
    · exact Mem.wf_writeBytes _ _ _ h8
    · exact h8

/-- A fold of operations that keep the canonical form keeps it. -/
theorem memoriesCanonical_foldl {α : Type} (f : State → α → State)
    (hf : ∀ s a, Claims.memoriesCanonical s → Claims.memoriesCanonical (f s a)) (l : List α) {s : State}
    (h : Claims.memoriesCanonical s) : Claims.memoriesCanonical (l.foldl f s) := by
  induction l generalizing s with
  | nil => exact h
  | cons a l ih => exact ih (hf s a h)

/-- Tile rows written in turn. -/
theorem memoriesCanonical_writeTiles (ws : List TileWrite) {s : State} (h : Claims.memoriesCanonical s) :
    Claims.memoriesCanonical (writeTiles ws s) :=
  memoriesCanonical_foldl _ (fun _ w k => memoriesCanonical_writeTile w k) ws h

/-! Tags. -/

/-- A tag reads what it was set to. -/
theorem getTag_setTag_self (p : Nat) (g : Tag) {s : State} (h : Claims.memoriesCanonical s) :
    getTag (setTag p g s) p = g := Sparse.get_set_self _ _ _ _ h.2.2.1

/-- The other tags stay. -/
theorem getTag_setTag_ne {p q : Nat} (g : Tag) {s : State} (h : Claims.memoriesCanonical s) (hq : q ≠ p) :
    getTag (setTag p g s) q = getTag s q := Sparse.get_set_ne _ _ _ h.2.2.1 hq

/-- A claim reads back from any state. -/
theorem getTag_setTag_claim (p : Nat) {g : Tag} (s : State) (hg : g ≠ .empty) : getTag (setTag p g s) p = g :=
  Sparse.get_set_of_ne _ _ _ hg

/-- A repaired tag copy changes a counter and the list of upsets only. -/
theorem repairTag_eq (p : Nat) (s : State) :
    ∃ cs us, repairTag p s = { s with counters := cs, upsets := { s.upsets with tags := us } } := by
  unfold repairTag
  split
  · exact ⟨_, _, rfl⟩
  · exact ⟨s.counters, s.upsets.tags, rfl⟩

/-- What a tag test can come to (R107): it passes with a claim or without one, or it fails; beside the tag of its row it
changes a counter and the list of upsets only. -/
theorem tagTest_cases (x : TagTest) (s : State) :
    ∃ cs us, (tagTest x s).2 = { s with counters := cs, upsets := { s.upsets with tags := us } } ∨
      ∃ g, (g = .wclaim ∨ g = .rclaim) ∧
        (tagTest x s).2 = setTag x.phys g { s with counters := cs, upsets := { s.upsets with tags := us } } := by
  unfold tagTest
  split
  · exact ⟨s.counters, s.upsets.tags, .inl rfl⟩
  · obtain ⟨cs, us, e⟩ := repairTag_eq x.phys s
    refine ⟨cs, us, ?_⟩
    dsimp only
    rw [e]
    split
    · exact .inr ⟨.wclaim, .inl rfl, rfl⟩
    · exact .inl rfl
    · exact .inl rfl
    · exact .inr ⟨.rclaim, .inr rfl, rfl⟩
    · exact .inl rfl

/-- The repair of a tag copy keeps the canonical form. -/
theorem memoriesCanonical_repairTag (p : Nat) {s : State} (h : Claims.memoriesCanonical s) :
    Claims.memoriesCanonical (repairTag p s) := by
  unfold repairTag
  split
  · exact memoriesCanonical_bump _ _ (memoriesCanonical_congr h rfl rfl rfl rfl rfl rfl)
  · exact h

/-- Tag tests keep the canonical form. -/
theorem memoriesCanonical_tagTest (x : TagTest) {s : State} (h : Claims.memoriesCanonical s) :
    Claims.memoriesCanonical (tagTest x s).2 := by
  have hr := memoriesCanonical_repairTag x.phys h
  unfold tagTest
  split
  · exact h
  · dsimp only
    split
    · exact memoriesCanonical_setTag _ _ hr
    · exact hr
    · exact hr
    · exact memoriesCanonical_setTag _ _ hr
    · exact hr

theorem memoriesCanonical_runTests (xs : List TagTest) {s : State} (h : Claims.memoriesCanonical s) :
    Claims.memoriesCanonical (runTests xs s).2 := by
  induction xs generalizing s with
  | nil => exact h
  | cons x xs ih =>
    have := ih (memoriesCanonical_tagTest x h)
    simpa [runTests] using this

/-! The tables with three copies (R347). -/

/-- The read of a table's entry repairs its copies: it changes a counter and the list of upsets only. -/
theorem readCfg_eq (n : Nat) (s : State) :
    ∃ cs us, readCfg n s = { s with counters := cs, upsets := { s.upsets with cfg := us } } := by
  unfold readCfg
  split
  · exact ⟨_, _, rfl⟩
  · exact ⟨s.counters, s.upsets.cfg, rfl⟩

/-- No copy of an entry that has been read differs. -/
theorem readCfg_repaired (n : Nat) (s : State) : n ∉ (readCfg n s).upsets.cfg := by
  unfold readCfg
  split
  · simp
  · next h => simpa using h

theorem memoriesCanonical_readCfg (n : Nat) {s : State} (h : Claims.memoriesCanonical s) :
    Claims.memoriesCanonical (readCfg n s) := by
  unfold readCfg
  split
  · exact memoriesCanonical_bump _ _ (memoriesCanonical_congr h rfl rfl rfl rfl rfl rfl)
  · exact h

/-! Rows, tiles and SDM. -/

/-- Exactly `n` bytes. -/
theorem fitBytes_length (n : Nat) (bs : Bytes) : (fitBytes n bs).length = n := by
  simp only [fitBytes, List.length_take, List.length_append, List.length_replicate]
  omega

/-- A row reads what was written. -/
theorem readRow_writeRow_self (p : Nat) (bs : Bytes) {s : State} (h : Claims.memoriesCanonical s) :
    readRow (writeRow p bs s) p = fitBytes 512 bs := by
  have := Mem.readBytes_writeBytes s.ls.rows (512 * p) (fitBytes 512 bs) h.2.1
  rwa [fitBytes_length] at this

/-- Reads of bytes that read the same are equal. -/
theorem readBytes_congr {m m' : Mem} {a n : Nat} (h : ∀ c, a ≤ c → c < a + n → Mem.read m' c = Mem.read m c) :
    Mem.readBytes m' a n = Mem.readBytes m a n := by
  induction n generalizing a with
  | zero => rfl
  | succ n ih =>
    simp only [Mem.readBytes]
    rw [h a (by omega) (by omega), ih (fun c h1 h2 => h c (by omega) (by omega))]

/-- The other rows stay. -/
theorem readRow_writeRow_ne {p q : Nat} (bs : Bytes) {s : State} (h : Claims.memoriesCanonical s) (hq : q ≠ p) :
    readRow (writeRow p bs s) q = readRow s q := by
  unfold readRow
  refine readBytes_congr (fun c h1 h2 => ?_)
  refine Mem.read_writeBytes_ne _ _ _ h.2.1 ?_
  rw [fitBytes_length]
  rcases Nat.lt_or_gt_of_ne hq with hlt | hgt
  · left; omega
  · right; omega

/-- A tile's configuration reads what was written. -/
theorem tileCfg_setTileCfg_self (n : Nat) (c : TileCfg) {s : State} (h : Claims.memoriesCanonical s) :
    tileCfg (setTileCfg n c s) n = c := Sparse.get_set_self _ _ _ _ h.2.2.2.2.2.2.2.2.1

/-- The configurations of the other tiles stay. -/
theorem tileCfg_setTileCfg_ne {n k : Nat} (c : TileCfg) {s : State} (h : Claims.memoriesCanonical s) (hk : k ≠ n) :
    tileCfg (setTileCfg n c s) k = tileCfg s k := Sparse.get_set_ne _ _ _ h.2.2.2.2.2.2.2.2.1 hk

/-- A session entry reads what was written. -/
theorem getSess_setSess_self (i : Nat) (e : Session) {s : State} (h : Claims.memoriesCanonical s) :
    getSess (setSess i e s) i = e := Sparse.get_set_self _ _ _ _ h.2.2.2.2.2.2.2.2.2.1

/-- The other session entries stay. -/
theorem getSess_setSess_ne {i j : Nat} (e : Session) {s : State} (h : Claims.memoriesCanonical s) (hj : j ≠ i) :
    getSess (setSess i e s) j = getSess s j := Sparse.get_set_ne _ _ _ h.2.2.2.2.2.2.2.2.2.1 hj

/-- Written bytes of SDM read back one by one. -/
theorem read_sdmWrite (a : Nat) (bs : Bytes) (k : Nat) {s : State} (h : Claims.memoriesCanonical s)
    (hk : k < bs.length) : Mem.read (sdmWrite a bs s).sdm (a + k) = bs[k] := Mem.read_writeBytes _ _ _ _ h.1 hk

/-- The other bytes of SDM stay. -/
theorem read_sdmWrite_ne (a : Nat) (bs : Bytes) {c : Nat} {s : State} (h : Claims.memoriesCanonical s)
    (hc : c < a ∨ a + bs.length ≤ c) : Mem.read (sdmWrite a bs s).sdm c = Mem.read s.sdm c :=
  Mem.read_writeBytes_ne _ _ _ h.1 hc

/-- The little-endian bytes of a number. -/
theorem leBytes_length (n v : Nat) : (leBytes n v).length = n := by
  induction n generalizing v with
  | zero => rfl
  | succ n ih => simp [leBytes, ih]

/-- Byte `k` of a number (R9). -/
theorem leBytes_get (n v k : Nat) (h : k < (leBytes n v).length) : ((leBytes n v)[k]).toNat = v / 2 ^ (8 * k) % 256 := by
  induction n generalizing v k with
  | zero => simp [leBytes] at h
  | succ n ih =>
    cases k with
    | zero => simp [leBytes]
    | succ k =>
      have := ih (v / 256) k (by simpa [leBytes] using h)
      simp only [leBytes, List.getElem_cons_succ, this, Nat.div_div_eq_div_mul]
      rw [show 8 * (k + 1) = 8 + 8 * k by ring, Nat.pow_add]

end Sys2Proof.Machine
end

