-- ==== Sys2Proof/WellFormed.lean ====
section
/-! DEFINITION. Well-formed commands: byte strings and lists that a row carries have the lengths that the
rules give them. The values of instruction fields are met by the meanings, which fault on illegal ones. -/

namespace Sys2Proof

/-- A block from a port carries a row of 512 bytes exactly when it is a data block (R286). -/
def Block.wellFormed (b : Block) : Bool := b.row.length == (if b.data then 512 else 0)

/-- What the physical steps of a start found has an offset for each of the twelve Cones (R324). -/
def BisqueOutcome.wellFormed (o : BisqueOutcome) : Bool := o.offsets.length == 12

/-- The quick check of a refire measures each of the twelve Cones (R324, R343). -/
def RefireOutcome.wellFormed (o : RefireOutcome) : Bool := o.measured.length == 12 && o.offsets.length == 12

/-- A Bridle tick samples four diodes, and both rails in the same cycles of brg_clk (R355, R387). -/
def TickSample.wellFormed (x : TickSample) : Bool :=
  x.diodes.length == 4 && !x.core.isEmpty && x.core.length == x.sram.length

/-- Lengths of what a command carries. -/
def Instr.wellFormed : Instr → Bool
  | .spoolFillArrival _ _ d => d.length == 128
  | .putReq _ b | .takeReq _ b | .peekReq _ b | .fetchReq _ b | .dataRsp _ b | .statusRsp _ b => b.wellFormed
  | .reservoirReadResponse _ _ d => d.length == 512 || d.length == 128
  | .refireComplete o => o.wellFormed
  | .bisqueStart o => o.wellFormed
  | .bridleTick x => x.wellFormed
  | .coneCalibration os => os.length == 12
  | .drogueLevelRise cs | .drogueLevelFall cs => cs.length == 12
  | _ => true

end Sys2Proof
end

