-- ==== Sys2Proof/Tests/Slice0.lean ====
section
/-! SUPPORT. Tests: the checks of well-formedness, words decoded by hand, small steps, and for every statement with
hypotheses a state and operands that meet them. -/

open Sys2Proof Sys2Proof.Machine Sys2Proof.Claims

namespace Sys2Proof.Tests

set_option Elab.async false

/-- A handle of 1,000 rows from row `b` of stack 0, with all rights. -/
def demoHandle (tagged : Bool) (b : BitVec 12) : Handle :=
  { Handle.reset with
    state := .bound, tagged := tagged, rd := true, wr := true, glz := true
    cur := { base := b, count := 1000, mask := 1 } }

/-- A legal table: 1,200 to 1,500 MHz at one voltage, T25 12 and T50 10 (R315). -/
def demoSteps : List Word32 := (List.range 16).map (fun k => BitVec.ofNat 32 (1200 + 20 * k + 2 ^ 12 * 100 + 2 ^ 20 * 12 + 2 ^ 26 * 10))

/-- The reset structure with every engine, every port and one window enabled, with that table. -/
def demoCfg : MouldCfg :=
  { State.reset.mould.cfg with
    engines := 0x1F, ports := 0xF, winUsed := 1, fsteps := demoSteps }

/-- A run state with both copies. -/
def demoRun (st : RunState) (o : Owner) : RunCtl :=
  let r := { State.reset.run with porN := true, rstN := true, step := 0, state := st, owner := o }
  { r with west := copyOf r, east := copyOf r }

/-- A small running cluster: the line at address 0 in the Spool, an UNTAGGED handle 1, a TAGGED handle 2. -/
def demo : State :=
  { State.reset with
    run := demoRun .run .tether
    mould := { State.reset.mould with cfg := demoCfg }
    spool := { State.reset.spool with lines := [{ tag := 0, pinned := false, data := [] }] }
    handles := [(1, demoHandle false 0), (2, demoHandle true 1024)]
    clk := { State.reset.clk with fsteps := demoCfg.fsteps } }

/-- The cluster in another run state. -/
def demoIn (st : RunState) (o : Owner) : State := { demo with run := demoRun st o }

/-! Well-formed commands: for each check a term that it accepts and one that it refuses. -/

/-- A block with `n` bytes. -/
def testBlock (typ : BitVec 4) (data : Bool) (n : Nat) : Block :=
  { typ := typ, data := data, seq := 0, dst := 0, src := 1, win := 0, wr := 0, key := 0, txn := 0, status := 0
    row := List.replicate n 0 }

/-- An image that the ROM reads, with these SVN and SEQ. -/
def imageOf (svn : BitVec 16) (seq : BitVec 32) : ImageRead :=
  { readsOk := true, key := 0, sig := 0, seq := seq, svn := svn, signed := [] }

/-- What the physical steps of a start found, with `n` Cone offsets. -/
def startOf (code : BitVec 8) (n : Nat) : BisqueOutcome :=
  { image0 := imageOf 0 1, image1 := imageOf 0 2, runs0 := true, runs1 := true, startCode := code, badRows := [5, 4096, 5]
    badCols := 0, trims := 0, offsets := List.replicate n 0 }

/-- What the steps of a refire found, with `n` Cones measured. -/
def refireOf (fail : BitVec 4) (n : Nat) : RefireOutcome :=
  { failStep := fail, measured := List.replicate n 3, offsets := List.replicate 12 2, trims := 1, linkUp := 0xF }

/-- A tick's samples with `n` diodes. -/
def samplesOf (n : Nat) (c : BitVec 16) : TickSample := { diodes := List.replicate n c, core := [700, 702], sram := [800, 800] }

theorem test_wf_block : (Instr.putReq 0 (testBlock 1 true 512)).wellFormed = true ∧
    (Instr.putReq 0 (testBlock 1 true 511)).wellFormed = false ∧
    (Instr.takeReq 0 (testBlock 2 false 0)).wellFormed = true ∧
    (Instr.takeReq 0 (testBlock 2 false 512)).wellFormed = false := by decide +kernel

theorem test_wf_spool_fill : (Instr.spoolFillArrival 0 false (List.replicate 128 0)).wellFormed = true ∧
    (Instr.spoolFillArrival 0 false (List.replicate 127 0)).wellFormed = false := by decide +kernel

theorem test_wf_reservoir : (Instr.reservoirReadResponse 0 false (List.replicate 512 0)).wellFormed = true ∧
    (Instr.reservoirReadResponse 0 false (List.replicate 256 0)).wellFormed = false := by decide +kernel

theorem test_wf_start : (Instr.bisqueStart (startOf 0 12)).wellFormed = true ∧
    (Instr.bisqueStart (startOf 0 11)).wellFormed = false := by decide +kernel

theorem test_wf_tick : (Instr.bridleTick (samplesOf 4 400)).wellFormed = true ∧
    (Instr.bridleTick (samplesOf 3 400)).wellFormed = false ∧
    (Instr.bridleTick { samplesOf 4 400 with sram := [800] }).wellFormed = false := by decide +kernel

theorem test_wf_cones : (Instr.coneCalibration (List.replicate 12 0)).wellFormed = true ∧
    (Instr.coneCalibration (List.replicate 13 0)).wellFormed = false ∧
    (Instr.drogueLevelRise (List.replicate 11 (some 0))).wellFormed = false ∧
    (Instr.drogueLevelFall (List.replicate 12 none)).wellFormed = true := by decide +kernel

theorem test_wf_refire : (Instr.refireComplete (refireOf 0 12)).wellFormed = true ∧
    (Instr.refireComplete (refireOf 0 11)).wellFormed = false := by decide +kernel

/-! Instruction words, written out from Tables 21.1 to 21.9. -/

/-- ADD s3, s1, s2: OPC 0x01, rd 3 at bit 8, rs1 1 at bit 13, rs2 2 at bit 18. -/
theorem test_decode_add :
    decodeWords .ta (BitVec.ofNat 64 (0x01 + 3 * 2 ^ 8 + 1 * 2 ^ 13 + 2 * 2 ^ 18)) 0 0 = some (.add .ta 3 1 2) := by
  decide +kernel

/-- LI s7, -2: OPC 0x10 and the immediate in the upper half; a set bit of rs1 is refused. -/
theorem test_decode_li :
    decodeWords .tx (BitVec.ofNat 64 (0x10 + 7 * 2 ^ 8 + 0xFFFFFFFE * 2 ^ 32)) 0 0 = some (.li .tx 7 0xFFFFFFFE) ∧
    decodeWords .tx (BitVec.ofNat 64 (0x10 + 7 * 2 ^ 8 + 1 * 2 ^ 13 + 0xFFFFFFFE * 2 ^ 32)) 0 0 = none := by
  decide +kernel

/-- BIND H5, both threads: OPC 0x78, H at bit 23, TMASK at bit 31; an opcode of the other thread is refused. -/
theorem test_decode_bind :
    decodeWords .ta (BitVec.ofNat 64 (0x78 + 5 * 2 ^ 23 + 3 * 2 ^ 31)) 0 0 = some (.bind .ta 5 3) := by
  decide +kernel

/-- The worked example of Table 21.9. -/
theorem test_decode_gemv :
    decodeWords .tx 0x008F805E0000A498 0x00062001010000FE 0 = some (.mvGemv .tx
      { rs := 4, mvd := 5, va := 0, vb := 0x78, d := 2, d2 := 0x78, h := 17, port := 0, port2 := 1, clear := false
        fmtw := 3
        conv := { dfmt := 2, rnd := 0, ftz := false, ieee := false, amx := 1, gacc := false, naninc := false, scl := 0 } }) := by
  decide +kernel

/-- Opcodes that no table assigns, and a landing on an extension word, are refused (R411). -/
theorem test_decode_reserved :
    decodeWords .ta 0x1F 0 0 = none ∧ decodeWords .ta 0xFE 0 0 = none ∧ decodeWords .tx 0xC5 0xFE 0xFE = none := by
  decide +kernel

/-! Witnesses. Hypotheses that many statements share. -/

theorem witness_ready : (ready .ta 1 demo ∧ ready .ta 2 demo) ∧ ready .tx 1 demo ∧ ready .tx 2 demo ∧ ready .tx 3 demo := by
  unfold ready; decide +kernel

theorem witness_free : Claims.free .ta [1, 2, 3, 4, 5, 6] (seen .ta 1 demo) ∧
    Claims.free .tx [1, 2, 3, 4, 5, 31] (seen .tx 1 demo) := by
  unfold Claims.free; decide +kernel

theorem witness_invariants : memoriesCanonical demo ∧ threadsWellFormed demo ∧ halvesAgree demo := by
  unfold memoriesCanonical threadsWellFormed threadWellFormed halvesAgree; decide +kernel

theorem witness_RegisterZeroIsHardWired : threadsWellFormed demo := witness_invariants.2.1

theorem witness_IntegerResults : ready .tx 1 demo ∧ Claims.free .tx [31, 5, 1] (seen .tx 1 demo) := by
  unfold ready Claims.free; decide +kernel

/-- An issue that a lull holds for two cycles, after which it is ready. -/
theorem witness_ready_in_a_lull :
    let s := { demo with clk := { demo.clk with lull := 2 } }
    ready .ta 1 s ∧ mayIssue .ta s = false ∧ (seen .ta 1 s).cycle = s.cycle + 2 := by
  unfold ready; decide +kernel

/-- A tick with the port open, one in a lull, and one with the port closed. -/
theorem witness_EmptyQueueTicks : demo.pending = [] ∧ portOpen demo = true ∧
    ({ demo with clk := { demo.clk with lull := 2 } } : State).clk.lull ≠ 0 ∧
    State.reset.pending = [] ∧ portOpen State.reset = false := by decide +kernel

theorem witness_EveryStepKeepsMemoriesCanonical : memoriesCanonical demo ∧ step demo = .next (tick demo) := ⟨witness_invariants.1, rfl⟩

theorem witness_EveryStepKeepsThreadsWellFormed : threadsWellFormed demo ∧ step demo = .next (tick demo) := ⟨witness_invariants.2.1, rfl⟩

theorem witness_EveryStepKeepsHalvesAgreed : halvesAgree demo ∧ step demo = .next (tick demo) := ⟨witness_invariants.2.2, rfl⟩

theorem witness_EveryStepKeepsTheBuild : step demo = .next (tick demo) := rfl

/-- The state that an outcome goes on from. -/
def nextOf : Out → Option State
  | .next s => some s
  | _ => none

/-- The cluster with some registers of a thread. -/
def withRegs (t : Thread) (rs : List (Nat × Word64)) (s : State) : State :=
  modThread t (fun h => { h with regs := rs }) s

/-- Sums wrap at 2^64, a zero divisor gives all ones and the dividend, LIH keeps the lower half (R62). -/
theorem test_integers :
    let s := withRegs .ta [(1, 0xFFFFFFFFFFFFFFFF), (2, 1)] demo
    nextOf (exec (.add .ta 3 1 2) s) = nextOf (writes .ta 3 0 s) ∧ nextOf (exec (.divu .ta 3 1 0) s) = nextOf (writes .ta 3 0xFFFFFFFFFFFFFFFF s) ∧
    nextOf (exec (.rems .ta 3 2 0) s) = nextOf (writes .ta 3 1 s) ∧ nextOf (exec (.lih .ta 1 5) s) = nextOf (writes .ta 1 0x5FFFFFFFF s) := by
  decide +kernel

/-- Both offsets at their bounds; an address that JR takes, one that is no word's and one of more than 48 bits. -/
def jumpRegs : State := withRegs .ta [(1, 0xFFFFFFFFFFF8), (2, 0x1000000000000), (3, 4)] demo

theorem witness_BranchesGoToTheirTargets :
    (-(2 ^ 20) ≤ (0xFFF00000#32).toInt ∧ (0x00100000#32).toInt ≤ 2 ^ 20) ∧
    ready .ta 1 jumpRegs ∧ Claims.free .ta [4, 1, 2] (seen .ta 1 jumpRegs) ∧
    ((sreg .ta 1 (seen .ta 1 jumpRegs)).toNat % 8 = 0 ∧ (sreg .ta 1 (seen .ta 1 jumpRegs)).toNat < 2 ^ 48) := by
  unfold ready Claims.free; decide +kernel

theorem witness_BadTargetsFault :
    (2 ^ 20 < (0x00100001#32).toInt ∧ (0xFFEFFFFF#32).toInt < -(2 ^ 20)) ∧
    ready .ta 1 jumpRegs ∧ Claims.free .ta [2] (seen .ta 1 jumpRegs) ∧ Claims.free .ta [3] (seen .ta 1 jumpRegs) ∧
    ((sreg .ta 2 (seen .ta 1 jumpRegs)).toNat % 8 = 0 ∧ 2 ^ 48 ≤ (sreg .ta 2 (seen .ta 1 jumpRegs)).toNat) ∧
    (sreg .ta 3 (seen .ta 1 jumpRegs)).toNat % 8 ≠ 0 := by
  unfold ready Claims.free; decide +kernel

theorem test_jr_and_bltu :
    let s := withRegs .tx [(1, 0x80), (2, 0xFFFFFFFFFFFFFFFF)] demo
    nextOf (exec (.jr .tx 1) s) = some (jumpTo .tx 0x80 (fetched .tx 1 s)) ∧
    nextOf (exec (.bltu .tx 1 2 4) s) = some (jumpTo .tx 0x20 (fetched .tx 1 s)) ∧
    nextOf (exec (.blt .tx 1 2 4) s) = some (advance .tx 1 (fetched .tx 1 s)) := by decide +kernel

theorem witness_BinarySixtyFourResults : ready .ta 1 demo ∧ Claims.free .ta [1, 2, 3, 4] (seen .ta 1 demo) ∧
    rndOfCode 0 = some .rne ∧ rndOfCode 4 = some .sr ∧ srBusy .ta (seen .ta 1 demo) = false ∧
    (let s := withRegs .ta [(1, 0x7FF8000000000000)] demo
     ready .ta 1 s ∧ Claims.free .ta [3, 1, 2] (seen .ta 1 s) ∧ (fpReg .ta 1 (seen .ta 1 s)).isNan = true) := by
  unfold ready Claims.free; decide +kernel

/-- 1 + 1 is 2, and 2^-1074 / 2 rounds to +0 under RNE (R38, R62). -/
theorem test_binary64 :
    let s := withRegs .ta [(1, 0x3FF0000000000000), (2, 1), (3, 0x4000000000000000)] demo
    nextOf (exec (.fadd .ta 4 1 1 0) s) = nextOf (writes .ta 4 0x4000000000000000 s) ∧ nextOf (exec (.fdiv .ta 4 2 3 0) s) = nextOf (writes .ta 4 0 s) := by
  decide +kernel

/-- Offsets at their bounds, the last word of SDM, and one of its words with an error in two bits. -/
theorem witness_LoadsReadScalarMemory :
    (-(2 ^ 15) ≤ (0xFFFF8000#32).toInt ∧ (0x00007FFF#32).toInt < 2 ^ 15) ∧
    (let s := withRegs .ta [(1, 0x3FFF8)] demo
     let v := seen .ta 1 s
     ready .ta 1 s ∧ Claims.free .ta [2, 1] v ∧ (sreg .ta 1 v + (0#32).signExtend 64).toNat = 0x3FFF8 ∧
     ∀ n ∈ [1, 2, 4, 8], 0x3FFF8 % n = 0 ∧ sdmBad v 0x3FFF8 n = none) ∧
    (let s := withRegs .ta [(1, 0x3FFF8)] { demo with upsets := { demo.upsets with sdmDouble := [0x7FFF] } }
     ready .ta 1 s ∧ Claims.free .ta [2, 1] (seen .ta 1 s) ∧ (sdmBad (seen .ta 1 s) 0x3FFF8 8).isSome = true) := by
  unfold ready Claims.free; decide +kernel

/-- The end of SDM, and addresses that are misaligned for each width. -/
theorem witness_BadScalarAddressFaults :
    let s := withRegs .ta [(1, 0x40000), (2, 1), (3, 2), (4, 4)] demo
    let a (r : Reg) := sreg .ta r (seen .ta 1 s) + (0#32).signExtend 64
    ready .ta 1 s ∧ Claims.free .ta [1, 2] (seen .ta 1 s) ∧ 0x40000 ≤ (a 1).toNat ∧ (a 2).toNat % 2 ≠ 0 ∧
    (a 3).toNat % 4 ≠ 0 ∧ (a 4).toNat % 8 ≠ 0 := by
  unfold ready Claims.free; decide +kernel

/-- A load extends the sign of a halfword, a store to the last byte of SDM leaves the others (R57). -/
theorem test_loads_and_stores :
    let s := { withRegs .ta [(1, 0x3FFFE)] demo with sdm := [(0x3FFFF, 0x80)] }
    nextOf (exec (.ldH .ta 2 1 0) s) = nextOf (writes .ta 2 0xFFFFFFFFFFFF8000 s) ∧
    nextOf (exec (.stB .ta 1 1 1) s) = some (advance .ta 1 { fetched .ta 1 s with sdm := [(0x3FFFF, 0xFE)] }) := by decide +kernel

theorem witness_StoresWriteScalarMemory :
    let s := withRegs .ta [(1, 0x3FFF8)] demo
    let v := seen .ta 1 s
    ready .ta 1 s ∧ memoriesCanonical s ∧ Claims.free .ta [1, 2] v ∧
    (∀ p ∈ [(7, 1), (6, 2), (4, 4), (0, 8)], (sreg .ta 1 v + (BitVec.ofNat 32 p.1).signExtend 64).toNat % p.2 = 0 ∧
      (sreg .ta 1 v + (BitVec.ofNat 32 p.1).signExtend 64).toNat < 0x40000) ∧ (getThread .ta s).reissuing = false := by
  unfold ready Claims.free memoriesCanonical; decide +kernel

/-- The operands of the parameter and status instructions at their bounds. -/
theorem witness_ParametersAndBudget : (63#32).toNat < 64 ∧ 64 ≤ (64#32).toNat ∧ threadsWellFormed demo ∧ ready .tx 1 demo ∧
    Claims.free .tx [1] (seen .tx 1 demo) :=
  ⟨by decide, by decide, witness_invariants.2.1, witness_ready.2.1, by unfold Claims.free; decide +kernel⟩

/-- A counter and a register at their bounds, and an instruction in flight that names another register. -/
theorem witness_NumericStatusResults : (2#32).toNat < 3 ∧ 3 ≤ (3#32).toNat ∧ (7#32).toNat < 8 ∧ 8 ≤ (8#32).toNat ∧
    ready .tx 1 demo ∧ Claims.free .tx [1] (seen .tx 1 demo) ∧ srBusy .tx (seen .tx 1 demo) = false ∧
    (flightsOf .tx (seen .tx 1 demo)).any (fun f => f.tensor) = false ∧ flightsOf .tx (seen .tx 1 demo) = [] := by
  unfold ready Claims.free; decide +kernel

/-- The cluster with a token queue. -/
def withTokens (k : Nat) (l : List KEntry) (s : State) : State :=
  { s with queues := { s.queues with k := [(k, l)] } }

/-- A token that stands in its queue. -/
def token (v : Word64) : KEntry := { prod := none, val := some v }

/-- Queue 0 is TA's with room for one token, queue 3 is TX's with two, and operand queue 7 is enabled. -/
theorem witness_TokensAndDepths :
    (let s := withTokens 0 (List.replicate 31 (token 5)) demo
     ready .ta 1 s ∧ Claims.free .ta [1] (seen .ta 1 s) ∧ tokenProducer s 0 = .ta ∧ (tokenEntries s 0).length < 32) ∧
    (let s := withTokens 3 [token 5, token 6] demo
     ready .ta 1 s ∧ Claims.free .ta [1] (seen .ta 1 s) ∧
     tokenEntries s 3 = { prod := none, val := some 5 } :: [token 6] ∧ tokenProducer s 3 ≠ .ta) ∧
    queueDepth demo 7 ≠ 0 ∧ (8 ≤ (11#32).toNat ∧ (11#32).toNat < 12) := by
  unfold ready Claims.free; decide +kernel

/-- Numbers out of range, a disabled queue, queues of the wrong direction, a full one, an empty one and one whose oldest entry waits. -/
theorem witness_TokensFaultAndWait :
    (4 ≤ (4#32).toNat ∧ 12 ≤ (12#32).toNat) ∧ ready .ta 1 demo ∧ Claims.free .ta [1] (seen .ta 1 demo) ∧
    tokenProducer demo 3 ≠ .ta ∧ tokenProducer demo 0 = .ta ∧ visibleTokens demo 3 = [] ∧
    (let s := withTokens 0 (List.replicate 32 (token 5)) demo
     ready .ta 1 s ∧ Claims.free .ta [1] (seen .ta 1 s) ∧ 32 ≤ (tokenEntries s 0).length) ∧
    visibleTokens (withTokens 3 [{ prod := some 1, val := none }, token 1] demo) 3 = [] ∧
    (let s := { demo with mould := { demo.mould with cfg := { demo.mould.cfg with depths := [] } } }
     ready .ta 1 s ∧ Claims.free .ta [1] (seen .ta 1 s) ∧ queueDepth s 7 = 0) := by
  unfold ready Claims.free; decide +kernel

/-- The registers at the bounds of Table 03.1's clauses, and no random draw in flight. -/
theorem witness_SpecialRegisters : ready .ta 1 demo ∧ Claims.free .ta [1] (seen .ta 1 demo) ∧
    srBusy .ta (seen .ta 1 demo) = false ∧ (11#32).toNat < 12 ∧
    12 ≤ (12#32).toNat ∧ (3#32).toNat = 3 ∧ (6 ≤ (6#32).toNat ∧ (6#32).toNat ≠ 10) ∧ (6 ≤ (11#32).toNat ∧ (11#32).toNat ≠ 10) := by
  unfold ready Claims.free; decide +kernel

/-- The cluster with some Coil levels of TA open. -/
def withCoil (c : List CoilLevel) (s : State) : State := modThread .ta (fun h => { h with coil := c }) s

/-- A level whose body ends at word 0. -/
def demoLevel (n : BitVec 32) : CoilLevel := { remaining := n, index := 3, body := 8, stop := 0, setTo := none }

/-- Three levels open of which one ends here with one turn left, and the largest count and offset. -/
theorem witness_CoilLoops :
    let s := withRegs .ta [(1, 0xFFFFFFFF)] (withCoil (List.replicate 3 (demoLevel 1)) demo)
    let th := getThread .ta (seen .ta 1 s)
    ready .ta 1 s ∧ Claims.free .ta [1] (seen .ta 1 s) ∧ th.coil.length < 4 ∧ (sreg .ta 1 (seen .ta 1 s)).toNat < 2 ^ 32 ∧
    (0 < (0x100000#32).toNat ∧ (0x100000#32).toNat ≤ 2 ^ 20) ∧
    th.coil = demoLevel 1 :: List.replicate 2 (demoLevel 1) ∧ th.pc = (demoLevel 1).stop ∧ th.coil[2]? = some (demoLevel 1) := by
  unfold ready Claims.free; decide +kernel

/-- Four levels open, a count of 2^32, no level open, a level that ends elsewhere, offsets out of range. -/
theorem witness_CoilFaults :
    ((0#32).toNat = 0 ∧ 2 ^ 20 < (0x100001#32).toNat) ∧
    (let s := withRegs .ta [(1, 0x100000000)] (withCoil (List.replicate 4 (demoLevel 2)) demo)
     let th := getThread .ta (seen .ta 1 s)
     ready .ta 1 s ∧ Claims.free .ta [1] (seen .ta 1 s) ∧ 4 ≤ th.coil.length ∧ 3 < th.coil.length ∧
     2 ^ 32 ≤ (sreg .ta 1 (seen .ta 1 s)).toNat) ∧
    (let s := withRegs .ta [(1, 0x100000000)] demo
     let th := getThread .ta (seen .ta 1 s)
     ready .ta 1 s ∧ Claims.free .ta [1] (seen .ta 1 s) ∧ th.coil.length < 4 ∧ 2 ^ 32 ≤ (sreg .ta 1 (seen .ta 1 s)).toNat ∧
     th.coil = [] ∧ th.coil.length ≤ 0 ∧ 4 ≤ (4#32).toNat) ∧
    (let s := withCoil [{ demoLevel 2 with stop := 8 }] demo
     ready .ta 1 s ∧ ∃ l, (getThread .ta (seen .ta 1 s)).coil.head? = some l ∧ (getThread .ta (seen .ta 1 s)).pc ≠ l.stop) := by
  refine ⟨by decide, ?_, ?_, ?_⟩
  · unfold ready Claims.free; decide +kernel
  · unfold ready Claims.free; decide +kernel
  · exact ⟨by unfold ready; decide +kernel, { demoLevel 2 with stop := 8 }, by decide +kernel⟩

/-- COIL.END with one turn left closes its level and goes on behind it. -/
theorem test_coil_end :
    let s := withCoil [demoLevel 1] demo
    nextOf (exec (.coilEnd .ta) s) = some (jumpTo .ta 8 (withCoil [] (fetched .ta 1 s))) := by decide +kernel

/-- The cluster with an instruction of TA in flight. -/
def withFlight (f : Flight) (s : State) : State := { s with flights := [f], nextId := s.nextId + 1 }

/-- An entry of a restart list at this address. -/
def demoRestart (pc : BitVec 48) : RestartEntry :=
  { pc := pc, fc := 1, detail := 0, snap := (newFlight .ta (.nop .ta) .sequencer demo).snap }

/-- Nothing in flight and an instruction in flight; the other thread at the boundary or not. -/
theorem witness_SynchronisationInstructions :
    (ready .ta 1 demo ∧ flightsOf .ta (seen .ta 1 demo) = [] ∧ (getThread (otherThread .ta) demo).atSync = false) ∧
    (let s := modThread .tx (fun h => { h with atSync := true }) demo
     ready .ta 1 s ∧ (getThread (otherThread .ta) s).atSync = true) ∧
    (let s := withFlight { newFlight .ta (.nop .ta) .sequencer demo with begun := true } demo
     ready .ta 1 s ∧ flightsOf .ta (seen .ta 1 s) ≠ []) := by
  unfold ready; decide +kernel

/-- A thread outside a handler; in one with and without a restart list, and with a PAUSE that waits. -/
theorem witness_FaultReturn :
    (ready .ta 1 demo ∧ (getThread .ta demo).hact = false) ∧
    (let s := modThread .ta (fun h => { h with hact := true, restart := [demoRestart 0x40] }) demo
     ready .ta 1 s ∧ pauseDue s = false ∧ (getThread .ta s).hact = true) ∧
    (let s := modThread .ta (fun h => { h with hact := true }) { demo with run := { demo.run with safeDue := true } }
     ready .ta 1 s ∧ pauseDue s = true ∧ (getThread .ta s).hact = true) := by
  unfold ready; decide +kernel

theorem witness_ScalarFrame : scalarDest (.add .ta 3 1 2) = some (.ta, 3) ∧
    nextOf (exec (.add .ta 3 1 2) demo) = some (advance .ta 1 (setSreg .ta 3 0 (fetched .ta 1 demo))) := ⟨rfl, by decide +kernel⟩

/-- The translation of handle 1, and of handle 2. -/
def demoX (h : BitVec 8) : Xlate :=
  { h := h, map := (getHandle demo h).cur, epoch := 0, tagged := h == 2 }

/-- An operand queue with `n` visible rows. -/
def withRows (q n : Nat) (s : State) : State :=
  { s with queues := { s.queues with
      q := [(q, List.replicate n { prod := 0, data := some zeroRow, cons := none, bad := false })] } }

/-- The queue that a thread fills, and the one that it empties, in the reset structure. -/
theorem test_queue_directions : queueProducer demo 0 = .ta ∧ queueProducer demo 7 = .tx ∧ tokenProducer demo 1 = .ta ∧
    tokenProducer demo 2 = .tx := by decide +kernel

/-- Eight rows up to the end of SDM and up to the handle's end, the sequencer free. -/
theorem witness_LocalStoreTransfersIssue :
    let s := withRegs .ta [(1, 0x3F000), (2, 992)] demo
    let v := seen .ta 1 s
    ready .ta 1 s ∧ Claims.free .ta [1, 2] v ∧ (sreg .ta 1 v).toNat % 64 = 0 ∧ (sreg .ta 1 v).toNat + 512 * 8 ≤ 0x40000 ∧
    (sreg .ta 2 v).toNat < 98304 ∧ rowCount 7 ≤ 8 ∧
    (0 : BitVec 3) ≠ v.mould.cfg.bport ∧ engineReady .ta .sequencer v = .ok () ∧ sdmBad v 0x3F000 4096 = none ∧
    checkHandle .ta 1 .rd (strided 992 8 1) v = .ok (demoX 1) ∧ checkHandle .ta 2 .wr (strided 992 8 1) v = .ok (demoX 2) := by
  unfold ready Claims.free; decide +kernel

/-- LS.RD with these operands. -/
def demoLs : LsArgs := { sa := 1, rs := 2, h := 1, n1 := 7, port := 0, clear := false }

/-- An LS.RD in flight. -/
def demoRd : Flight := { newFlight .ta (.lsRd .ta demoLs) .sequencer demo with xl := [demoX 1] }

/-- A LS.RD in flight that reads a row. -/
theorem witness_LocalStoreReadTakesRows :
    let s := withFlight demoRd demo
    let a := readAccess (demoX 2) 0 true .hold 5
    a.op = .read true .hold ∧ findFlight demoRd.id s = some demoRd ∧ memoriesCanonical s ∧
    demoRd.instr = .lsRd .ta demoLs ∧ demoRd.commit = Commit.empty := by
  unfold memoriesCanonical; decide +kernel

/-- A queue with room for the rows of a push, and one with the rows of a pop; a stride at its bounds. -/
theorem witness_QueueTransfersIssue :
    (let s := withRegs .ta [(1, 992), (2, 0xFFFFFFFFFFFFF800), (3, 2047), (4, 999)] demo
     let v := seen .ta 1 s
     ready .ta 1 s ∧ Claims.free .ta [1, 2] v ∧ (sreg .ta 1 v).toNat < 98304 ∧ (0 : BitVec 3) ≠ v.mould.cfg.bport ∧
     engineReady .ta .sequencer v = .ok () ∧ queueOk .ta 0 true 8 v = .ok () ∧ pushReady 0 8 v = .ok () ∧
     checkHandle .ta 1 .rd (strided 992 8 1) v = .ok (demoX 1) ∧
     queueOk .ta 0 true 1 v = .ok () ∧ pushReady 0 1 v = .ok () ∧
     (sreg .ta 2 v).toInt = -2048 ∧ (sreg .ta 3 v).toInt = 2047 ∧ Claims.free .ta [4, 2] v ∧ Claims.free .ta [4, 3] v ∧
     checkHandle .ta 1 .rd (strided 999 1 (-2048)) v = .ok (demoX 1) ∧
     checkHandle .ta 1 .rd (strided 999 1 2047) v = .ok (demoX 1)) ∧
    (let s := withRows 7 3 demo
     let v := seen .ta 1 s
     ready .ta 1 s ∧ Claims.free .ta [0, 0] v ∧ engineReady .ta .sequencer v = .ok () ∧
     queueOk .ta 7 false 3 v = .ok () ∧ popReady 7 3 v = .ok () ∧ checkHandle .ta 1 .wr (strided 0 3 1) v = .ok (demoX 1)) := by
  unfold ready Claims.free; decide +kernel

/-- A range whose tags can be set, one with a claimed row, and an UNTAGGED handle. -/
theorem witness_TagsAreSetTogether :
    (let s := withRegs .ta [(2, 1000)] demo
     let v := seen .ta 1 s
     ready .ta 1 s ∧ memoriesCanonical s ∧ Claims.free .ta [1, 2] v ∧ (sreg .ta 1 v).toNat < 98304 ∧
     1 ≤ (sreg .ta 2 v).toNat ∧ (sreg .ta 2 v).toNat ≤ 98304 ∧
     checkHandle .ta 2 .wr (strided 0 1000 1) v = .ok (demoX 2) ∧ (getHandle v 2).tagged = true ∧
     ((getHandle v 1).state ≠ .free ∧ (getHandle v 1).tagged = false) ∧
     (∀ p ∈ (strided 0 1000 1).map (fun r => physRow (demoX 2).map r.toNat), getTag v p = .empty ∨ getTag v p = .full)) ∧
    (let s := withRegs .ta [(2, 1000)] { demo with ls := { demo.ls with tags := [(1024, Tag.rclaim)] } }
     ready .ta 1 s ∧ getTag (seen .ta 1 s) 1024 = .rclaim ∧ physRow (demoX 2).map 0 = 1024) := by
  unfold ready Claims.free memoriesCanonical; decide +kernel

/-- A tile group's code: `n` tiles from tile `t` on. -/
def groupCode (t n : Nat) : BitVec 6 := BitVec.ofNat 6 (t + 16 * (n - 1))

/-- A tile configuration of a full tile. -/
def fullCfg (rows bytes : Nat) (f : Fmt) : TileCfg :=
  { TileCfg.reset with rows1 := BitVec.ofNat 5 (rows - 1), bytes1 := BitVec.ofNat 6 (bytes - 1), fmt := fmtCode f, full := true
                       valid := BitVec.ofNat 32 (2 ^ rows - 1) }

/-- The cluster with tile configurations. -/
def withTiles (l : List (Nat × TileCfg)) (s : State) : State := { s with tiles := { s.tiles with cfg := l } }

/-- The operands of a load or store of tile 15 or of tile 3, with the registers that hold row and stride. -/
def demoMove (t : Nat) (rs stride : Reg) : TileMoveArgs :=
  { tg := groupCode t 1, rs := rs, h := 1, n1 := 3, port := 0, clear := false, stride := stride }

/-- Loads of one tile of 32 rows of 64 bytes, plain and strided, and a transposed load of two tiles. -/
theorem witness_TileLoadsIssue :
    let s := withRegs .ta [(1, 1), (2, 999), (3, 0xFFFFFFFFFFFFFFFF)] demo
    let v := seen .ta 1 s
    let a := demoMove 15 1 3
    let b := demoMove 15 2 3
    ready .ta 1 s ∧ engineReady .ta .sequencer v = .ok () ∧ tilesReady 0 (tileMask [15]) v = .ok () ∧
    tileGroup a.tg = some [15] ∧ Claims.free .ta [1, 3] v ∧ Claims.free .ta [2, 3] v ∧
    tileMoveParams false a 6 .ta v = .ok () ∧ tileMoveShapes (strided 1 4 1) [15] v = .ok () ∧
    checkHandle .ta 1 .rd (tldRows .e4m3 (strided 1 4 1)) v = .ok (demoX 1) ∧
    tileMoveParams true b 6 .ta v = .ok () ∧ tileMoveShapes (strided 999 4 (-1)) [15] v = .ok () ∧
    checkHandle .ta 1 .rd (tldRows .e4m3 (strided 999 4 (-1))) v = .ok (demoX 1) ∧
    tileGroup (groupCode 0 2) = some [0, 1] ∧ tilesReady 0 (tileMask [0, 1]) v = .ok () ∧
    (0 : BitVec 3) ≠ v.mould.cfg.bport ∧
    (∀ n ∈ [0, 1], fmtIsMx (tileFmt v n) = false ∧ tileFmt v n ≠ .int4 ∧ tileBytes (tileCfg v n) = 64) ∧
    (([0, 1] : List Nat).map (fun k => tileRows (tileCfg v k))).sum = 64 ∧
    (([0] : List Nat).map (fun k => tileRows (tileCfg v k))).sum = 32 ∧ (sreg .ta 3 v).toInt = -1 ∧
    checkHandle .ta 1 .rd (strided 999 64 (-1)) v = .ok (demoX 1) ∧
    checkHandle .ta 1 .rd (strided 999 32 (-1)) v = .ok (demoX 1) := by
  unfold ready Claims.free; decide +kernel

/-- The stores of a full tile and of a full MX tile. -/
theorem witness_TileStoresIssue :
    let s := withRegs .ta [(1, 1)] (withTiles [(3, fullCfg 32 64 .e4m3), (4, fullCfg 32 48 .e2m3)] demo)
    let v := seen .ta 1 s
    let a := demoMove 3 0 1
    let b := demoMove 4 1 1
    ready .ta 1 s ∧ Claims.free .ta [0, 1] v ∧ Claims.free .ta [1, 1] v ∧ engineReady .ta .sequencer v = .ok () ∧
    tileGroup a.tg = some [3] ∧ tilesReady (tileMask [3]) 0 v = .ok () ∧ (tileCfg v 3).full = true ∧
    tileMoveParams false a 5 .ta v = .ok () ∧ tileMoveShapes (strided 0 4 1) [3] v = .ok () ∧
    handlesOk .ta [{ h := 1, epoch := none, needs := [.wr], rels := tldRows .e4m3 (strided 0 4 1) }] v = .ok [demoX 1] ∧
    tileGroup b.tg = some [4] ∧ tilesReady (tileMask [4]) 0 v = .ok () ∧ (tileCfg v 4).full = true ∧ fmtIsMx .e2m3 = true ∧
    tileMoveParams true b 5 .ta v = .ok () ∧ tileMoveShapes (strided 1 4 1) [4] v = .ok () ∧
    handlesOk .ta [{ h := 1, epoch := none, needs := [.wr, .rd], rels := tldRows .e2m3 (strided 1 4 1) }] v = .ok [demoX 1] := by
  unfold ready Claims.free; decide +kernel

/-- The header row of a context of sixteen empty E4M3 tiles of 32 rows of 64 bytes (Table 05.3). -/
def emptyContext : Mem := (List.range 16).flatMap (fun i => [(32 * i, 0xFF), (32 * i + 1, 0x1F)])

/-- What a header row yields. -/
def headerOf (e : Except Nat (List TileCfg)) : Nat × Nat :=
  match e with
  | .ok cs => (contextRows cs, 16)
  | .error i => (0, i)

/-- All tiles saved from row 0 on; a context whose header names one row; one whose header is refused at tile 0; and one whose header
row is still EMPTY. -/
theorem witness_TileContextsIssue :
    (let v := seen .ta 1 demo
     ready .ta 1 demo ∧ Claims.free .ta [1, 2] v ∧ (sreg .ta 1 v).toNat < 98304 ∧ engineReady .ta .sequencer v = .ok () ∧
     (0 : BitVec 3) ≠ v.mould.cfg.bport ∧ tilesReady 0xFFFF 0 v = .ok () ∧ tilesReady 0 0xFFFF v = .ok () ∧
     checkHandle .ta 1 .wr (strided 0 (contextImage v).length 1) v = .ok (demoX 1) ∧
     checkHandle .ta 1 .rd [(0 : Int)] v = .ok (demoX 1) ∧
     (runTests (testsFor (demoX 1) .keep [(0 : Int)]) v).1.all (fun y => y.passed) = true ∧
     checkHandle .ta 2 .rd [(0 : Int)] v = .ok (demoX 2) ∧
     (runTests (testsFor (demoX 2) .keep [(0 : Int)]) v).1.all (fun y => y.passed) = false) ∧
    (let v := seen .ta 1 { demo with ls := { demo.ls with rows := emptyContext } }
     headerOf (standingHeader v (demoX 1) 0) = (1, 16) ∧ 0 + 1 ≤ (demoX 1).map.count.toNat) ∧
    (let v := seen .ta 1 { demo with ls := { demo.ls with rows := [(1, 0xE0)] } }
     headerOf (standingHeader v (demoX 1) 0) = (0, 0)) := by
  unfold ready Claims.free; decide +kernel

/-- A copy in each form, at the ends of the reservoir's addresses and of the rows of four tiles. -/
theorem witness_DmaCopiesIssue :
    let s := withRegs .ta [(1, 0xFFFFFFFFFE00), (2, 984)] (withTiles [(3, fullCfg 32 64 .e4m3), (4, fullCfg 32 64 .e4m3),
      (5, fullCfg 32 64 .e4m3), (6, fullCfg 32 64 .e4m3)] demo)
    let v := seen .ta 1 s
    ready .ta 1 s ∧ Claims.free .ta [2, 1] v ∧ Claims.free .ta [1, 2] v ∧ Claims.free .ta [2, 0] v ∧ Claims.free .ta [0, 2] v ∧
    engineReady .ta .dma v = .ok () ∧ (0 : BitVec 3) ≠ v.mould.cfg.bport ∧ (sreg .ta 2 v).toNat < 98304 ∧
    handlesOk .ta [{ h := 1, epoch := none, needs := [.rd], rels := strided 984 16 1 },
      { h := 2, epoch := none, needs := [.wr], rels := strided 0 16 1 }] v = .ok [demoX 1, demoX 2] ∧
    checkHandle .ta 1 .rd (strided 984 16 1) v = .ok (demoX 1) ∧
    ((sreg .ta 1 v).toNat < 2 ^ 48 ∧ (sreg .ta 1 v).toNat % 512 = 0) ∧
    checkHandle .ta 1 .wr (strided 984 16 1) v = .ok (demoX 1) ∧
    tileGroup (groupCode 3 4) = some [3, 4, 5, 6] ∧ tilesReady (tileMask [3, 4, 5, 6]) 0 v = .ok () ∧ 16 ≤ 4 * 4 ∧
    (∀ k ∈ [3, 4, 5, 6], (tileCfg v k).full = true) ∧ meets v .dma (readsRaw [3, 4, 5, 6] 16) = none := by
  unfold ready Claims.free; decide +kernel

/-- The operands of a remote instruction on this local end, with and without a status area. -/
def demoRemote (le : BitVec 9) (rs : Reg) (saen : Bool) : RemoteArgs :=
  { le := le, rs := rs, n1 := 63, node := 2, wr := 3, key := 4, fp := 3, win := 0, sd := 6, saen := saen, sa := 4
    port := 0, clear := false }

/-- Remote instructions on a handle, with and without a status area, and a FETCH of the handle's 1,000 rows. -/
theorem witness_RemoteInstructionsIssue :
    let s := withRegs .ta [(1, 936), (2, 0x7FFFF), (3, 0x1FFFF), (4, 0x3FFC0), (5, 1000)] demo
    let v := seen .ta 2 s
    let a := demoRemote 1 1 true
    ready .ta 2 s ∧ engineReady .ta .remote v = .ok () ∧ a.le.toNat < 256 ∧ Claims.free .ta (remoteRegs a) v ∧
    (sreg .ta 1 v).toNat < 98304 ∧ (sreg .ta 2 v).toNat < 2 ^ 19 ∧ portEnabled v 3 = true ∧
    (sreg .ta 3 v).toNat % 2 ^ 32 < 2 ^ 17 ∧ saOk (sreg .ta 4 v) = true ∧
    statusArea .ta true 4 64 v = .ok (some 0x3FFC0) ∧ statusArea .ta false 4 64 v = .ok none ∧
    (0 : BitVec 3) ≠ v.mould.cfg.bport ∧
    checkHandle .ta 1 .rd (strided 936 64 1) v = .ok (demoX 1) ∧ checkHandle .ta 2 .wr (strided 936 64 1) v = .ok (demoX 2) ∧
    Claims.free .ta [0, 2, 3, 4, 6, 5] v ∧ (sreg .ta 5 v).toNat = 1000 ∧
    checkHandle .ta 1 .wr (strided 0 1000 1) v = .ok (demoX 1) := by
  unfold ready Claims.free; decide +kernel

/-- The two ways of a queue, at the ends of the codes of local ends. -/
theorem witness_RemoteQueueEndsIssue :
    let s := withRegs .ta [(2, 0x7FFFF), (3, 0x1FFFF), (4, 0x3FFC0)] (withRows 7 2 demo)
    let v := seen .ta 2 s
    let a := { demoRemote 263 0 true with n1 := 1 }
    let b := { demoRemote 256 0 false with n1 := 1 }
    ready .ta 2 s ∧ engineReady .ta .remote v = .ok () ∧ (256 ≤ a.le.toNat ∧ a.le.toNat < 264) ∧ 256 ≤ b.le.toNat ∧
    Claims.free .ta (remoteRegs a) v ∧ Claims.free .ta (remoteRegs b) v ∧
    (sreg .ta 2 v).toNat < 2 ^ 19 ∧ portEnabled v 3 = true ∧ (sreg .ta 3 v).toNat % 2 ^ 32 < 2 ^ 17 ∧
    saOk (sreg .ta 4 v) = true ∧ statusArea .ta true 4 2 v = .ok (some 0x3FFC0) ∧ statusArea .ta false 4 2 v = .ok none ∧
    queueOk .ta 7 false 2 v = .ok () ∧ popReady 7 2 v = .ok () ∧ queueOk .ta 0 true 2 v = .ok () ∧ pushReady 0 2 v = .ok () := by
  unfold ready Claims.free; decide +kernel

/-- Both threads named, with a binding of one at an older epoch. -/
theorem witness_BindingsChange :
    let s := modThread .tx (fun h => { h with bind := [{ h := 2, epoch := 0 }, { h := 1, epoch := 7 }] }) demo
    ready .ta 1 s ∧ s.ta.reissuing = false ∧ (3 : BitVec 2) ≠ 0 ∧ (∀ u ∈ maskThreads 3, releaseWaits u 1 (seen .ta 1 s) = false) ∧
    (getHandle s 1).state ≠ .free ∧ (getHandle s 1).state ≠ .draining ∧
    (∀ u ∈ maskThreads 3, (bindingOf (getThread u s) 1).isSome = true ∨ (getThread u s).bind.length < 16) := by
  unfold ready; decide +kernel

/-- A swap of a mapping to the last row of a stack, with the previous mapping free and taken. -/
theorem witness_HandleSwap :
    (let s := withRegs .ta [(1, 0x20002FFE)] demo
     let v := seen .ta 1 s
     let w := sreg .ta 1 v
     let m : Mapping := { base := w.setWidth 12, count := (w >>> 12).setWidth 17, mask := (w >>> 29).setWidth 24 }
     ready .ta 1 s ∧ Claims.free .ta [1] v ∧ w.toNat < 2 ^ 53 ∧ (getHandle v 1).prevValid = false ∧
     (getHandle v 1).state ≠ .free ∧ (getHandle v 1).state ≠ .draining ∧
     entryOk v { getHandle v 1 with cur := m } = true ∧ entryOk v { getHandle v 1 with cur := { m with count := 3 } } = false) ∧
    (let s := { demo with handles := [(1, { demoHandle false 0 with prevValid := true })] }
     let v := seen .ta 1 s
     ready .ta 1 s ∧ Claims.free .ta [1] v ∧ (getHandle v 1).state ≠ .free ∧ (getHandle v 1).state ≠ .draining ∧
     (getHandle v 1).prevValid = true) := by
  unfold ready Claims.free; decide +kernel

/-- The sequencer with two sessions, one READY within the budget, with a list outstanding; and with no candidate. -/
theorem witness_SessionSelection :
    (let s := withRegs .ta [(1, 0x3FE00)] { demo with sess := { demo.sess with
      used := 2, entries := [(1, { Session.reset with state := .ready, cls := 0, credits := 1 })]
      lists := [{ sessions := [0], boundaries := 1 }] } }
    let v := seen .ta 1 s
    let w := retireOldest (sessScan v)
    ready .ta 1 s ∧ Claims.free .ta [1, 2] v ∧ v.mould.cfg.engines.getLsbD 4 = true ∧ (sreg .ta 1 v).toNat % 64 = 0 ∧
    (sreg .ta 1 v).toNat + 512 ≤ 0x40000 ∧ engineReady .ta .session v = .ok () ∧ sdmBad w 0x3FE00 32 = none ∧
    memoriesCanonical w ∧ (selectSessions w).map (fun p => p.1) = [1]) ∧
    (let v := seen .ta 1 demo
     sdmBad (retireOldest (sessScan v)) 0 0 = none ∧ memoriesCanonical (retireOldest (sessScan v)) ∧
     (selectSessions (retireOldest (sessScan v))).map (fun p => p.1) = []) := by
  unfold ready Claims.free memoriesCanonical; decide +kernel

/-- The cluster with four lines of set 0 pinned. -/
def withPins : State :=
  { demo with spool := { demo.spool with
      lines := (List.range 4).map (fun k => { tag := BitVec.ofNat 48 (0x8000 * k), pinned := true, data := [] }) } }

/-- The last line of the address space; a line in a set of which none is pinned, and one in a set with four pinned ways. -/
theorem witness_SpoolControl :
    let pins (v : State) (w : Word64) (k : Nat) (a : BitVec 48) : Nat :=
      ((pinnedIn v (spoolSet v a) ++ (spoolNamed w k).filter (fun b => spoolSet v b == spoolSet v a)).eraseDups).length
    (let s := withRegs .ta [(1, 0xFFFFFFFFFF80), (2, 0)] demo
     let v := seen .ta 1 s
     ready .ta 1 s ∧ Claims.free .ta [1] v ∧ Claims.free .ta [2] v ∧ (sreg .ta 1 v).toNat % 128 = 0 ∧
     (sreg .ta 1 v).toNat < 2 ^ 48 ∧ (sreg .ta 2 v).toNat = 0 ∧
     (spoolNamed (sreg .ta 2 v) (rowCount 1)).all (fun a => decide (pins v (sreg .ta 2 v) (rowCount 1) a < 4)) = true) ∧
    (let v := seen .ta 1 withPins
     ready .ta 1 withPins ∧ Claims.free .ta [2] v ∧ spoolNamed 0x80 1 = [0x80] ∧
     (spoolNamed 0 2).any (fun a => decide (4 ≤ pins v 0 2 a)) = true) := by
  unfold ready Claims.free; decide +kernel

/-- The cluster after its links have been reset: 288 credits each way. -/
def demoLinked : State :=
  [0, 1, 2, 3].foldl (fun s p => setPort p { getPort s p with credits := 288, returned := 288, space := 288 } s) demo

/-- A row of a remote instruction that waits for its response, sent from port 0. -/
def remoteFlight (req : ReqType) (x : RemRow) : Flight :=
  { newFlight .ta (.fence .ta) .remote demo with
    begun := true
    remote := some (newRemote .ta req true 0 0 2 3 4 1 false false [x] 5 none demo) }

/-- The cluster with that row in the tracker of port 0 under identifier 9. -/
def withRemote (req : ReqType) (x : RemRow) : State :=
  let s := withFlight (remoteFlight req x) demoLinked
  setPort 0 { getPort s 0 with tracker := [{ txn := 9, node := 0, fid := demo.nextId, row := 0, age := 7 }] }
    { s with fab := { s.fab with rspLimit := 7 } }

/-- A row that waits for its response. -/
def sentRow : RemRow := { newRow demo none (some 0) with phase := .sent }

/-- A block in sequence for this node. -/
def inBlock (typ : BitVec 4) (data : Bool) (txn : BitVec 6) : Block :=
  { testBlock typ data (if data then 512 else 0) with seq := (getPort demo 0).rxSeq, dst := demo.fab.nodeId, src := 0, txn := txn }

/-- The state in which a block is served. -/
def servedIn (b : Block) (s : State) : State :=
  readCfg cfgNode (sendLink 0 true b.seq (takeFlits 0 (flitsOf b)
    (setPort 0 { getPort s 0 with rxSeq := (getPort s 0).rxSeq + 1, discarding := false, discards := 0 } (passLull s))))

/-- Live ports, and requests of each type in sequence with space for them; no window takes them. -/
theorem witness_RequestsAreServed :
    portLive demoLinked 0 = true ∧ portLive demoLinked 3 = true ∧
    (∀ b ∈ [inBlock 1 true 9, inBlock 2 false 9, inBlock 3 false 9, inBlock 4 false 9],
      flitsOf b ≤ (getPort demoLinked 0).space ∧ b.seq = (getPort demoLinked 0).rxSeq ∧ b.dst = demoLinked.fab.nodeId ∧
      (windowCheck (readCfg (getWindow demoLinked 0).handle.toNat (readCfg (cfgWindow 0) (servedIn b demoLinked)))
        .put b.win b.wr b.key b.src).isOk = false) := by
  decide +kernel

/-- A response that matches an entry of the tracker, and one that does not. -/
theorem witness_ResponsesReachTheirRows :
    let s := withRemote .take sentRow
    let mine (b : Block) (t : Track) : Bool := t.txn == b.txn && t.node == b.src && awaits s t
    portLive s 0 = true ∧ flitsOf (inBlock 5 true 9) ≤ (getPort s 0).space ∧
    (∀ b ∈ [inBlock 5 true 9, inBlock 6 false 9],
      b.seq = (getPort s 0).rxSeq ∧ b.dst = s.fab.nodeId ∧
      ((getPort s 0).tracker.find? (mine b)).map (fun t => (remoteRow s t.fid t.row).map (fun p => p.2.2)) = some (some sentRow)) ∧
    (∀ b ∈ [inBlock 5 true 8, inBlock 6 false 8], (getPort s 0).tracker.find? (mine b) = none) := by
  decide +kernel

/-- A block sent eight times, and one at its first resend. -/
theorem witness_LinkKeepsBlocks :
    let sent (q : BitVec 8) (n : Nat) : Sent := { b := { testBlock 1 true 512 with seq := q }, resends := n, resend := false }
    let s := setPort 0 { getPort demo 0 with replay := [sent 4 0, sent 5 7, sent 6 8], rxSeq := 200 } demo
    portLive s 0 = true ∧ (getPort s 0).replay = [sent 4 0] ++ sent 5 7 :: [sent 6 8] ∧
    (getPort s 0).replay = [sent 4 0, sent 5 7] ++ sent 6 8 :: [] ∧ (sent 5 7).resends < 8 ∧ 8 ≤ (sent 6 8).resends ∧
    (sent 5 7).b.seq = 5 ∧ (sent 6 8).b.seq = 6 ∧ (∀ y ∈ [sent 4 0, sent 5 7], y.b.seq ≠ 6) ∧ (sent 4 0).b.seq ≠ 5 := by
  decide +kernel

/-- A row whose gap has passed, and one at the limit. -/
theorem witness_RemoteRowsAgain :
    (let x : RemRow := { newRow demo none none with phase := .retry 0 }
     let s := withRemote .put x
     (remoteRow s demo.nextId 0).map (fun p => p.2.2) = some x ∧ x.phase = .retry 0) ∧
    (let s := withRemote .put sentRow
     ((getPort s 0).tracker.find? (fun t => t.txn == 9 && awaits s t)).isSome = true ∧ s.fab.rspLimit ≠ 0 ∧
     (∀ t ∈ (getPort s 0).tracker, s.fab.rspLimit.toNat ≤ t.age)) := by
  decide +kernel

/-- A write that waits before a read. -/
def boundaryTwo : State :=
  let b : BAccess :=
    { phys := 1024, handle := 2, tagged := true, row := some zeroRow, use := .selfPut 0, buffer := none, taken := none }
  { demo with ls := { demo.ls with boundary := [b, { b with row := none }] } }

theorem witness_BoundaryAccessesInOrder :
    reach boundaryReady boundaryTwo = some boundaryTwo ∧ (boundaryTwo.ls.boundary.map (fun b => b.row)) = [some zeroRow, none] ∧
    memoriesCanonical boundaryTwo ∧
    (let s := { boundaryTwo with ls := { boundaryTwo.ls with boundary := boundaryTwo.ls.boundary.tail } }
     (reach boundaryReady s).map (fun u => u.ls.boundary.map (fun b => b.row)) = some [none]) := by
  unfold memoriesCanonical; decide +kernel

/-- A read request and a write request outstanding for rows of copies. -/
theorem witness_ReservoirAnswers :
    let f : Flight := { newFlight .ta (.fence .ta) .dma demo with begun := true, xl := [demoX 1], dma := [{ phys := 7, done := false }] }
    let r : ResReq := { id := some 3, address := 512, use := .dmaIn f.id 0, data := [] }
    let w : ResReq := { r with use := .dmaOut f.id 0, data := zeroRow }
    let s := { withFlight f demo with res := { reads := [r], writes := [w] } }
    f.dma[0]? = some { phys := 7, done := false } ∧ findFlight f.id s = some f ∧
    s.res.reads.find? (fun q => q.id == some 3) = some r ∧ r.use = .dmaIn f.id 0 ∧
    s.res.writes.find? (fun q => q.id == some 3) = some w ∧ w.use = .dmaOut f.id 0 := by
  decide +kernel

/-- A fill that TA waits for. -/
theorem witness_SpoolFillsArrive :
    let f : SpoolFill := { tag := 128, pin := false, demandTa := true, demandTx := false, ahead := false, discard := false }
    let r : ResReq := { id := some 0, address := 128, use := .fill 128, data := [] }
    let s := modThread .ta (fun h => { h with wait := .spool })
      { demo with res := { demo.res with reads := [r] }, spool := { demo.spool with fills := [f] } }
    s.res.reads.find? (fun r => r.id.isSome && r.use == .fill 128) = some r ∧ s.spool.fills.find? (fun f => f.tag == 128) = some f ∧
    f.discard = false ∧ f.ahead = false ∧ f.demandTa = decide (Thread.ta = .ta) ∧ f.demandTx = decide (Thread.ta = .tx) ∧
    (getThread .ta s).wait = .spool := by
  decide +kernel

/-- A check that passes has a result. -/
theorem exists_of_toOption {ε α : Type} {x : Except ε α} (h : x.toOption.isSome = true) : ∃ y, x = .ok y := by
  cases x with
  | error e => cases h
  | ok y => exact ⟨y, rfl⟩

/-- A slot of the execute stream: `n` tiles from tile `t` on. -/
def tileSlot (t n : Nat) : Slot := BitVec.ofNat 7 (t + 16 * (n - 1))

/-- The slot of a queue, and the slots NONE and STAT. -/
def queueSlot (q : Nat) : Slot := BitVec.ofNat 7 (64 + q)

/-- The slot that names nothing. -/
def noSlot : Slot := 0x78

/-- The slot of the stationary. -/
def statSlot : Slot := 0x48

/-- A TX machine with full tiles 0 to 3: E4M3, E4M3, BF16 and FP32 of 32 rows of 64 bytes, tile 4 of FP32 and tile 5 of BF16. -/
def demoTiles : State :=
  withTiles [(0, fullCfg 32 64 .e4m3), (1, fullCfg 32 64 .e4m3), (2, fullCfg 32 64 .bf16), (3, fullCfg 32 64 .fp32),
    (4, fullCfg 32 64 .fp32), (5, fullCfg 32 64 .int32)] demo

/-- An MX.MM of two tiles. -/
def demoMm (a w : Slot) (fa fw : BitVec 4) : MxMmArgs :=
  { mxd := 1, a := a, w := w, acc := 3, accum := false, raw := false, half := false, fmta := fa, fmtw := fw, ftz := false }

/-- The product of 32 rows of 64 elements with 32 columns. -/
theorem witness_MatrixProductsIssue :
    let s := withRegs .tx [(1, BitVec.ofNat 64 (32 + 2 ^ 9 * 32 + 2 ^ 17 * 64))] demoTiles
    ready .tx 2 s ∧ mmReady none none (demoMm 0 1 0 0) (seen .tx 2 s) := by
  unfold ready mmReady Claims.free; dsimp only
  and_intros
  all_goals first
    | decide +kernel
    | exact fun _ => exists_of_toOption (by decide +kernel)

/-- The smallest product with the stationary. -/
theorem witness_MatrixProductsIssue_stat :
    let s := withRegs .tx [(1, BitVec.ofNat 64 (1 + 2 ^ 9 * 1 + 2 ^ 17 * 1))] demoTiles
    mmReady none none (demoMm 0 statSlot 0 0) (seen .tx 2 s) := by
  unfold mmReady Claims.free; dsimp only
  and_intros
  all_goals first
    | decide +kernel
    | exact fun _ => exists_of_toOption (by decide +kernel)

/-- A TDC-3 product whose records carry 32 rows of 64 columns of E4M3. -/
theorem witness_MatrixProductsIssue_c3 :
    let s := modThread .tx (fun h => { h with c3 := true })
      (withRegs .tx [(1, BitVec.ofNat 64 (32 + 2 ^ 9 * 32 + 2 ^ 17 * 64))] demoTiles)
    let rec14 : BitVec 14 := 31 + 2 ^ 5 * 63 + 2 ^ 11 * 3
    let r : ShapeRecs := { r0 := rec14, r1 := rec14, r2 := 0, r3 := 0 }
    let a := demoMm 0 1 0 0
    ready .tx 3 s ∧ s.tx.c3 = true ∧ recLegal a.a r.r0 = true ∧ recLegal a.w r.r1 = true ∧ recOverflow (c3MmSlots a r) = none ∧
    mmReady (c3Carried a.a r.r0) (c3Carried a.w r.r1) a (seen .tx 3 s) := by
  unfold ready mmReady Claims.free; dsimp only
  and_intros
  all_goals first
    | decide +kernel
    | exact fun _ => exists_of_toOption (by decide +kernel)

/-- A conversion block to this format. -/
def demoConv (f : BitVec 4) (amx : BitVec 4) : ConvBlk :=
  { dfmt := f, rnd := 0, ftz := false, ieee := false, amx := amx, gacc := false, naninc := false, scl := 0 }

/-- An MV.GEMV from tile 0 to a destination. -/
def demoGemv (vb d d2 : Slot) (fmtw dfmt amx : BitVec 4) : MvGemvArgs :=
  { rs := 1, mvd := 2, va := 0, vb := vb, d := d, d2 := d2, h := 1, port := 0, port2 := 1, clear := false, fmtw := fmtw
    conv := demoConv dfmt amx }

/-- One vector, and two with their destinations. -/
theorem witness_VectorProductsIssue :
    let s := withRegs .tx [(2, BitVec.ofNat 64 (512 + 2 ^ 14 * 512))] demoTiles
    ready .tx 2 s ∧ gemvReady none (demoGemv noSlot 3 noSlot 3 0 1) [demoX 1] (seen .tx 2 s) ∧
    gemvReady none (demoGemv 1 3 4 3 0 7) [demoX 1] (seen .tx 2 s) := by
  unfold ready gemvReady Claims.free; dsimp only; and_intros <;> decide +kernel

/-- The records of a TDC-3 MV.GEMV: an E4M3 vector and an FP32 destination of 16 columns. -/
def gemvRecs : ShapeRecs := { r0 := 31 + 2 ^ 5 * 63 + 2 ^ 11 * 3, r1 := 0, r2 := 31 + 2 ^ 5 * 15, r3 := 0 }

/-- A TX machine in C3 mode that computes one output. -/
def demoC3 : State := modThread .tx (fun h => { h with c3 := true }) (withRegs .tx [(2, BitVec.ofNat 64 (1 + 2 ^ 14 * 1))] demoTiles)

/-- Whatever the weight format of a TDC-3 MV.GEMV is. -/
theorem gemv3_ready_for_every_format (f : Fmt) : mvWeightFmt f = true →
    let a := demoGemv noSlot 3 noSlot 0 0 7
    gemvReady (some { c3Gemv a gemvRecs with fmtw := f }) { a with conv := c3Conv a.conv } [demoX 1] (seen .tx 3 demoC3) := by
  cases f <;> (intro h; first | (exfalso; revert h; decide) | (unfold gemvReady Claims.free; dsimp only; and_intros <;> decide +kernel))

theorem witness_VectorProductsIssue_c3 :
    let a := demoGemv noSlot 3 noSlot 0 0 0
    ready .tx 3 demoC3 ∧ demoC3.tx.c3 = true ∧ c3ConvZero a.conv = true ∧
    (∀ p ∈ c3GemvSlots a gemvRecs, recLegal p.1 p.2 = true) ∧ recOverflow (c3GemvSlots a gemvRecs) = none ∧
    gemvReady (some (c3Gemv a gemvRecs)) { a with conv := c3Conv a.conv } [demoX 1] (seen .tx 3 demoC3) := by
  refine ⟨?_, ?_, ?_, ?_, ?_, gemv3_ready_for_every_format _ ?_⟩
  · unfold ready; decide +kernel
  · decide +kernel
  · decide +kernel
  · intro p h; fin_cases h <;> decide +kernel
  · decide +kernel
  · unfold c3WeightFmt; split
    · assumption
    · rfl

/-- The loads of the stationary, from a tile and transposed from 64 rows. -/
theorem witness_StationaryLoadsIssue :
    let s := withRegs .tx [(1, 936), (2, 1)] demoTiles
    let v := seen .tx 1 s
    let a : MxWldArgs := { w := 0, half := false }
    let b : MxWldTArgs := { rs := 1, stride := 2, h := 1, port := 0, clear := false, fmtw := 3, half := false, j := 7, qsel := 3 }
    let o := (tilesOpd v none a.w).getD Opd.none
    let n := 1024 * wldBlocks o
    let rels := wldTRows b 936 1
    ready .tx 1 s ∧ enginePresent 0 v = .ok () ∧ slotIsTiles a.w = true ∧ tilesReady (opdMask o) 0 v = .ok () ∧
    halfOk v a.half = true ∧ engineReady .tx (mxEngine a.half) v = .ok () ∧ sourcesFull [o] v = .ok () ∧
    badFormat mxeFmt o = none ∧ sourceBad o n = [] ∧ handlesOk .tx (opdExpUses o 0 n) v = .ok [] ∧
    codesLegal [b.fmtw] = .ok () ∧ Claims.free .tx [b.rs, b.stride] v ∧ b.port ≠ v.mould.cfg.bport ∧ halfOk v b.half = true ∧
    (sreg .tx b.rs v).toNat = 936 ∧ (sreg .tx b.stride v).toInt = 1 ∧ wldTFmt (codeFmt b.fmtw) = true ∧
    handlesOk .tx ({ h := b.h, epoch := none, needs := [.rd], rels := rels } ::
      handleExpUses v b.h (codeFmt b.fmtw) (wldTElems b rels)) v = .ok [demoX 1] := by
  unfold ready Claims.free; dsimp only; and_intros <;> decide +kernel

/-- One output of a 1 x 1 kernel over 32 channels. -/
theorem witness_ConvolutionAndDrainIssue_conv :
    let s := withRegs .tx [(2, BitVec.ofNat 64 (31 + 2 ^ 10 * 15)), (3, BitVec.ofNat 64 (2 ^ 20 * 32))] demoTiles
    let v := seen .tx 2 s
    let a : MxConvArgs := { rs := 1, cvg1 := 2, cvg2 := 3, w := 1, h := 1, port := 0, port2 := 1, clear := false, acc := 0
                            accum := false, half := false, fmta := 3, fmtw := 0, ftz := false }
    let g := readGeometry (sreg .tx 2 v) (sreg .tx 3 v)
    let cs := mxChunks v a.half a.acc.toNat g.n
    let w := convWeights v a g cs
    let ow := opdOf v none a.w a.fmtw
    let fm := codeFmt a.fmta
    ready .tx 2 s ∧ enginePresent 0 v = .ok () ∧ slotIsOpd a.w = true ∧ codesLegal [a.fmta, a.fmtw] = .ok () ∧
    Claims.free .tx [a.rs, a.cvg1, a.cvg2] v ∧ tilesReady (opdMask ow) 0 v = .ok () ∧ a.port ≠ v.mould.cfg.bport ∧
    a.port2 ≠ v.mould.cfg.bport ∧ halfOk v a.half = true ∧ cvg1Ok (sreg .tx 2 v) g = true ∧ (sreg .tx 3 v).toNat < 2 ^ 28 ∧
    nLimit v a.half g.n = true ∧ setsOk v a.half a.acc cs = true ∧ accsReady (chunkMask cs) v = .ok () ∧
    queuesOk .tx [(ow, w.2.2)] [] v = .ok () ∧ queuesReady [(ow, w.2.2)] [] v = .ok () ∧
    engineReady .tx (mxEngine a.half) v = .ok () ∧ sourcesFull [ow] v = .ok () ∧ badTypes v a.accum false (chunkMask cs) = none ∧
    convFmt fm = true ∧ badFormat mxeFmt ow = none ∧ (∀ e ∈ convElems g, e < g.rows * rowElems fm) ∧ sourceBad ow w.2.1 = [] ∧
    handlesOk .tx ({ h := a.h, epoch := none, needs := [.rd], rels := strided 0 g.rows 1 } ::
      handleExpUses v a.h fm ((convElems g).map (fun i => 0 * rowElems fm + i)) ++ opdExpUses ow 0 w.2.1) v = .ok [demoX 1] := by
  unfold ready Claims.free; dsimp only; and_intros <;> decide +kernel

/-- The drain of the last sixteen rows of set 3. -/
theorem witness_ConvolutionAndDrainIssue_drain :
    let s := withRegs .tx [(1, BitVec.ofNat 64 (240 + 2 ^ 8 * 16))] demoTiles
    let v := seen .tx 2 s
    let b : MxDrainArgs := { drd := 1, d := 3, acc := 3, nset := 0, half := false, conv := demoConv 0 7 }
    let d := sreg .tx b.drd v
    let od := opdOf v none b.d b.conv.dfmt
    let dst := drainDest v b 512
    ready .tx 2 s ∧ enginePresent 0 v = .ok () ∧ slotIsOpd b.d = true ∧ convLegal b.conv = .ok () ∧ Claims.free .tx [b.drd] v ∧
    tilesReady 0 (opdMask od) v = .ok () ∧ halfOk v b.half = true ∧ v.mould.cfg.half = false ∧ (∀ i ∈ drainSets b, i < 4) ∧
    b.conv.amx.toNat < 8 ∧ d.toNat < 2 ^ 17 ∧ 32 * ((drainSets b).length * field d 8 9) = 512 ∧
    1 ≤ field d 8 9 ∧ field d 0 8 + field d 8 9 ≤ 256 ∧ accsReady (setMask (drainSets b)) v = .ok () ∧
    queuesOk .tx [] [dst] v = .ok () ∧ queuesReady [] [dst] v = .ok () ∧
    engineReady .tx (drainEngine v b.half) v = .ok () ∧ shapeBad od (codeFmt b.conv.dfmt) 512 = [] := by
  unfold ready Claims.free; dsimp only; and_intros <;> decide +kernel

/-- A VX.EW that adds two tiles. -/
def demoEw (dfmt amx : BitVec 4) : VxEwArgs :=
  { vxd := 1, bb := 0, i0 := 0, i1 := 1, i2 := noSlot, d := 3, uop := 1, num := false, wf := 0, group := false
    f0 := 0, f1 := 0, f2 := 0, conv := demoConv dfmt amx }

/-- 512 elements; the result is not converted, and gathered. -/
theorem witness_ElementwiseInstructionsIssue :
    let s := withRegs .tx [(1, 512)] demoTiles
    ready .tx 2 s ∧ slotsLegal [(0 : Slot), 1, noSlot, 3] = .ok () ∧ codesLegal [0, 0, 0, 0] = .ok () ∧ (uopArity 1).isSome = true ∧
    enginePresent 2 s = .ok () ∧ ewWf (demoEw 0 8) = none ∧ convLegal (demoEw 0 8).conv = .ok () ∧
    ewReady none (ewArgs (demoEw 0 8)) (ewNin (demoEw 0 8)) .fp32 true (seen .tx 2 s) ∧
    ewReady none (ewArgs (demoEw 0 7)) (ewNin (demoEw 0 7)) .fp32 true (seen .tx 2 s) := by
  unfold ready ewReady vxReady Claims.free; dsimp only
  and_intros
  all_goals first
    | decide +kernel
    | exact exists_of_toOption (by decide +kernel)

theorem witness_ElementwiseInstructionsIssue_c3 :
    let s := modThread .tx (fun h => { h with c3 := true }) (withRegs .tx [(1, 512)] demoTiles)
    let e := demoEw 0 0
    let r : ShapeRecs := { r0 := 31 + 2 ^ 5 * 63 + 2 ^ 11 * 3, r1 := 31 + 2 ^ 5 * 63 + 2 ^ 11 * 3, r2 := 0, r3 := 31 + 2 ^ 5 * 15 }
    let c3 := { e with conv := c3Conv e.conv }
    ready .tx 3 s ∧ s.tx.c3 = true ∧ c3ConvZero e.conv = true ∧ (∀ p ∈ c3EwSlots e r, recLegal p.1 p.2 = true) ∧
    recOverflow (c3EwSlots e r) = none ∧
    ewReady (some (c3Ew e r)) (ewArgs c3) (ewNin c3) .fp32 true (seen .tx 3 s) := by
  unfold ready ewReady vxReady Claims.free; dsimp only
  and_intros
  all_goals first
    | decide +kernel
    | exact exists_of_toOption (by decide +kernel)
    | (intro p h; fin_cases h <;> decide +kernel)

/-- An EP.RUN of one input with broadcasts from s28 on. -/
theorem witness_ElementwiseInstructionsIssue_ep :
    let p : Program := { wf := 0, nin := 1, uops := [0x2806#32], consts := [] }
    let s := withRegs .tx [(1, 512)] { demoTiles with vx := { demoTiles.vx with slots := [(7, some p)] } }
    let b : EpRunArgs := { vxd := 1, bb := 28, i0 := 0, i1 := noSlot, i2 := noSlot, d := 3, slot := 7, group := false
                           f0 := 0, f1 := 0, f2 := 0, conv := demoConv 0 8 }
    ready .tx 2 s ∧ slotsLegal [b.i0, b.i1, b.i2, b.d] = .ok () ∧ codesLegal [b.f0, b.f1, b.f2] = .ok () ∧
    convLegal b.conv = .ok () ∧ enginePresent 2 s = .ok () ∧
    vxSlot s b.slot.toNat = some p ∧ ewReady none (epArgs b) p.nin (codeFmt p.wf) false (seen .tx 2 s) := by
  unfold ready ewReady vxReady Claims.free; dsimp only
  and_intros
  all_goals first
    | decide +kernel
    | exact exists_of_toOption (by decide +kernel)

/-- A reduction to a register, one to a token queue, and a TDC-3 reduction. -/
theorem witness_ReductionsScansAndConversionsIssue_red :
    let s := modThread .tx (fun h => { h with c3 := true }) (withRegs .tx [(1, 2048)] demoTiles)
    let a : VxRedArgs := { vxd := 1, sd := 2, i0 := 0, op := 7, num := false, pre := 8, group := false, kqx := 0, f0 := 0
                           rnd := 0, ftz := false, ieee := false }
    let r : ShapeRecs := { r0 := 31 + 2 ^ 5 * 63 + 2 ^ 11 * 3, r1 := 0, r2 := 0, r3 := 0 }
    ready .tx 2 s ∧ ready .tx 3 s ∧ s.tx.c3 = true ∧
    redReady none a (seen .tx 2 s) ∧ redReady none { a with sd := 0, kqx := 7, op := 0 } (seen .tx 2 s) ∧
    recLegal a.i0 r.r0 = true ∧ recOverflow [(a.i0, r.r0)] = none ∧ redReady (c3Carried a.i0 r.r0) a (seen .tx 3 s) := by
  unfold ready redReady vxReady Claims.free; dsimp only
  and_intros
  all_goals first
    | decide +kernel
    | exact exists_of_toOption (by decide +kernel)

/-- A scan and a segmented scan of 512 elements. -/
theorem witness_ReductionsScansAndConversionsIssue_scan :
    let s := withRegs .tx [(1, 512)] demoTiles
    let b : VxScanArgs := { vxd := 1, b0 := 2, tot := 3, i0 := 0, mask := 1, d := 3, op := 0, exc := false, pre := 8, group := false
                            f0 := 0, conv := demoConv 0 7 }
    ready .tx 2 s ∧ scanReady false b (seen .tx 2 s) ∧ scanReady true { b with op := 2 } (seen .tx 2 s) := by
  unfold ready scanReady vxReady Claims.free; dsimp only
  and_intros
  all_goals first
    | decide +kernel
    | exact exists_of_toOption (by decide +kernel)

/-- Conversions of 512 elements. -/
theorem witness_ReductionsScansAndConversionsIssue_cvt :
    let s := modThread .tx (fun h => { h with c3 := true }) (withRegs .tx [(1, 512)] demoTiles)
    let c : CvtArgs := { vxd := 1, i0 := 0, d := 3, group := false, f0 := 0, conv := demoConv 0 0 }
    let r : ShapeRecs := { r0 := 31 + 2 ^ 5 * 63 + 2 ^ 11 * 3, r1 := 31 + 2 ^ 5 * 15, r2 := 0, r3 := 0 }
    ready .tx 2 s ∧ ready .tx 3 s ∧ s.tx.c3 = true ∧
    cvtReady none none c (seen .tx 2 s) ∧ c3ConvZero c.conv = true ∧ recLegal c.i0 r.r0 = true ∧ recLegal c.d r.r1 = true ∧
    recOverflow [(c.i0, r.r0), (c.d, r.r1)] = none ∧
    cvtReady (c3Carried c.i0 r.r0) (c3Carried c.d r.r1) (c3Cvt c) (seen .tx 3 s) := by
  unfold ready cvtReady vxReady Claims.free; dsimp only
  and_intros
  all_goals first
    | decide +kernel
    | exact exists_of_toOption (by decide +kernel)

/-- A step of sixteen rows, and the update of one listed row; the list is tile 5, the gradients are tile 0. -/
theorem witness_GlazeInstructionsIssue :
    let s := withRegs .tx [(1, 16), (2, 0xFFFFFFFD), (4, 1)] { demoTiles with
      handles := [(1, demoHandle false 0), (2, demoHandle false 1024), (4, demoHandle false 2048)]
      glz := { demo.glz with curve := 1, groups := [(1, { Group.reset with lzy := true })] } }
    let a : GlzArgs := { gzd := 1, t := 2, sd := 3, list := 5, grad := 0, ch := 2, g := 0, hp := 1, port := 0, port2 := 1
                         pfmt := 0, gfmt := 3, adv := true, rnd := 0, ftz := false, ieee := false }
    let x (h : BitVec 8) (b : BitVec 12) : Xlate := { demoX 1 with h := h, map := (demoHandle false b).cur }
    ready .tx 2 s ∧ glazeReady false a [x 1 0, x 2 1024, x 1 0] (seen .tx 2 s) ∧
    glazeReady true { a with g := 1, gzd := 4 } [x 1 0, x 2 1024, x 4 2048, x 1 0] (seen .tx 2 s) := by
  unfold ready glazeReady Claims.free; dsimp only
  and_intros
  all_goals first
    | decide +kernel
    | exact exists_of_toOption (by decide +kernel)

/-- An E4M3 shape at the largest and at a smaller size, one that no tile has, a tile that an instruction in flight names, and a program
of one ADD in tiles 13 to 15. -/
theorem witness_TileConfiguration :
    (let s := withRegs .tx [(1, BitVec.ofNat 64 (31 + 2 ^ 5 * 63 + 2 ^ 11 * 3))] demo
     let v := seen .tx 1 s
     ready .tx 1 s ∧ (0x8001 : BitVec 16) ≠ 0 ∧ memoriesCanonical s ∧ shapeOk 32 64 3 = true ∧ shapeOk 1 1 3 = true ∧
     shapeOk 32 3 0 = false ∧ tilesNamed 0x8001 v = false ∧ Claims.free .tx [1] v ∧
     (sreg .tx 1 v).toNat % 2 ^ 20 = (31 : BitVec 5).toNat + 2 ^ 5 * (63 : BitVec 6).toNat + 2 ^ 11 * (3 : BitVec 4).toNat) ∧
    (let s := withFlight { newFlight .tx (.nop .tx) (.vxe false) demo with rdTiles := 1, begun := true } demo
     ready .tx 1 s ∧ tilesNamed 1 (seen .tx 1 s) = true) ∧
    (let s := withTiles [(13, fullCfg 32 64 .e4m3), (14, fullCfg 32 64 .e4m3), (15, fullCfg 32 64 .e4m3)] { demo with
       tiles := { demo.tiles with data := [(26624, 1), (26625, 0x82), (30720, 1), (30722, 2)] } }
     ready .tx 1 s ∧ (13 : BitVec 4).toNat ≤ 13 ∧ enginePresent 2 s = .ok () ∧ memoriesCanonical s ∧
     tilesReady (tileMask [13, 14, 15]) 0 (seen .tx 1 s) = .ok () ∧
     liveFlights (seen .tx 1 s) = [] ∧ tilesFull [13, 14, 15] s = .ok () ∧ s.upsets.parity = [] ∧
     (programOf (tileRow s 13 0) (tileRow s 14 0) (tileRow s 15 0)).isSome = true) := by
  unfold ready Claims.free memoriesCanonical; and_intros <;> decide +kernel

/-- The cluster without any engine. -/
theorem witness_WrongThreadAndAbsentEngineFault :
    let s := { demo with mould := { demo.mould with cfg := { demoCfg with engines := 0 } } }
    (ready .tx 1 s ∧ ready .tx 2 s ∧ ready .ta 1 s ∧ ready .ta 2 s ∧ ready .ta 3 s) ∧
    slotsLegal [tileSlot 0 1] = .ok () ∧ slotsLegal [tileSlot 0 1, noSlot, tileSlot 1 1, noSlot] = .ok () ∧
    codesLegal [0, 3] = .ok () ∧ convLegal (demoConv 0 0) = .ok () ∧ (rndOfCode 0).isSome = true ∧
    (∀ k ∈ [0, 1, 2, 3, 4], s.mould.cfg.engines.getLsbD k = false) := by
  unfold ready; decide +kernel

/-- A test of a kind on row 1024 of handle 2. -/
def demoTest (k : TestKind) : TagTest := { phys := 1024, h := 2, rel := 0, kind := k, passed := false }

/-- The cluster with the tag of row 1024. -/
def withTag (g : Tag) (s : State) : State := { s with ls := { s.ls with tags := Sparse.set .empty s.ls.tags 1024 g, waitLimit := 5 } }

/-- Table 04.3: each kind of test on each tag. -/
theorem test_tag_tests :
    (tagTest (demoTest .write) (withTag .empty demo)).1.passed = true ∧ (tagTest (demoTest .write) (withTag .full demo)).1.passed = false ∧
    (tagTest (demoTest .keep) (withTag .rclaim demo)).1.passed = true ∧ (tagTest (demoTest .clear) (withTag .rclaim demo)).1.passed = false ∧
    getTag (tagTest (demoTest .clear) (withTag .full demo)).2 1024 = .rclaim := by decide +kernel

theorem witness_TagTestsClaim : (demoTest .write).passed = false := rfl

/-- An instruction that waits for its tag, beyond the limit: the tag comes, or it does not. -/
theorem witness_TagWaitsEnd :
    let f : Flight :=
      { newFlight .ta (.lsRd .ta demoLs) .sequencer demo with tests := [demoTest .keep], tested := 1, tagWait := 6 }
    waitsOnTags f = true ∧ unjudged f = false ∧ testFailed f = true ∧
    (let s := withFlight f (withTag .full demo)
     findFlight f.id s = some f ∧ allPassed (testCycle f s).1 = true ∧
     (tagWaiting f.id (passUntil (fun s => (tagWaiting f.id s).isNone) 2 (passLull s))).isNone = true) ∧
    (let s := withFlight f (withTag .wclaim demo)
     findFlight f.id s = some f ∧ testFailed (testCycle f s).1 = true ∧ gated f s = false ∧ s.ls.waitLimit ≠ 0 ∧
     s.ls.waitLimit.toNat < f.tagWait ∧ (getThread f.thread s).phase = .normal ∧ (getThread f.thread s).stopped = false ∧
     (getThread f.thread s).paused = false) ∧
    (let s := modThread .ta (fun h => { h with paused := true }) (withFlight f (withTag .wclaim demo))
     findFlight f.id s = some f ∧ gated f s = false ∧ s.ls.waitLimit ≠ 0 ∧ s.ls.waitLimit.toNat < f.tagWait ∧
     (getThread f.thread s).paused = true) := by decide +kernel

/-- A LS.RD whose next row is clean or uncorrectable. -/
theorem witness_ReadsReturn :
    let d : DueRead := { phys := 9, rel := 9, data := zeroRow, bad := none, ready := 0, act := .hold }
    let f : Flight := { newFlight .ta (.lsRd .ta demoLs) .sequencer demo with begun := true, due := [d] }
    let g : Flight := { f with due := [{ d with bad := some 63 }] }
    (reach (readDue f.id) (withFlight f demo) = some (withFlight f demo) ∧ findFlight f.id (withFlight f demo) = some f ∧
      f.faulted = none ∧ gated f (withFlight f demo) = false ∧ f.due = d :: [] ∧ d.bad = none) ∧
    (reach (readDue g.id) (withFlight g demo) = some (withFlight g demo) ∧ findFlight g.id (withFlight g demo) = some g ∧
      g.faulted = none ∧ gated g (withFlight g demo) = false ∧ g.due = { d with bad := some 63 } :: []) := by
  decide +kernel

/-- A LS.RD that has read its rows, with the first register at the last row of SDM. -/
theorem witness_InstructionsComplete :
    let f0 := newFlight .ta (.lsRd .ta demoLs) .sequencer (withRegs .ta [(1, 0x3FE00)] demo)
    let f : Flight := { f0 with begun := true, got := [(List.replicate 512 7, none)] }
    let s := withFlight f (withRegs .ta [(1, 0x3FE00)] demo)
    reach (accessesDone f.id) s = some s ∧ findFlight f.id s = some f ∧ isDone f s = true ∧ gated f s = false ∧
    f.instr = .lsRd f.thread demoLs ∧ f.commit = Commit.empty ∧ memoriesCanonical s ∧ (snapReg f demoLs.sa).toNat = 0x3FE00 := by
  unfold memoriesCanonical; decide +kernel

/-- A commit with a register, and one with an AMAX register. -/
theorem witness_CommitsCountNumericEvents :
    let f := newFlight .ta (.lsRd .ta demoLs) .sequencer demo
    f.tensor = true ∧ f.commit.counters = [] ∧ f.commit.events = [] ∧ memoriesCanonical demo ∧ threadsWellFormed demo :=
  ⟨by decide +kernel, by decide +kernel, by decide +kernel, witness_invariants.1, witness_invariants.2.1⟩

/-- A thread in this phase, with this handler. -/
def inPhase (ph : Phase) (hvec : BitVec 48) (hact : Bool) (s : State) : State :=
  modThread .ta (fun h => { h with phase := ph, hvec := hvec, hact := hact }) s

/-- A fault. -/
def demoFault : FaultRec := { fc := 1, pc := 0x40, fval := 0 }

/-- A thread with an issue fault, and one with an instruction in flight that has faulted. -/
theorem witness_HandlersAreEntered :
    let f : Flight := { newFlight .ta (.lsRd .ta demoLs) .sequencer demo with faulted := some demoFault }
    let a := inPhase (.issueFault demoFault) 0x1000 false demo
    let b := inPhase .execFault 0x1000 false (withFlight f demo)
    (a.run.retained = false ∧ (getThread .ta a).hact = false ∧ (getThread .ta a).reissuing = false ∧ (getThread .ta a).hvec ≠ 0 ∧
     (getThread .ta a).phase = .issueFault demoFault) ∧
    (b.run.retained = false ∧ (getThread .ta b).hact = false ∧ (getThread .ta b).reissuing = false ∧ (getThread .ta b).hvec ≠ 0 ∧
     (getThread .ta b).phase = .execFault ∧ b.flights = [f] ∧ f.faulted ≠ none ∧
     (b.flights.filter (fun f => f.thread == .ta && f.faulted.isSome)).map flightEntry = [flightEntry f]) := by
  decide +kernel

/-- A fault without a handler, and one in a handler. -/
theorem witness_UnhandledFaultsStopTheThread :
    let a := inPhase (.issueFault demoFault) 0 false demo
    let b := inPhase (.issueFault demoFault) 0x1000 true demo
    (a.run.retained = false ∧ (getThread .ta a).phase = .issueFault demoFault ∧ (getThread .ta a).reissuing = false ∧
     (getThread .ta a).hact = false ∧ (getThread .ta a).hvec = 0 ∧ a.evt.queue.length < 64) ∧
    (b.run.retained = false ∧ (getThread .ta b).phase = .issueFault demoFault ∧ (getThread .ta b).reissuing = false ∧
     (getThread .ta b).hact = true ∧ b.evt.queue.length < 64) := by
  decide +kernel

/-- Both threads on queues for 2^24 cycles, releases that wait, and a DRAINING handle. -/
theorem witness_WaitsEnd :
    (let s := { modThread .ta (fun h => { h with wait := .queue 0 }) (modThread .tx (fun h => { h with wait := .queue 11 }) demo) with
       queues := { demo.queues with idle := 2 ^ 24 } }
     s.run.state = .run ∧ s.ta.wait = .queue 0 ∧ s.tx.wait = .queue 11 ∧ 2 ^ 24 ≤ s.queues.idle ∧ s.evt.queue.length < 64) ∧
    (∀ i ∈ [Instr.unbind .ta 1 1, .bind .ta 1 1],
     let f : Flight := { newFlight .ta i .sequencer demo with releases := [.ta] }
     let s := withFlight f demo
     s.flights = [f] ∧ f.instr = i ∧ f.releases = [.ta] ∧ releaseWaits .ta 1 s = false) ∧
    (let s := { demo with handles := [(1, { demoHandle false 0 with state := .draining })] }
     (getHandle s 1).state = .draining ∧ handleIdle s 1 = true) := by decide +kernel

/-- The last row of a stack to scrub with an uncorrectable error, a row with a rewrite due, and two stacks that are due a slot. -/
theorem witness_ScrubbersRun :
    (let s := { demo with ls := { demo.ls with ptr := [(23, 0xFFF)], double := [(98303, 1)], single := [(4095, 2)] } }
     idleCycle 23 s = some s ∧ dueWriteBack s 23 = none ∧ memoriesCanonical s ∧
     (Sparse.get 0 s.ls.ptr 23).toNat = 0xFFF ∧ (rowBad s 98303).isSome = true ∧ rowCorrectable s 4095 = true ∧
     s.evt.queue.length < 64) ∧
    (let s := { demo with ls := { demo.ls with rewrites := [5] } }
     idleCycle 0 s = some s ∧ dueWriteBack s 0 = some 5) ∧
    (let s := { demo with ls := { demo.ls with starve := [(0, 2 ^ 20), (23, 2 ^ 20)] } }
     memoriesCanonical s ∧ (List.range 24).filter (fun j => (0x800003#24).getLsbD j && starved (passLull s) j) = [0, 23]) := by
  unfold memoriesCanonical; decide +kernel

/-- The cluster with a command in progress. -/
def busyIn (op : BitVec 8) (s : State) : State := { s with cmd := { s.cmd with op := op, status := .busy } }

/-- The cluster with both threads stopped. -/
def stoppedThreads (s : State) : State :=
  modThread .ta (fun h => { h with paused := true }) (modThread .tx (fun h => { h with paused := true }) s)

/-- An entry to SAFE that is due does not meet the Bridle's own states. -/
abbrev keeps (s : State) : Prop := s.run.safeDue = true → s.run.owner ≠ .bridle

/-- Each command in a state that accepts it. -/
theorem witness_RunStateCommands :
    halvesAgree demo ∧ (hostMay 0x01 (demoIn .ready .host) ∧ keeps (demoIn .ready .host)) ∧ hostMay 0x02 demo ∧
    (let s := busyIn 2 (stoppedThreads demo)
     busyWith s 0x02 = true ∧ s.ta.paused = true ∧ s.tx.paused = true ∧ keeps s) ∧
    (hostMay 0x03 (demoIn .pause .host) ∧ (demoIn .pause .host).run.state = .pause ∧ keeps (demoIn .pause .host)) ∧
    (let s := demoIn .safe .bridle
     let s := { s with run := { s.run with safeCause := .splitAuthority, held := .run } }
     let r := { s with brg := { s.brg with restarting := true } }
     hostMay 0x03 s ∧ s.run.state = .safe ∧ s.brg.restarting = false ∧ hostMay 0x03 r ∧ r.brg.restarting = true) ∧
    (hostMay 0x05 (demoIn .ready .host) ∧ keeps (demoIn .ready .host)) ∧
    (hostMay 0x06 (demoIn .maint .host) ∧ (demoIn .maint .host).mould.pendingFlag = false ∧ keeps (demoIn .maint .host)) ∧
    (let s := stoppedThreads demo
     let s := { s with run := { s.run with safeDue := true } }
     halvesAgree s ∧ s.run.safeDue = true ∧ canEnterSafe s.run.state = true ∧ s.run.state = .run ∧ s.ta.paused = true ∧ s.tx.paused = true) ∧
    (let s := demoIn .ready .host
     let s := { s with run := { s.run with safeDue := true } }
     s.run.safeDue = true ∧ canEnterSafe s.run.state = true ∧ s.run.state ≠ .run) ∧
    (let s := demoIn .safe .bridle
     let s := { s with run := { s.run with safeCause := .splitAuthority, west := copyOf demo.run } }
     s.run.west ≠ s.run.east ∧ hostMay 0x03 s ∧ s.run.state = .safe ∧ s.evt.queue.length < 64) := by
  unfold halvesAgree hostMay; dsimp only; and_intros <;> decide +kernel

/-- The steps 0 and 15, each command in a state that accepts it, and a step that the synthesiser locks to for each. -/
theorem witness_StepChanges :
    (hostMay 0x10 demo ∧ demo.stage.pending = false) ∧
    (let s := { demo with cmd := { demo.cmd with arg0 := 15 } }
     halvesAgree s ∧ hostMay 0x11 s ∧ s.cmd.arg0.toNat = (15 : BitVec 4).toNat ∧ s.clk.step = 0) ∧
    hostMay 0x12 (demoIn .pause .host) ∧
    (let s := demoIn .pause .host
     hostMay 0x13 { s with run := { s.run with retained := true } }) ∧
    (let s := busyIn 0x11 { demo with clk := { demo.clk with target := some 15 } }
     s.clk.target = some 15 ∧ busyWith s 0x11 = true ∧ s.brg.retuneWait = false ∧ s.evt.queue.length < 64) ∧
    busyWith (busyIn 0x12 demo) 0x12 = true ∧ busyWith (busyIn 0x13 demo) 0x13 = true := by
  unfold halvesAgree hostMay; decide +kernel

/-- The last handle in each state, an eviction with and without a candidate, a session to resume and one to park, and a port
that is enabled and one that is not. -/
theorem witness_HandleSessionAndLinkCommands :
    let named (st : HState) (s : State) : State :=
      { s with handles := [(255, { demoHandle false 0 with state := st })], cmd := { s.cmd with arg0 := 255 } }
    (let s := named .bound demo
     halvesAgree s ∧ s.cmd.arg0 = (255 : BitVec 8).setWidth 32 ∧ hostMay 0x20 s ∧ hostMay 0x22 s ∧ (getHandle s 255).state = .bound ∧
     evictChoice (passLull s) = some 255 ∧ hostMay 0x23 s) ∧
    (let s := named .pinned demo
     hostMay 0x21 s ∧ (getHandle s 255).state = .pinned ∧ evictChoice (passLull s) = none ∧ hostMay 0x23 s) ∧
    (let s := { demo with
       handles := [(1, demoHandle false 0)]
       cmd := { demo.cmd with arg0 := 1 }
       sess := { demo.sess with used := 2, handle := 1, rows := 2, entries := [(1, { Session.reset with state := .parked })] } }
     hostMay 0x18 s ∧ s.cmd.arg0.toNat < s.sess.used.toNat ∧ s.mould.cfg.engines.getLsbD 4 = true ∧
     resumeOk (sessTouch 1 s) 1 = true) ∧
    (let s := { demo with
       cmd := { demo.cmd with arg0 := 0 }
       sess := { demo.sess with used := 1, rows := 2, entries := [(0, { Session.reset with state := .ready, credits := 1 })] } }
     hostMay 0x19 s ∧ s.cmd.arg0.toNat < s.sess.used.toNat ∧ s.mould.cfg.engines.getLsbD 4 = true ∧ parkOk (sessTouch 0 s) 0 = true) ∧
    (let s := { demo with cmd := { demo.cmd with arg0 := 3 } }
     hostMay 0x28 s ∧ s.cmd.arg0 = (3 : BitVec 2).setWidth 32 ∧ portEnabled s 3 = true) ∧
    (let s := busyIn 0x28 (setPort 0 { getPort demo 0 with retrain := true } demo)
     (getPort s 0).retrain = true ∧ busyWith s 0x28 = true ∧ s.cmd.arg0 = (0 : BitVec 2).setWidth 32) := by
  unfold halvesAgree hostMay; decide +kernel

/-- A write before step 8, while a command is BUSY, and in a state where the command is not legal. -/
theorem witness_RejectedCommandsHaveNoSideEffect :
    hostCode .start = some 0x01 ∧ portOpen demo = true ∧ commandLegal demo 0x01 = false ∧
    (busyIn 2 demo).cmd.status = .busy ∧ demo.evt.queue.length < 64 ∧
    (let s := demoIn .bisque .bridle
     portOpen s = true ∧ blockOpen s 0x200 = false) := by decide +kernel

/-- CRC-32C over a register that Lean's kernel evaluates at every byte. -/
def crcRun : Bytes → Nat → Word32
  | [], c => BitVec.ofNat 32 c
  | b :: bs, 0 => crcRun bs (crcByte 0 b).toNat
  | b :: bs, c + 1 => crcRun bs (crcByte (BitVec.ofNat 32 (c + 1)) b).toNat

theorem crcRun_eq_foldl (bs : Bytes) (c : Word32) : crcRun bs c.toNat = bs.foldl crcByte c := by
  induction bs generalizing c with
  | nil => simp [crcRun]
  | cons b bs ih =>
    rw [List.foldl_cons, ← ih]
    cases h : c.toNat with
    | zero => simp only [crcRun]; rw [show c = 0 from BitVec.eq_of_toNat_eq (by simpa using h)]
    | succ n => simp only [crcRun]; rw [← h]; simp

theorem crc32c_eq_run (bs : Bytes) : crc32c bs = ~~~ crcRun bs 0xFFFFFFFF := by
  have h := crcRun_eq_foldl bs 0xFFFFFFFF
  unfold crc32c; rw [← h]; rfl

/-- The check value of CRC-32C: the CRC of the characters 1 to 9. -/
theorem test_crc : crc32c ((List.range 9).map (fun k => BitVec.ofNat 8 (0x31 + k))) = 0xE3069283 := by decide +kernel

/-- A Mould stream of an FSTEP record (Tables 16.4, 16.5). -/
def demoStream : List Word64 :=
  [BitVec.ofNat 64 (1 + 2 ^ 16 * 4 + 2 ^ 32 * 19), BitVec.ofNat 64 (0x0A + 2 ^ 8 * 16)] ++ demoSteps.map (fun e => e.setWidth 64) ++
    [BitVec.ofNat 64 (0xFF + 2 ^ 16 * 1118652833)]

/-- The stream is accepted; with its last word missing it is refused with FORMAT at word 0, with another CRC with CRC, and when its
first row could not be read with READ. -/
theorem test_stream :
    (checkStream demo.build demo.fuses none demoStream).toOption.map (fun c => (c.cfg.fsteps, c.crc, c.length)) =
      some (demoSteps, 1118652833, 19) ∧
    checkStream demo.build demo.fuses none (demoStream.take 18) = .error (0x02, 0) ∧
    checkStream demo.build demo.fuses none (demoStream.take 18 ++ [0xFF]) = .error (0x03, 18) ∧
    checkStream demo.build demo.fuses (some 0) demoStream = .error (0x01, 0) := by
  simp only [checkStream, crc32c_eq_run]; decide +kernel

/-- The row of the stream. -/
def demoStreamRow : Bytes := fitBytes 512 (demoStream.flatMap (fun w => leBytes 8 w.toNat))

/-- The cluster with that row read. -/
def withStream (s : State) : State :=
  { s with mould := { s.mould with rows := [(0, demoStreamRow)], crc := 1118652833, length := 19 } }

/-- What a check of a stream yields. -/
theorem exists_checked {x : Except (Nat × Nat) Checked} {p : List Word32 × Word32 × Nat}
    (h : x.toOption.map (fun c => (c.cfg.fsteps, c.crc, c.length)) = some p) : ∃ c, x = .ok c ∧ c.crc = p.2.1 ∧ c.length = p.2.2 := by
  cases x with
  | error e => cases h
  | ok c => exact ⟨c, rfl, by cases h; exact ⟨rfl, rfl⟩⟩

/-- The stream that was read in MAINT is accepted. -/
theorem demo_stream_accepted (s : State) (h : checkRead s = checkStream demo.build demo.fuses none demoStream) :
    ∃ c, checkRead s = .ok c ∧ c.crc = 1118652833 ∧ c.length = 19 := by
  rw [h]; exact exists_checked test_stream.1

/-- A load, a stream that is refused and one that is accepted, at bisque start and in MAINT, a refire with it, and a life-cycle step
out of FIELD with a ticket and without. -/
theorem witness_MouldRefireAndLifeCycle :
    (let s := { demoIn .maint .host with cmd := { demo.cmd with arg0 := 512, arg1 := 0xFFFF } }
     halvesAgree s ∧ hostMay 0x07 s ∧ s.cmd.arg0.toNat % 512 = 0 ∧ s.cmd.arg1.toNat < 2 ^ 16) ∧
    (let s := busyIn 7 (demoIn .maint .host)
     let s := { s with mould := { s.mould with failed := some 0 } }
     halvesAgree s ∧ busyWith s 0x07 = true ∧ streamEnded s = true ∧ checkRead s = .error (1, 0)) ∧
    (let s := withStream (busyIn 7 (demoIn .maint .host))
     halvesAgree s ∧ busyWith s 0x07 = true ∧ streamEnded s = true ∧ s.run.safeDue = false ∧ ∃ c, checkRead s = .ok c) ∧
    hostMay 0x04 demo ∧
    (let s := withStream (demoIn .refire .bridle)
     halvesAgree s ∧ s.run.state = .refire ∧ s.brg.restarting = false ∧ (refireOf 0 12).failStep = 0 ∧ (refireOf 4 12).failStep ≠ 0 ∧
     streamEnded s = true ∧ s.run.safeDue = false ∧ s.mbx.status ≠ .busy ∧
     ∃ c, checkRead s = .ok c ∧ c.crc = s.mould.crc ∧ c.length = s.mould.length.toNat) ∧
    (let s := { demoIn .maint .host with cmd := { demo.cmd with arg0 := 7 } }
     let r := { s with brg := { s.brg with restarting := true } }
     halvesAgree s ∧ hostMay 0x08 s ∧ lcTargetOk s = true ∧ s.run.lc ≠ 2 ∧ s.brg.restarting = false ∧
     hostMay 0x08 r ∧ lcTargetOk r = true ∧ r.brg.restarting = true) ∧
    (let s := { demoIn .maint .host with cmd := { demo.cmd with arg0 := 3 } }
     let s := { s with run := { s.run with lc := 2 } }
     hostMay 0x08 s ∧ lcTargetOk s = true ∧ s.run.lc = 2 ∧ ticketOk s = false ∧
     ticketOk { s with brg := { s.brg with ticket := some (3, 0) } } = true) := by
  unfold halvesAgree hostMay
  refine ⟨by decide +kernel, by decide +kernel, ?_, by decide +kernel, ?_, by decide +kernel, by decide +kernel⟩
  · refine ⟨by decide +kernel, by decide +kernel, by decide +kernel, by decide +kernel, ?_⟩
    obtain ⟨c, h, _⟩ := demo_stream_accepted (withStream (busyIn 7 (demoIn .maint .host))) (by
      unfold checkRead; rw [show streamWords _ = demoStream by decide +kernel]; rfl)
    exact ⟨c, h⟩
  · refine ⟨by decide +kernel, by decide +kernel, by decide +kernel, by decide, by decide, by decide +kernel, by decide +kernel,
      by decide +kernel, ?_⟩
    obtain ⟨c, h, h1, h2⟩ := demo_stream_accepted (withStream (demoIn .refire .bridle)) (by
      unfold checkRead; rw [show streamWords _ = demoStream by decide +kernel]; rfl)
    exact ⟨c, h, h1, h2⟩

/-- An image that the ROM cannot read. -/
def badImage : ImageRead := { imageOf 0 1 with readsOk := false }

/-- A start without an image, one after LC_SET that ends in each way, and an OFF cluster. -/
theorem witness_PinsAndBisqueStart :
    (demoIn .off .bridle).run.state = .off ∧ demo.run.state ≠ .off ∧ halvesAgree (demoIn .off .bridle) ∧
    (let s := State.reset
     let o := { startOf 0 12 with image0 := badImage, image1 := badImage }
     s.run.state = .bisque ∧ s.run.step ≠ 8 ∧ s.run.owner = .bridle ∧ halvesAgree s ∧ s.run.step.toNat ≤ 2 ∧
     (romOrder s.fuses o.image0 o.image1).find? (fun x => if x.1 = 0 then o.runs0 else o.runs1) = none) ∧
    (let s := { State.reset with run := { demoRun .bisque .bridle with step := 3 } }
     s.run.state = .bisque ∧ s.run.step ≠ 8 ∧ s.run.owner = .bridle ∧ halvesAgree s ∧ ¬ s.run.step.toNat ≤ 2 ∧
     startFailure s.build (startOf 0 12) = 0 ∧ (∀ c ∈ [2, 3, 5, 6, 7], startFailure s.build (startOf c 12) ≠ 0) ∧
     startFailure s.build { startOf 0 12 with badRows := (List.range 65).map (fun k => BitVec.ofNat 17 k) } = 4 ∧
     s.brg.retuneWait = false ∧ s.evt.queue.length < 61) := by
  unfold halvesAgree; decide +kernel

/-- A start in which an image that verifies runs: which image verifies is left to the signature. -/
theorem witness_PinsAndBisqueStart_image (x : ImageRead) (h : imageVerifies State.reset.fuses x = true) :
    let o := { startOf 0 12 with image0 := x, image1 := badImage }
    State.reset.run.step.toNat ≤ 2 ∧ startFailure State.reset.build o = 0 ∧
    ((romOrder State.reset.fuses o.image0 o.image1).find? (fun x => if x.1 = 0 then o.runs0 else o.runs1)).isSome = true := by
  have hb : imageVerifies State.reset.fuses badImage = false := rfl
  refine ⟨by decide +kernel, (by decide +kernel : startFailure State.reset.build (startOf 0 12) = 0), ?_⟩
  simp only [romOrder, startOf, h, hb]
  split <;> simp

/-- Both states of the port from which an instruction is loaded, and a state in which the cells drive. -/
theorem witness_TestAccessPort : demo.tap.state = .testLogicReset ∧
    ({ demo with tap := { demo.tap with state := .runTestIdle } } : State).tap.state = .runTestIdle ∧
    (demoIn .maint .host).run.state = .maint := by decide +kernel

/-- A wear record (Table 18.2) with offsets at their largest. -/
def demoRecord : List Word32 :=
  let ws := [0x57524331#32] ++ List.replicate 8 0 ++ [0x18] ++ List.replicate 53 0
  ws ++ [601572057#32]

/-- Each operation in a state that accepts it. -/
theorem witness_MailboxOperations :
    memoriesCanonical demo ∧ (∀ op ∈ [1, 2, 3, 7, 8, 11], mailboxMay op demo) ∧
    mailboxMay 0x05 { demo with mbx := { demo.mbx with arg0 := 1 } } ∧ mailboxMay 0x04 (demoIn .ready .host) ∧ mailboxMay 0x06 (demoIn .maint .host) ∧
    bridleRuns (demoIn .maint .host) = true ∧ mailboxMay 0x09 (demoIn .maint .host) ∧ mailboxMay 0x0A (demoIn .maint .host) := by
  unfold memoriesCanonical mailboxMay; and_intros <;> decide +kernel

/-- The cluster with a mailbox operation in progress. -/
def mailboxIn (op : BitVec 8) (s : State) : State := { s with mbx := { s.mbx with op := op, status := .busy } }

/-- Each operation in progress, a record that is accepted and one that is not, an image that is not verified, and both bounds of the
divisor. -/
theorem witness_MailboxOperations_end :
    (∀ op ∈ [(1 : BitVec 8), 2, 3, 4, 5, 7, 8, 9, 10, 11], mailboxRuns (mailboxIn op demo) = true ∧ (mailboxIn op demo).mbx.op = op) ∧
    (memoriesCanonical (setMbxWords demoRecord demo) ∧ wearOk (mailboxIn 4 (setMbxWords demoRecord demo)) = true) ∧
    wearOk (mailboxIn 4 demo) = false ∧ imageVerifies demo.fuses badImage = false ∧ demo.evt.queue.length < 64 ∧
    (67 ≤ (67#32).toNat ∧ (0xFFFF#32).toNat ≤ 65535) := by
  simp only [wearOk, crc32c_eq_run]; unfold memoriesCanonical; and_intros <;> decide +kernel

/-- The characters of a text. -/
def charsOf (l : String) : Bytes := l.toList.map (fun c => BitVec.ofNat 8 c.toNat)

/-- The samples of uart_rx in which these characters and CR arrive. -/
def samplesFor (cs : Bytes) : List Bool := (uartWave (cs ++ [13])).flatMap (List.replicate 16)

/-- Characters pass over the UART, and a start bit shorter than half a bit is ignored (R389). -/
theorem test_uart :
    let xs := samplesFor (charsOf "HI")
    uartReceive xs.length xs = charsOf "HI" ++ [13] ∧
    (let ys := List.replicate 7 false ++ true :: xs
     uartReceive ys.length ys = charsOf "HI" ++ [13]) := by decide +kernel

/-- The three kinds of access, and the third failure. -/
theorem witness_MonitorAnswers :
    (bridleRuns demo = true ∧ demo.mon.access = .opened ∧ demo.evt.queue.length < 64) ∧
    (let s := { demo with mon := { demo.mon with access := .locked, token := some 9, fails := 2 } }
     bridleRuns s = true ∧ s.mon.access = .locked ∧ s.mon.access ≠ .closed ∧ (9 : BitVec 64) ≠ 0 ∧ s.mon.token = some 9 ∧
     3 ≤ s.mon.fails + 1) ∧
    (let s := { demo with mon := { demo.mon with access := .closed } }
     bridleRuns s = true ∧ s.mon.access = .closed) ∧
    ((0x602E : BitVec 16).toNat % 2 = 0 ∧ (0x602E : BitVec 16).toNat < 0x7000 ∧ regCounter demo 0x602E ≠ none ∧
      (0x602E : BitVec 16) ≠ 0x6000) := by decide +kernel

/-- The lines that the statement spells out, no line, and one that is too long. -/
theorem witness_MonitorAnswers_lines :
    (∀ t ∈ ["STATE", "LOG 64", "CNT FAULT TX"],
      (lineOf (uartReceive (samplesFor (charsOf t)).length (samplesFor (charsOf t)))).map lineChars = some t.toList) ∧
    lineOf (uartReceive ([] : List Bool).length []) = none ∧
    (let xs := samplesFor (List.replicate 81 0x41)
     (lineOf (uartReceive xs.length xs)).map List.length = some 81) := by decide +kernel

/-- Each access in a state that takes it, at the bounds of its addresses. -/
theorem witness_CsrAccesses :
    (let s := { demo with sess := { demo.sess with used := 2, idx := 1, data := 0x1, entries := [(1, { Session.reset with state := .parked })] } }
     memoriesCanonical s ∧ csrMay 0x3001 s ∧ s.csr.waiting.length < 4 ∧ s.sess.idx.toNat < s.sess.used.toNat ∧
     sessStateOf (s.sess.data.toNat % 8) = some .parked ∧
     (sessAccept (getSess (sessTouch 1 s) 1) .parked s.sess.data).isSome = true ∧ csrMay 0x3008 s ∧
     (0xFF0001#32).toNat % 2 ^ 16 < s.sess.used.toNat ∧ (0xFF0001#32).toNat / 2 ^ 16 % 2 ^ 8 ≠ 0 ∧
     (getSess (sessTouch 1 s) 1).state ≠ .free) ∧
    (let s := { demo with handles := [(255, { Handle.reset with cur := { base := 4095, count := 24, mask := 0xFFFFFF } })] }
     csrMay 0x1000 s ∧ (0x17F8 : BitVec 16).toNat = 0x1000 + 8 * (255 : BitVec 8).toNat ∧ (getHandle s 255).state = .free ∧
     handleState 0x3D = .bound ∧ handleState 0x3F = .pinned ∧ entryOk s (handleFields (getHandle s 255) 0x3D) = true) ∧
    (csrMay 0x800 demo ∧ demo.stage.pending = false ∧ (0x87E : BitVec 16).toNat = 0x800 + 2 * 63 ∧
     ({ demo with csr := { demo.csr with held := some (0x87E, 5) } } : State).csr.held = some (0x87E, 5) ∧
     (0x87F : BitVec 16).toNat = (0x87E : BitVec 16).toNat + 1) ∧
    csrMay 0x400 demo ∧ csrMay 0x5805 demo ∧
    (csrMay 0x6 demo ∧ regAt demo 0x6 = some { base := 0x6, wide := true, acc := .ro } ∧ csrMay 0x6002 demo ∧
     regAt demo 0x6002 = some { base := 0x6002, wide := true, acc := .rw } ∧ mirrorClosed demo 0x6002 = false) ∧
    csrMay 0x1800 demo ∧ (csrMay 0x2080 demo ∧ windowsOpen demo = true) ∧
    (csrMay 0x7FFF demo ∧ regAt demo 0x7FFF = none) ∧
    (csrMay 0 demo ∧ regAt demo 0 = some { base := 0, wide := false, acc := .ro } ∧ writeBarred demo 0 = false) := by
  unfold memoriesCanonical csrMay; and_intros <;> decide +kernel

/-- Codes of twelve Cones of which the first ones have these. -/
def codesFrom (l : List Nat) : List (Option (BitVec 6)) := l.map (fun c => some (BitVec.ofNat 6 c))

/-- The least of a list of codes, the Cones that it leaves out under calibration. -/
def leastOf (codes : List (Option (BitVec 6))) : Nat := (leastCode ((List.range 12).map (fun k => codes.getD k none))).toNat

/-- A window with its strobe and one that missed three before; codes at the limits of the table in force; a margin that
lasted; occupancies 0 to 4. -/
theorem witness_PowerAndClockEvents :
    (portOpen demo = true ∧ demo.ballast.strobe = none ∧
     ({ demo with ballast := { demo.ballast with missRun := 3 } } : State).ballast.missRun = 3 ∧
     ({ demo with ballast := { demo.ballast with strobe := some 7 } } : State).ballast.strobe = some 7 ∧
     demo.ballast.written.balMin.toInt ≤ demo.ballast.written.balMax.toInt ∧ demo.evt.queue.length < 64) ∧
    (drogueLimits demo = some (12, 10) ∧ leastOf (codesFrom [9, 63]) < 10 ∧ demo.clk.level = .none ∧
     (10 ≤ leastOf (codesFrom [10, 63]) ∧ leastOf (codesFrom [11]) < 12) ∧ 12 ≤ leastOf (none :: codesFrom [12]) ∧
     (let s := { demo with clk := { demo.clk with level := .s50, drgHold := 4, good := 4 } }
      s.clk.drgHold.toNat ≤ s.clk.good ∧ s.clk.level = .s50 ∧ drogueLimits s = some (12, 10) ∧ portOpen s = true) ∧
     (let s := { demo with clk := { demo.clk with level := .s25, drgHold := 4, good := 4 } }
      s.clk.drgHold.toNat ≤ s.clk.good ∧ s.clk.level = .s25 ∧ drogueLimits s = some (12, 10))) ∧
    (let s := { demo with clk := { demo.clk with level := .s50, low := 4096, coneLast := codesFrom [9, 8] } }
     s.clk.level = .s50 ∧ 4096 ≤ s.clk.low ∧ s.clk.marginLogged = false ∧
     s.clk.coneLast[(1 : BitVec 4).toNat]? = some (some (leastCode s.clk.coneLast))) ∧
    ((0 : BitVec 3).toNat ≤ 4 ∧ (4 : BitVec 3).toNat ≤ 4 ∧ (0 : BitVec 3) ≠ 4 ∧ canEnterSafe demo.run.state = true) := by
  decide +kernel

/-- Each duty in a state that has it due; a log whose next entry overwrites an unread one. -/
theorem witness_BridleDuties :
    let e : Event := { code := 0x101, sev := .note, cycle := 0, detail := 0 }
    (bridleRuns demo = true ∧ sampleOk (samplesOf 4 400) = true ∧ (samplesOf 4 400).diodes[3]? = some 400 ∧
     demo.run.state ≠ .refire ∧ (List.replicate 12 (0 : BitVec 8)).length = 12 ∧ demo.run.started = false ∧
     demo.brg.wear.baseline = none) ∧
    (let s := { demo with brg := { demo.brg with wearDue := true, wear := { demo.brg.wear with baseline := some (List.replicate 12 0) } } }
     bridleRuns s = true ∧ s.brg.wearDue = true ∧ s.brg.wear.baseline = some (List.replicate 12 0) ∧ s.run.started = false) ∧
    (let s := { demo with evt := { demo.evt with queue := [e] } }
     s.evt.queue = e :: [] ∧ overwritesUnread s = false) ∧
    (let s := { demo with evt := { demo.evt with queue := [e], written := 4096, head := 4096, rdptr := 0xFFFF, lostArmed := true } }
     overwritesUnread s = true ∧ s.evt.lostArmed = true ∧ s.evt.queue.length ≤ 64) ∧
    (let s := { demo with brg := { demo.brg with restarting := true } }
     s.brg.restarting = true ∧ portOpen s = true ∧ s.brg.failedSlot = none ∧ romLeft badImage badImage s = [] ∧
     busyWith s 0x08 = false ∧ s.mbx.status ≠ .busy) ∧
    (demo.upsets.sweep < sweepLength ∧
     ({ demo with upsets := { demo.upsets with sweep := 353 } } : State).upsets.sweep < sweepLength) := by decide +kernel

/-- A restart with images that verify: which image verifies is left to the signature. A RESUME and an LC_SET wait for it. -/
theorem witness_BridleDuties_image (x : ImageRead) (h : imageVerifies demo.fuses x = true) :
    (let s := { demo with brg := { demo.brg with restarting := true, activate := true } }
     romLeft x badImage s = [(0, x)] ∧ s.brg.activate = true ∧ s.evt.queue.length < 64) ∧
    (let s := { demo with brg := { demo.brg with restarting := true, failedSlot := some 1, slot := 1 } }
     romLeft x x s = [(0, x)]) ∧
    (let s := { demo with brg := { demo.brg with restarting := true } }
     romLeft x x s = (0, x) :: [(1, x)] ∧ s.brg.failedSlot = none) ∧
    (let s := busyIn 3 { demoIn .safe .bridle with brg := { demo.brg with restarting := true } }
     romLeft x badImage s = [(0, x)] ∧ s.run.state = .safe ∧ busyWith s 0x03 = true ∧ halvesAgree s) ∧
    (let s := busyIn 8 { demoIn .maint .host with brg := { demo.brg with restarting := true } }
     romLeft x badImage s = [(0, x)] ∧ busyWith s 0x08 = true ∧ s.run.lc ≠ 2) := by
  have hb : imageVerifies demo.fuses badImage = false := rfl
  have one (l : Option (BitVec 1)) (hl : (l != some 0) = true) :
      (romOrder demo.fuses x badImage).filter (fun y => l != some y.1) = [(0, x)] := by
    simp only [romOrder, h, hb]; split <;> simpa using hl
  have both : romOrder demo.fuses x x = [(0, x), (1, x)] := by
    simp only [romOrder, h]; simp
  refine ⟨⟨one none rfl, rfl, by decide +kernel⟩, ?_, ⟨?_, rfl⟩, ⟨one none rfl, rfl, by decide +kernel, ?_⟩,
    ⟨one none rfl, by decide +kernel, by decide +kernel⟩⟩
  · exact (congrArg (fun l => List.filter (fun y => (some (1 : BitVec 1)) != some y.1) l) both).trans rfl
  · exact (congrArg (fun l => List.filter (fun y => (none : Option (BitVec 1)) != some y.1) l) both).trans rfl
  · unfold halvesAgree; decide +kernel

/-- Row 3 of a mapping over stacks 1 and 3 is row 1 after BASE of stack 3, up to the last row. -/
theorem witness_RowsTranslateThroughTheMask :
    let m : Mapping := { base := 4094, count := 4, mask := 0b1010 }
    ([1, 3] : List Nat).Pairwise (fun a b => a < b) ∧ (∀ i < 24, i ∈ [1, 3] ↔ m.mask.getLsbD i = true) ∧
    ([1, 3] : List Nat)[3 % ([1, 3] : List Nat).length]? = some 3 ∧ m.base.toNat + 3 / ([1, 3] : List Nat).length < 4096 ∧
    physRow m 3 = 4096 * 3 + 4095 := by decide +kernel

/-- Four bytes have the units of every width but 32, and the words of each width fit it. -/
theorem witness_ElementsArePackedInOrder :
    let bs : Bytes := [0x21, 0x43, 0x65, 0x87]
    bs[3 * 0]? = some 0x21 ∧ bs[3 * 0 + 1]? = some 0x43 ∧ bs[3 * 0 + 2]? = some 0x65 ∧ bs[4 * 0 + 3]? = some 0x87 ∧
    unpack 4 bs = [1, 2, 3, 4, 5, 6, 7, 8] ∧ (∀ w ∈ [1, 15], w < 2 ^ 4) ∧ ([1, 15] : List Nat).length % 2 = 0 ∧
    (∀ w ∈ [0, 1, 2, 63], w < 2 ^ 6) ∧ ([0, 1, 2, 63] : List Nat).length % 4 = 0 := by decide +kernel

/-- E2M1 with the largest element, scale bytes 0xFF and 0: 6 times 2^-127. -/
theorem witness_MxElementValues : fmtIsMx .e2m1 = true ∧ (floatFmt .e2m1).isSome = true ∧ ([7] : List Nat)[0]? = some 7 ∧
    7 < 2 ^ fmtBits .e2m1 ∧ fmtIsMx .e2m3 = true ∧ fmtIsMx .e3m2 = true ∧ fmtBits .e2m3 = 6 ∧
    (decodeBlock .e2m1 false 0 [7] (tallyFrom 1)).1.map (fun v => eqVal v (.fin false 6 (-127))) = [true] := by decide +kernel

theorem witness_HostCommandFrame : hostCode .maintEnter = some 0x05 ∧ (nextOf (exec .maintEnter (demoIn .ready .host))).isSome = true ∧
    (nextOf (exec .version demo)).isSome = true := by decide +kernel

/-- Words that are no instruction, of one, two and three words, and an instruction in the Spool. -/
theorem witness_InstructionWords :
    (decodeWords .ta 0x1F 0 0 = none ∧ ready .ta (wordCount (wordBits 0x1F 0 8)) demo) ∧
    (0xC4 < wordBits 0xFE 0 8 ∧ 2 ≤ wordCount 0x98 ∧ wordCount 0xC1 = 3 ∧ wordBits 0 0 8 ≠ 0xFE ∧ (2 : Nat) ^ 23 ≤ (0x800001#64).toNat ∧
     wordBits 0x120 8 5 ≠ 0 ∧ wordBits 0x800020 23 9 ≠ 0) ∧
    (let s := { demo with spool := { demo.spool with lines := [{ tag := 0, pinned := false, data := leBytes 8 0x10000000710 ++ fitBytes 120 [] }] } }
     wordsThere .ta s = true ∧ (spoolWord s 0).bind (fun w => decodeWords .ta w 0 0) = some (.li .ta 7 0x100) ∧
     (nextOf (issueNext .ta s)).map (fun s' => sreg .ta 7 s') = some 0x100) := by
  unfold ready; decide +kernel

end Sys2Proof.Tests
end

section
/-! SUPPORT. The authority: what ties the halves' copies of the run control, the build and the fuses together, and one rule for each
function of the model that leaves it alone. -/

namespace Sys2Proof.Machine

/-- What ties the halves' copies, the build and the fuses together (R4, R22, R345): a command that leaves it alone keeps every
one of them. -/
def authority (s : State) : RunCopy × RunCopy × RunCopy × Build × Fuses × Fuses :=
  (copyOf s.run, s.run.west, s.run.east, s.build, s.fuseBus, s.fuses)

@[simp] theorem authority_mk (build fuseBus fuses run cmd csr evt ta tx sdm preg stage queues spool tiles toc amax mx vx glz ls handles
    res fab sess ballast clk mould brg mbx mon tap cycle counters upsets flights nextId free pending) :
    authority ⟨build, fuseBus, fuses, run, cmd, csr, evt, ta, tx, sdm, preg, stage, queues, spool, tiles, toc, amax, mx, vx, glz, ls,
      handles, res, fab, sess, ballast, clk, mould, brg, mbx, mon, tap, cycle, counters, upsets, flights, nextId, free, pending⟩ =
      (copyOf run, run.west, run.east, build, fuseBus, fuses) := rfl

@[simp] theorem authority_fold (s : State) :
    (copyOf s.run, s.run.west, s.run.east, s.build, s.fuseBus, s.fuses) = authority s := rfl

@[simp] theorem authority_ite (c : Prop) [Decidable c] (s t : State) :
    authority (if c then s else t) = if c then authority s else authority t := apply_ite authority c s t

@[simp] theorem authority_snd_ite {α : Type} (c : Prop) [Decidable c] (r r' : α × State) :
    authority (if c then r else r').2 = if c then authority r.2 else authority r'.2 := apply_ite (fun x : α × State => authority x.2) c r r'

@[simp] theorem authority_foldl {α : Type} (f : State → α → State) (h : ∀ s a, authority (f s a) = authority s) (l : List α)
    (s : State) : authority (l.foldl f s) = authority s := by
  induction l generalizing s with
  | nil => rfl
  | cons a l ih => rw [List.foldl_cons, ih, h]

/-- A step that may have no effect leaves the authority of `s` alone. -/
def optionKeeps (s : State) : Option State → Prop
  | some s' => authority s' = authority s
  | none => True

@[simp] theorem optionKeeps_none (s : State) : optionKeeps s none := trivial

@[simp] theorem optionKeeps_some (s s' : State) : optionKeeps s (some s') ↔ authority s' = authority s := Iff.rfl

@[simp] theorem optionKeeps_ite (s : State) (c : Prop) [Decidable c] (o p : Option State) :
    optionKeeps s (if c then o else p) ↔ if c then optionKeeps s o else optionKeeps s p := by split <;> rfl

theorem optionKeeps_of_eq {s t : State} {o : Option State} (e : authority t = authority s) (h : optionKeeps t o) :
    optionKeeps s o := by
  cases o with
  | none => trivial
  | some s' => exact Eq.trans h e

theorem optionKeeps_bind {s : State} {o : Option State} {f : State → Option State} (h : optionKeeps s o)
    (hf : ∀ t, optionKeeps t (f t)) : optionKeeps s (o.bind f) := by
  cases o with
  | none => trivial
  | some t => exact optionKeeps_of_eq h (hf t)

theorem authority_getD {t u : State} {o : Option State} (h : optionKeeps t o) (e : authority u = authority t) :
    authority (o.getD u) = authority t := by
  cases o with
  | none => exact e
  | some s' => exact h

/-- The verdict of an issue leaves the authority of the state alone. -/
def verdictKeeps (s : State) : Verdict → Prop
  | .go s' | .jump s' _ => authority s' = authority s
  | .wait _ | .fault _ _ => True

@[simp] theorem verdictKeeps_go (s s' : State) : verdictKeeps s (.go s') ↔ authority s' = authority s := Iff.rfl
@[simp] theorem verdictKeeps_jump (s s' : State) (a : BitVec 48) : verdictKeeps s (.jump s' a) ↔ authority s' = authority s := Iff.rfl
@[simp] theorem verdictKeeps_wait (s : State) (w : Wait) : verdictKeeps s (.wait w) := trivial
@[simp] theorem verdictKeeps_fault (s : State) (fc : BitVec 8) (v : Word64) : verdictKeeps s (.fault fc v) := trivial

@[simp] theorem verdictKeeps_illegal (s : State) : verdictKeeps s illegal := trivial
@[simp] theorem verdictKeeps_paramRange (s : State) (n : Nat) : verdictKeeps s (paramRange n) := trivial

@[simp] theorem verdictKeeps_queueFault (s : State) (q : Nat) : verdictKeeps s (queueFault q) := trivial

@[simp] theorem verdictKeeps_ite (s : State) (c : Prop) [Decidable c] (v w : Verdict) :
    verdictKeeps s (if c then v else w) ↔ if c then verdictKeeps s v else verdictKeeps s w := by split <;> rfl

/-- A check that fails does so with a verdict that leaves the state alone. -/
def failsKeeping {α : Type} (c : Chk α) : Prop := ∀ v, c = .error v → ∀ s, verdictKeeps s v

@[simp] theorem failsKeeping_ok {α : Type} (a : α) : failsKeeping (.ok a : Chk α) := fun _ e => nomatch e
@[simp] theorem failsKeeping_pure {α : Type} (a : α) : failsKeeping (pure a : Chk α) := fun _ e => nomatch e

@[simp] theorem failsKeeping_error {α : Type} (v : Verdict) : failsKeeping (.error v : Chk α) ↔ ∀ s, verdictKeeps s v :=
  ⟨fun h => h v rfl, fun h _ e => by cases e; exact h⟩

theorem failsKeeping_bind {α β : Type} {c : Chk α} {f : α → Chk β} (hc : failsKeeping c) (hf : ∀ a, failsKeeping (f a)) :
    failsKeeping (c >>= f) := by
  cases c with
  | error v => exact fun w e => by cases e; exact hc v rfl
  | ok a => exact hf a

@[simp] theorem failsKeeping_ite {α : Type} (p : Prop) [Decidable p] (c d : Chk α) :
    failsKeeping (if p then c else d) ↔ if p then failsKeeping c else failsKeeping d := by split <;> rfl

@[simp] theorem error_bind {α β : Type} (v : Verdict) (f : α → Chk β) : ((.error v : Chk α) >>= f) = .error v := rfl
@[simp] theorem ok_bind {α β : Type} (a : α) (f : α → Chk β) : ((.ok a : Chk α) >>= f) = f a := rfl

@[simp] theorem verdict_pure (v : Verdict) : verdict (pure v) = v := rfl
@[simp] theorem verdict_ok (v : Verdict) : verdict (.ok v) = v := rfl
@[simp] theorem verdict_error (v : Verdict) : verdict (.error v) = v := rfl

/-- A chain of checks goes on behind a check that passes. -/
theorem verdictKeeps_bind {α : Type} {s : State} {c : Chk α} {f : α → Chk Verdict} (hc : failsKeeping c)
    (hf : ∀ a, verdictKeeps s (verdict (f a))) : verdictKeeps s (verdict (c >>= f)) := by
  cases c with
  | error v => exact hc v rfl s
  | ok a => exact hf a

@[simp] theorem failsKeeping_need (b : Bool) (v : Verdict) (h : ∀ s, verdictKeeps s v) : failsKeeping (need b v) := by
  unfold need
  split
  · simp
  · simpa using h

theorem failsKeeping_foldlM {α : Type} (f : Unit → α → Chk Unit) (h : ∀ u a, failsKeeping (f u a)) (l : List α) (u : Unit) :
    failsKeeping (l.foldlM f u) := by
  induction l generalizing u with
  | nil => exact failsKeeping_pure _
  | cons a l ih => exact failsKeeping_bind (h u a) (fun u => ih u)

@[simp] theorem failsKeeping_onlyThread (t u : Thread) : failsKeeping (onlyThread t u) := by simp [onlyThread]
@[simp] theorem failsKeeping_regsReady (t : Thread) (rs : List Reg) (s : State) : failsKeeping (regsReady t rs s) := by simp [regsReady]
@[simp] theorem failsKeeping_tilesReady (rd wr : BitVec 16) (s : State) : failsKeeping (tilesReady rd wr s) := by simp [tilesReady]
@[simp] theorem failsKeeping_accsReady (rd : BitVec 4) (s : State) : failsKeeping (accsReady rd s) := by simp [accsReady]
@[simp] theorem failsKeeping_engineReady (t : Thread) (e : Engine) (s : State) : failsKeeping (engineReady t e s) :=
  failsKeeping_bind (by simp) (fun _ => by simp)
@[simp] theorem failsKeeping_paramsOk (l : List (Bool × Nat)) : failsKeeping (paramsOk l) := by
  unfold paramsOk
  split <;> simp
@[simp] theorem failsKeeping_shapesOk (l : List Nat) : failsKeeping (shapesOk l) := by
  unfold shapesOk
  split <;> simp
@[simp] theorem failsKeeping_sdmRange (a n : Nat) : failsKeeping (sdmRange a n) := by simp [sdmRange]
@[simp] theorem failsKeeping_queueOk (t : Thread) (q : Nat) (push : Bool) (n : Nat) (s : State) :
    failsKeeping (queueOk t q push n s) := by simp [queueOk, queueFault]
@[simp] theorem failsKeeping_pushReady (q n : Nat) (s : State) : failsKeeping (pushReady q n s) := by simp [pushReady]
@[simp] theorem failsKeeping_popReady (q n : Nat) (s : State) : failsKeeping (popReady q n s) := by simp [popReady]
@[simp] theorem failsKeeping_lsParams (a : LsArgs) (t : Thread) (s : State) : failsKeeping (lsParams a t s) := by simp [lsParams]
@[simp] theorem failsKeeping_tilesFull (ts : List Nat) (s : State) : failsKeeping (tilesFull ts s) := by
  unfold tilesFull
  split <;> simp
@[simp] theorem failsKeeping_sourcesFull (os : List Opd) (s : State) : failsKeeping (sourcesFull os s) := by simp [sourcesFull]
@[simp] theorem failsKeeping_tileMoveParams (b : Bool) (a : TileMoveArgs) (n : Nat) (t : Thread) (s : State) :
    failsKeeping (tileMoveParams b a n t s) := by simp [tileMoveParams]
@[simp] theorem failsKeeping_tileMoveShapes (rels : List Int) (ts : List Nat) (s : State) :
    failsKeeping (tileMoveShapes rels ts s) := by simp [tileMoveShapes]
@[simp] theorem failsKeeping_slotsLegal (vs : List Slot) : failsKeeping (slotsLegal vs) := by simp [slotsLegal]
@[simp] theorem failsKeeping_codesLegal (cs : List (BitVec 4)) : failsKeeping (codesLegal cs) := by simp [codesLegal]
@[simp] theorem failsKeeping_convLegal (c : ConvBlk) : failsKeeping (convLegal c) := by simp [convLegal]
@[simp] theorem failsKeeping_enginePresent (n : Nat) (s : State) : failsKeeping (enginePresent n s) := by simp [enginePresent]
@[simp] theorem failsKeeping_localEndOk (le : BitVec 9) : failsKeeping (localEndOk le) := by simp [localEndOk]
@[simp] theorem failsKeeping_c3Legal (t : Thread) (z : Bool) (slots : List (Slot × BitVec 14)) (unused : List (BitVec 14)) (s : State) :
    failsKeeping (c3Legal t z slots unused s) := by simp [c3Legal]
@[simp] theorem failsKeeping_formatsOk (l : List (Nat × Option Fmt)) : failsKeeping (formatsOk l) := by
  unfold formatsOk
  split <;> simp [formatFault]
@[simp] theorem failsKeeping_sourceQueue (t : Thread) (o : Opd) (n : Nat) (s : State) : failsKeeping (sourceQueue t o n s) := by
  unfold sourceQueue
  split <;> simp
@[simp] theorem failsKeeping_destQueue (t : Thread) (o : Opd) (n : Nat) (s : State) : failsKeeping (destQueue t o n s) := by
  unfold destQueue
  split <;> simp
@[simp] theorem failsKeeping_queuesOk (t : Thread) (srcs dsts : List (Opd × Nat)) (s : State) :
    failsKeeping (queuesOk t srcs dsts s) :=
  failsKeeping_bind (failsKeeping_foldlM _ (fun _ _ => by simp) _ _) fun _ =>
    failsKeeping_bind (failsKeeping_foldlM _ (fun _ _ => by simp) _ _) fun _ => failsKeeping_foldlM _ (fun _ _ => by simp) _ _
@[simp] theorem failsKeeping_queuesReady (srcs dsts : List (Opd × Nat)) (s : State) : failsKeeping (queuesReady srcs dsts s) :=
  failsKeeping_bind (failsKeeping_foldlM _ (fun _ _ => by simp) _ _) fun _ =>
    failsKeeping_foldlM _ (fun _ _ => by split <;> simp) _ _
@[simp] theorem failsKeeping_statusArea (t : Thread) (b : Bool) (r : Reg) (n : Nat) (s : State) :
    failsKeeping (statusArea t b r n s) := by
  unfold statusArea
  dsimp only
  split
  · exact failsKeeping_bind (by simp) (fun _ => by simp)
  · simp
@[simp] theorem failsKeeping_chooseSlot (t : Thread) (h : BitVec 8) (s : State) : failsKeeping (chooseSlot t h s) := by
  unfold chooseSlot
  dsimp only
  split
  · simp
  · split <;> simp
@[simp] theorem failsKeeping_epochSlot (h e : BitVec 8) (s : State) : failsKeeping (epochSlot h e s) := by simp [epochSlot]
@[simp] theorem failsKeeping_useSlot (t : Thread) (s : State) (u : HandleUse) : failsKeeping (useSlot t s u) := by
  unfold useSlot
  split <;> simp
@[simp] theorem failsKeeping_checkHandle (t : Thread) (h : BitVec 8) (n : Need) (rels : List Int) (s : State) :
    failsKeeping (checkHandle t h n rels s) := by
  unfold checkHandle
  split
  · next v e => simpa using (failsKeeping_chooseSlot t h s) v e
  · split
    · simp
    · split <;> simp
theorem failsKeeping_mapM {α β : Type} (f : α → Chk β) (h : ∀ a, failsKeeping (f a)) (l : List α) : failsKeeping (l.mapM f) := by
  induction l with
  | nil => simp
  | cons a l ih =>
    rw [List.mapM_cons]
    exact failsKeeping_bind (h a) fun _ => failsKeeping_bind ih fun _ => failsKeeping_pure _
@[simp] theorem failsKeeping_handlesOk (t : Thread) (us : List HandleUse) (s : State) : failsKeeping (handlesOk t us s) := by
  unfold handlesOk
  dsimp only
  split
  · simp
  · refine failsKeeping_bind (by simp) fun _ => failsKeeping_bind (failsKeeping_mapM _ (fun _ => by simp) _) fun _ => ?_
    split
    · simp
    · simp only [ok_bind]
      split <;> simp
@[simp] theorem failsKeeping_glzItemsOk (t : Thread) (a : GlzArgs) (l : List Nat) (s : State) : failsKeeping (glzItemsOk t a l s) := by
  refine failsKeeping_bind (by simp) fun _ => ?_
  dsimp only
  split <;> simp
@[simp] theorem failsKeeping_contextJudged (x : Xlate) (p : BitVec 3) (r : Nat) (s : State) : failsKeeping (contextJudged x p r s) := by
  unfold contextJudged
  split
  · simp
  · dsimp only
    split <;> simp
@[simp] theorem failsKeeping_spoolOperand (t : Thread) (r : Reg) (s : State) : failsKeeping (spoolOperand t r s) :=
  failsKeeping_bind (by simp) fun _ => failsKeeping_bind (by simp) fun _ => failsKeeping_bind (by simp) fun _ => by simp

/-! Cycles of CLK, the row accesses and tag tests that they perform, and what an instruction does when it begins. -/

@[simp] theorem authority_bump (a n : Nat) (s : State) : authority (bump a n s) = authority s := by rfl

@[simp] theorem authority_drogueTick (s : State) : authority (drogueTick s) = authority s := by
  simp only [drogueTick]
  split <;> simp

@[simp] theorem authority_takeResponse (s : State) : authority (takeResponse s) = authority s := by rfl

@[simp] theorem authority_readCfg (n : Nat) (s : State) : authority (readCfg n s) = authority s := by
  simp [readCfg]

@[simp] theorem authority_readTables (s : State) : authority (readTables s) = authority s := by
  simp [readTables]

@[simp] theorem authority_fabricTick (s : State) : authority (fabricTick s) = authority s := by rfl

@[simp] theorem authority_queueTick (s : State) : authority (queueTick s) = authority s := by rfl

@[simp] theorem authority_idleTick (s : State) : authority (idleTick s) = authority s := by
  simp [idleTick]

@[simp] theorem authority_boundaryTick (hit : List Nat) (s : State) : authority (boundaryTick hit s) = authority s := by
  unfold boundaryTick
  split <;> simp

@[simp] theorem authority_starveTick (hit : List Nat) (s : State) : authority (starveTick hit s) = authority s := by rfl

@[simp] theorem authority_repairTag (p : Nat) (s : State) : authority (repairTag p s) = authority s := by
  simp [repairTag]

@[simp] theorem authority_setTag (p : Nat) (g : Tag) (s : State) : authority (setTag p g s) = authority s := by rfl

@[simp] theorem authority_tagTest (x : TagTest) (s : State) : authority (tagTest x s).2 = authority s := by
  unfold tagTest
  dsimp only
  repeat' split
  all_goals simp

@[simp] theorem authority_runTests (xs : List TagTest) (s : State) : authority (runTests xs s).2 = authority s := by
  induction xs generalizing s with
  | nil => rfl
  | cons x xs ih => simpa [runTests] using ih (tagTest x s).2

@[simp] theorem authority_testCycle (f : Flight) (s : State) : authority (testCycle f s).2 = authority s := by
  simp [testCycle]

@[simp] theorem authority_setThread (t : Thread) (th : ThreadState) (s : State) : authority (setThread t th s) = authority s := by
  unfold setThread
  split <;> simp

@[simp] theorem authority_modThread (t : Thread) (f : ThreadState → ThreadState) (s : State) : authority (modThread t f s) = authority s := by
  simp [modThread]

@[simp] theorem authority_issueFault (t : Thread) (fc : BitVec 8) (fval : Word64) (s : State) : authority (issueFault t fc fval s) = authority s := by
  simp [issueFault]

@[simp] theorem authority_trimQueues (s : State) : authority (trimQueues s) = authority s := by rfl

@[simp] theorem authority_releaseQueues (fid : Nat) (s : State) : authority (releaseQueues fid s) = authority s := by rfl

@[simp] theorem authority_dropFlight (fid : Nat) (s : State) : authority (dropFlight fid s) = authority s := by rfl

@[simp] theorem authority_unissue (f : Flight) (s : State) : authority (unissue f s) = authority s := by
  simp [unissue]

@[simp] theorem authority_releaseClaim (p : Nat) (s : State) : authority (releaseClaim p s) = authority s := by
  unfold releaseClaim
  split <;> simp

@[simp] theorem authority_releaseTests (tests : List TagTest) (s : State) : authority (releaseTests tests s) = authority s := by
  simp [releaseTests]

@[simp] theorem authority_modFlight (fid : Nat) (g : Flight → Flight) (s : State) : authority (modFlight fid g s) = authority s := by rfl

@[simp] theorem authority_judgeHeader (a : TctxArgs) (f : Flight) (s : State) : authority (judgeHeader a f s) = authority s := by
  unfold judgeHeader
  split <;> simp

@[simp] theorem authority_judgeNow (f : Flight) (s : State) : authority (judgeNow f s) = authority s := by
  unfold judgeNow
  split <;> simp

@[simp] theorem authority_logAt (place : Event → List Event → List Event) (cycle : BitVec 48) (code : BitVec 12) (detail : Nat) (s : State) : authority (logAt place cycle code detail s) = authority s := by
  simp [logAt]

@[simp] theorem authority_logEvent (code : BitVec 12) (detail : Nat) (s : State) : authority (logEvent code detail s) = authority s := by
  simp [logEvent]

@[simp] theorem authority_stopThread (t : Thread) (s : State) : authority (stopThread t s) = authority s := by
  simp [stopThread]

@[simp] theorem authority_beginWith (f : Flight) (reads : ParityLoc → Bool) (k : State → State) (s : State) (hk : ∀ s, authority (k s) = authority s) : authority (beginWith f reads k s) = authority s := by
  unfold beginWith
  dsimp only
  repeat' split
  all_goals simp_all

@[simp] theorem authority_startLsWq (f : Flight) (s : State) : authority (startLsWq f s) = authority s := by
  simp [startLsWq]

@[simp] theorem authority_setCopies (c : OperandCache) (s : State) : authority (setCopies c s) = authority s := by rfl

@[simp] theorem authority_cacheRow (n r : Nat) (s : State) : authority (cacheRow n r s) = authority s := by
  simp [cacheRow]

@[simp] theorem authority_startTst (a : TileMoveArgs) (f : Flight) (s : State) : authority (startTst a f s) = authority s := by
  simp [startTst]

@[simp] theorem authority_startTctxSave (f : Flight) (s : State) : authority (startTctxSave f s) = authority s := by
  simp [startTctxSave]

@[simp] theorem authority_startPlain (f : Flight) (s : State) : authority (startPlain f s) = authority s := by
  simp [startPlain]

@[simp] theorem authority_reservoirPump (s : State) : authority (reservoirPump s) = authority s := by rfl

@[simp] theorem authority_reservoirRead (fill : Bool) (r : ResReq) (s : State) : authority (reservoirRead fill r s) = authority s := by
  simp [reservoirRead]

@[simp] theorem authority_startDma (a : DmaArgs) (f : Flight) (s : State) : authority (startDma a f s) = authority s := by
  simp [startDma]

@[simp] theorem authority_releaseLeft (f : Flight) (s : State) : authority (releaseLeft f s) = authority s := by
  simp [releaseLeft]

@[simp] theorem authority_execFault (fid : Nat) (fc : BitVec 8) (fval : Word64) (s : State) : authority (execFault fid fc fval s) = authority s := by
  unfold execFault
  split <;> simp

@[simp] theorem authority_startRemoteWith (k : State → State) (f : Flight) (s : State) (hk : ∀ s, authority (k s) = authority s) :
    authority (startRemoteWith k f s) = authority s := by
  unfold startRemoteWith
  split
  · rfl
  · exact authority_beginWith _ _ _ _ (fun s => by simp [hk])

@[simp] theorem authority_modRemRow (fid i : Nat) (g : RemRow → RemRow) (s : State) : authority (modRemRow fid i g s) = authority s := by rfl

@[simp] theorem authority_denyRequest (win : BitVec 4) (reason : Nat) (src : BitVec 19) (s : State) : authority (denyRequest win reason src s) = authority s := by
  simp [denyRequest]

@[simp] theorem authority_queueBoundary (b : BAccess) (s : State) : authority (queueBoundary b s) = authority s := by rfl

@[simp] theorem authority_serveRequest (req : ReqType) (win : BitVec 4) (wr : BitVec 17) (key : Word32) (src : BitVec 19) (row : Bytes) (wuse ruse : BUse) (buffer : Option (BitVec 2)) (s : State) : authority (serveRequest req win wr key src row wuse ruse buffer s).2 = authority s := by
  unfold serveRequest
  dsimp only
  repeat' split
  all_goals simp

@[simp] theorem authority_setPort (p : BitVec 2) (q : Port) (s : State) : authority (setPort p q s) = authority s := by
  unfold setPort
  split <;> simp

@[simp] theorem authority_modPort (p : BitVec 2) (g : Port → Port) (s : State) : authority (modPort p g s) = authority s := by
  simp [modPort]

@[simp] theorem authority_freeTrack (p : BitVec 2) (fid i : Nat) (s : State) : authority (freeTrack p fid i s) = authority s := by
  simp [freeTrack]

@[simp] theorem authority_rowStatus (fid i : Nat) (status : BitVec 8) (s : State) : authority (rowStatus fid i status s) = authority s := by
  unfold rowStatus
  dsimp only
  repeat' split
  all_goals simp

@[simp] theorem authority_serveSelf (fid i : Nat) (s : State) : authority (serveSelf fid i s) = authority s := by
  unfold serveSelf
  split
  · rfl
  · dsimp only
    split
    all_goals
      next e =>
        have h := congrArg (fun x => authority x.2) e
        simpa using h.symm

@[simp] theorem authority_sendLinkUnits (p : BitVec 2) (s : State) : authority (sendLinkUnits p s) = authority s := by
  simp [sendLinkUnits]

@[simp] theorem authority_transmit (p : BitVec 2) (b : Block) (s : State) : authority (transmit p b s) = authority s := by
  simp [transmit]

@[simp] theorem authority_sendResends (n : Nat) (p : BitVec 2) (s : State) : authority (sendResends n p s) = authority s := by
  induction n generalizing s with
  | zero => rfl
  | succ n ih =>
    unfold sendResends
    dsimp only
    split
    · rfl
    · simp [ih]

@[simp] theorem authority_startBlock (p : BitVec 2) (b : Block) (s : State) : authority (startBlock p b s) = authority s := by
  simp [startBlock]

@[simp] theorem authority_sendResponses (n : Nat) (p : BitVec 2) (s : State) : authority (sendResponses n p s) = authority s := by
  induction n generalizing s with
  | zero => rfl
  | succ n ih =>
    unfold sendResponses
    dsimp only
    split
    · rfl
    · simp [ih]

@[simp] theorem authority_sendRequests (n : Nat) (p : BitVec 2) (s : State) : authority (sendRequests n p s) = authority s := by
  induction n generalizing s with
  | zero => rfl
  | succ n ih =>
    unfold sendRequests
    split
    · rfl
    · dsimp only
      split
      · rfl
      · simp [ih]

@[simp] theorem authority_pump (p : BitVec 2) (s : State) : authority (pump p s) = authority s := by
  simp [pump]

@[simp] theorem authority_offerRows (fid : Nat) (s : State) : authority (offerRows fid s) = authority s := by
  unfold offerRows
  split <;> simp

@[simp] theorem authority_startPut (a : RemoteArgs) (f : Flight) (s : State) : authority (startPut a f s) = authority s := by
  simp [startPut]

@[simp] theorem authority_startRemote (f : Flight) (s : State) : authority (startRemote f s) = authority s := by
  simp [startRemote]

@[simp] theorem authority_touchRow (input n r : Nat) (s : State) : authority (touchRow input n r s) = authority s := by
  simp [touchRow]

@[simp] theorem authority_touchSegs (input : Nat) (gs : List Seg) (s : State) : authority (touchSegs input gs s) = authority s := by
  simp [touchSegs]

@[simp] theorem authority_startConv (a : MxConvArgs) (f : Flight) (s : State) : authority (startConv a f s) = authority s := by
  simp [startConv]

@[simp] theorem authority_startGemv (c : Option MvCarried) (a : MvGemvArgs) (f : Flight) (s : State) : authority (startGemv c a f s) = authority s := by
  simp only [startGemv]
  split <;> simp

@[simp] theorem authority_startFlight (f : Flight) (s : State) : authority (startFlight f s) = authority s := by
  unfold startFlight
  split <;> simp

@[simp] theorem authority_afterTests (f : Flight) (s : State) : authority (afterTests f s) = authority s := by
  unfold afterTests
  dsimp only
  repeat' split
  all_goals simp

@[simp] theorem authority_waitTick (fid : Nat) (s : State) : authority (waitTick fid s) = authority s := by
  unfold waitTick
  dsimp only
  repeat' split
  all_goals simp

@[simp] theorem authority_testTick (s : State) : authority (testTick s) = authority s := by
  simp [testTick]

@[simp] theorem authority_setWindow (half : Bool) (w : BitVec 7) (s : State) : authority (setWindow half w s) = authority s := by
  simp [setWindow]

@[simp] theorem authority_arrayTick (half : Bool) (s : State) : authority (arrayTick half s) = authority s := by
  unfold arrayTick
  dsimp only
  repeat' split
  all_goals simp

@[simp] theorem authority_arraysTick (s : State) : authority (arraysTick s) = authority s := by
  simp [arraysTick]

@[simp] theorem authority_correctedRead (p : Nat) (s : State) : authority (correctedRead p s) = authority s := by
  simp [correctedRead]

@[simp] theorem authority_sampleRow (fid : Nat) (a : Access) (act : ReturnAct) (s : State) : authority (sampleRow fid a act s) = authority s := by
  simp [sampleRow]

@[simp] theorem authority_glzCurveRead (f : Flight) (p : Nat) (s : State) : authority (glzCurveRead f p s) = authority s := by
  unfold glzCurveRead
  split <;> simp

@[simp] theorem authority_glzRowRead (p : Nat) (s : State) : authority (glzRowRead p s) = authority s := by
  unfold glzRowRead
  split <;> simp

@[simp] theorem authority_glzStateRead (f : Flight) (i p : Nat) (last : Bool) (s : State) : authority (glzStateRead f i p last s) = authority s := by
  unfold glzStateRead
  split <;> simp

@[simp] theorem authority_glzCountRead (f : Flight) (c p : Nat) (s : State) : authority (glzCountRead f c p s) = authority s := by
  unfold glzCountRead
  split <;> simp

@[simp] theorem authority_readStep (f : Flight) (a : Access) (s : State) : authority (readStep f a s) = authority s := by
  unfold readStep
  split <;> simp

@[simp] theorem authority_writeRow (p : Nat) (bs : Bytes) (s : State) : authority (writeRow p bs s) = authority s := by rfl

@[simp] theorem authority_writeStep (f : Flight) (a : Access) (s : State) : authority (writeStep f a s) = authority s := by
  unfold writeStep
  dsimp only
  repeat' split
  all_goals simp

@[simp] theorem authority_performAll (l : List (Flight × Access)) (s : State) : authority (performAll l s) = authority s := by
  simp [performAll]

@[simp] theorem authority_conflictLull (hit : List Nat) (s : State) : authority (conflictLull hit s) = authority s := by
  simp [conflictLull]

@[simp] theorem authority_dropSteps (l : List Flight) (s : State) : authority (dropSteps l s) = authority s := by
  simp [dropSteps]

@[simp] theorem authority_rowTick (s : State) : authority (rowTick s) = authority s := by simp [rowTick]

@[simp] theorem authority_runTick (s : State) : authority (runTick s) = authority s := by simp [runTick]

@[simp] theorem authority_tick (s : State) : authority (tick s) = authority s := by
  unfold tick
  dsimp only
  repeat' split
  all_goals simp

/-! A lull that passes, the fetch of an instruction, and its issue (R12, R48). -/

@[simp] theorem authority_lullTick (s : State) : authority (lullTick s) = authority s := by
  simp [lullTick]

@[simp] theorem authority_passLull (s : State) : authority (passLull s) = authority s := by
  simp [passLull]

@[simp] theorem authority_reachTests (n : Nat) (f : Flight) (s : State) : authority (reachTests n f s).2 = authority s := by
  induction n generalizing f s with
  | zero => rfl
  | succ n ih =>
    unfold reachTests
    split
    · rfl
    · simpa using ih (testCycle f s).1 (testCycle f s).2

@[simp] theorem authority_settle (t : Thread) (s : State) : authority (settle t s) = authority s := by
  simp [settle]

@[simp] theorem authority_spoolFill (line : BitVec 48) (t : Option Thread) (ahead pin : Bool) (s : State) : authority (spoolFill line t ahead pin s) = authority s := by
  simp [spoolFill]

@[simp] theorem authority_spoolTouch (line : BitVec 48) (s : State) : authority (spoolTouch line s) = authority s := by rfl

@[simp] theorem authority_fetchLine (t : Thread) (line : BitVec 48) (words : List (BitVec 48)) (s : State) : authority (fetchLine t line words s).1 = authority s := by
  unfold fetchLine
  dsimp only
  repeat' split
  all_goals simp

@[simp] theorem authority_fetchWord (a : BitVec 48) (s : State) : authority (fetchWord a s) = authority s := by
  simp [fetchWord]

@[simp] theorem authority_setWait (t : Thread) (w : Wait) (s : State) : authority (setWait t w s) = authority s := by
  simp [setWait]

@[simp] theorem authority_fetch (t : Thread) (n : Nat) (s : State) : authority (fetch t n s).1 = authority s := by
  unfold fetch
  dsimp only
  repeat' split
  all_goals simp

@[simp] theorem authority_firstView (t : Thread) (s : State) : authority (firstView t s) = authority s := by
  unfold firstView
  split <;> simp

@[simp] theorem authority_advance (t : Thread) (n : Nat) (s : State) : authority (advance t n s) = authority s := by
  simp [advance]

@[simp] theorem authority_liveView (t : Thread) (old s : State) : authority (liveView t old s) = authority s := by
  simp [liveView]

@[simp] theorem authority_jumpTo (t : Thread) (a : BitVec 48) (s : State) : authority (jumpTo t a s) = authority s := by
  simp [jumpTo]

theorem authority_issue (t : Thread) (n : Nat) (f : State → Verdict) (s : State) (h : ∀ s, verdictKeeps s (f s)) :
    authority (issue t n f s) = authority s := by
  have h' := h (firstView t (fetch t n (settle t s)).1)
  unfold issue
  dsimp only
  split
  · split
    · split
      all_goals simp_all
    · simp
  · rfl

theorem authority_scalar (t : Thread) (regs : List Reg) (f : State → Verdict) (s : State) (h : ∀ s, verdictKeeps s (f s)) :
    authority (scalar t regs f s) = authority s :=
  authority_issue _ _ _ _ (fun s => by simp [h])

/-! Scalar instructions. -/

@[simp] theorem authority_setSreg (t : Thread) (r : Reg) (v : Word64) (s : State) : authority (setSreg t r v s) = authority s := by
  simp [setSreg]

@[simp] theorem authority_scalarWrite (t : Thread) (rd : Reg) (srcs : List Reg) (v : State → Word64) (s : State) :
    authority (scalarWrite t rd srcs v s) = authority s :=
  authority_scalar _ _ _ _ (fun s => by simp)

@[simp] theorem authority_alu2 (t : Thread) (rd rs1 rs2 : Reg) (f : Word64 → Word64 → Word64) (s : State) : authority (alu2 t rd rs1 rs2 f s) = authority s := by
  simp [alu2]

@[simp] theorem authority_aluImm (t : Thread) (rd rs1 : Reg) (imm : BitVec 32) (f : Word64 → Word64 → Word64) (s : State) : authority (aluImm t rd rs1 imm f s) = authority s := by
  simp [aluImm]

@[simp] theorem authority_branch (t : Thread) (rs1 rs2 : Reg) (off : BitVec 32) (c : Word64 → Word64 → Bool) (s : State) :
    authority (branch t rs1 rs2 off c s) = authority s :=
  authority_issue _ _ _ _ (fun s => by simp)

@[simp] theorem authority_fpRound (t : Thread) (rd : Reg) (srcs : List Reg) (rnd : BitVec 3) (f : Rnd → State → State) (s : State)
    (hf : ∀ m s, authority (f m s) = authority s) : authority (fpRound t rd srcs rnd f s) = authority s := by
  refine authority_issue _ _ _ _ (fun s => ?_)
  split
  · trivial
  · simp [hf]

@[simp] theorem authority_writeF64 (t : Thread) (rd : Reg) (rnd : Rnd) (v : Val) (s : State) : authority (writeF64 t rd rnd v s) = authority s := by
  simp [writeF64]

@[simp] theorem authority_fp2 (t : Thread) (rd rs1 rs2 : Reg) (rnd : BitVec 3) (f : Rnd → Val → Val → Val) (s : State) : authority (fp2 t rd rs1 rs2 rnd f s) = authority s := by
  simp [fp2]

@[simp] theorem authority_fpCmp (t : Thread) (rd rs1 rs2 : Reg) (f : Val → Val → Bool) (s : State) : authority (fpCmp t rd rs1 rs2 f s) = authority s := by
  simp [fpCmp]

@[simp] theorem authority_fpToInt (t : Thread) (rd rs1 : Reg) (rnd : BitVec 3) (bits : Nat) (s : State) : authority (fpToInt t rd rs1 rnd bits s) = authority s := by
  simp [fpToInt]

@[simp] theorem authority_sdmUncorr (t : Thread) (word : Nat) (s : State) : authority (sdmUncorr t word s) = authority s := by
  simp [sdmUncorr]

@[simp] theorem authority_sdmCorrect (a n : Nat) (s : State) : authority (sdmCorrect a n s) = authority s := by rfl

@[simp] theorem authority_sdmLoad (t : Thread) (rd rs1 : Reg) (imm : BitVec 32) (n : Nat) (isSigned : Bool) (s : State) :
    authority (sdmLoad t rd rs1 imm n isSigned s) = authority s := by
  refine authority_issue _ _ _ _ (fun s => ?_)
  dsimp only
  repeat' split
  all_goals simp

@[simp] theorem authority_sdmWrite (a : Nat) (bs : Bytes) (s : State) : authority (sdmWrite a bs s) = authority s := by rfl

@[simp] theorem authority_sdmStore (t : Thread) (rs1 rs2 : Reg) (imm : BitVec 32) (n : Nat) (s : State) :
    authority (sdmStore t rs1 rs2 imm n s) = authority s :=
  authority_issue _ _ _ _ (fun s => by simp)

@[simp] theorem authority_queueMoved (s : State) : authority (queueMoved s) = authority s := by rfl

/-! Issue of the instructions for the queues, the local store, the fabric, handles, sessions and the Spool. -/

@[simp] theorem authority_setTokens (k : Nat) (l : List KEntry) (s : State) : authority (setTokens k l s) = authority s := by rfl

@[simp] theorem authority_setSess (i : Nat) (e : Session) (s : State) : authority (setSess i e s) = authority s := by rfl

@[simp] theorem authority_retireSession (i : Nat) (s : State) : authority (retireSession i s) = authority s := by
  simp [retireSession]

@[simp] theorem authority_sessTouch (i : Nat) (s : State) : authority (sessTouch i s) = authority s := by
  simp [sessTouch]

@[simp] theorem authority_sessScan (s : State) : authority (sessScan s) = authority s := by
  simp [sessScan]

@[simp] theorem authority_retireList (l : SessList) (s : State) : authority (retireList l s) = authority s := by
  simp [retireList]

@[simp] theorem authority_listsBoundary (s : State) : authority (listsBoundary s) = authority s := by
  simp [listsBoundary]

@[simp] theorem authority_commitStaged (s : State) : authority (commitStaged s) = authority s := by
  simp [commitStaged]

@[simp] theorem verdictKeeps_issueReplaySync (t : Thread) (s : State) : verdictKeeps s (issueReplaySync t s) := by
  simp [issueReplaySync]

@[simp] theorem authority_pauseThread (t : Thread) (s : State) : authority (pauseThread t s) = authority s := by
  simp [pauseThread]

@[simp] theorem verdictKeeps_launch (f : Flight) (start : Flight → State → State) (s s' : State)
    (hstart : ∀ f s, authority (start f s) = authority s) (h : authority s' = authority s) :
    verdictKeeps s (launch f start s') := by
  simp [launch, hstart, h]

@[simp] theorem verdictKeeps_issueLsRd (t : Thread) (a : LsArgs) (s : State) : verdictKeeps s (issueLsRd t a s) := by
  unfold issueLsRd
  repeat with_reducible refine verdictKeeps_bind (by simp) fun _ => ?_
  simp

@[simp] theorem verdictKeeps_issueLsWr (t : Thread) (a : LsArgs) (s : State) : verdictKeeps s (issueLsWr t a s) := by
  unfold issueLsWr
  repeat with_reducible refine verdictKeeps_bind (by simp) fun _ => ?_
  split <;> simp

@[simp] theorem authority_setQueue (q : Nat) (l : List QEntry) (s : State) : authority (setQueue q l s) = authority s := by rfl

@[simp] theorem authority_reservePush (fid q n : Nat) (s : State) : authority (reservePush fid q n s) = authority s := by rfl

@[simp] theorem verdictKeeps_issueLsRq (i : Instr) (isStrided : Bool) (t : Thread) (a : LsqArgs) (s : State) : verdictKeeps s (issueLsRq i isStrided t a s) := by
  unfold issueLsRq
  repeat with_reducible refine verdictKeeps_bind (by simp) fun _ => ?_
  simp

@[simp] theorem authority_reservePop (fid q n : Nat) (s : State) : authority (reservePop fid q n s) = authority s := by rfl

@[simp] theorem verdictKeeps_issueLsWq (t : Thread) (a : LsqArgs) (s : State) : verdictKeeps s (issueLsWq t a s) := by
  unfold issueLsWq
  repeat with_reducible refine verdictKeeps_bind (by simp) fun _ => ?_
  simp

@[simp] theorem verdictKeeps_issueLsTag (t : Thread) (a : LsTagArgs) (s : State) : verdictKeeps s (issueLsTag t a s) := by
  unfold issueLsTag
  repeat with_reducible refine verdictKeeps_bind (by simp) fun _ => ?_
  simp

@[simp] theorem verdictKeeps_issueTld (i : Instr) (isStrided : Bool) (t : Thread) (a : TileMoveArgs) (s : State) : verdictKeeps s (issueTld i isStrided t a s) := by
  unfold issueTld
  repeat with_reducible refine verdictKeeps_bind (by simp) fun _ => ?_
  simp

@[simp] theorem verdictKeeps_issueTldT (t : Thread) (a : TldTArgs) (s : State) : verdictKeeps s (issueTldT t a s) := by
  unfold issueTldT
  repeat with_reducible refine verdictKeeps_bind (by simp) fun _ => ?_
  dsimp only
  split
  · simp
  · rw [ok_bind]
    repeat with_reducible refine verdictKeeps_bind (by simp) fun _ => ?_
    simp

@[simp] theorem verdictKeeps_issueTst (i : Instr) (isStrided : Bool) (t : Thread) (a : TileMoveArgs) (s : State) : verdictKeeps s (issueTst i isStrided t a s) := by
  unfold issueTst
  repeat with_reducible refine verdictKeeps_bind (by simp) fun _ => ?_
  simp

@[simp] theorem verdictKeeps_issueTctxSave (t : Thread) (a : TctxArgs) (s : State) : verdictKeeps s (issueTctxSave t a s) := by
  unfold issueTctxSave
  repeat with_reducible refine verdictKeeps_bind (by simp) fun _ => ?_
  simp

@[simp] theorem verdictKeeps_issueTctxLoad (t : Thread) (a : TctxArgs) (s : State) : verdictKeeps s (issueTctxLoad t a s) := by
  unfold issueTctxLoad
  repeat with_reducible refine verdictKeeps_bind (by simp) fun _ => ?_
  dsimp only
  split
  · with_reducible refine verdictKeeps_bind (by simp) fun _ => ?_
    simp
  · simp

@[simp] theorem verdictKeeps_issueDmaLl (t : Thread) (a : DmaArgs) (s : State) : verdictKeeps s (issueDmaLl t a s) := by
  unfold issueDmaLl
  repeat with_reducible refine verdictKeeps_bind (by simp) fun _ => ?_
  simp

@[simp] theorem verdictKeeps_issueDmaLr (t : Thread) (a : DmaArgs) (s : State) : verdictKeeps s (issueDmaLr t a s) := by
  unfold issueDmaLr
  repeat with_reducible refine verdictKeeps_bind (by simp) fun _ => ?_
  simp

@[simp] theorem verdictKeeps_issueDmaRl (t : Thread) (a : DmaArgs) (s : State) : verdictKeeps s (issueDmaRl t a s) := by
  unfold issueDmaRl
  repeat with_reducible refine verdictKeeps_bind (by simp) fun _ => ?_
  simp

@[simp] theorem verdictKeeps_issueDmaTl (t : Thread) (a : DmaArgs) (s : State) : verdictKeeps s (issueDmaTl t a s) := by
  unfold issueDmaTl
  repeat with_reducible refine verdictKeeps_bind (by simp) fun _ => ?_
  split <;> simp

@[simp] theorem verdictKeeps_issueDma (t : Thread) (a : DmaArgs) (s : State) : verdictKeeps s (issueDma t a s) := by
  unfold issueDma
  repeat with_reducible refine verdictKeeps_bind (by simp) fun _ => ?_
  split <;> simp

@[simp] theorem verdictKeeps_issuePut (i : Instr) (retry : Bool) (t : Thread) (a : RemoteArgs) (s : State) : verdictKeeps s (issuePut i retry t a s) := by
  unfold issuePut
  by_cases hq : a.le.getLsbD 8 = true
  all_goals
    simp only [hq, if_true, if_false, Bool.false_eq_true, ok_bind]
    repeat with_reducible refine verdictKeeps_bind (by simp) fun _ => ?_
    simp

@[simp] theorem verdictKeeps_issueTake (i : Instr) (req : ReqType) (retry : Bool) (t : Thread) (a : RemoteArgs) (s : State) :
    verdictKeeps s (issueTake i req retry t a s) := by
  unfold issueTake
  by_cases hq : a.le.getLsbD 8 = true
  all_goals
    simp only [hq, if_true, if_false, Bool.false_eq_true, ok_bind]
    repeat with_reducible refine verdictKeeps_bind (by simp) fun _ => ?_
    simp

@[simp] theorem verdictKeeps_issueFetch (t : Thread) (a : FetchArgs) (s : State) : verdictKeeps s (issueFetch t a s) := by
  unfold issueFetch
  repeat with_reducible refine verdictKeeps_bind (by simp) fun _ => ?_
  simp

@[simp] theorem authority_setHandle (h : BitVec 8) (e : Handle) (s : State) : authority (setHandle h e s) = authority s := by rfl

@[simp] theorem authority_releaseBinding (t : Thread) (h : BitVec 8) (s : State) : authority (releaseBinding t h s) = authority s := by
  unfold releaseBinding
  split <;> simp

@[simp] theorem authority_takeBinding (t : Thread) (h : BitVec 8) (s : State) : authority (takeBinding t h s) = authority s := by
  simp [takeBinding]

@[simp] theorem authority_bindRun (b : Bool) (h : BitVec 8) (ts : List Thread) (s : State) :
    authority (bindRun b h ts s).2 = authority s := by
  induction ts generalizing s with
  | nil => rfl
  | cons t ts ih =>
    unfold bindRun
    split
    · simpa using ih s
    · simp [ih]

@[simp] theorem verdictKeeps_issueBind (i : Instr) (bind : Bool) (t : Thread) (h : BitVec 8) (m : BitVec 2) (s : State) : verdictKeeps s (issueBind i bind t h m s) := by
  unfold issueBind
  repeat with_reducible refine verdictKeeps_bind (by simp) fun _ => ?_
  dsimp only
  split <;> simp

@[simp] theorem verdictKeeps_issueHswap (t : Thread) (ss : Reg) (h : BitVec 8) (s : State) : verdictKeeps s (issueHswap t ss h s) := by
  unfold issueHswap
  repeat with_reducible refine verdictKeeps_bind (by simp) fun _ => ?_
  simp

@[simp] theorem authority_retireOldest (s : State) : authority (retireOldest s) = authority s := by
  unfold retireOldest
  split <;> simp

@[simp] theorem authority_addList (sel : List Nat) (s : State) : authority (addList sel s) = authority s := by
  simp [addList]

@[simp] theorem verdictKeeps_issueSessNext (t : Thread) (sa sd : Reg) (s : State) : verdictKeeps s (issueSessNext t sa sd s) := by
  unfold issueSessNext
  repeat with_reducible refine verdictKeeps_bind (by simp) fun _ => ?_
  dsimp only
  split <;> simp

@[simp] theorem verdictKeeps_issueSpoolFill (t : Thread) (pin : Bool) (ss : Reg) (n1 : BitVec 6) (s : State) : verdictKeeps s (issueSpoolFill t pin ss n1 s) := by
  unfold issueSpoolFill
  repeat with_reducible refine verdictKeeps_bind (by simp) fun _ => ?_
  simp

@[simp] theorem verdictKeeps_issueSpoolUnpin (t : Thread) (ss : Reg) (n1 : BitVec 6) (s : State) : verdictKeeps s (issueSpoolUnpin t ss n1 s) := by
  unfold issueSpoolUnpin
  repeat with_reducible refine verdictKeeps_bind (by simp) fun _ => ?_
  simp

@[simp] theorem verdictKeeps_issueSpoolInv (t : Thread) (s : State) : verdictKeeps s (issueSpoolInv t s) := by
  unfold issueSpoolInv
  repeat with_reducible refine verdictKeeps_bind (by simp) fun _ => ?_
  simp

/-! Issue of the tensor instructions. -/

@[simp] theorem authority_startMm (p : MmPlan) (half accum : Bool) (f : Flight) (s : State) : authority (startMm p half accum f s) = authority s := by
  unfold startMm
  dsimp only
  repeat' split
  all_goals simp

@[simp] theorem authority_reserveQueues (fid : Nat) (srcs dsts : List (Opd × Nat)) (s : State) :
    authority (reserveQueues fid srcs dsts s) = authority s := by
  unfold reserveQueues
  rw [authority_foldl _ (fun s p => by split <;> simp)]
  simp

@[simp] theorem verdictKeeps_issueMm (i : Instr) (ra rw : Option Carried) (t : Thread) (a : MxMmArgs) (s : State) : verdictKeeps s (issueMm i ra rw t a s) := by
  unfold issueMm
  repeat with_reducible refine verdictKeeps_bind (by simp) fun _ => ?_
  simp

@[simp] theorem authority_startWld (o : Opd) (half : Bool) (f : Flight) (s : State) : authority (startWld o half f s) = authority s := by
  simp [startWld]

@[simp] theorem verdictKeeps_issueWld (t : Thread) (a : MxWldArgs) (s : State) : verdictKeeps s (issueWld t a s) := by
  unfold issueWld
  repeat with_reducible refine verdictKeeps_bind (by simp) fun _ => ?_
  simp

@[simp] theorem verdictKeeps_issueWldT (t : Thread) (a : MxWldTArgs) (s : State) : verdictKeeps s (issueWldT t a s) := by
  unfold issueWldT
  repeat with_reducible refine verdictKeeps_bind (by simp) fun _ => ?_
  simp

@[simp] theorem verdictKeeps_issueConv (t : Thread) (a : MxConvArgs) (s : State) : verdictKeeps s (issueConv t a s) := by
  unfold issueConv
  repeat with_reducible refine verdictKeeps_bind (by simp) fun _ => ?_
  simp

@[simp] theorem authority_startDrain (r0 n : Nat) (f : Flight) (s : State) : authority (startDrain r0 n f s) = authority s := by
  simp [startDrain]

@[simp] theorem verdictKeeps_issueDrain (t : Thread) (a : MxDrainArgs) (s : State) : verdictKeeps s (issueDrain t a s) := by
  unfold issueDrain
  repeat with_reducible refine verdictKeeps_bind (by simp) fun _ => ?_
  simp

@[simp] theorem verdictKeeps_issueGemvWith (i : Instr) (c : Option MvCarried) (t : Thread) (a : MvGemvArgs) (start : Flight → State → State) (s : State) (h : ∀ f s, authority (start f s) = authority s) : verdictKeeps s (issueGemvWith i c t a start s) := by
  unfold issueGemvWith
  repeat with_reducible refine verdictKeeps_bind (by simp) fun _ => ?_
  simp [h]

@[simp] theorem verdictKeeps_issueGemv (i : Instr) (c : Option MvCarried) (t : Thread) (a : MvGemvArgs) (s : State) : verdictKeeps s (issueGemv i c t a s) := by
  simp [issueGemv]

@[simp] theorem authority_vxTouch (g : Bool) (n : Nat) (xs : List (Option VxIn)) (i : Nat) (s : State) :
    authority (vxTouch g n xs i s) = authority s := by
  induction xs generalizing i s with
  | nil => rfl
  | cons x xs ih => cases x <;> simp [vxTouch, ih]

@[simp] theorem authority_startVx (g : Bool) (n : Nat) (ins : List (Option VxIn)) (more : List (Opd × List Seg)) (f : Flight) (s : State) : authority (startVx g n ins more f s) = authority s := by
  simp [startVx]

@[simp] theorem verdictKeeps_issueElementwise (i : Instr) (c : Option EwCarried) (t : Thread) (a : EwArgs) (nin : Nat) (w : Fmt) (wfBad : Option Fmt) (mayAbsent : Bool) (slot : Option (BitVec 3)) (ps : EwPos) (s : State) : verdictKeeps s (verdict (issueElementwise i c t a nin w wfBad mayAbsent slot ps s)) := by
  unfold issueElementwise
  repeat with_reducible refine verdictKeeps_bind (by simp) fun _ => ?_
  simp

@[simp] theorem verdictKeeps_issueEw (i : Instr) (c : Option EwCarried) (t : Thread) (a : VxEwArgs) (s : State) : verdictKeeps s (issueEw i c t a s) := by
  unfold issueEw
  repeat with_reducible refine verdictKeeps_bind (by simp) fun _ => ?_
  simp

@[simp] theorem verdictKeeps_issueEpRun (t : Thread) (a : EpRunArgs) (s : State) : verdictKeeps s (issueEpRun t a s) := by
  unfold issueEpRun
  repeat with_reducible refine verdictKeeps_bind (by simp) fun _ => ?_
  split <;> simp

@[simp] theorem authority_reserveToken (fid k : Nat) (s : State) : authority (reserveToken fid k s) = authority s := by rfl

@[simp] theorem verdictKeeps_issueRed (i : Instr) (r : Option Carried) (t : Thread) (a : VxRedArgs) (s : State) : verdictKeeps s (issueRed i r t a s) := by
  unfold issueRed
  repeat with_reducible refine verdictKeeps_bind (by simp) fun _ => ?_
  simp

@[simp] theorem verdictKeeps_issueScan (i : Instr) (seg : Bool) (t : Thread) (a : VxScanArgs) (s : State) : verdictKeeps s (issueScan i seg t a s) := by
  unfold issueScan
  repeat with_reducible refine verdictKeeps_bind (by simp) fun _ => ?_
  simp

@[simp] theorem verdictKeeps_issueCvt (i : Instr) (ri rd : Option Carried) (t : Thread) (a : CvtArgs) (s : State) : verdictKeeps s (issueCvt i ri rd t a s) := by
  unfold issueCvt
  repeat with_reducible refine verdictKeeps_bind (by simp) fun _ => ?_
  simp

@[simp] theorem verdictKeeps_issueEpLoad  (t : Thread) (slot : BitVec 3) (tile : BitVec 4) (s : State) : verdictKeeps s (issueEpLoad t slot tile s) := by
  unfold issueEpLoad
  repeat with_reducible refine verdictKeeps_bind (by simp) fun _ => ?_
  split
  · simp
  · split <;> simp

@[simp] theorem authority_holdList (lazy : Bool) (t : Thread) (n : Nat) (s : State) : authority (holdList lazy t n s) = authority s := by
  simp [holdList]

@[simp] theorem authority_startGlaze (srcs : List (Opd × Nat)) (f : Flight) (s : State) : authority (startGlaze srcs f s) = authority s := by
  simp [startGlaze]

@[simp] theorem authority_setGroup (g : Nat) (e : Group) (s : State) : authority (setGroup g e s) = authority s := by rfl

@[simp] theorem authority_glzStepGroup (g : Nat) (adv : Bool) (t : Nat) (s : State) : authority (glzStepGroup g adv t s) = authority s := by
  simp only [glzStepGroup]
  split <;> simp

@[simp] theorem verdictKeeps_issueGlaze (i : Instr) (lazy : Bool) (t : Thread) (a : GlzArgs) (s : State) : verdictKeeps s (issueGlaze i lazy t a s) := by
  unfold issueGlaze
  repeat with_reducible refine verdictKeeps_bind (by simp) fun _ => ?_
  cases lazy
  all_goals
    simp only [if_true, if_false, Bool.false_eq_true]
    repeat with_reducible refine verdictKeeps_bind (by simp) fun _ => ?_
    simp

@[simp] theorem authority_dropTileCopies (n : Nat) (s : State) : authority (dropTileCopies n s) = authority s := by rfl

@[simp] theorem authority_setTileCfg (n : Nat) (c : TileCfg) (s : State) : authority (setTileCfg n c s) = authority s := by rfl

@[simp] theorem authority_emptyTile (n : Nat) (s : State) : authority (emptyTile n s) = authority s := by rfl

@[simp] theorem authority_configureTile (rows1 : BitVec 5) (bytes1 : BitVec 6) (fmt : BitVec 4) (n : Nat) (s : State) : authority (configureTile rows1 bytes1 fmt n s) = authority s := by rfl

@[simp] theorem verdictKeeps_issueTcfg (t : Thread) (mask : BitVec 16) (rows1 : BitVec 5) (bytes1 : BitVec 6) (fmt : BitVec 4) (zeros : Bool) (s : State) : verdictKeeps s (issueTcfg t mask rows1 bytes1 fmt zeros s) := by
  unfold issueTcfg
  repeat with_reducible refine verdictKeeps_bind (by simp) fun _ => ?_
  simp

@[simp] theorem verdictKeeps_issueTrel (t : Thread) (mask : BitVec 16) (s : State) : verdictKeeps s (issueTrel t mask s) := by
  unfold issueTrel
  repeat with_reducible refine verdictKeeps_bind (by simp) fun _ => ?_
  simp

@[simp] theorem verdictKeeps_c3Shapes (slots : List (Slot × BitVec 14)) (s : State) (v : Verdict) (h : verdictKeeps s v) :
    verdictKeeps s (c3Shapes slots v) := by
  unfold c3Shapes
  split
  · exact h
  · cases v <;> simp [h]

@[simp] theorem verdictKeeps_issueC3Mm (t : Thread) (a : MxMmArgs) (r : ShapeRecs) (s : State) : verdictKeeps s (issueC3Mm t a r s) := by
  unfold issueC3Mm
  repeat with_reducible refine verdictKeeps_bind (by simp) fun _ => ?_
  simp

@[simp] theorem verdictKeeps_issueC3Gemv (t : Thread) (a : MvGemvArgs) (r : ShapeRecs) (s : State) : verdictKeeps s (issueC3Gemv t a r s) := by
  unfold issueC3Gemv
  repeat with_reducible refine verdictKeeps_bind (by simp) fun _ => ?_
  simp

@[simp] theorem verdictKeeps_issueC3Ew (t : Thread) (a : VxEwArgs) (r : ShapeRecs) (s : State) : verdictKeeps s (issueC3Ew t a r s) := by
  unfold issueC3Ew
  repeat with_reducible refine verdictKeeps_bind (by simp) fun _ => ?_
  simp

@[simp] theorem verdictKeeps_issueC3Red (t : Thread) (a : VxRedArgs) (r : ShapeRecs) (s : State) : verdictKeeps s (issueC3Red t a r s) := by
  unfold issueC3Red
  repeat with_reducible refine verdictKeeps_bind (by simp) fun _ => ?_
  simp

@[simp] theorem verdictKeeps_issueC3Cvt (t : Thread) (a : CvtArgs) (r : ShapeRecs) (s : State) : verdictKeeps s (issueC3Cvt t a r s) := by
  unfold issueC3Cvt
  repeat with_reducible refine verdictKeeps_bind (by simp) fun _ => ?_
  simp

@[simp] theorem authority_passUntil (goal : State → Bool) (n : Nat) (s : State) :
    authority (passUntil goal n s) = authority s := by
  induction n generalizing s with
  | zero => rfl
  | succ n ih => simp [passUntil, ih]

@[simp] theorem authority_tagTestStep (fid : Nat) (s : State) : optionKeeps s (tagTestStep fid s) := by
  unfold tagTestStep
  split <;> simp

@[simp] theorem authority_tagTimeoutStep (fid : Nat) (s : State) : optionKeeps s (tagTimeoutStep fid s) := by
  simp only [tagTimeoutStep]
  split <;> simp

@[simp] theorem authority_reach (goal : State → Bool) (s : State) : optionKeeps s (reach goal s) := by
  simp [reach]

/-! Read returns and completions. -/

@[simp] theorem authority_dropCopies (n r : Nat) (s : State) : authority (dropCopies n r s) = authority s := by rfl

@[simp] theorem authority_writeTile (w : TileWrite) (s : State) : authority (writeTile w s) = authority s := by rfl

@[simp] theorem authority_writeTiles (ws : List TileWrite) (s : State) : authority (writeTiles ws s) = authority s := by
  simp [writeTiles]

@[simp] theorem authority_setActs (fid : Nat) (acts : List (List Access)) (s : State) : authority (setActs fid acts s) = authority s := by rfl

@[simp] theorem authority_headerReturn (a : TctxArgs) (f : Flight) (b : Bytes) (s : State) : authority (headerReturn a f b s) = authority s := by
  unfold headerReturn
  dsimp only
  repeat' split
  all_goals simp

@[simp] theorem authority_mvGroupDone (c : Option MvCarried) (a : MvGemvArgs) (g : Nat) (f : Flight) (s : State) : authority (mvGroupDone c a g f s) = authority s := by
  simp [mvGroupDone]

@[simp] theorem authority_applyReturn (f : Flight) (d : DueRead) (s : State) : authority (applyReturn f d s) = authority s := by
  unfold applyReturn
  dsimp only
  repeat' split
  all_goals simp

@[simp] theorem authority_readReturnStep (fid : Nat) (s : State) : optionKeeps s (readReturnStep fid s) := by
  unfold readReturnStep
  dsimp only
  repeat' split
  all_goals simp

@[simp] theorem authority_returnStep (fid : Nat) (s : State) : optionKeeps s (returnStep fid s) :=
  optionKeeps_bind (authority_reach _ _) (fun t => authority_readReturnStep fid t)

@[simp] theorem authority_removePopped (fid : Nat) (s : State) : authority (removePopped fid s) = authority s := by
  simp [removePopped]

@[simp] theorem authority_fillToken (fid : Nat) (v : Word64) (s : State) : authority (fillToken fid v s) = authority s := by rfl

@[simp] theorem authority_commitNstat (t : Thread) (first : Nat) (n : Nstat) (s : State) : authority (commitNstat t first n s) = authority s := by
  simp [commitNstat]

@[simp] theorem authority_commitAmax (r : BitVec 3) (isNew : Bool) (v : Word32) (s : State) : authority (commitAmax r isNew v s) = authority s := by rfl

@[simp] theorem authority_commitAll (f : Flight) (s : State) : authority (commitAll f s) = authority s := by
  unfold commitAll
  dsimp only
  repeat' split
  all_goals simp

@[simp] theorem authority_finishLsRd (a : LsArgs) (f : Flight) (s : State) : authority (finishLsRd a f s) = authority s := by
  simp [finishLsRd]

@[simp] theorem authority_finishLsRq (a : LsqArgs) (f : Flight) (s : State) : authority (finishLsRq a f s) = authority s := by
  simp [finishLsRq]

@[simp] theorem authority_finishArray (half : Bool) (f : Flight) (s : State) : authority (finishArray half f s) = authority s := by
  unfold finishArray
  split <;> simp

@[simp] theorem authority_setStationary (half : Bool) (st : Stationary) (s : State) : authority (setStationary half st s) = authority s := by
  simp [setStationary]

@[simp] theorem authority_finishProduct (f : Flight) (half raw start ftz : Bool) (m n k : Nat) (chunks : List Chunk) (aSegs : List (List Val)) (aRaw : List (List Int)) (t : Tally) (ws : WSource) (double : Bool) (s : State) : authority (finishProduct f half raw start ftz m n k chunks aSegs aRaw t ws double s) = authority s := by
  simp only [finishProduct]
  split <;> simp

@[simp] theorem authority_finishMm (ra rw : Option Carried) (a : MxMmArgs) (f : Flight) (s : State) : authority (finishMm ra rw a f s) = authority s := by
  simp [finishMm]

@[simp] theorem authority_finishWld (a : MxWldArgs) (f : Flight) (s : State) : authority (finishWld a f s) = authority s := by
  simp [finishWld]

@[simp] theorem authority_finishWldT (a : MxWldTArgs) (f : Flight) (s : State) : authority (finishWldT a f s) = authority s := by
  simp [finishWldT]

@[simp] theorem authority_finishConv (a : MxConvArgs) (f : Flight) (s : State) : authority (finishConv a f s) = authority s := by
  simp [finishConv]

@[simp] theorem authority_finishDrain (a : MxDrainArgs) (f : Flight) (s : State) : authority (finishDrain a f s) = authority s := by
  simp [finishDrain]

@[simp] theorem authority_finishGemv (c : Option MvCarried) (a : MvGemvArgs) (f : Flight) (s : State) : authority (finishGemv c a f s) = authority s := by
  simp [finishGemv]

@[simp] theorem authority_finishElementwise (c : Option EwCarried) (a : EwArgs) (nin : Nat) (wf : Fmt) (us consts : List Word32) (f : Flight) (s : State) : authority (finishElementwise c a nin wf us consts f s) = authority s := by
  simp [finishElementwise]

@[simp] theorem authority_finishEw (c : Option EwCarried) (a : VxEwArgs) (f : Flight) (s : State) : authority (finishEw c a f s) = authority s := by
  simp [finishEw]

@[simp] theorem authority_finishEpRun (a : EpRunArgs) (f : Flight) (s : State) : authority (finishEpRun a f s) = authority s := by
  unfold finishEpRun
  split <;> simp

@[simp] theorem authority_finishRed (r : Option Carried) (a : VxRedArgs) (f : Flight) (s : State) : authority (finishRed r a f s) = authority s := by
  simp [finishRed]

@[simp] theorem authority_finishScan (seg : Bool) (a : VxScanArgs) (f : Flight) (s : State) : authority (finishScan seg a f s) = authority s := by
  simp [finishScan]

@[simp] theorem authority_finishCvt (ri rd : Option Carried) (a : CvtArgs) (f : Flight) (s : State) : authority (finishCvt ri rd a f s) = authority s := by
  simp only [finishCvt]
  split <;> simp

@[simp] theorem authority_finishGlaze (lazy : Bool) (a : GlzArgs) (f : Flight) (s : State) : authority (finishGlaze lazy a f s) = authority s := by
  simp [finishGlaze]

@[simp] theorem authority_finishC3Mm (a : MxMmArgs) (r : ShapeRecs) (f : Flight) (s : State) : authority (finishC3Mm a r f s) = authority s := by
  simp [finishC3Mm]

@[simp] theorem authority_finishC3Gemv (a : MvGemvArgs) (r : ShapeRecs) (f : Flight) (s : State) : authority (finishC3Gemv a r f s) = authority s := by
  simp [finishC3Gemv]

@[simp] theorem authority_finishC3Ew (a : VxEwArgs) (r : ShapeRecs) (f : Flight) (s : State) : authority (finishC3Ew a r f s) = authority s := by
  simp [finishC3Ew]

@[simp] theorem authority_finishC3Red (a : VxRedArgs) (r : ShapeRecs) (f : Flight) (s : State) : authority (finishC3Red a r f s) = authority s := by
  simp [finishC3Red]

@[simp] theorem authority_finishC3Cvt (a : CvtArgs) (r : ShapeRecs) (f : Flight) (s : State) : authority (finishC3Cvt a r f s) = authority s := by
  simp [finishC3Cvt]

@[simp] theorem authority_commitFlight (f : Flight) (s : State) : authority (commitFlight f s) = authority s := by
  unfold commitFlight
  split
  case h_23 => split <;> simp
  all_goals simp

@[simp] theorem authority_completeStep (fid : Nat) (s : State) : optionKeeps s (completeStep fid s) := by
  unfold completeStep
  split <;> simp

@[simp] theorem authority_finishStep (fid : Nat) (s : State) : optionKeeps s (finishStep fid s) :=
  optionKeeps_bind (authority_reach _ _) (fun t => authority_completeStep fid t)

/-! Faults, waits and the Spool. -/

@[simp] theorem authority_takeFaulted (t : Thread) (s : State) : authority (takeFaulted t s).2.2 = authority s := by rfl

@[simp] theorem authority_enterHandler (t : Thread) (faults : List FaultRec) (new : Option (List RestartEntry)) (fnpc : BitVec 48) (s : State) : authority (enterHandler t faults new fnpc s) = authority s := by
  simp [enterHandler]

@[simp] theorem authority_faultEntryStep (t : Thread) (s : State) : optionKeeps s (faultEntryStep t s) := by
  simp only [faultEntryStep]
  split <;> simp

@[simp] theorem authority_handlerStep (t : Thread) (s : State) : optionKeeps s (handlerStep t s) := by
  unfold handlerStep
  split
  · trivial
  · exact optionKeeps_of_eq (authority_passLull s) (authority_faultEntryStep t _)

@[simp] theorem authority_mutualWaitStep (s : State) : optionKeeps s (mutualWaitStep s) := by
  unfold mutualWaitStep
  split <;> simp

@[simp] theorem authority_dropLines (gone : BitVec 48 → Bool) (s : State) : authority (dropLines gone s) = authority s := by rfl

@[simp] theorem authority_installLine (l : SpoolLine) (s : State) : authority (installLine l s) = authority s := by
  unfold installLine
  dsimp only
  repeat' split
  all_goals simp

@[simp] theorem authority_wakeFetch (t : Thread) (demand err : Bool) (line : BitVec 48) (s : State) : authority (wakeFetch t demand err line s) = authority s := by
  simp [wakeFetch]

@[simp] theorem authority_spoolArrival (line : BitVec 48) (err : Bool) (data : Bytes) (s : State) : optionKeeps s (spoolArrival line err data s) := by
  unfold spoolArrival
  dsimp only
  repeat' split
  all_goals simp

/-! The boundary, the scrubbers and the fabric. -/

@[simp] theorem authority_countBoundary (s : State) : authority (countBoundary s) = authority s := by rfl

@[simp] theorem authority_freeFlits (p : BitVec 2) (n : Nat) (s : State) : authority (freeFlits p n s) = authority s := by
  simp [freeFlits]

@[simp] theorem authority_cmdOk (s : State) : authority (cmdOk s) = authority s := by rfl

@[simp] theorem authority_xferRowDone (s : State) : authority (xferRowDone s) = authority s := by
  unfold xferRowDone
  split <;> simp

@[simp] theorem authority_boundaryWrite (b : BAccess) (row : Bytes) (s : State) : authority (boundaryWrite b row s) = authority s := by
  unfold boundaryWrite
  dsimp only
  repeat' split
  all_goals simp

@[simp] theorem authority_sendResponse (p : BitVec 2) (b : Block) (s : State) : authority (sendResponse p b s) = authority s := by
  simp [sendResponse]

@[simp] theorem authority_dropXfer (s : State) : authority (dropXfer s) = authority s := by rfl

@[simp] theorem authority_backOut (x : SessXfer) (s : State) : authority (backOut x s) = authority s := by
  simp [backOut]

@[simp] theorem authority_cmdFail (code : Word32) (s : State) : authority (cmdFail code s) = authority s := by rfl

@[simp] theorem authority_xferError (s : State) : authority (xferError s) = authority s := by
  unfold xferError
  split <;> simp

@[simp] theorem authority_boundaryBad (b : BAccess) (word : Nat) (s : State) : authority (boundaryBad b word s) = authority s := by
  simp only [boundaryBad]
  split <;> simp

@[simp] theorem authority_boundaryCorrected (p : Nat) (s : State) : authority (boundaryCorrected p s) = authority s := by
  simp [boundaryCorrected]

@[simp] theorem authority_rowArrived (fid i : Nat) (buffer : Option (BitVec 2)) (row : Bytes) (s : State) : authority (rowArrived fid i buffer row s) = authority s := by
  unfold rowArrived
  dsimp only
  repeat' split
  all_goals simp

@[simp] theorem authority_boundaryRead (b : BAccess) (s : State) : authority (boundaryRead b s) = authority s := by
  unfold boundaryRead
  dsimp only
  repeat' split
  all_goals simp

@[simp] theorem authority_boundaryStep (s : State) : authority (boundaryStep s) = authority s := by
  unfold boundaryStep
  dsimp only
  repeat' split
  all_goals simp

@[simp] theorem authority_boundaryTurn (s : State) : optionKeeps s (boundaryTurn s) :=
  optionKeeps_bind (authority_reach _ _) (fun t => by split <;> simp)

@[simp] theorem authority_idleCycle (k : Nat) (s : State) : optionKeeps s (idleCycle k s) := by
  simp [idleCycle]

@[simp] theorem authority_advancePtr (k : Nat) (s : State) : authority (advancePtr k s) = authority s := by
  simp [advancePtr]

@[simp] theorem authority_scrubRow (k : Nat) (s : State) : authority (scrubRow k s) = authority s := by
  simp only [scrubRow]
  split <;> simp

@[simp] theorem authority_scrubReadStep (k : Nat) (s : State) : optionKeeps s (scrubReadStep k s) :=
  optionKeeps_bind (authority_idleCycle _ _) (fun t => by simp)

@[simp] theorem authority_writeBack (p : Nat) (s : State) : authority (writeBack p s) = authority s := by rfl

@[simp] theorem authority_writeBackStep (k : Nat) (s : State) : optionKeeps s (writeBackStep k s) :=
  optionKeeps_bind (authority_idleCycle _ _) (fun t => by cases dueWriteBack t k <;> simp)

@[simp] theorem authority_scrubSlot (k : Nat) (s : State) : authority (scrubSlot k s) = authority s := by
  unfold scrubSlot
  split <;> simp

@[simp] theorem authority_forcedSlot (k : Nat) (s : State) : authority (forcedSlot k s) = authority s := by
  simp [forcedSlot]

@[simp] theorem authority_forcedScrub (due : BitVec 24) (s : State) : optionKeeps s (forcedScrub due s) := by
  simp [forcedScrub]

@[simp] theorem authority_bindingReleaseStep (t : Thread) (h : BitVec 8) (s : State) : optionKeeps s (bindingReleaseStep t h s) := by
  simp only [bindingReleaseStep]
  split <;> simp

@[simp] theorem authority_setHState (h : BitVec 8) (st : HState) (s : State) : authority (setHState h st s) = authority s := by rfl

@[simp] theorem authority_drainStep (h : BitVec 8) (s : State) : optionKeeps s (drainStep h s) := by
  simp [drainStep]

@[simp] theorem authority_retryStep (fid i : Nat) (s : State) : optionKeeps s (retryStep fid i s) := by
  unfold retryStep
  split
  · trivial
  · split <;> simp

@[simp] theorem authority_linkFault (f : Flight) (r : Remote) (s : State) : authority (linkFault f r s) = authority s := by
  unfold linkFault
  rw [authority_execFault, authority_foldl _ (fun s x => by split <;> simp)]

@[simp] theorem authority_goDown (p : BitVec 2) (s : State) : authority (goDown p s) = authority s := by
  simp [goDown]

@[simp] theorem authority_sendLink (p : BitVec 2) (ack : Bool) (seq : BitVec 8) (s : State) : authority (sendLink p ack seq s) = authority s := by
  simp [sendLink]

@[simp] theorem authority_blockFailure (p : BitVec 2) (seq : BitVec 8) (s : State) : authority (blockFailure p seq s) = authority s := by
  simp [blockFailure]

@[simp] theorem authority_takeFlits (p : BitVec 2) (n : Nat) (s : State) : authority (takeFlits p n s) = authority s := by
  simp [takeFlits]

@[simp] theorem authority_acceptRequest (p : BitVec 2) (b : Block) (req : ReqType) (s : State) :
    authority (acceptRequest p b req s) = authority s := by
  have h := authority_serveRequest req b.win b.wr b.key b.src (fitBytes 512 b.row) (.putRow b.win)
    (.answer p b.win b.src b.txn) (some p) s
  unfold acceptRequest
  split
  all_goals
    next e => rw [e] at h; simpa using h

@[simp] theorem authority_acceptResponse (p : BitVec 2) (b : Block) (s : State) : authority (acceptResponse p b s) = authority s := by
  unfold acceptResponse
  split <;> simp

@[simp] theorem authority_acceptBlock (p : BitVec 2) (b : Block) (s : State) : authority (acceptBlock p b s) = authority s := by
  unfold acceptBlock
  dsimp only
  repeat' split
  all_goals simp

@[simp] theorem authority_discardFlits (p : BitVec 2) (n : Nat) (s : State) : authority (discardFlits p n s) = authority s := by
  simp [discardFlits]

@[simp] theorem authority_arrive (p : BitVec 2) (b : Block) (s : State) : authority (arrive p b s) = authority s := by
  simp [arrive]

@[simp] theorem authority_ackBlock (p : BitVec 2) (seq : BitVec 8) (s : State) : authority (ackBlock p seq s) = authority s := by
  simp [ackBlock]

@[simp] theorem authority_resendFrom (p : BitVec 2) (seq : BitVec 8) (s : State) : optionKeeps s (resendFrom p seq s) := by
  simp only [resendFrom]
  split <;> simp

@[simp] theorem authority_linkUnit (p : BitVec 2) (ack : Bool) (seq : BitVec 8) (s : State) :
    authority (linkUnit p ack seq s) = authority s := by
  simp [linkUnit, authority_getD (authority_resendFrom p seq s) rfl]

@[simp] theorem authority_creditReturned (p : BitVec 2) (s : State) : authority (creditReturned p s) = authority s := by
  simp [creditReturned]

@[simp] theorem authority_rspTimeoutStep (p : BitVec 2) (txn : BitVec 6) (s : State) : optionKeeps s (rspTimeoutStep p txn s) := by
  unfold rspTimeoutStep
  split <;> simp

@[simp] theorem authority_dmaRowDone (fid i : Nat) (s : State) : authority (dmaRowDone fid i s) = authority s := by rfl

@[simp] theorem authority_dmaError (fid i : Nat) (address : BitVec 48) (s : State) : authority (dmaError fid i address s) = authority s := by
  unfold dmaError
  dsimp only
  repeat' split
  all_goals simp

@[simp] theorem authority_requestStream (base : BitVec 48) (i : Nat) (s : State) : authority (requestStream base i s) = authority s := by rfl

@[simp] theorem authority_streamArrived (i : Nat) (address : BitVec 48) (err : Bool) (row : Bytes) (s : State) : authority (streamArrived i address err row s) = authority s := by
  simp [streamArrived]

@[simp] theorem authority_resReadStep (id : BitVec 6) (err : Bool) (data : Bytes) (s : State) :
    authority (resReadStep id err data s) = authority s := by
  unfold resReadStep
  split
  · rfl
  · dsimp only
    split
    · exact authority_getD (authority_spoolArrival _ err data s) (by simp)
    · split <;> simp
    · split <;> simp
    · simp
    · simp

@[simp] theorem authority_resWriteStep (id : BitVec 6) (err : Bool) (s : State) : authority (resWriteStep id err s) = authority s := by
  unfold resWriteStep
  dsimp only
  repeat' split
  all_goals simp

@[simp] theorem authority_dropHeld (s : State) : authority (dropHeld s) = authority s := by rfl

@[simp] theorem authority_answer (st : CsrStatus) (rdata : Word32) (s : State) : authority (answer st rdata s) = authority s := by rfl

@[simp] theorem authority_rejectCommand (op : Nat) (st : CsrStatus) (s : State) : authority (rejectCommand op st s) = authority s := by
  simp [rejectCommand]

/-! Requests for SAFE and commands of the host. -/

@[simp] theorem authority_requestSafe (cause : SafeCause) (s : State) : authority (requestSafe cause s) = authority s := by
  unfold requestSafe
  dsimp only
  split
  · rfl
  · split <;> rfl

@[simp] theorem authority_bridleEvent (code : BitVec 12) (detail : Nat) (s : State) : authority (bridleEvent code detail s) = authority s := by
  simp [bridleEvent]

@[simp] theorem authority_retuneTable (s : State) : authority (retuneTable s) = authority s := by
  simp [retuneTable]

@[simp] theorem authority_endStepChange (s : State) : authority (endStepChange s) = authority s := by
  simp [endStepChange]

@[simp] theorem authority_endBusy (s : State) : authority (endBusy s) = authority s := by
  unfold endBusy
  split <;> simp

@[simp] theorem authority_pauseIfReady (t : Thread) (s : State) : authority (pauseIfReady t s) = authority s := by
  simp [pauseIfReady]

@[simp] theorem authority_pauseBoth (s : State) : authority (pauseBoth s) = authority s := by
  simp [pauseBoth]

@[simp] theorem authority_stayInSafe (s : State) : authority (stayInSafe s) = authority s := by rfl

@[simp] theorem authority_unpause (s : State) : authority (unpause s) = authority s := by rfl

@[simp] theorem authority_freeBoundary (s : State) (b : BAccess) : authority (freeBoundary s b) = authority s := by
  unfold freeBoundary
  split <;> simp



@[simp] theorem authority_readStream (base : BitVec 48) (s : State) : authority (readStream base s) = authority s := by rfl

@[simp] theorem authority_setMouldErr (err word : Nat) (s : State) : authority (setMouldErr err word s) = authority s := by rfl

@[simp] theorem authority_runActivate (s : State) : authority (runActivate s) = authority s := by rfl

@[simp] theorem authority_mailboxServe (s : State) : authority (mailboxServe s) = authority s := by
  simp [mailboxServe]

@[simp] theorem authority_setStep (n : BitVec 4) (s : State) : authority (setStep n s) = authority s := by rfl

@[simp] theorem authority_dropOutstanding (p : BitVec 2) (s : State) : authority (dropOutstanding p s) = authority s := by
  simp [dropOutstanding]

@[simp] theorem authority_clearLink (p : BitVec 2) (retrain : Bool) (s : State) : authority (clearLink p retrain s) = authority s := by
  simp [clearLink]

@[simp] theorem authority_applyPort (linkUp : BitVec 4) (s : State) (p : Nat) : authority (applyPort linkUp s p) = authority s := by
  simp [applyPort]

@[simp] theorem authority_applyStream (c : Checked) (linkUp : BitVec 4) (s : State) : authority (applyStream c linkUp s) = authority s := by
  simp [applyStream]

@[simp] theorem authority_refireCheck (o : RefireOutcome) (s : State) : authority (refireCheck o s) = authority s := by rfl

@[simp] theorem authority_runMouldLoad (s : State) : authority (runMouldLoad s) = authority s := by rfl

@[simp] theorem authority_mouldNotes (c : Checked) (s : State) : authority (mouldNotes c s) = authority s := by
  simp [mouldNotes]

@[simp] theorem authority_answerStreamRead (err : Bool) (row : Bytes) (s : State) :
    authority (answerStreamRead err row s) = authority s := by
  unfold answerStreamRead
  split
  · rfl
  · split <;> simp

@[simp] theorem authority_streamAnswers (readErr : Bool) (stream : List Bytes) (s : State) : authority (streamAnswers readErr stream s) = authority s := by
  simp [streamAnswers]

@[simp] theorem authority_runReplay (s : State) : authority (runReplay s) = authority s := by rfl

@[simp] theorem authority_lockStep (t : BitVec 4) (done : State → State) (s : State) (hdone : ∀ s, authority (done s) = authority s) : authority (lockStep t done s) = authority s := by
  unfold lockStep
  dsimp only
  repeat' split
  all_goals simp_all

@[simp] theorem authority_runSetStep (s : State) : authority (runSetStep s) = authority s := by
  simp [runSetStep]

@[simp] theorem authority_lockFailStep (s : State) : optionKeeps s (lockFailStep s) := by
  unfold lockFailStep
  split <;> simp

@[simp] theorem authority_startResume (idx : Nat) (s : State) : authority (startResume idx s) = authority s := by
  simp [startResume]

@[simp] theorem authority_startPark (idx : Nat) (s : State) : authority (startPark idx s) = authority s := by
  simp [startPark]

@[simp] theorem authority_runHpin (h : BitVec 8) (s : State) : authority (runHpin h s) = authority s := by rfl

@[simp] theorem authority_runHunpin (h : BitVec 8) (s : State) : authority (runHunpin h s) = authority s := by rfl

@[simp] theorem authority_runHfree (h : BitVec 8) (s : State) : authority (runHfree h s) = authority s := by rfl

@[simp] theorem authority_readHandles (s : State) : authority (readHandles s) = authority s :=
  authority_foldl _ (fun s h => authority_readCfg h s) _ s

@[simp] theorem authority_runHevict (s : State) : authority (runHevict s) = authority s := by
  unfold runHevict
  dsimp only
  split <;> simp

@[simp] theorem authority_runRetrain (s : State) : authority (runRetrain s) = authority s := by
  simp [runRetrain]

@[simp] theorem authority_endRetrain (p : BitVec 2) (done : State → State) (s : State)
    (hd : ∀ s, authority (done s) = authority s) : authority (endRetrain p done s) = authority s := by simp [endRetrain, hd]

@[simp] theorem authority_retrainAckStep (p : BitVec 2) (s : State) : optionKeeps s (retrainAckStep p s) := by
  simp [retrainAckStep]

@[simp] theorem authority_retrainTimeoutStep (p : BitVec 2) (s : State) : optionKeeps s (retrainTimeoutStep p s) := by
  simp [retrainTimeoutStep]

@[simp] theorem authority_postMailbox (op : Nat) (s : State) : authority (postMailbox op s) = authority s := by
  unfold postMailbox
  dsimp only
  repeat' split
  all_goals simp

@[simp] theorem authority_mbxOk (s : State) : authority (mbxOk s) = authority s := by rfl

@[simp] theorem authority_runVersion (s : State) : authority (runVersion s) = authority s := by rfl

/-! The mailbox and the monitor. -/

@[simp] theorem authority_drawFree (s : State) : authority (drawFree s).2 = authority s := by rfl

@[simp] theorem authority_setMbxData (k : Nat) (w : Word32) (s : State) : authority (setMbxData k w s) = authority s := by rfl

@[simp] theorem authority_setMbxWords (ws : List Word32) (s : State) : authority (setMbxWords ws s) = authority s :=
  authority_foldl _ (fun s _ => authority_setMbxData _ _ s) _ s

@[simp] theorem authority_runTelemetry (s : State) : authority (runTelemetry s) = authority s := by simp [runTelemetry]

@[simp] theorem authority_applyRetune (vidOfs : BitVec 4) (freqOfs : Bool) (s : State) : authority (applyRetune vidOfs freqOfs s) = authority s := by
  simp [applyRetune]

@[simp] theorem authority_wearRestore (s : State) : authority (wearRestore s) = authority s := by
  simp [wearRestore]

@[simp] theorem authority_mbxFail (s : State) : authority (mbxFail s) = authority s := by rfl

@[simp] theorem authority_endVerify (x : ImageRead) (s : State) : authority (endVerify x s) = authority s := by
  simp [endVerify]

@[simp] theorem authority_runMonToken (s : State) : authority (runMonToken s) = authority s := by rfl

@[simp] theorem authority_lockMonitor (s : State) : authority (lockMonitor s) = authority s := by rfl

@[simp] theorem authority_runChallenge (s : State) : authority (runChallenge s) = authority s := by rfl

@[simp] theorem authority_endAuthorize (s : State) : authority (endAuthorize s) = authority s := by
  simp [endAuthorize]

@[simp] theorem authority_runUartCfg (s : State) : authority (runUartCfg s) = authority s := by
  simp [runUartCfg]

@[simp] theorem authority_endMailbox (x : ImageRead) (s : State) : authority (endMailbox x s) = authority s := by
  unfold endMailbox
  split <;> simp

@[simp] theorem authority_mailboxEndStep (x : ImageRead) (s : State) : authority (mailboxEndStep x s) = authority s := by
  simp [mailboxEndStep]

@[simp] theorem authority_reply (r : MonReply) (s : State) : authority (reply r s) = authority s := by rfl

theorem authority_monitorCommand (lockedToo : Bool) (run : State → State) (s : State)
    (h : ∀ s, authority (run s) = authority s) : authority (monitorCommand lockedToo run s) = authority s := by
  unfold monitorCommand
  split
  · rfl
  · split <;> simp [h]

@[simp] theorem authority_reported (xs : List Nat) (s : State) : authority (reported xs s) = authority s := by rfl

@[simp] theorem authority_runId (s : State) : authority (runId s) = authority s := by rfl

@[simp] theorem authority_runState (s : State) : authority (runState s) = authority s := by rfl

@[simp] theorem authority_runTemp (s : State) : authority (runTemp s) = authority s := by rfl

@[simp] theorem authority_runPower (s : State) : authority (runPower s) = authority s := by rfl

@[simp] theorem authority_runCones (s : State) : authority (runCones s) = authority s := by rfl

@[simp] theorem authority_runSteps (s : State) : authority (runSteps s) = authority s := by rfl

@[simp] theorem authority_runLog (n : Nat) (s : State) : authority (runLog n s) = authority s := by rfl

@[simp] theorem authority_runCnt (address : Nat) (s : State) : authority (runCnt address s) = authority s := by
  unfold runCnt
  split <;> simp

@[simp] theorem authority_runUnlock (token : BitVec 64) (s : State) : authority (runUnlock token s) = authority s := by
  simp [runUnlock]

@[simp] theorem authority_runLock (s : State) : authority (runLock s) = authority s := by rfl

@[simp] theorem authority_setCapture (base : Nat) (c : Option Word32) (s : State) : authority (setCapture base c s) = authority s := by rfl

@[simp] theorem authority_finishWrite (r : Wr) : authority (finishWrite r) = authority r.2 := by simp [finishWrite]

@[simp] theorem authority_clearCause (v : Nat) (s : State) : authority (clearCause v s) = authority s := by rfl

@[simp] theorem authority_selectLog (v : Nat) (s : State) : authority (selectLog v s) = authority s := by rfl

@[simp] theorem authority_setRdptr (v : Nat) (s : State) : authority (setRdptr v s) = authority s := by rfl

@[simp] theorem authority_writeStage (n v : Nat) (s : State) : authority (writeStage n v s) = authority s := by rfl

@[simp] theorem authority_writeCfg (n : Nat) (s : State) : authority (writeCfg n s) = authority s := by rfl

@[simp] theorem authority_wrOk (s : State) : authority (wrOk s).2 = authority s := by rfl
@[simp] theorem authority_refusedWrite (c : CsrStatus) (s : State) : authority ((c, s) : Wr).2 = authority s := by rfl
@[simp] theorem authority_writeEntry (t : Thread) (v : Nat) (s : State) : authority (writeEntry t v s).2 = authority s := by
  unfold writeEntry
  split
  · rfl
  · split
    · rfl
    · cases t <;> rfl

@[simp] theorem authority_writeRstsel (t : Thread) (v : Nat) (s : State) : authority (writeRstsel t v s).2 = authority s := by
  simp [writeRstsel]
@[simp] theorem authority_writeCmdArg (k v : Nat) (s : State) : authority (writeCmdArg k v s).2 = authority s := by
  unfold writeCmdArg
  dsimp only
  repeat' split
  all_goals simp
@[simp] theorem authority_writeEvent (a v : Nat) (s : State) : authority (writeEvent a v s).2 = authority s := by
  unfold writeEvent
  split <;> simp
@[simp] theorem authority_writeStaging (a v : Nat) (s : State) : authority (writeStaging a v s).2 = authority s := by
  simp [writeStaging]
@[simp] theorem authority_activate (h : BitVec 8) (v : Nat) (s : State) : authority (activate h v s).2 = authority s := by
  simp [activate]
@[simp] theorem authority_writeHandleWord (h : BitVec 8) (o v : Nat) (s : State) : authority (writeHandleWord h o v s).2 = authority s := by
  simp [writeHandleWord]
@[simp] theorem authority_writeHandle (a v : Nat) (s : State) : authority (writeHandle a v s).2 = authority s := by
  simp [writeHandle]
@[simp] theorem authority_writeWindow (k o v : Nat) (s : State) : authority (writeWindow k o v s).2 = authority s := by
  simp [writeWindow]
@[simp] theorem authority_writeFabricCtl (a v : Nat) (s : State) : authority (writeFabricCtl a v s).2 = authority s := by
  unfold writeFabricCtl
  split <;> simp
@[simp] theorem authority_sessReadOp  (s : State) : authority (sessReadOp  s).2 = authority s := by
  simp [sessReadOp]
@[simp] theorem authority_sessWriteOp  (s : State) : authority (sessWriteOp  s).2 = authority s := by
  unfold sessWriteOp
  dsimp only
  repeat' split
  all_goals simp
@[simp] theorem authority_writeSessOp (v : Nat) (s : State) : authority (writeSessOp v s).2 = authority s := by
  unfold writeSessOp
  split <;> simp
@[simp] theorem authority_writeCreditAdd (v : Nat) (s : State) : authority (writeCreditAdd v s).2 = authority s := by
  simp [writeCreditAdd]
@[simp] theorem authority_writeSessCfg (a v : Nat) (s : State) : authority (writeSessCfg a v s).2 = authority s := by
  unfold writeSessCfg
  dsimp only
  repeat' split
  all_goals simp
@[simp] theorem authority_writeSess (a v : Nat) (s : State) : authority (writeSess a v s).2 = authority s := by
  simp [writeSess]
@[simp] theorem authority_writeGlaze (a v : Nat) (s : State) : authority (writeGlaze a v s).2 = authority s := by
  unfold writeGlaze
  dsimp only
  repeat' split
  all_goals simp
@[simp] theorem authority_writeBallast (a v : Nat) (s : State) : authority (writeBallast a v s).2 = authority s := by
  simp only [writeBallast]
  split <;> simp
@[simp] theorem authority_writeHold (v : Nat) (s : State) : authority (writeHold v s).2 = authority s := by
  simp [writeHold]
@[simp] theorem authority_writeCounter (a v : Nat) (s : State) : authority (writeCounter a v s).2 = authority s := by rfl
@[simp] theorem authority_writeMbx (a v : Nat) (s : State) : authority (writeMbx a v s).2 = authority s := by
  unfold writeMbx
  dsimp only
  repeat' split
  all_goals simp
@[simp] theorem authority_regWrite (a v : Nat) (s : State) : authority (regWrite a v s).2 = authority s := by
  simp [regWrite]
@[simp] theorem authority_writeWord (r : CsrReg) (a : Nat) (d : Word32) (held : Option (BitVec 16 × Word32)) (s : State) :
    authority (writeWord r a d held s) = authority s := by
  simp [writeWord]


/-! CSR reads. -/

@[simp] theorem authority_readTable (a : Nat) (s : State) : authority (readTable a s) = authority s := by
  unfold readTable
  split <;> simp

@[simp] theorem authority_readEffect (a : Nat) (s : State) : authority (readEffect a s) = authority s := by
  simp [readEffect]

@[simp] theorem authority_csrRead (addr : BitVec 16) (s : State) : authority (csrRead addr s) = authority s := by
  unfold csrRead
  dsimp only
  repeat' split
  all_goals simp

@[simp] theorem authority_setImage (slot : BitVec 1) (x : ImageRead) (s : State) : authority (setImage slot x s) = authority s := by rfl

@[simp] theorem authority_bootImages (runs : BitVec 1 → Bool) (l : List (BitVec 1 × ImageRead)) (s : State) :
    authority (bootImages runs l s).2 = authority s := by
  induction l generalizing s with
  | nil => rfl
  | cons x rest ih =>
    unfold bootImages
    split
    · simp
    · split
      · rfl
      · simp [ih]

@[simp] theorem authority_bootStep (o : BisqueOutcome) (s : State) : authority (bootStep o s).2 = authority s := by
  simp [bootStep]

/-! The start, the Bridle and the clock. -/

@[simp] theorem authority_applyRepair (o : BisqueOutcome) (s : State) : authority (applyRepair o s) = authority s := by
  simp [applyRepair]

@[simp] theorem authority_applyCalibration (o : BisqueOutcome) (s : State) : authority (applyCalibration o s) = authority s := by rfl

@[simp] theorem authority_strobeStep (credit : BitVec 16) (s : State) : authority (strobeStep credit s) = authority s := by
  simp [strobeStep]

@[simp] theorem authority_closeWindow (credit : BitVec 16) (s : State) : authority (closeWindow credit s).1 = authority s := by rfl

@[simp] theorem authority_writeOutputs (s : State) : authority (writeOutputs s) = authority s := by rfl

@[simp] theorem authority_tripStep (s : State) : authority (tripStep s) = authority s := by
  simp [tripStep]

@[simp] theorem authority_thermalStep (used : Word32) (s : State) : authority (thermalStep used s) = authority s := by rfl

@[simp] theorem authority_deliverTm (s : State) : authority (deliverTm s) = authority s := by
  simp [deliverTm]

@[simp] theorem authority_updateStep (credit : BitVec 16) (s : State) : authority (updateStep credit s) = authority s := by
  simp [updateStep]

@[simp] theorem authority_strobedBoundary (s : State) : optionKeeps s (strobedBoundary s) := by
  unfold strobedBoundary
  split <;> simp

@[simp] theorem authority_missedStep (s : State) : optionKeeps s (missedStep s) := by
  simp [missedStep]

@[simp] theorem authority_coneReport (codes : List (Option (BitVec 6))) (s : State) : authority (coneReport codes s) = authority s := by rfl

@[simp] theorem authority_setLevel (lv : Drogue) (s : State) : authority (setLevel lv s) = authority s := by rfl

@[simp] theorem authority_drogueReport (codes : List (Option (BitVec 6))) (s : State) : authority (drogueReport codes s) = authority s := by
  unfold drogueReport
  dsimp only
  split <;> simp

@[simp] theorem authority_drogueFall (s : State) : authority (drogueFall s) = authority s := by
  simp [drogueFall]

@[simp] theorem authority_marginLowStep (cone : BitVec 4) (s : State) : optionKeeps s (marginLowStep cone s) := by
  simp [marginLowStep]

@[simp] theorem authority_crossingStep (src dst occ : BitVec 3) (s : State) : optionKeeps s (crossingStep src dst occ s) := by
  simp [crossingStep]

@[simp] theorem authority_tickStep (x : TickSample) (s : State) : optionKeeps s (tickStep x s) := by
  simp [tickStep]

@[simp] theorem authority_calibrationStep (offsets : List (BitVec 8)) (s : State) : optionKeeps s (calibrationStep offsets s) := by
  simp [calibrationStep]

@[simp] theorem authority_wearStep (s : State) : optionKeeps s (wearStep s) := by
  simp [wearStep]

@[simp] theorem authority_watchdogStep (s : State) : optionKeeps s (watchdogStep s) := by
  simp [watchdogStep]

@[simp] theorem authority_selfCheckTimeoutStep (slot : BitVec 1) (image0 image1 : ImageRead) (s : State) : optionKeeps s (selfCheckTimeoutStep slot image0 image1 s) := by
  unfold selfCheckTimeoutStep
  dsimp only
  repeat' split
  all_goals simp

@[simp] theorem authority_loseEntry (s : State) : authority (loseEntry s) = authority s := by
  simp only [loseEntry]
  split <;> simp

@[simp] theorem authority_logEntryStep (s : State) : optionKeeps s (logEntryStep s) := by
  unfold logEntryStep
  split <;> simp

/-- The command that a line spells, if any, leaves the authority of every state alone. -/
def lineKeeps : Option (Bool × (State → State)) → Prop
  | some p => ∀ s, authority (p.2 s) = authority s
  | none => True

@[simp] theorem lineKeeps_none : lineKeeps none := trivial
@[simp] theorem lineKeeps_some (b : Bool) (run : State → State) :
    lineKeeps (some (b, run)) ↔ ∀ s, authority (run s) = authority s := Iff.rfl
theorem lineKeeps_ite (c : Prop) [Decidable c] {o p : Option (Bool × (State → State))} (ho : lineKeeps o) (hp : lineKeeps p) :
    lineKeeps (if c then o else p) := by
  split
  · exact ho
  · exact hp

theorem lineKeeps_lineCommand (ws : List (List Char)) : lineKeeps (lineCommand ws) := by
  unfold lineCommand
  dsimp only
  split
  · trivial
  · next w args =>
    refine lineKeeps_ite _ (fun s => by simp) (lineKeeps_ite _ ?_ (lineKeeps_ite _ ?_ ?_))
    · split
      · exact fun s => by simp
      · trivial
    · cases counterNamed args with
      | none => trivial
      | some a => exact fun s => by simp
    · repeat' refine lineKeeps_ite _ ?_ ?_
      all_goals simp

@[simp] theorem authority_receiveLine (l : List (BitVec 8)) (s : State) : authority (receiveLine l s) = authority s := by
  have h := lineKeeps_lineCommand (lineWords l)
  unfold receiveLine
  split
  · next b run e =>
    refine authority_monitorCommand _ _ _ ?_
    split at e
    · rwa [e] at h
    · cases e
  · exact authority_monitorCommand _ _ _ (fun s => by simp)

@[simp] theorem authority_crcFailure (p : BitVec 2) (kind : LinkFailure) (seq : BitVec 8) (s : State) :
    authority (crcFailure p kind seq s) = authority s := by
  unfold crcFailure
  split
  · cases kind <;> simp
  · rfl

@[simp] theorem authority_endRestart (slot : BitVec 1) (x : ImageRead) (s : State) : authority (endRestart slot x s) = authority s := by
  simp [endRestart]

@[simp] theorem authority_sweepStep (s : State) : authority (sweepStep s) = authority s := by
  simp [sweepStep]

@[simp] theorem authority_tapLoad (ir : TapInstr) (s : State) : authority (tapLoad ir s) = authority s := by rfl

end Sys2Proof.Machine
end

section
/-! SUPPORT. What the commands that touch the run control, the resets and the life cycle keep (R4, R22, R334, R345). -/

namespace Sys2Proof.Machine
open Claims

/-- What every command but a power-good keeps of the state `s`: the agreement of the halves, the build, the fuse bus up to its
life-cycle field, and the fuses that the cluster has read (R4, R22, R345). -/
structure Keeps (s s' : State) : Prop where
  halves : halvesAgree s → halvesAgree s'
  build : s'.build = s.build
  bus : { s'.fuseBus with lc := s.fuseBus.lc } = s.fuseBus
  fuses : s'.fuses = s.fuses

theorem Keeps.refl (s : State) : Keeps s s := ⟨id, rfl, rfl, rfl⟩

theorem Keeps.trans {a b c : State} (h : Keeps a b) (k : Keeps b c) : Keeps a c where
  halves := k.halves ∘ h.halves
  build := k.build.trans h.build
  bus := by
    have hb := h.bus
    rw [← k.bus] at hb
    exact hb
  fuses := k.fuses.trans h.fuses

theorem Keeps.of_authority {s s' : State} (h : authority s' = authority s) : Keeps s s' := by
  simp only [authority, Prod.mk.injEq] at h
  obtain ⟨hc, hw, he, hb, hbus, hf⟩ := h
  exact ⟨fun ⟨h1, h2⟩ => ⟨by rw [hw, hc, h1], by rw [he, hc, h2]⟩, hb, by rw [hbus], hf⟩

/-- What goes on behind an operation that leaves the authority alone. -/
theorem Keeps.after {s t s' : State} (h : authority t = authority s) (k : Keeps t s') : Keeps s s' :=
  (Keeps.of_authority h).trans k

/-- An operation that leaves the authority alone, behind others. -/
theorem Keeps.before {s t s' : State} (k : Keeps s t) (h : authority s' = authority t) : Keeps s s' :=
  k.trans (Keeps.of_authority h)

theorem Keeps.ite {s t u : State} {c : Prop} [Decidable c] (ht : Keeps s t) (hu : Keeps s u) :
    Keeps s (if c then t else u) := by
  split
  · exact ht
  · exact hu

/-- The step of the start is no part of the authority. -/
theorem authority_runStep (n : BitVec 4) (s : State) :
    authority { s with run := { s.run with step := n } } = authority s := rfl

/-! The handshake and the run state. -/

/-- The difference of the copies ends with both written anew (R22, R334). -/
theorem halvesAgree_splitAuthority (s : State) : halvesAgree (splitAuthority s) := by
  unfold splitAuthority requestSafe
  dsimp only
  split
  · exact ⟨rfl, rfl⟩
  · split <;> exact ⟨rfl, rfl⟩

/-- A handshake leaves both halves with the same copy (R22). -/
theorem halvesAgree_handshake (s : State) : halvesAgree (handshake s) := by
  unfold handshake
  split
  · exact ⟨rfl, rfl⟩
  · exact halvesAgree_splitAuthority s

/-- SAFE may be asked for; the build and the fuses stay. -/
theorem requestSafe_die (c : SafeCause) (s : State) :
    (requestSafe c s).build = s.build ∧ (requestSafe c s).fuseBus = s.fuseBus ∧ (requestSafe c s).fuses = s.fuses := by
  unfold requestSafe
  dsimp only
  split
  · exact ⟨rfl, rfl, rfl⟩
  · split <;> exact ⟨rfl, rfl, rfl⟩

theorem keeps_splitAuthority (s : State) : Keeps s (splitAuthority s) where
  halves _ := halvesAgree_splitAuthority s
  build := by simp [splitAuthority, requestSafe_die]
  bus := by simp [splitAuthority, requestSafe_die]
  fuses := by simp [splitAuthority, requestSafe_die]

theorem handshake_die (s : State) :
    (handshake s).build = s.build ∧ (handshake s).fuseBus = s.fuseBus ∧ (handshake s).fuses = s.fuses := by
  unfold handshake
  split
  · exact ⟨rfl, rfl, rfl⟩
  · simp [splitAuthority, requestSafe_die]

/-- A handshake keeps what it needs not to be told: the run state may have changed before it. -/
theorem keeps_handshake {s t : State} (hb : t.build = s.build) (hbus : t.fuseBus = s.fuseBus) (hf : t.fuses = s.fuses) :
    Keeps s (handshake t) := by
  obtain ⟨h1, h2, h3⟩ := handshake_die t
  exact ⟨fun _ => halvesAgree_handshake t, h1.trans hb, by rw [h2, hbus], h3.trans hf⟩

theorem keeps_setRun (st : RunState) (s : State) : Keeps s (setRun st s) := by
  have h : Keeps s (if s.cmd.status = .busy ∧ !legalIn s.cmd.op.toNat st then endBusy s else s) :=
    .of_authority (by simp)
  unfold setRun
  exact h.trans (keeps_handshake rfl rfl rfl)

theorem keeps_setRun_of {s t : State} {st : RunState} (h : authority t = authority s) : Keeps s (setRun st t) :=
  .after h (keeps_setRun st t)

theorem keeps_acceptCommand (op : Nat) (s : State) : Keeps s (acceptCommand op s) := keeps_handshake rfl rfl rfl

/-! Commands of the host. -/

theorem keeps_postCommand (op : Nat) (args absent object : State → Bool) {run : State → State} (h : ∀ s, Keeps s (run s))
    (s : State) : Keeps s (postCommand op args absent object run s) := by
  unfold postCommand
  split
  · exact .refl s
  · refine .after (t := dropHeld (passLull s)) (by simp) ?_
    have hr (st : CsrStatus) : Keeps (dropHeld (passLull s)) (rejectCommand op st (dropHeld (passLull s))) :=
      .of_authority (by simp)
    exact .ite (hr _) (.ite (hr _) (.ite (hr _) (.ite (hr _) ((keeps_acceptCommand op _).trans (h _)))))

theorem keeps_postPlain (op : Nat) {run : State → State} (h : ∀ s, Keeps s (run s)) (s : State) :
    Keeps s (postPlain op run s) := keeps_postCommand op _ _ _ h s

theorem keeps_postHandle (op : Nat) (want : HState) {run : BitVec 8 → State → State} (h : ∀ n s, Keeps s (run n s)) (s : State) :
    Keeps s (postHandle op want run s) :=
  keeps_postCommand op _ _ _ (fun s => .after (t := readCfg (s.cmd.arg0.toNat % 256) s) (by simp) (h _ _)) s

theorem keeps_postSession (op : Nat) (ok : State → Nat → Bool) {run : Nat → State → State} (h : ∀ n s, Keeps s (run n s))
    (s : State) : Keeps s (postSession op ok run s) :=
  .after (by simp) (keeps_postCommand op _ _ _ (fun s => h _ s) _)

theorem keeps_runStart (s : State) : Keeps s (runStart s) := by
  unfold runStart
  exact keeps_setRun_of rfl

theorem keeps_leaveSafe (s : State) : Keeps s (leaveSafe s) := by
  unfold leaveSafe
  split
  · exact (keeps_splitAuthority s).before (authority_stayInSafe _)
  · exact .after (t := cmdOk _) (by dsimp only; split <;> rfl) (keeps_setRun _ _)

theorem keeps_runResume (split : Bool) (s : State) : Keeps s (runResume split s) := by
  unfold runResume
  exact .ite (.ite (.of_authority (by simp)) (.ite (.refl s) (keeps_leaveSafe s))) (keeps_setRun_of (by simp))

theorem keeps_postResume (s : State) : Keeps s (postResume s) := keeps_postPlain _ (keeps_runResume _) s

theorem keeps_runMaintEnter (s : State) : Keeps s (runMaintEnter s) := keeps_setRun_of (by simp)

theorem keeps_runMaintExit (s : State) : Keeps s (runMaintExit s) := keeps_setRun_of (by simp)

theorem keeps_enterRetention (s : State) : Keeps s (enterRetention s) := keeps_handshake rfl rfl rfl

theorem keeps_leaveRetention (s : State) : Keeps s (leaveRetention s) := keeps_handshake rfl rfl rfl

theorem keeps_lockStep (t : BitVec 4) {done : State → State} (h : ∀ s, Keeps s (done s)) (s : State) :
    Keeps s (lockStep t done s) := by
  unfold lockStep
  exact .ite (h s) (.of_authority rfl)

theorem keeps_runRetain (s : State) : Keeps s (runRetain s) :=
  .after (t := { s with clk := { s.clk with saved := s.clk.step } }) rfl (keeps_lockStep _ keeps_enterRetention _)

theorem keeps_runWake (s : State) : Keeps s (runWake s) := keeps_lockStep _ keeps_leaveRetention s

/-! Resets, refire and the life cycle. -/

/-- A reset leaves the halves with the same copy (R22). -/
theorem keeps_coldReset (keepLog : Bool) (step : BitVec 4) (s : State) : Keeps s (coldReset keepLog step s) :=
  ⟨fun _ => ⟨rfl, rfl⟩, rfl, rfl, rfl⟩

theorem keeps_powerOff (s : State) : Keeps s (powerOff s) := ⟨fun _ => ⟨rfl, rfl⟩, rfl, rfl, rfl⟩

theorem keeps_rstAssert (s : State) : Keeps s (rstAssert s) := by
  unfold rstAssert
  exact .ite (.refl s) ⟨fun _ => ⟨rfl, rfl⟩, rfl, rfl, rfl⟩

theorem keeps_refireReset (s : State) : Keeps s (refireReset s) := by
  refine .after (t := s.ls.boundary.foldl freeBoundary s) (by simp) ?_
  exact ⟨fun _ => ⟨rfl, rfl⟩, rfl, rfl, rfl⟩

theorem keeps_runRefire (s : State) : Keeps s (runRefire s) :=
  ((keeps_setRun .refire s).trans (keeps_refireReset _)).before ((authority_readStream _ _).trans rfl)

theorem keeps_refireFallback (failed err word : Nat) (s : State) : Keeps s (refireFallback failed err word s) :=
  (keeps_coldReset false 2 s).before (by simp [refireFallback])

theorem keeps_refireDone (s : State) : Keeps s (refireDone s) := by
  have h : Keeps s (setRun .ready (cmdOk { s with run := { s.run with step := 0 } })) :=
    keeps_setRun_of rfl
  exact h.before (by simp [refireDone])

/-- The life-cycle field of the fuse bus follows an LC_SET (R345). -/
theorem keeps_changeLc (s : State) : Keeps s (changeLc s) := by
  unfold changeLc
  dsimp only
  split
  · exact .of_authority (by simp)
  · generalize hl : logEvent _ _ s = l
    have h : authority l = authority s := by rw [← hl, authority_logEvent]
    exact .after h ⟨fun _ => ⟨rfl, rfl⟩, rfl, rfl, rfl⟩

theorem keeps_runLcSet (s : State) : Keeps s (runLcSet s) := by
  unfold runLcSet
  exact .ite (.refl s) (keeps_changeLc s)

/-- What the write of a code to CMD_OP keeps, whichever command it is. -/
theorem keeps_postByCode (op : Nat) (s : State) : Keeps s (postByCode op s) := by
  unfold postByCode
  split
  case h_1 => exact keeps_postPlain _ keeps_runStart s
  case h_3 => exact keeps_postResume s
  case h_4 => exact keeps_postPlain _ keeps_runRefire s
  case h_5 => exact keeps_postPlain _ keeps_runMaintEnter s
  case h_6 => exact keeps_postCommand _ _ _ _ keeps_runMaintExit s
  case h_8 => exact keeps_postCommand _ _ _ _ keeps_runLcSet s
  case h_11 => exact keeps_postPlain _ keeps_runRetain s
  case h_12 => exact keeps_postPlain _ keeps_runWake s
  case h_13 => exact keeps_postSession _ _ (fun _ _ => .of_authority (by simp)) s
  case h_14 => exact keeps_postSession _ _ (fun _ _ => .of_authority (by simp)) s
  case h_15 => exact keeps_postHandle _ _ (fun _ _ => .of_authority (by simp)) s
  case h_16 => exact keeps_postHandle _ _ (fun _ _ => .of_authority (by simp)) s
  case h_17 => exact keeps_postHandle _ _ (fun _ _ => .of_authority (by simp)) s
  case h_20 => exact .ite (.refl s) (.of_authority (by simp))
  all_goals exact keeps_postCommand _ _ _ _ (fun _ => .of_authority (by simp)) s

theorem keeps_csrWriteStep (a : BitVec 16) (d : Word32) (s : State) : Keeps s (csrWriteStep a d s) := by
  unfold csrWriteStep
  dsimp only
  split
  · exact .refl s
  · split
    · exact keeps_postByCode _ s
    · split
      · exact .of_authority (by simp)
      · split <;> exact .of_authority (by simp)

/-! Steps that may have no effect. -/

/-- A step that has an effect keeps what `Keeps` names. -/
def stepKeeps (s : State) : Option State → Prop
  | some s' => Keeps s s'
  | none => True

theorem stepKeeps.getD {s t : State} {o : Option State} (h : stepKeeps t o) (k : Keeps s t) : Keeps s (o.getD s) := by
  cases o with
  | none => exact .refl s
  | some s' => exact k.trans h

theorem stepKeeps_pauseCompleteStep (s : State) : stepKeeps s (pauseCompleteStep s) := by
  unfold pauseCompleteStep
  dsimp only
  split
  · split
    · exact keeps_setRun_of (by simp)
    · trivial
  · trivial

theorem stepKeeps_safeEntryStep (s : State) : stepKeeps s (safeEntryStep s) := by
  unfold safeEntryStep
  dsimp only
  split
  · have h : authority (if s.run.state = .run then pauseBoth s else s) = authority s := by simp
    generalize (if s.run.state = .run then pauseBoth s else s) = t at h
    split
    · trivial
    · exact keeps_setRun_of (Eq.trans rfl h)
  · trivial

theorem stepKeeps_mouldLoadStep (up : BitVec 4) (s : State) : stepKeeps s (mouldLoadStep up s) := by
  unfold mouldLoadStep
  split
  · split
    · exact Keeps.of_authority (by simp)
    · exact Keeps.ite (keeps_setRun_of ((authority_runStep _ _).trans (by simp))) (.of_authority (by simp))
  · trivial

theorem stepKeeps_refireCompleteStep (o : RefireOutcome) (s : State) : stepKeeps s (refireCompleteStep o s) := by
  unfold refireCompleteStep
  split
  · split
    · exact keeps_refireFallback _ _ _ s
    · split
      · split
        · exact keeps_refireFallback _ _ _ s
        · exact .ite (keeps_refireFallback _ _ _ s) (.after (by simp) (keeps_refireDone _))
      · trivial
  · trivial

theorem keeps_endLocked (s : State) : Keeps s (endLocked s) := by
  unfold endLocked
  exact .ite (.of_authority (by simp)) (.ite (keeps_enterRetention s) (.ite (keeps_leaveRetention s) (.refl s)))

theorem stepKeeps_switchStep (s : State) : stepKeeps s (switchStep s) := by
  unfold switchStep
  split
  · trivial
  · next t _ =>
    have h : Keeps s (endLocked (bump cntClkSwitches 1 (setStep t s))) := .after (by simp) (keeps_endLocked _)
    exact h.before (authority_endStepChange _)

theorem keeps_heldCommand (s : State) : Keeps s (heldCommand s) := by
  unfold heldCommand
  exact .ite (keeps_leaveSafe s) (.ite (keeps_changeLc s) (.refl s))

theorem stepKeeps_selfCheckPassStep (slot : BitVec 1) (x y : ImageRead) (s : State) :
    stepKeeps s (selfCheckPassStep slot x y s) := by
  unfold selfCheckPassStep
  split
  · split
    · trivial
    · split
      · exact .after (by simp) (keeps_heldCommand _)
      · trivial
  · trivial

/-! The start. -/

/-- What every step keeps: the cluster may read its fuses anew (R345, R375). -/
structure KeepsDie (s s' : State) : Prop where
  halves : halvesAgree s → halvesAgree s'
  build : s'.build = s.build
  bus : { s'.fuseBus with lc := s.fuseBus.lc } = s.fuseBus
  fuses : s'.fuses = s.fuses ∨ s'.fuses = s.fuseBus

theorem Keeps.die {s s' : State} (h : Keeps s s') : KeepsDie s s' := ⟨h.halves, h.build, h.bus, .inl h.fuses⟩

theorem KeepsDie.of_authority {s s' : State} (h : authority s' = authority s) : KeepsDie s s' := (Keeps.of_authority h).die

theorem KeepsDie.trans_keeps {s t s' : State} (h : KeepsDie s t) (k : Keeps t s') : KeepsDie s s' where
  halves := k.halves ∘ h.halves
  build := k.build.trans h.build
  bus := by
    have hb := h.bus
    rw [← k.bus] at hb
    exact hb
  fuses := by rw [k.fuses]; exact h.fuses

/-- At power-good the fuses are read (R345). -/
theorem keepsDie_powerGood (s : State) : KeepsDie s (powerGood s) := ⟨id, rfl, rfl, .inr rfl⟩

theorem keeps_startFails (code : BitVec 8) (s : State) : Keeps s (startFails code s) :=
  keeps_setRun_of (Eq.trans rfl (authority_bridleEvent 0x002 code.toNat s))

theorem keeps_startSteps (o : BisqueOutcome) (s : State) : Keeps s (startSteps o s) := by
  have h (c : Prop) [Decidable c] : authority (if c then applyRepair o s else s) = authority s := by simp
  unfold startSteps
  dsimp only
  split
  · exact .of_authority (.trans rfl (h _))
  · exact .after (h _) (keeps_startFails _ _)

/-- What BISQUE does once the fuses have been read: porN and rstN are set, the state becomes BISQUE, and the image and the steps
of the start follow (R330). -/
def bisqueFrom (boots : Bool) (o : BisqueOutcome) (s : State) : State :=
  let s := setMouldErr 0 0 { s with run := { s.run with porN := true, rstN := true } }
  let s := if s.run.state = .off then setRun .bisque s else s
  let r := if boots then bootStep o s else (true, s)
  if r.1 then startSteps o r.2 else startFails 1 r.2

theorem bisqueStep_eq (o : BisqueOutcome) (s : State) :
    bisqueStep o s = if startWaits s then
      some (bisqueFrom (decide (s.run.step.toNat ≤ 2)) o (if s.run.state = .off then powerGood s else s)) else none := rfl

theorem keeps_bisqueFrom (boots : Bool) (o : BisqueOutcome) (s : State) : Keeps s (bisqueFrom boots o s) := by
  have h : Keeps s (setMouldErr 0 0 { s with run := { s.run with porN := true, rstN := true } }) :=
    .of_authority (.trans (authority_setMouldErr ..) rfl)
  have hs {t : State} (k : Keeps s t) : Keeps s (if t.run.state = .off then setRun .bisque t else t) :=
    .ite (k.trans (keeps_setRun _ _)) k
  unfold bisqueFrom
  refine (hs h).trans (.ite (.trans ?_ (keeps_startSteps _ _)) (.trans ?_ (keeps_startFails _ _))) <;> exact .of_authority (by simp)

theorem keepsDie_bisqueStep (o : BisqueOutcome) (s : State) : KeepsDie s ((bisqueStep o s).getD s) := by
  rw [bisqueStep_eq]
  split
  · refine KeepsDie.trans_keeps ?_ (keeps_bisqueFrom _ o _)
    split
    · exact keepsDie_powerGood s
    · exact (Keeps.refl s).die
  · exact (Keeps.refl s).die

end Sys2Proof.Machine
end

section
/-! SUPPORT. What every command keeps, by the commands' families, and O8. -/

namespace Sys2Proof.Machine
open Claims

/-- A command's outcome keeps what every step keeps. -/
def outKeeps (s : State) : Host.Outcome State Fault Refusal → Prop
  | .next s' => KeepsDie s s'
  | _ => True

/-- An instruction whose verdicts leave the authority alone. -/
theorem outKeeps_issue {t : Thread} {n : Nat} {f : State → Verdict} {s : State} (h : ∀ s, verdictKeeps s (f s)) :
    outKeeps s (.next (issue t n f s)) := .of_authority (authority_issue t n f s h)

theorem outKeeps_execKpop (t : Thread) (rd : Reg) (imm : BitVec 32) (s : State) : outKeeps s (execKpop t rd imm s) := by
  refine outKeeps_issue (fun s => ?_)
  split
  · simp
  · split
    · simp
    · split
      · simp
      · split <;> simp
theorem outKeeps_execSrd (t : Thread) (rd : Reg) (imm : BitVec 32) (s : State) : outKeeps s (execSrd t rd imm s) := by
  refine outKeeps_issue (fun s => ?_)
  split <;> simp
theorem outKeeps_execCoilEnd (t : Thread) (s : State) : outKeeps s (execCoilEnd t s) := by
  refine outKeeps_issue (fun s => ?_)
  dsimp only
  split
  · simp
  · simp

theorem outKeeps_execCoilBreak (t : Thread) (imm : BitVec 32) (s : State) : outKeeps s (execCoilBreak t imm s) := by
  refine outKeeps_issue (fun s => ?_)
  split <;> simp

theorem outKeeps_execCoilIdx (t : Thread) (rd : Reg) (imm : BitVec 32) (s : State) : outKeeps s (execCoilIdx t rd imm s) := by
  refine outKeeps_issue (fun s => ?_)
  split <;> simp

theorem outKeeps_execTcfgR (t : Thread) (shape : Reg) (mask : BitVec 16) (s : State) : outKeeps s (execTcfgR t shape mask s) :=
  outKeeps_issue (fun s => verdictKeeps_bind (by simp) (fun _ => verdictKeeps_bind (by simp) (fun _ => by simp)))

theorem outKeeps_execUartCommandLine (l : List Bool) (s : State) : outKeeps s (execUartCommandLine l s) := by
  refine KeepsDie.of_authority ?_
  split
  · rfl
  · simp

/-- A step that may have no effect, behind a lull. -/
theorem KeepsDie.of_step {s : State} {o : Option State} (h : optionKeeps (passLull s) o) : KeepsDie s (o.getD s) :=
  .of_authority ((authority_getD h (authority_passLull s).symm).trans (authority_passLull s))

theorem KeepsDie.of_step_now {s : State} {o : Option State} (h : optionKeeps s o) : KeepsDie s (o.getD s) :=
  .of_authority (authority_getD h rfl)

theorem KeepsDie.of_stepKeeps {s : State} {o : Option State} (h : stepKeeps (passLull s) o) : KeepsDie s (o.getD s) :=
  (h.getD (.of_authority (authority_passLull s))).die

theorem KeepsDie.of_stepKeeps_now {s : State} {o : Option State} (h : stepKeeps s o) : KeepsDie s (o.getD s) :=
  (h.getD (.refl s)).die

theorem outKeeps_exec (i : Instr) (s : State) : outKeeps s (exec i s) := by
  cases i
  case kpop => exact outKeeps_execKpop ..
  case srd => exact outKeeps_execSrd ..
  case coilEnd => exact outKeeps_execCoilEnd ..
  case coilBreak => exact outKeeps_execCoilBreak ..
  case coilIdx => exact outKeeps_execCoilIdx ..
  case tcfgR => exact outKeeps_execTcfgR ..
  case uartCommandLine => exact outKeeps_execUartCommandLine ..
  case tagTestPass => exact .of_step_now (by simp)
  case tagTimeout => exact .of_step_now (by simp)
  case lsReadReturn => exact .of_step_now (by simp)
  case tensorCompletion => exact .of_step_now (by simp)
  case faultHandlerEntry => exact .of_step_now (by simp)
  case mutualWait => exact .of_step_now (by simp)
  case boundaryAccess => exact .of_step_now (by simp)
  case scrubRead => exact .of_step_now (by simp)
  case scrubWriteBack => exact .of_step_now (by simp)
  case forcedScrubSlot => exact .of_step_now (by simp)
  case marginLow => exact .of_step_now (by simp)
  case bridleTick => exact .of_step_now (by simp)
  case coneCalibration => exact .of_step_now (by simp)
  case wearEvaluation => exact .of_step_now (by simp)
  case watchdogExpiry => exact .of_step_now (by simp)
  case imageSelfCheckTimeout => exact .of_step_now (by simp)
  case eventLogEntry => exact .of_step_now (by simp)
  case spoolFillArrival => exact .of_step (by simp)
  case bindingRelease => exact .of_step (by simp)
  case handleDrainComplete => exact .of_step (by simp)
  case msgRetry => exact .of_step (by simp)
  case fabRspTimeout => exact .of_step (by simp)
  case synthLockFail => exact .of_step (by simp)
  case retrainAck => exact .of_step (by simp)
  case retrainTimeout => exact .of_step (by simp)
  case updateBoundary => exact .of_step (by simp)
  case ballastMissed => exact .of_step (by simp)
  case crossingOccupancyCheck => exact .of_step (by simp)
  case pauseComplete => exact .of_stepKeeps (stepKeeps_pauseCompleteStep _)
  case safeEntry => exact .of_stepKeeps (stepKeeps_safeEntryStep _)
  case switchBoundary => exact .of_stepKeeps (stepKeeps_switchStep _)
  case refireComplete => exact .of_stepKeeps_now (stepKeeps_refireCompleteStep _ _)
  case imageSelfCheckPass => exact .of_stepKeeps_now (stepKeeps_selfCheckPassStep _ _ _ _)
  case mouldLoadComplete =>
    exact (Keeps.die (stepKeeps.getD (stepKeeps_mouldLoadStep _ _) (.of_authority (by simp))))
  case bisqueStart => exact keepsDie_bisqueStep _ s
  case start => exact (keeps_postPlain _ keeps_runStart s).die
  case pause => exact (keeps_postPlain _ (fun _ => .of_authority (by simp)) s).die
  case resume => exact (keeps_postResume s).die
  case refire => exact (keeps_postPlain _ keeps_runRefire s).die
  case maintEnter => exact (keeps_postPlain _ keeps_runMaintEnter s).die
  case maintExit => exact (keeps_postCommand _ _ _ _ keeps_runMaintExit s).die
  case mouldLoad => exact (keeps_postCommand _ _ _ _ (fun _ => .of_authority (by simp)) s).die
  case lcSet => exact (keeps_postCommand _ _ _ _ keeps_runLcSet s).die
  case replay => exact (keeps_postCommand _ _ _ _ (fun _ => .of_authority (by simp)) s).die
  case setStep => exact (keeps_postCommand _ _ _ _ (fun _ => .of_authority (by simp)) s).die
  case retain => exact (keeps_postPlain _ keeps_runRetain s).die
  case wake => exact (keeps_postPlain _ keeps_runWake s).die
  case sessResume => exact (keeps_postSession _ _ (fun _ _ => .of_authority (by simp)) s).die
  case sessPark => exact (keeps_postSession _ _ (fun _ _ => .of_authority (by simp)) s).die
  case hpin => exact (keeps_postHandle _ _ (fun _ _ => .of_authority (by simp)) s).die
  case hunpin => exact (keeps_postHandle _ _ (fun _ _ => .of_authority (by simp)) s).die
  case hfree => exact (keeps_postHandle _ _ (fun _ _ => .of_authority (by simp)) s).die
  case hevict => exact (keeps_postPlain _ (fun _ => .of_authority (by simp)) s).die
  case linkRetrain => exact (keeps_postCommand _ _ _ _ (fun _ => .of_authority (by simp)) s).die
  case sessRead => exact (keeps_csrWriteStep _ _ s).die
  case sessWrite => exact (keeps_csrWriteStep _ _ s).die
  case sessCreditAdd => exact (keeps_csrWriteStep _ _ s).die
  case handleEntryWrite => exact (keeps_csrWriteStep _ _ s).die
  case pstageWrite => exact (keeps_csrWriteStep _ _ s).die
  case evtCauseClear => exact (keeps_csrWriteStep _ _ s).die
  case evtLogSel => exact (keeps_csrWriteStep _ _ s).die
  case evtLogRdptr => exact (keeps_csrWriteStep _ _ s).die
  case csrWrite => exact (keeps_csrWriteStep _ _ s).die
  case porNLow => exact (keeps_powerOff s).die
  case rstNAssert => exact (keeps_rstAssert s).die
  all_goals exact .of_authority (by simp [authority_issue, authority_monitorCommand])

/-- A step of the cluster: one command, or one cycle of CLK. -/
theorem keepsDie_of_step {s s' : State} (h : step s = .next s') : KeepsDie s s' := by
  unfold step at h
  split at h
  · cases h
    exact .of_authority (authority_tick s)
  · next c cs _ =>
    have k := outKeeps_exec c { s with pending := cs }
    rw [h] at k
    exact ⟨k.halves, k.build, k.bus, k.fuses⟩

/-- Settles O8: what a command leaves alone is tied up in `authority`; the commands that touch the run control end with a
handshake or a reset, which write both copies anew. -/
theorem everyStepKeepsRunControlAndBuild : Obligations.EveryStepKeepsRunControlAndBuild :=
  ⟨fun _ _ ha h => (keepsDie_of_step h).halves ha,
   fun _ _ h => ⟨(keepsDie_of_step h).build, (keepsDie_of_step h).bus, (keepsDie_of_step h).fuses⟩⟩

end Sys2Proof.Machine
end

section
/-! SUPPORT. The invariants at reset: O5. -/

namespace Sys2Proof.Machine

/-- A thread is well formed at reset: its PC and registers are zero, and no Coil level is open. -/
theorem threadWellFormed_reset : Claims.threadWellFormed ThreadState.reset := ⟨rfl, rfl, Nat.zero_le 4⟩

/-- Settles O5: the memories are canonical at reset, the threads are empty, and the copies are those of the reset. -/
theorem invariantsHoldAtReset : Obligations.InvariantsHoldAtReset :=
  ⟨memoriesCanonical_reset, ⟨threadWellFormed_reset, threadWellFormed_reset, rfl⟩, rfl, rfl⟩

end Sys2Proof.Machine
end

section
/-! SUPPORT. CYCLE and the queue of commands, which the work of a cycle does not move: one rule for each function of it. -/

namespace Sys2Proof.Machine

/-- CYCLE and the queue of commands: the work of a cycle moves neither. -/
def timeline (s : State) : Word64 × List Instr := (s.cycle, s.pending)

@[simp] theorem timeline_mk (build fuseBus fuses run cmd csr evt ta tx sdm preg stage queues spool tiles toc amax mx vx glz ls handles
    res fab sess ballast clk mould brg mbx mon tap cycle counters upsets flights nextId free pending) :
    timeline ⟨build, fuseBus, fuses, run, cmd, csr, evt, ta, tx, sdm, preg, stage, queues, spool, tiles, toc, amax, mx, vx, glz, ls,
      handles, res, fab, sess, ballast, clk, mould, brg, mbx, mon, tap, cycle, counters, upsets, flights, nextId, free, pending⟩ =
      (cycle, pending) := rfl

@[simp] theorem timeline_fold (s : State) : (s.cycle, s.pending) = timeline s := rfl

@[simp] theorem timeline_ite (c : Prop) [Decidable c] (s t : State) :
    timeline (if c then s else t) = if c then timeline s else timeline t := apply_ite timeline c s t

@[simp] theorem timeline_snd_ite {α : Type} (c : Prop) [Decidable c] (r r' : α × State) :
    timeline (if c then r else r').2 = if c then timeline r.2 else timeline r'.2 :=
  apply_ite (fun x : α × State => timeline x.2) c r r'

@[simp] theorem timeline_foldl {α : Type} (f : State → α → State) (h : ∀ s a, timeline (f s a) = timeline s) (l : List α)
    (s : State) : timeline (l.foldl f s) = timeline s := by
  induction l generalizing s with
  | nil => rfl
  | cons a l ih => rw [List.foldl_cons, ih, h]

@[simp] theorem timeline_bump (a n : Nat) (s : State) : timeline (bump a n s) = timeline s := by rfl

@[simp] theorem timeline_drogueTick (s : State) : timeline (drogueTick s) = timeline s := by
  simp only [drogueTick]
  split <;> simp

@[simp] theorem timeline_takeResponse (s : State) : timeline (takeResponse s) = timeline s := by rfl

@[simp] theorem timeline_readCfg (n : Nat) (s : State) : timeline (readCfg n s) = timeline s := by
  simp [readCfg]

@[simp] theorem timeline_readTables (s : State) : timeline (readTables s) = timeline s := by
  simp [readTables]

@[simp] theorem timeline_fabricTick (s : State) : timeline (fabricTick s) = timeline s := by rfl

@[simp] theorem timeline_queueTick (s : State) : timeline (queueTick s) = timeline s := by rfl

@[simp] theorem timeline_idleTick (s : State) : timeline (idleTick s) = timeline s := by
  simp [idleTick]

@[simp] theorem timeline_boundaryTick (hit : List Nat) (s : State) : timeline (boundaryTick hit s) = timeline s := by
  unfold boundaryTick
  split <;> simp

@[simp] theorem timeline_starveTick (hit : List Nat) (s : State) : timeline (starveTick hit s) = timeline s := by rfl

@[simp] theorem timeline_repairTag (p : Nat) (s : State) : timeline (repairTag p s) = timeline s := by
  simp [repairTag]

@[simp] theorem timeline_setTag (p : Nat) (g : Tag) (s : State) : timeline (setTag p g s) = timeline s := by rfl

@[simp] theorem timeline_tagTest (x : TagTest) (s : State) : timeline (tagTest x s).2 = timeline s := by
  unfold tagTest
  dsimp only
  repeat' split
  all_goals simp

@[simp] theorem timeline_runTests (xs : List TagTest) (s : State) : timeline (runTests xs s).2 = timeline s := by
  induction xs generalizing s with
  | nil => rfl
  | cons x xs ih => simpa [runTests] using ih (tagTest x s).2

@[simp] theorem timeline_testCycle (f : Flight) (s : State) : timeline (testCycle f s).2 = timeline s := by
  simp [testCycle]

@[simp] theorem timeline_setThread (t : Thread) (th : ThreadState) (s : State) : timeline (setThread t th s) = timeline s := by
  unfold setThread
  split <;> simp

@[simp] theorem timeline_modThread (t : Thread) (f : ThreadState → ThreadState) (s : State) : timeline (modThread t f s) = timeline s := by
  simp [modThread]

@[simp] theorem timeline_issueFault (t : Thread) (fc : BitVec 8) (fval : Word64) (s : State) : timeline (issueFault t fc fval s) = timeline s := by
  simp [issueFault]

@[simp] theorem timeline_trimQueues (s : State) : timeline (trimQueues s) = timeline s := by rfl

@[simp] theorem timeline_releaseQueues (fid : Nat) (s : State) : timeline (releaseQueues fid s) = timeline s := by rfl

@[simp] theorem timeline_dropFlight (fid : Nat) (s : State) : timeline (dropFlight fid s) = timeline s := by rfl

@[simp] theorem timeline_unissue (f : Flight) (s : State) : timeline (unissue f s) = timeline s := by
  simp [unissue]

@[simp] theorem timeline_releaseClaim (p : Nat) (s : State) : timeline (releaseClaim p s) = timeline s := by
  unfold releaseClaim
  split <;> simp

@[simp] theorem timeline_releaseTests (tests : List TagTest) (s : State) : timeline (releaseTests tests s) = timeline s := by
  simp [releaseTests]

@[simp] theorem timeline_modFlight (fid : Nat) (g : Flight → Flight) (s : State) : timeline (modFlight fid g s) = timeline s := by rfl

@[simp] theorem timeline_judgeHeader (a : TctxArgs) (f : Flight) (s : State) : timeline (judgeHeader a f s) = timeline s := by
  unfold judgeHeader
  split <;> simp

@[simp] theorem timeline_judgeNow (f : Flight) (s : State) : timeline (judgeNow f s) = timeline s := by
  unfold judgeNow
  split <;> simp

@[simp] theorem timeline_logAt (place : Event → List Event → List Event) (cycle : BitVec 48) (code : BitVec 12) (detail : Nat) (s : State) : timeline (logAt place cycle code detail s) = timeline s := by
  simp [logAt]

@[simp] theorem timeline_logEvent (code : BitVec 12) (detail : Nat) (s : State) : timeline (logEvent code detail s) = timeline s := by
  simp [logEvent]

@[simp] theorem timeline_stopThread (t : Thread) (s : State) : timeline (stopThread t s) = timeline s := by
  simp [stopThread]

@[simp] theorem timeline_beginWith (f : Flight) (reads : ParityLoc → Bool) (k : State → State) (s : State) (hk : ∀ s, timeline (k s) = timeline s) : timeline (beginWith f reads k s) = timeline s := by
  unfold beginWith
  dsimp only
  repeat' split
  all_goals simp_all

@[simp] theorem timeline_startLsWq (f : Flight) (s : State) : timeline (startLsWq f s) = timeline s := by
  simp [startLsWq]

@[simp] theorem timeline_setCopies (c : OperandCache) (s : State) : timeline (setCopies c s) = timeline s := by rfl

@[simp] theorem timeline_cacheRow (n r : Nat) (s : State) : timeline (cacheRow n r s) = timeline s := by
  simp [cacheRow]

@[simp] theorem timeline_startTst (a : TileMoveArgs) (f : Flight) (s : State) : timeline (startTst a f s) = timeline s := by
  simp [startTst]

@[simp] theorem timeline_startTctxSave (f : Flight) (s : State) : timeline (startTctxSave f s) = timeline s := by
  simp [startTctxSave]

@[simp] theorem timeline_startPlain (f : Flight) (s : State) : timeline (startPlain f s) = timeline s := by
  simp [startPlain]

@[simp] theorem timeline_reservoirPump (s : State) : timeline (reservoirPump s) = timeline s := by rfl

@[simp] theorem timeline_reservoirRead (fill : Bool) (r : ResReq) (s : State) : timeline (reservoirRead fill r s) = timeline s := by
  simp [reservoirRead]

@[simp] theorem timeline_startDma (a : DmaArgs) (f : Flight) (s : State) : timeline (startDma a f s) = timeline s := by
  simp [startDma]

@[simp] theorem timeline_releaseLeft (f : Flight) (s : State) : timeline (releaseLeft f s) = timeline s := by
  simp [releaseLeft]

@[simp] theorem timeline_execFault (fid : Nat) (fc : BitVec 8) (fval : Word64) (s : State) : timeline (execFault fid fc fval s) = timeline s := by
  unfold execFault
  split <;> simp

@[simp] theorem timeline_startRemoteWith (k : State → State) (f : Flight) (s : State) (hk : ∀ s, timeline (k s) = timeline s) :
    timeline (startRemoteWith k f s) = timeline s := by
  unfold startRemoteWith
  split
  · rfl
  · exact timeline_beginWith _ _ _ _ (fun s => by simp [hk])

@[simp] theorem timeline_modRemRow (fid i : Nat) (g : RemRow → RemRow) (s : State) : timeline (modRemRow fid i g s) = timeline s := by rfl

@[simp] theorem timeline_denyRequest (win : BitVec 4) (reason : Nat) (src : BitVec 19) (s : State) : timeline (denyRequest win reason src s) = timeline s := by
  simp [denyRequest]

@[simp] theorem timeline_queueBoundary (b : BAccess) (s : State) : timeline (queueBoundary b s) = timeline s := by rfl

@[simp] theorem timeline_serveRequest (req : ReqType) (win : BitVec 4) (wr : BitVec 17) (key : Word32) (src : BitVec 19) (row : Bytes) (wuse ruse : BUse) (buffer : Option (BitVec 2)) (s : State) : timeline (serveRequest req win wr key src row wuse ruse buffer s).2 = timeline s := by
  unfold serveRequest
  dsimp only
  repeat' split
  all_goals simp

@[simp] theorem timeline_setPort (p : BitVec 2) (q : Port) (s : State) : timeline (setPort p q s) = timeline s := by
  unfold setPort
  split <;> simp

@[simp] theorem timeline_modPort (p : BitVec 2) (g : Port → Port) (s : State) : timeline (modPort p g s) = timeline s := by
  simp [modPort]

@[simp] theorem timeline_freeTrack (p : BitVec 2) (fid i : Nat) (s : State) : timeline (freeTrack p fid i s) = timeline s := by
  simp [freeTrack]

@[simp] theorem timeline_rowStatus (fid i : Nat) (status : BitVec 8) (s : State) : timeline (rowStatus fid i status s) = timeline s := by
  unfold rowStatus
  dsimp only
  repeat' split
  all_goals simp

@[simp] theorem timeline_serveSelf (fid i : Nat) (s : State) : timeline (serveSelf fid i s) = timeline s := by
  unfold serveSelf
  split
  · rfl
  · dsimp only
    split
    all_goals
      next e =>
        have h := congrArg (fun x => timeline x.2) e
        simpa using h.symm

@[simp] theorem timeline_sendLinkUnits (p : BitVec 2) (s : State) : timeline (sendLinkUnits p s) = timeline s := by
  simp [sendLinkUnits]

@[simp] theorem timeline_transmit (p : BitVec 2) (b : Block) (s : State) : timeline (transmit p b s) = timeline s := by
  simp [transmit]

@[simp] theorem timeline_sendResends (n : Nat) (p : BitVec 2) (s : State) : timeline (sendResends n p s) = timeline s := by
  induction n generalizing s with
  | zero => rfl
  | succ n ih =>
    unfold sendResends
    dsimp only
    split
    · rfl
    · simp [ih]

@[simp] theorem timeline_startBlock (p : BitVec 2) (b : Block) (s : State) : timeline (startBlock p b s) = timeline s := by
  simp [startBlock]

@[simp] theorem timeline_sendResponses (n : Nat) (p : BitVec 2) (s : State) : timeline (sendResponses n p s) = timeline s := by
  induction n generalizing s with
  | zero => rfl
  | succ n ih =>
    unfold sendResponses
    dsimp only
    split
    · rfl
    · simp [ih]

@[simp] theorem timeline_sendRequests (n : Nat) (p : BitVec 2) (s : State) : timeline (sendRequests n p s) = timeline s := by
  induction n generalizing s with
  | zero => rfl
  | succ n ih =>
    unfold sendRequests
    split
    · rfl
    · dsimp only
      split
      · rfl
      · simp [ih]

@[simp] theorem timeline_pump (p : BitVec 2) (s : State) : timeline (pump p s) = timeline s := by
  simp [pump]

@[simp] theorem timeline_offerRows (fid : Nat) (s : State) : timeline (offerRows fid s) = timeline s := by
  unfold offerRows
  split <;> simp

@[simp] theorem timeline_startPut (a : RemoteArgs) (f : Flight) (s : State) : timeline (startPut a f s) = timeline s := by
  simp [startPut]

@[simp] theorem timeline_startRemote (f : Flight) (s : State) : timeline (startRemote f s) = timeline s := by
  simp [startRemote]

@[simp] theorem timeline_touchRow (input n r : Nat) (s : State) : timeline (touchRow input n r s) = timeline s := by
  simp [touchRow]

@[simp] theorem timeline_touchSegs (input : Nat) (gs : List Seg) (s : State) : timeline (touchSegs input gs s) = timeline s := by
  simp [touchSegs]

@[simp] theorem timeline_startConv (a : MxConvArgs) (f : Flight) (s : State) : timeline (startConv a f s) = timeline s := by
  simp [startConv]

@[simp] theorem timeline_startGemv (c : Option MvCarried) (a : MvGemvArgs) (f : Flight) (s : State) : timeline (startGemv c a f s) = timeline s := by
  simp only [startGemv]
  split <;> simp

@[simp] theorem timeline_startFlight (f : Flight) (s : State) : timeline (startFlight f s) = timeline s := by
  unfold startFlight
  split <;> simp

@[simp] theorem timeline_afterTests (f : Flight) (s : State) : timeline (afterTests f s) = timeline s := by
  unfold afterTests
  dsimp only
  repeat' split
  all_goals simp

@[simp] theorem timeline_waitTick (fid : Nat) (s : State) : timeline (waitTick fid s) = timeline s := by
  unfold waitTick
  dsimp only
  repeat' split
  all_goals simp

@[simp] theorem timeline_testTick (s : State) : timeline (testTick s) = timeline s := by
  simp [testTick]

@[simp] theorem timeline_setWindow (half : Bool) (w : BitVec 7) (s : State) : timeline (setWindow half w s) = timeline s := by
  simp [setWindow]

@[simp] theorem timeline_arrayTick (half : Bool) (s : State) : timeline (arrayTick half s) = timeline s := by
  unfold arrayTick
  dsimp only
  repeat' split
  all_goals simp

@[simp] theorem timeline_arraysTick (s : State) : timeline (arraysTick s) = timeline s := by
  simp [arraysTick]

@[simp] theorem timeline_correctedRead (p : Nat) (s : State) : timeline (correctedRead p s) = timeline s := by
  simp [correctedRead]

@[simp] theorem timeline_sampleRow (fid : Nat) (a : Access) (act : ReturnAct) (s : State) : timeline (sampleRow fid a act s) = timeline s := by
  simp [sampleRow]

@[simp] theorem timeline_glzCurveRead (f : Flight) (p : Nat) (s : State) : timeline (glzCurveRead f p s) = timeline s := by
  unfold glzCurveRead
  split <;> simp

@[simp] theorem timeline_glzRowRead (p : Nat) (s : State) : timeline (glzRowRead p s) = timeline s := by
  unfold glzRowRead
  split <;> simp

@[simp] theorem timeline_glzStateRead (f : Flight) (i p : Nat) (last : Bool) (s : State) : timeline (glzStateRead f i p last s) = timeline s := by
  unfold glzStateRead
  split <;> simp

@[simp] theorem timeline_glzCountRead (f : Flight) (c p : Nat) (s : State) : timeline (glzCountRead f c p s) = timeline s := by
  unfold glzCountRead
  split <;> simp

@[simp] theorem timeline_readStep (f : Flight) (a : Access) (s : State) : timeline (readStep f a s) = timeline s := by
  unfold readStep
  split <;> simp

@[simp] theorem timeline_writeRow (p : Nat) (bs : Bytes) (s : State) : timeline (writeRow p bs s) = timeline s := by rfl

@[simp] theorem timeline_writeStep (f : Flight) (a : Access) (s : State) : timeline (writeStep f a s) = timeline s := by
  unfold writeStep
  dsimp only
  repeat' split
  all_goals simp

@[simp] theorem timeline_performAll (l : List (Flight × Access)) (s : State) : timeline (performAll l s) = timeline s := by
  simp [performAll]

@[simp] theorem timeline_conflictLull (hit : List Nat) (s : State) : timeline (conflictLull hit s) = timeline s := by
  simp [conflictLull]

@[simp] theorem timeline_dropSteps (l : List Flight) (s : State) : timeline (dropSteps l s) = timeline s := by
  simp [dropSteps]

@[simp] theorem timeline_rowTick (s : State) : timeline (rowTick s) = timeline s := by simp [rowTick]

@[simp] theorem timeline_runTick (s : State) : timeline (runTick s) = timeline s := by simp [runTick]

end Sys2Proof.Machine
end

section
/-! SUPPORT. A cycle of CLK on an empty queue: O2. -/

namespace Sys2Proof.Machine
open Claims

/-- What a cycle of CLK does before the lull is looked at: CYCLE counts it, the tables of the configuration are read, a response of
the CSR port leaves, and the Drogue counts. -/
def beginCycle (s : State) : State := drogueTick (takeResponse (readTables { s with cycle := s.cycle + 1 }))

theorem tick_of_closed {s : State} (h : portOpen s = false) : tick s = s := by simp [tick, h]

theorem tick_of_no_lull {s : State} (h : portOpen s = true) (hl : (beginCycle s).clk.lull = 0) :
    tick s = runTick (beginCycle s) := by
  unfold tick
  rw [if_neg (by simp [h])]
  dsimp only
  split
  · rfl
  · next e => cases e.symm.trans hl

theorem tick_of_lull {s : State} {n : Nat} (h : portOpen s = true) (hl : (beginCycle s).clk.lull = n + 1) :
    tick s = { beginCycle s with clk := { (beginCycle s).clk with lull := n } } := by
  unfold tick
  rw [if_neg (by simp [h])]
  dsimp only
  split
  · next e => cases e.symm.trans hl
  · next e =>
    cases e.symm.trans hl
    rfl

/-- The Drogue's counts of a cycle are counters and the clock's two counts. -/
theorem drogueTick_eq (s : State) : ∃ cs g l, drogueTick s = { s with counters := cs, clk := { s.clk with good := g, low := l } } := by
  have h1 : ∃ cs, (if s.clk.level = .none then s else bump cntLullDrogue 1 s) = { s with counters := cs } := by
    split <;> exact ⟨_, rfl⟩
  obtain ⟨c1, h1⟩ := h1
  have h2 : ∃ cs, (if s.clk.level = .s50 then bump cntDrogue50 1 { s with counters := c1 } else { s with counters := c1 }) =
      { s with counters := cs } := by
    split <;> exact ⟨_, rfl⟩
  obtain ⟨c2, h2⟩ := h2
  unfold drogueTick
  rw [h1]
  dsimp only
  rw [h2]
  split <;> exact ⟨_, _, _, rfl⟩

/-- A read of the configuration's tables counts and repairs the words it corrects. -/
theorem readTables_eq (s : State) : ∃ cs us, readTables s = { s with counters := cs, upsets := us } := by
  obtain ⟨_, _, e⟩ := readCfg_eq (cfgStep s.clk.step.toNat) s
  unfold readTables
  rw [e]
  obtain ⟨_, _, k⟩ := readCfg_eq cfgMould _
  exact ⟨_, _, k⟩

/-- The beginning of a cycle moves CYCLE, counters, the upsets of the configuration, the CSR port's responses and the Drogue's
counts. -/
theorem beginCycle_eq (s : State) : ∃ cs us r g l, beginCycle s =
    { s with cycle := s.cycle + 1, counters := cs, upsets := us, csr := r, clk := { s.clk with good := g, low := l } } := by
  obtain ⟨_, _, e⟩ := readTables_eq { s with cycle := s.cycle + 1 }
  unfold beginCycle
  rw [e]
  obtain ⟨_, _, _, k⟩ := drogueTick_eq (takeResponse _)
  exact ⟨_, _, _, _, _, k⟩

/-- A cycle outside a lull counts in CYCLE and leaves the queue of commands. -/
theorem timeline_tick_of_no_lull {s : State} (h : portOpen s = true) (hl : s.clk.lull = 0) :
    (tick s).cycle = s.cycle + 1 ∧ (tick s).pending = s.pending := by
  obtain ⟨_, _, _, _, _, e⟩ := beginCycle_eq s
  have ht : tick s = runTick (beginCycle s) := tick_of_no_lull h (by rw [e]; exact hl)
  have hk : timeline (tick s) = (s.cycle + 1, s.pending) := by rw [ht, timeline_runTick, e]; rfl
  exact Prod.mk.inj hk

/-- Settles O2: outside a lull the work of the cycle leaves CYCLE and the queue alone; in a lull only the beginning of the cycle is
performed. -/
theorem emptyQueueTicks : Obligations.EmptyQueueTicks := by
  intro s hp
  refine ⟨by rw [step, hp], tick_of_closed, fun ho => ?_⟩
  rcases hl : s.clk.lull with _ | n
  · obtain ⟨hc, hq⟩ := timeline_tick_of_no_lull ho hl
    exact ⟨hc, hq.trans hp, fun h => absurd rfl h⟩
  · obtain ⟨_, _, _, _, _, e⟩ := beginCycle_eq s
    rw [tick_of_lull ho (n := n) (by rw [e]; exact hl), e]
    exact ⟨rfl, hp, fun _ => ⟨rfl, rfl, rfl, rfl, rfl, rfl, rfl, rfl, rfl⟩⟩

end Sys2Proof.Machine
end

section
/-! SUPPORT. Another thread's instructions and absent engines: O39. -/

namespace Sys2Proof.Machine
open Claims

/-- An instruction that may issue and whose rules refuse it faults. -/
theorem faults_of_verdict {t : Thread} {n : Nat} {f : State → Verdict} {fc : BitVec 8} {fval : Word64} {s : State}
    (hr : ready t n s) (hf : f (seen t n s) = .fault fc fval) : Host.Outcome.next (issue t n f s) = faults t n fc fval s := by
  rw [issue_of_ready hr, hf]
  rfl

theorem firstView_mould (t : Thread) (s : State) : (firstView t s).mould = s.mould := by
  unfold firstView
  split
  · exact modThread_mould ..
  · rfl

/-- The configuration of the Mould is the same for an instruction that issues: time and the Spool alone moved before. -/
theorem seen_mould {t : Thread} {n : Nat} {s : State} (h : ready t n s) : (seen t n s).mould = s.mould := by
  have hf : (fetched t n s).mould = (settle t s).mould := by
    obtain ⟨_, _, _, _, _, e⟩ := spoolOnly_fetched h
    rw [e]; rfl
  have hs : (settle t s).mould = s.mould := by
    obtain ⟨_, _, _, _, _, _, _, _, e⟩ := timeOnly_settle t s
    rw [e]; rfl
  rw [seen, firstView_mould, hf, hs]

/-- An engine that is fused off or disabled is not there (R3). -/
theorem enginePresent_of_off {k : Nat} {s : State} (h : s.mould.cfg.engines.getLsbD k = false) :
    enginePresent k s = .error (.fault fcAbsent (BitVec.ofNat 64 k)) := by
  simp [enginePresent, need, h]

/-- A TDC-3 form at TA is illegal, whatever its slots name (R19). -/
theorem c3_at_ta (vs : List Slot) (z : Bool) (slots : List (Slot × BitVec 14)) (unused : List (BitVec 14)) (v : Verdict) (s : State) :
    verdict (do
      slotsLegal vs
      c3Legal .ta z slots unused s
      return v) = .fault fcIllegal 0 := by
  cases hl : vs.all (fun v => slotVal v != .reserved)
  · simp only [slotsLegal, need, hl]
    rfl
  · simp only [slotsLegal, need, hl]
    rfl

/-- Settles O39: R19's check comes first in the access and the execute stream's rules, R3's behind the legality of the fields. -/
theorem wrongThreadAndAbsentEngineFault : Obligations.WrongThreadAndAbsentEngineFault := by
  intro a q g m l c d p e w wt mm cv dr mv ew ep rd sc ct z rs r1 r2 h b2 n1 b6 m16 b5 b4 b3 s
  simp only [List.forall_mem_cons, List.not_mem_nil, false_implies, implies_true, and_true]
  refine ⟨fun hr => ?_, fun hr => ?_, fun hr => ?_, fun hr => ?_, fun hr => ?_, ?_, ?_, ?_, ?_, ?_⟩
  · and_intros
    all_goals exact faults_of_verdict hr rfl
  · and_intros
    all_goals exact faults_of_verdict hr rfl
  · and_intros
    all_goals exact faults_of_verdict hr rfl
  · and_intros
    all_goals exact faults_of_verdict hr rfl
  · and_intros
    all_goals exact faults_of_verdict hr (c3_at_ta ..)
  · intro hr hs hg
    refine faults_of_verdict hr ?_
    rw [← seen_mould hr] at hg
    simp only [issueWld, onlyThread, need, hs, enginePresent_of_off hg]
    rfl
  · intro hr hs hc hv hg
    refine faults_of_verdict hr ?_
    rw [← seen_mould hr] at hg
    simp only [issueGemv, issueGemvWith, onlyThread, need, hs, hc, hv, enginePresent_of_off hg]
    rfl
  · intro hr hg
    refine faults_of_verdict hr ?_
    rw [← seen_mould hr] at hg
    simp only [issueEpLoad, onlyThread, need, enginePresent_of_off hg]
    rfl
  · intro hr hs hc hn hg
    refine faults_of_verdict hr ?_
    rw [← seen_mould hr] at hg
    simp only [issueGlaze, onlyThread, need, Bool.false_eq_true, if_false, hs, hc, hn, enginePresent_of_off hg]
    rfl
  · intro hr hg
    refine faults_of_verdict hr ?_
    rw [← seen_mould hr] at hg
    simp only [issueSessNext, onlyThread, need, hg]
    rfl

end Sys2Proof.Machine
end

section
/-! SUPPORT. The commands of the run state: O45. -/

namespace Sys2Proof.Machine
open Claims

/-! A lull that passes, and a command that is accepted. -/

/-- The state `s` at another cycle of a lull: other counts of the Drogue and the lull, and other counters (R12). -/
def lullChange (c : Word64) (g l n : Nat) (cs : Sparse Nat) (s : State) : State :=
  { s with cycle := c, counters := cs, clk := { s.clk with good := g, low := l, lull := n } }

theorem lullTick_eq (s : State) : ∃ c g l n cs, lullTick s = lullChange c g l n cs s := by
  obtain ⟨_, _, _, e⟩ := drogueTick_eq { s with cycle := s.cycle + 1 }
  unfold lullTick
  rw [e]
  exact ⟨_, _, _, _, _, rfl⟩

/-- The passing of a lull moves CYCLE, the clock's counts and counters. -/
theorem passLull_eq (s : State) : ∃ c g l n cs, passLull s = lullChange c g l n cs s := by
  have h (xs : List Nat) : ∃ c g l n cs, xs.foldl (fun s _ => lullTick s) s = lullChange c g l n cs s := by
    induction xs using List.reverseRecOn with
    | nil => exact ⟨s.cycle, s.clk.good, s.clk.low, s.clk.lull, s.counters, rfl⟩
    | append_singleton xs a ih =>
      obtain ⟨_, _, _, _, _, e⟩ := ih
      rw [List.foldl_append, e, List.foldl_cons, List.foldl_nil]
      obtain ⟨_, _, _, _, _, k⟩ := lullTick_eq (lullChange _ _ _ _ _ s)
      exact ⟨_, _, _, _, _, k⟩
  unfold passLull
  split
  · exact h _
  · exact ⟨s.cycle, s.clk.good, s.clk.low, s.clk.lull, s.counters, rfl⟩

/-- What an accepted command finds: the lull has passed, the slot is its own, and the CSR port has answered OK. -/
theorem accepted_eq (op : Nat) (s : State) : ∃ c k cs r, accepted op s =
    { s with cycle := c, clk := k, counters := cs, csr := r, cmd := { s.cmd with op := BitVec.ofNat 8 op, status := .busy } } ∧
    r.status = .ok := by
  obtain ⟨_, _, _, _, _, e⟩ := passLull_eq s
  unfold accepted posted
  rw [e]
  exact ⟨_, _, _, _, rfl, rfl⟩

/-- A CMD_OP write that no check refuses is performed behind a handshake, whether the copies agree or not (R331). -/
theorem postCommand_performs {op : Nat} {args absent object : State → Bool} {run : State → State} {s : State}
    (h : hostMay op s) (h1 : args (posted s) = true) (h2 : absent (posted s) = false) (h3 : object (posted s) = true) :
    postCommand op args absent object run s = run (handshake (accepted op s)) := by
  obtain ⟨hp, hb, hc, hl⟩ := h
  obtain ⟨hr, hcmd⟩ := posted_control s
  have hs : ¬((!blockOpen (posted s) 0x200) = true ∨ (posted s).cmd.status = .busy ∨ (!commandLegal (posted s) op) = true) := by
    simp [blockOpen_congr hr, commandLegal_congr hr, hcmd, hb, hl, hc]
  unfold postCommand
  rw [if_neg (by simp [hp])]
  refine (if_neg hs).trans ?_
  change (if (!args (posted s)) = true then _ else if absent (posted s) = true then _ else
    if (!object (posted s)) = true then _ else run (acceptCommand op (posted s))) = _
  simp only [h1, h2, h3, Bool.not_true, Bool.false_eq_true, if_false]
  rfl

/-! A change of the run state. -/

theorem foldl_run {α : Type} (f : State → α → State) (h : ∀ s a, (f s a).run = s.run) (l : List α) (s : State) :
    (l.foldl f s).run = s.run := by
  induction l generalizing s with
  | nil => rfl
  | cons a l ih => rw [List.foldl_cons, ih, h]

theorem retuneTable_run (s : State) : (retuneTable s).run = s.run := by
  have hf (s : State) (l : List ((Word32 × Word32) × Nat)) : (l.foldl (fun s x =>
      if x.1.1 = x.1.2 then s
      else bridleEvent 0x505 (x.2 + 2 ^ 8 * stepFreq x.1.2 + 2 ^ 20 * stepVid x.1.2) s) s).run = s.run :=
    foldl_run _ (fun s x => by split <;> simp) l s
  unfold retuneTable
  dsimp only
  split
  · rw [bump_run, hf]
  · rw [hf]

theorem endStepChange_run (s : State) : (endStepChange s).run = s.run := by
  unfold endStepChange
  dsimp only
  split
  · exact retuneTable_run _
  · rfl

/-- The end of a command that the new run state cuts off leaves the run control alone. -/
theorem endBusy_run (s : State) : (endBusy s).run = s.run := by
  have hx (x : SessXfer) : (dropXfer (backOut x s)).run = s.run := by
    change (backOut x s).run = s.run
    unfold backOut
    dsimp only
    split <;> rfl
  unfold endBusy
  dsimp only
  rw [cmdFail_run, endStepChange_run]
  split
  · exact hx _
  · rfl

/-- The run control in the state `st`: the owner of that state, a higher epoch under another owner, and both copies written anew
(R22, R330). -/
def controlIn (st : RunState) (r : RunCtl) : RunCtl :=
  let o := ownerOf st r.owner
  let q := { r with state := st, owner := o, epoch := if o = r.owner then r.epoch else r.epoch + 1 }
  { q with west := copyOf q, east := copyOf q }

theorem entered_controlIn {st : RunState} {s t : State} {r : RunCtl} (hr : t.run = controlIn st r) (ho : r.owner = s.run.owner)
    (he : r.epoch = s.run.epoch) : entered st (ownerOf st s.run.owner) s t := by
  unfold entered halvesAgree
  rw [hr]
  exact ⟨rfl, by simp only [controlIn, ho], by simp only [controlIn, ho, he, eq_comm], rfl, rfl⟩

/-- A change of the run state under copies that are equal, whether a command is BUSY or not. -/
theorem setRun_run {st : RunState} {t : State} (h : t.run.west = t.run.east)
    (hk : t.run.safeDue = true → t.run.owner ≠ .bridle) : (setRun st t).run = controlIn st t.run := by
  have hb : (if t.cmd.status = .busy ∧ !legalIn t.cmd.op.toNat st then endBusy t else t).run = t.run := by
    split
    · exact endBusy_run t
    · rfl
  have hn : ¬((t.run.safeDue && t.run.owner == .bridle) = true) := by simpa using hk
  unfold setRun
  generalize (if t.cmd.status = .busy ∧ !legalIn t.cmd.op.toNat st then endBusy t else t) = u at hb
  dsimp only
  rw [hb, if_neg hn, handshake_of_equal (by exact h)]
  rfl

/-- A change of the run state under copies that are equal, where no command is BUSY. -/
theorem setRun_eq {st : RunState} {t : State} (hc : t.cmd.status ≠ .busy) (h : t.run.west = t.run.east)
    (hk : t.run.safeDue = true → t.run.owner ≠ .bridle) : setRun st t = { t with run := controlIn st t.run } := by
  obtain ⟨r, e, -⟩ := setRun_of_idle (st := st) hc h hk
  have hr := setRun_run (st := st) h hk
  rw [e] at hr ⊢
  exact congrArg (fun r => { t with run := r }) hr

/-! A thread that pauses. -/

/-- Two states differ in no more than what the end of instructions in flight moves: the queues, the instructions in flight and the
tags (R86). -/
def FlightsOnly (s s' : State) : Prop := ∃ q fs tg, s' = { s with queues := q, flights := fs, ls := { s.ls with tags := tg } }

theorem flightsOnly_refl (s : State) : FlightsOnly s s := ⟨s.queues, s.flights, s.ls.tags, rfl⟩

theorem flightsOnly_trans {a b c : State} (h : FlightsOnly a b) (k : FlightsOnly b c) : FlightsOnly a c := by
  obtain ⟨_, _, _, rfl⟩ := h
  obtain ⟨q, fs, tg, rfl⟩ := k
  exact ⟨q, fs, tg, rfl⟩

theorem flightsOnly_foldl {α : Type} (f : State → α → State) (h : ∀ s a, FlightsOnly s (f s a)) (l : List α) (s : State) :
    FlightsOnly s (l.foldl f s) := by
  induction l generalizing s with
  | nil => exact flightsOnly_refl s
  | cons a l ih => exact flightsOnly_trans (h s a) (ih (f s a))

theorem flightsOnly_releaseClaim (p : Nat) (s : State) : FlightsOnly s (releaseClaim p s) := by
  unfold releaseClaim
  split
  · exact ⟨s.queues, s.flights, _, rfl⟩
  · exact ⟨s.queues, s.flights, _, rfl⟩
  · exact flightsOnly_refl s

theorem flightsOnly_releaseLeft (f : Flight) (s : State) : FlightsOnly s (releaseLeft f s) := by
  unfold releaseLeft releaseTests
  split
  · exact flightsOnly_foldl _ (fun s p => flightsOnly_releaseClaim p s) _ s
  · refine flightsOnly_foldl _ (fun s x => ?_) _ s
    split
    · exact flightsOnly_releaseClaim _ s
    · exact flightsOnly_refl s

/-- A thread that pauses is paused; else the end of its instructions in flight moves the state (R86). -/
theorem pauseThread_eq (t : Thread) (s : State) :
    ∃ u g, FlightsOnly s u ∧ pauseThread t s = modThread t g u ∧ ∀ th, (g th).paused = true := by
  unfold pauseThread
  dsimp only
  generalize (flightsOf t s).filter (fun f => f.tileOp && f.faulted.isNone) = stop
  refine ⟨_, _, ?_, rfl, fun th => ?_⟩
  · refine flightsOnly_foldl _ (fun s f => ?_) stop s
    exact flightsOnly_trans (flightsOnly_releaseLeft f s) ⟨_, _, _, rfl⟩
  · split
    · rfl
    · split <;> rfl

theorem flightsOnly_control {s u : State} (h : FlightsOnly s u) :
    u.run = s.run ∧ u.cmd = s.cmd ∧ ∀ t, getThread t u = getThread t s := by
  obtain ⟨_, _, _, rfl⟩ := h
  exact ⟨rfl, rfl, fun t => by cases t <;> rfl⟩

theorem pauseIfReady_of_paused {t : Thread} {s : State} (h : (getThread t s).paused = true) : pauseIfReady t s = s := by
  simp [pauseIfReady, h]

theorem pauseIfReady_control (t : Thread) (s : State) : (pauseIfReady t s).run = s.run ∧ (pauseIfReady t s).cmd = s.cmd := by
  obtain ⟨u, g, hu, e, -⟩ := pauseThread_eq t s
  obtain ⟨hr, hc, -⟩ := flightsOnly_control hu
  unfold pauseIfReady
  dsimp only
  split
  · rw [e, modThread_run, modThread_cmd]
    exact ⟨hr, hc⟩
  · exact ⟨rfl, rfl⟩

theorem getThread_pauseIfReady_ne {t u : Thread} (s : State) (h : u ≠ t) : getThread u (pauseIfReady t s) = getThread u s := by
  obtain ⟨v, g, hv, e, -⟩ := pauseThread_eq t s
  obtain ⟨-, -, ht⟩ := flightsOnly_control hv
  unfold pauseIfReady
  dsimp only
  split
  · rw [e, getThread_modThread_ne g v h, ht]
  · rfl

/-- A thread pauses at once if it may (R86). -/
theorem getThread_pauseIfReady_self (t : Thread) (s : State) :
    if mayPause (getThread t s) then (getThread t (pauseIfReady t s)).paused = true
    else getThread t (pauseIfReady t s) = getThread t s := by
  obtain ⟨v, g, -, e, hg⟩ := pauseThread_eq t s
  unfold pauseIfReady
  cases hp : (getThread t s).paused <;> cases hm : mayPause (getThread t s) <;> simp [hp, hm, e, hg]

theorem pauseBoth_of_paused {s : State} (ha : s.ta.paused = true) (hx : s.tx.paused = true) : pauseBoth s = s := by
  have h : pauseIfReady .ta s = s := pauseIfReady_of_paused ha
  unfold pauseBoth
  rw [h]
  exact pauseIfReady_of_paused hx

theorem pauseBoth_control (s : State) : (pauseBoth s).run = s.run ∧ (pauseBoth s).cmd = s.cmd := by
  obtain ⟨h1, h2⟩ := pauseIfReady_control .ta s
  obtain ⟨k1, k2⟩ := pauseIfReady_control .tx (pauseIfReady .ta s)
  exact ⟨k1.trans h1, k2.trans h2⟩

/-- Each thread pauses at once if it may, and is else as it was (R86). -/
theorem getThread_pauseBoth (t : Thread) (s : State) :
    if mayPause (getThread t s) then (getThread t (pauseBoth s)).paused = true else getThread t (pauseBoth s) = getThread t s := by
  cases t
  · have h := getThread_pauseIfReady_self .ta s
    unfold pauseBoth
    rwa [getThread_pauseIfReady_ne _ (by decide)]
  · have h := getThread_pauseIfReady_self .tx (pauseIfReady .ta s)
    rwa [getThread_pauseIfReady_ne _ (by decide)] at h

/-! The commands. -/

/-- An accepted command that only the run state conditions. -/
theorem next_postPlain {op : Nat} {run : State → State} {s : State} (h : hostMay op s) (ha : halvesAgree s) :
    Host.Outcome.next (postPlain op run s) = (.next (run (accepted op s)) : Out) :=
  congrArg Host.Outcome.next (postCommand_of_may h ha rfl rfl rfl)

theorem start_enters_run {s : State} (ha : halvesAgree s) (h : hostMay 0x01 s)
    (hk : s.run.safeDue = true → s.run.owner ≠ .bridle) :
    ∃ s', exec .start s = .next s' ∧ entered .run .tether s s' ∧ s'.cmd.status = .ok ∧
      s'.csr.status = .ok ∧ s'.ta.pc = alignPc s.run.entryTa ∧ s'.tx.pc = alignPc s.run.entryTx ∧
      s'.ta.paused = false ∧ s'.tx.paused = false ∧ (∀ u r, sreg u r s' = sreg u r s) ∧ s'.sdm = s.sdm := by
  have hw : s.run.west = s.run.east := ha.1.trans ha.2.symm
  obtain ⟨_, _, _, _, e, hr⟩ := accepted_eq 0x01 s
  refine ⟨runStart (accepted 0x01 s), next_postPlain h ha, ?_⟩
  unfold runStart
  rw [e, setRun_eq (by exact fun h => nomatch h) (by exact hw) (by exact hk)]
  refine ⟨entered_controlIn rfl rfl rfl, rfl, hr, rfl, rfl, rfl, rfl, fun u r => ?_, rfl⟩
  cases u <;> rfl

theorem pause_pauses {s : State} (ha : halvesAgree s) (h : hostMay 0x02 s) :
    ∃ s', exec .pause s = .next s' ∧ s'.cmd.status = .busy ∧ s'.cmd.op = 2 ∧ s'.run.state = s.run.state ∧
      (∀ t, if mayPause (getThread t s) then (getThread t s').paused = true else getThread t s' = getThread t s) := by
  obtain ⟨_, _, _, _, e, -⟩ := accepted_eq 0x02 s
  have ht (t : Thread) : getThread t (accepted 0x02 s) = getThread t s := by rw [e]; cases t <;> rfl
  obtain ⟨hr, hc⟩ := pauseBoth_control (accepted 0x02 s)
  refine ⟨pauseBoth (accepted 0x02 s), next_postPlain h ha, ?_, ?_, ?_, fun t => ?_⟩
  · rw [hc]; rfl
  · rw [hc]; rfl
  · rw [hr, e]
  · have hp := getThread_pauseBoth t (accepted 0x02 s)
    rwa [ht] at hp

theorem busyWith_passLull (s : State) (op : BitVec 8) : busyWith (passLull s) op = busyWith s op := by
  obtain ⟨_, _, _, _, _, e⟩ := passLull_eq s
  rw [e]
  rfl

theorem pauseComplete_enters_pause {s : State} (ha : halvesAgree s) (hb : busyWith s 0x02 = true) (hta : s.ta.paused = true)
    (htx : s.tx.paused = true) (hk : s.run.safeDue = true → s.run.owner ≠ .bridle) :
    ∃ s', exec .pauseComplete s = .next s' ∧
      entered .pause .host s s' ∧ s'.cmd.status = .ok ∧ s'.ta = s.ta ∧ s'.tx = s.tx ∧ s'.flights = s.flights := by
  have hw : s.run.west = s.run.east := ha.1.trans ha.2.symm
  obtain ⟨_, _, _, _, _, e⟩ := passLull_eq s
  have hs : pauseCompleteStep (passLull s) = some (setRun .pause (cmdOk (passLull s))) := by
    unfold pauseCompleteStep
    rw [busyWith_passLull, hb, pauseBoth_of_paused (by rw [e]; exact hta) (by rw [e]; exact htx), if_pos rfl]
    exact if_pos (by rw [e]; simp [bothPaused, lullChange, hta, htx])
  refine ⟨setRun .pause (cmdOk (passLull s)), congrArg (fun o => Host.Outcome.next (Option.getD o s)) hs, ?_⟩
  rw [e, setRun_eq (by exact fun h => nomatch h) (by exact hw) (by exact hk)]
  exact ⟨entered_controlIn rfl rfl rfl, rfl, rfl, rfl, rfl⟩

theorem resume_leaves_pause {s : State} (ha : halvesAgree s) (h : hostMay 0x03 s) (hp : s.run.state = .pause)
    (hk : s.run.safeDue = true → s.run.owner ≠ .bridle) :
    ∃ s', exec .resume s = .next s' ∧ entered .run .tether s s' ∧
      s'.cmd.status = .ok ∧ ∀ t, getThread t s' = { getThread t s with paused := false } := by
  have hw : s.run.west = s.run.east := ha.1.trans ha.2.symm
  obtain ⟨_, _, _, _, e, -⟩ := accepted_eq 0x03 s
  refine ⟨runResume (s.run.west != s.run.east) (accepted 0x03 s),
    next_postPlain h ha, ?_⟩
  unfold runResume
  rw [if_neg (by rw [e]; simp [hp]), e, setRun_eq (by exact fun h => nomatch h) (by exact hw) (by exact hk)]
  refine ⟨entered_controlIn rfl rfl rfl, rfl, fun t => ?_⟩
  cases t <;> rfl

theorem resume_leaves_safe {s : State} (ha : halvesAgree s) (h : hostMay 0x03 s) (hs : s.run.state = .safe) (hr : s.brg.restarting = false) :
    ∃ s', exec .resume s = .next s' ∧ entered s.run.held (ownerOf s.run.held s.run.owner) s s' ∧
      s'.run.safeCause = .none ∧ s'.run.safeDue = false ∧ s'.cmd.status = .ok := by
  have hw : s.run.west = s.run.east := ha.1.trans ha.2.symm
  obtain ⟨_, _, _, _, e, -⟩ := accepted_eq 0x03 s
  refine ⟨runResume (s.run.west != s.run.east) (accepted 0x03 s),
    next_postPlain h ha, ?_⟩
  have hl : runResume (s.run.west != s.run.east) (accepted 0x03 s) = leaveSafe (accepted 0x03 s) := by
    rw [e]
    simp [runResume, hs, hr, hw]
  rw [hl, e]
  unfold leaveSafe
  rw [if_neg (by simp [hw])]
  dsimp only
  split
  · rw [setRun_eq (by exact fun h => nomatch h) (by exact hw) (by exact fun h => nomatch h)]
    exact ⟨entered_controlIn rfl rfl rfl, rfl, rfl, rfl⟩
  · rw [setRun_eq (by exact fun h => nomatch h) (by exact hw) (by exact fun h => nomatch h)]
    exact ⟨entered_controlIn rfl rfl rfl, rfl, rfl, rfl⟩

theorem resume_waits_for_restart {s : State} (ha : halvesAgree s) (h : hostMay 0x03 s) (hs : s.run.state = .safe)
    (hr : s.brg.restarting = true) :
    ∃ s', exec .resume s = .next s' ∧ s'.run = s.run ∧ s'.cmd.status = .busy ∧ s'.cmd.op = 3 := by
  have hw : s.run.west = s.run.east := ha.1.trans ha.2.symm
  obtain ⟨_, _, _, _, e, -⟩ := accepted_eq 0x03 s
  refine ⟨runResume (s.run.west != s.run.east) (accepted 0x03 s), next_postPlain h ha, ?_⟩
  have hl : runResume (s.run.west != s.run.east) (accepted 0x03 s) = accepted 0x03 s := by
    rw [e]
    simp [runResume, hs, hr, hw]
  rw [hl, e]
  exact ⟨rfl, rfl, rfl⟩

theorem maintEnter_enters_maint {s : State} (ha : halvesAgree s) (h : hostMay 0x05 s)
    (hk : s.run.safeDue = true → s.run.owner ≠ .bridle) :
    ∃ s', exec .maintEnter s = .next s' ∧ entered .maint .host s s' ∧ s'.cmd.status = .ok := by
  have hw : s.run.west = s.run.east := ha.1.trans ha.2.symm
  obtain ⟨_, _, _, _, e, -⟩ := accepted_eq 0x05 s
  refine ⟨runMaintEnter (accepted 0x05 s), next_postPlain h ha, ?_⟩
  rw [e, runMaintEnter, setRun_eq (by exact fun h => nomatch h) (by exact hw) (by exact hk)]
  exact ⟨entered_controlIn rfl rfl rfl, rfl⟩

theorem maintExit_enters_ready {s : State} (ha : halvesAgree s) (h : hostMay 0x06 s) (hp : s.mould.pendingFlag = false)
    (hk : s.run.safeDue = true → s.run.owner ≠ .bridle) :
    ∃ s', exec .maintExit s = .next s' ∧ entered .ready .host s s' ∧ s'.cmd.status = .ok := by
  have hw : s.run.west = s.run.east := ha.1.trans ha.2.symm
  have hm : (posted s).mould = s.mould := (passLull_control s).2.2.1
  obtain ⟨_, _, _, _, e, -⟩ := accepted_eq 0x06 s
  refine ⟨runMaintExit (accepted 0x06 s),
    congrArg Host.Outcome.next (postCommand_of_may h ha rfl rfl (by simp [hm, hp])), ?_⟩
  rw [e, runMaintExit, setRun_eq (by exact fun h => nomatch h) (by exact hw) (by exact hk)]
  exact ⟨entered_controlIn rfl rfl rfl, rfl⟩

/-- The entry to SAFE from a state that is held, with no further entry due (R335). -/
theorem setRun_safe {s t : State} (ht : t.run = { s.run with safeDue := false, held := s.run.state })
    (hw : s.run.west = s.run.east) :
    entered .safe .bridle s (setRun .safe t) ∧ (setRun .safe t).run.held = s.run.state ∧
      (setRun .safe t).run.safeDue = false ∧ (setRun .safe t).run.safeCause = s.run.safeCause := by
  have hr : (setRun .safe t).run = controlIn .safe t.run := setRun_run (by rw [ht]; exact hw) (by rw [ht]; exact fun h => nomatch h)
  rw [ht] at hr
  refine ⟨entered_controlIn hr rfl rfl, ?_⟩
  rw [hr]
  exact ⟨rfl, rfl, rfl⟩

/-- SAFE is entered when it is due and the threads have stopped; the state held is the one left (R335). -/
theorem safeEntry_enters_safe {s : State} (ha : halvesAgree s) (hd : s.run.safeDue = true) (hc : canEnterSafe s.run.state = true)
    (hp : s.run.state = .run → s.ta.paused = true ∧ s.tx.paused = true) :
    ∃ s', exec .safeEntry s = .next s' ∧ entered .safe .bridle s s' ∧ s'.run.held = s.run.state ∧ s'.run.safeDue = false ∧
      s'.run.safeCause = s.run.safeCause := by
  have hw : s.run.west = s.run.east := ha.1.trans ha.2.symm
  obtain ⟨_, _, _, _, _, e⟩ := passLull_eq s
  have ht : (if (passLull s).run.state = .run then pauseBoth (passLull s) else passLull s) = passLull s := by
    split
    · next hs =>
      rw [e] at hs ⊢
      obtain ⟨h1, h2⟩ := hp hs
      exact pauseBoth_of_paused h1 h2
    · rfl
  have hn : ¬((passLull s).run.state = .run ∧ (!bothPaused (passLull s)) = true) := by
    rw [e]
    intro ⟨hs, hb⟩
    obtain ⟨h1, h2⟩ := hp hs
    simp [bothPaused, lullChange, h1, h2] at hb
  have hs : safeEntryStep (passLull s) = some (setRun .safe
      { passLull s with run := { (passLull s).run with safeDue := false, held := (passLull s).run.state } }) := by
    unfold safeEntryStep
    rw [if_pos (by rw [e]; simp [lullChange, hd, hc]), ht]
    exact if_neg hn
  refine ⟨_, congrArg (fun o => Host.Outcome.next (Option.getD o s)) hs, ?_⟩
  rw [e]
  exact setRun_safe rfl hw

/-- In SAFE a difference of the copies is logged, and both are written anew (R22, R334). -/
theorem splitAuthority_in_safe {t : State} (ht : t.run.state = .safe) (hc : t.run.safeCause = .splitAuthority) :
    ∃ r d, splitAuthority t = { logEvent 0x004 d t with run := r } ∧ r.state = .safe ∧ r.safeCause = .splitAuthority ∧
      r.west = copyOf r ∧ r.east = copyOf r := by
  unfold splitAuthority requestSafe
  simp only [logEvent_run, ht, hc]
  exact ⟨_, _, rfl, rfl, rfl, rfl, rfl⟩

/-- Where the copies differ, a RESUME in SAFE ends with FAIL, and the difference is logged (R22, R334). -/
theorem resume_of_split {s : State} (hw : s.run.west ≠ s.run.east) (h : hostMay 0x03 s) (hs : s.run.state = .safe) :
    ∃ s', exec .resume s = .next s' ∧ s'.run.state = .safe ∧
      s'.run.safeCause = .splitAuthority ∧ halvesAgree s' ∧ s'.cmd.status = .fail ∧ s'.cmd.arg3 = 0x004 ∧
      (s.evt.queue.length < 64 → queued 0x004 s') := by
  have hc : s.run.safeCause = .splitAuthority := by
    obtain ⟨-, -, -, hl⟩ := h
    unfold commandLegal at hl
    simp only [Bool.and_eq_true] at hl
    simpa [hs] using hl.2
  obtain ⟨_, _, _, _, e, -⟩ := accepted_eq 0x03 s
  have hwa : (accepted 0x03 s).run.west ≠ (accepted 0x03 s).run.east := by rw [e]; exact hw
  obtain ⟨r, d, er, hst, hca, hcw, hce⟩ := splitAuthority_in_safe (t := accepted 0x03 s) (by rw [e]; exact hs) (by rw [e]; exact hc)
  have hh : handshake (accepted 0x03 s) = { logEvent 0x004 d (accepted 0x03 s) with run := r } := (if_neg hwa).trans er
  refine ⟨runResume (s.run.west != s.run.east) (handshake (accepted 0x03 s)),
    congrArg Host.Outcome.next (show postPlain 0x03 _ s = _ from postCommand_performs h rfl rfl rfl), ?_⟩
  have hr : runResume (s.run.west != s.run.east) (handshake (accepted 0x03 s)) =
      cmdFail 0x004 { logEvent 0x004 d (accepted 0x03 s) with run := r } := by
    rw [hh]
    simp [runResume, stayInSafe, hst, hw]
  rw [hr]
  refine ⟨hst, hca, ⟨hcw, hce⟩, rfl, rfl, fun hq => ?_⟩
  have hql : (accepted 0x03 s).evt.queue.length < 64 := by rw [e]; exact hq
  exact queued_logEvent 0x004 d _ hql

/-- Settles O45: each command is accepted, performed behind a handshake that changes nothing, and ends with a change of the run
state. -/
theorem runStateCommands : Obligations.RunStateCommands := fun _ =>
  ⟨fun ha =>
    ⟨start_enters_run ha, pause_pauses ha, pauseComplete_enters_pause ha, resume_leaves_pause ha,
     fun h hs => ⟨resume_leaves_safe ha h hs, resume_waits_for_restart ha h hs⟩,
     maintEnter_enters_maint ha, maintExit_enters_ready ha, safeEntry_enters_safe ha⟩,
   resume_of_split⟩

end Sys2Proof.Machine
end

section
/-! SUPPORT. Waits that end outside the issue, and the scrubbers: O44. -/

namespace Sys2Proof.Machine
open Claims

/-- A BIND of handle 0 at TA that waits for its release. -/
def waitingBind : Flight := { newFlight .ta (.bind .ta 0 1) .sequencer State.reset with releases := [.ta] }

/-- A handle table that lists handle 0 twice, at epoch 0 with one binding and at epoch 7; TA holds the binding at epoch 0. -/
def twiceListedHandle : State :=
  { State.reset with
    handles := [(0, { Handle.reset with refcount := 1 }), (0, { Handle.reset with epoch := 7 })]
    ta := { State.reset.ta with bind := [{ h := 0, epoch := 0 }] }
    flights := [waitingBind] }

/-- The release leaves the first entry at its reset value, which is not listed; the second one is read by the BIND. -/
theorem bindingRelease_of_twiceListedHandle :
    bindingOf (((bindingReleaseStep .ta 0 (passLull twiceListedHandle)).getD twiceListedHandle).ta) 0 =
      some { h := 0, epoch := 7 } := by
  decide +kernel

/-- Refutes O44: the BIND's epoch is that of the table after the release, and no premise keeps the handle table canonical. -/
theorem not_waitsAndScrubbers : ¬ Obligations.WaitsAndScrubbers := by
  intro h
  obtain ⟨-, hrel, -⟩ := h.1 .ta 0 0 0 waitingBind [] 1 twiceListedHandle
  obtain ⟨-, hbind⟩ := hrel rfl rfl rfl
  obtain ⟨s', he, hb, -⟩ := hbind rfl
  cases he
  have h7 := bindingRelease_of_twiceListedHandle.symm.trans hb
  exact absurd h7 (by decide)

end Sys2Proof.Machine
end

section
/-! SUPPORT. CSR accesses: O53. -/

namespace Sys2Proof.Machine
open Claims

/-! What an access finds. -/

/-- The state in which a write is checked: the lull has passed, and no lower word is held. -/
theorem posted_eq (s : State) : ∃ c g l n cs,
    posted s = { lullChange c g l n cs s with csr := { s.csr with held := none } } ∧ c = (passLull s).cycle := by
  obtain ⟨c, _, _, _, _, e⟩ := passLull_eq s
  unfold posted dropHeld
  rw [e]
  exact ⟨c, _, _, _, _, rfl, rfl⟩

theorem csrReach_of_reg {a : Nat} {s : State} {r : CsrReg} (h : csrMay a s) (hr : regAt s a = some r) : csrReach s a = .ok r := by
  obtain ⟨-, hb, hg⟩ := h
  unfold csrReach
  rw [if_neg (by simp [hb]), if_neg (by simp [hg]), hr]

theorem csrReach_of_none {a : Nat} {s : State} (h : csrMay a s) (hr : regAt s a = none) : csrReach s a = .error .errAddr := by
  obtain ⟨-, hb, hg⟩ := h
  unfold csrReach
  rw [if_neg (by simp [hb]), if_neg (by simp [hg]), hr]

/-- The checks of an access read what no lull moves. -/
theorem csrReach_posted (s : State) (a : Nat) : csrReach (posted s) a = csrReach s a := by
  obtain ⟨_, _, _, _, _, e, -⟩ := posted_eq s
  rw [e]
  rfl

theorem writeBarred_posted (s : State) (a b : Nat) : writeBarred (setCapture b none (posted s)) a = writeBarred s a := by
  obtain ⟨_, _, _, _, _, e, -⟩ := posted_eq s
  rw [e]
  rfl

/-- A write that no check before the register refuses. -/
theorem csrWriteStep_of_reg {addr : BitVec 16} {d : Word32} {s : State} {r : CsrReg} (hm : csrMay addr.toNat s)
    (h1 : addr.toNat ≠ 0x200) (h2 : addr.toNat ≠ 0x7800) (hr : regAt s addr.toNat = some r)
    (hb : writeBarred s addr.toNat = false) :
    csrWriteStep addr d s =
      if r.acc = .ro then answer .errRights 0 (setCapture r.base none (posted s))
      else writeWord r addr.toNat d s.csr.held (if addr.toNat = 0x2082 then setCapture r.base none (posted s)
        else readTable addr.toNat (setCapture r.base none (posted s))) := by
  have hc : csrReach (dropHeld (passLull s)) addr.toNat = .ok r := (csrReach_posted s _).trans (csrReach_of_reg hm hr)
  obtain ⟨hp, -⟩ := hm
  unfold csrWriteStep
  rw [if_neg (by simp [hp]), if_neg h1, if_neg h2]
  dsimp only
  rw [hc]
  exact if_neg (by rw [← posted, writeBarred_posted, hb]; simp)

/-- The read of a triple-copied table corrects and counts (R347). -/
theorem readTable_eq (a : Nat) (s : State) :
    ∃ cs u, readTable a s = { s with counters := cs, upsets := { s.upsets with cfg := u } } := by
  unfold readTable
  split
  · exact ⟨s.counters, s.upsets.cfg, rfl⟩
  · exact readCfg_eq _ s

/-- The state in which the rules of the register at `b` judge a write to the address `a`. -/
def reached (a b : Nat) (s : State) : State := readTable a (setCapture b none (posted s))

/-- The state `s` as the rules of a register find it: at another cycle, with another CSR port and other table upsets. -/
def reachChange (c : Word64) (g l n : Nat) (cs : Sparse Nat) (u : List Nat) (r : CsrPort) (s : State) : State :=
  { lullChange c g l n cs s with csr := r, upsets := { s.upsets with cfg := u } }

theorem reached_eq (a b : Nat) (s : State) : ∃ c g l n cs u r, reached a b s = reachChange c g l n cs u r s ∧
    c = (passLull s).cycle ∧ r.waiting = s.csr.waiting ∧ r.held = none := by
  obtain ⟨c, _, _, _, _, e, hc⟩ := posted_eq s
  obtain ⟨_, _, k⟩ := readTable_eq a (setCapture b none (posted s))
  unfold reached
  rw [k, e]
  exact ⟨c, _, _, _, _, _, _, rfl, hc, rfl, rfl⟩

/-! What an answer leaves. -/

/-- The threads, the run control and the responses that wait are as they were. -/
def Unmoved (s t : State) : Prop := t.run = s.run ∧ t.ta = s.ta ∧ t.tx = s.tx ∧ t.csr.waiting = s.csr.waiting

theorem unmoved_reached (a b : Nat) (s : State) : Unmoved s (reached a b s) := by
  obtain ⟨_, _, _, _, _, _, _, e, -, hr, -⟩ := reached_eq a b s
  rw [e]
  exact ⟨rfl, rfl, rfl, hr⟩

/-- What every access that is answered does: the response waits behind those before it (R376). -/
theorem does_of_answer {c : Instr} {st : CsrStatus} {w : Word32} {s t : State} {P : State → Prop} (h : Unmoved s t)
    (he : exec c s = .next (answer st w t)) (hp : P (answer st w t)) :
    ∃ s', exec c s = .next s' ∧ s'.csr.status = st ∧ s'.run = s.run ∧ (∀ u r, sreg u r s' = sreg u r s) ∧
      (s.csr.waiting.length < 4 → s'.csr.waiting = s.csr.waiting ++ [(st, s'.csr.rdata)]) ∧ P s' := by
  obtain ⟨hr, ha, hx, hw⟩ := h
  refine ⟨answer st w t, he, rfl, hr, fun u r => ?_, fun hl => ?_, hp⟩
  · cases u
    · exact sreg_congr .ta r (congrArg (fun th : ThreadState => th.regs) ha)
    · exact sreg_congr .tx r (congrArg (fun th : ThreadState => th.regs) hx)
  · have hn : ¬4 ≤ s.csr.waiting.length := by omega
    simp [answer, hn, hw]

/-- The write of a register of one word, as far as its own rules (R393). -/
theorem csrWriteStep_of_word {addr : BitVec 16} {d : Word32} {s : State} {acc : CsrAccess} (hm : csrMay addr.toNat s)
    (h1 : addr.toNat ≠ 0x200) (h2 : addr.toNat ≠ 0x7800) (h3 : addr.toNat ≠ 0x2082)
    (hr : regAt s addr.toNat = reg1 addr.toNat acc) (ha : acc ≠ .ro) (hb : writeBarred s addr.toNat = false) :
    csrWriteStep addr d s = finishWrite (regWrite addr.toNat d.toNat (reached addr.toNat addr.toNat s)) := by
  rw [csrWriteStep_of_reg hm h1 h2 hr hb]
  dsimp only
  rw [if_neg ha, if_neg h3]
  rfl

/-- No rule of its own bars the writes of the blocks but the staging bank's and the mailbox's. -/
theorem writeBarred_of_block {a : Nat} (s : State) (h : a < 0x800 ∨ 0x1000 ≤ a ∧ a < 0x7800) : writeBarred s a = false := by
  unfold writeBarred
  rcases h with h | ⟨h1, h2⟩
  · simp [show ¬0x800 ≤ a by omega, show ¬0x7800 ≤ a by omega]
  · simp [show ¬a < 0x1000 by omega, show ¬0x7800 ≤ a by omega]

/-- What the write of a register of one word does that its rules accept. -/
theorem does_of_write {c : Instr} {addr : BitVec 16} {d : Word32} {s t : State} {acc : CsrAccess} {P : State → Prop}
    (hc : exec c s = .next (csrWriteStep addr d s)) (hm : csrMay addr.toNat s)
    (hb : addr.toNat ≠ 0x200 ∧ addr.toNat ≠ 0x2082 ∧ (addr.toNat < 0x800 ∨ 0x1000 ≤ addr.toNat ∧ addr.toNat < 0x7800))
    (hr : regAt s addr.toNat = reg1 addr.toNat acc) (ha : acc ≠ .ro)
    (hw : regWrite addr.toNat d.toNat (reached addr.toNat addr.toNat s) = wrOk t) (hu : Unmoved s t) (hp : P (answer .ok 0 t)) :
    ∃ s', exec c s = .next s' ∧ s'.csr.status = .ok ∧ s'.run = s.run ∧ (∀ u r, sreg u r s' = sreg u r s) ∧
      (s.csr.waiting.length < 4 → s'.csr.waiting = s.csr.waiting ++ [(.ok, s'.csr.rdata)]) ∧ P s' := by
  obtain ⟨h1, h3, hk⟩ := hb
  refine does_of_answer hu (hc.trans ?_) hp
  rw [csrWriteStep_of_word hm h1 (by omega) h3 hr ha (writeBarred_of_block s hk), hw]
  rfl

/-! The session table. -/

/-- The table after an entry has been touched: an entry whose word is uncorrectable is FREE (R348). -/
theorem sessTouch_sess (i : Nat) (s : State) : (sessTouch i s).sess =
    if s.upsets.sessDouble.contains i = true then
      if (getSess s i).state = .free then s.sess
      else { s.sess with entries := Sparse.set Session.reset s.sess.entries i Session.reset }
    else s.sess := by
  have hb (c : Prop) [Decidable c] (n m : Nat) (s t : State) (h : t.sess = s.sess) :
      (if c then bump n m t else s).sess = s.sess := by
    split
    · exact h
    · rfl
  unfold sessTouch
  dsimp only
  rw [hb]
  · split
    · by_cases hf : (getSess s i).state = .free
      · rw [if_pos hf]
        exact (congrArg State.sess (if_pos (by exact hf))).trans rfl
      · rw [if_neg hf]
        refine (congrArg State.sess (if_neg (by exact hf))).trans ?_
        rw [logEvent_sess]
        rfl
    · rfl
  · rfl

theorem unmoved_logEvent (code : BitVec 12) (n : Nat) {s t : State} (h : Unmoved s t) : Unmoved s (logEvent code n t) := by
  unfold Unmoved
  rwa [logEvent_run, logEvent_ta, logEvent_tx, logEvent_csr]

/-- A touch leaves the threads, the run control and the CSR port. -/
theorem unmoved_sessTouch (i : Nat) {s t : State} (h : Unmoved s t) : Unmoved s (sessTouch i t) := by
  have hu (x : State) (hx : Unmoved s x) : Unmoved s (if (getSess x i).state = .free then x
      else logEvent 0x401 i (setSess i Session.reset x)) := by
    split
    · exact hx
    · exact unmoved_logEvent _ _ hx
  have hb (c : Prop) [Decidable c] (x y : State) (hx : Unmoved s x) (hy : Unmoved s y) :
      Unmoved s (if c then bump cntSessCorr 1 y else x) := by
    split
    · exact hy
    · exact hx
  have hd : Unmoved s (if t.upsets.sessDouble.contains i then
      (fun x => if (getSess x i).state = .free then x else logEvent 0x401 i (setSess i Session.reset x))
        { t with upsets := { t.upsets with sessDouble := t.upsets.sessDouble.filter (fun j => j != i) } } else t) := by
    split
    · exact hu _ h
    · exact h
  exact hb _ _ _ hd hd

theorem getSess_sessTouch_congr {i j : Nat} {s t : State} (h : t.sess = s.sess) (hd : t.upsets.sessDouble = s.upsets.sessDouble) :
    getSess (sessTouch i t) j = getSess (sessTouch i s) j := by
  unfold getSess
  rw [sessTouch_sess, sessTouch_sess, hd, h]
  unfold getSess
  rw [h]

/-- The entries of a canonical table after a touch and a write: the one that was written, and the others as they were. -/
theorem getSess_setSess_sessTouch {i : Nat} (e : Session) {s t u : State} (hm : memoriesCanonical s) (h : t.sess = s.sess)
    (hu : u.sess = (sessTouch i t).sess) :
    getSess (setSess i e u) i = e ∧ ∀ j, j ≠ i → getSess (setSess i e u) j = getSess s j := by
  obtain ⟨-, -, -, -, -, -, -, -, -, hw, -⟩ := hm
  have hw' : Sparse.wf Session.reset u.sess.entries = true := by
    rw [hu, sessTouch_sess, h]
    split
    · split
      · exact hw
      · exact Sparse.wf_set Session.reset s.sess.entries i Session.reset hw
    · exact hw
  have hj (j : Nat) (hne : j ≠ i) : Sparse.get Session.reset u.sess.entries j = getSess s j := by
    rw [hu, sessTouch_sess, h]
    split
    · split
      · rfl
      · exact Sparse.get_set_ne Session.reset s.sess.entries Session.reset hw hne
    · rfl
  exact ⟨Sparse.get_set_self _ _ _ _ hw', fun j hne => (Sparse.get_set_ne _ _ _ hw' hne).trans (hj j hne)⟩

/-- What the session table's rules find is the table as it stands. -/
theorem reached_sess (a b : Nat) (s : State) : (reached a b s).sess = s.sess ∧
    (reached a b s).upsets.sessDouble = s.upsets.sessDouble := by
  obtain ⟨_, _, _, _, _, _, _, e, -⟩ := reached_eq a b s
  rw [e]
  exact ⟨rfl, rfl⟩

theorem sessRead_does {s : State} (hm : csrMay 0x3001 s) (hu : s.sess.idx.toNat < s.sess.used.toNat) :
    ∃ s', exec .sessRead s = .next s' ∧ s'.csr.status = .ok ∧ s'.run = s.run ∧ (∀ u r, sreg u r s' = sreg u r s) ∧
      (s.csr.waiting.length < 4 → s'.csr.waiting = s.csr.waiting ++ [(.ok, s'.csr.rdata)]) ∧
      s'.sess.data = sessImage (getSess (sessTouch s.sess.idx.toNat s) s.sess.idx.toNat) := by
  obtain ⟨hs, hd⟩ := reached_sess 0x3001 0x3001 s
  have hi : ¬(reached 0x3001 0x3001 s).sess.used.toNat ≤ (reached 0x3001 0x3001 s).sess.idx.toNat := by rw [hs]; omega
  have hw : sessReadOp (reached 0x3001 0x3001 s) = wrOk { sessTouch s.sess.idx.toNat (reached 0x3001 0x3001 s) with
      sess := { (sessTouch s.sess.idx.toNat (reached 0x3001 0x3001 s)).sess with
        data := sessImage (getSess (sessTouch s.sess.idx.toNat s) s.sess.idx.toNat) } } := by
    unfold sessReadOp
    dsimp only
    rw [if_neg hi, getSess_sessTouch_congr hs hd, hs]
  exact does_of_write (addr := 0x3001) (d := 1) (acc := .wo) rfl hm (by decide) rfl (by decide) hw
    (unmoved_sessTouch _ (unmoved_reached 0x3001 0x3001 s)) rfl

theorem sessWrite_does {s : State} {st : SessState} {e : Session} (hc : memoriesCanonical s) (hm : csrMay 0x3001 s)
    (hu : s.sess.idx.toNat < s.sess.used.toNat) (hst : sessStateOf (s.sess.data.toNat % 8) = some st)
    (he : sessAccept (getSess (sessTouch s.sess.idx.toNat s) s.sess.idx.toNat) st s.sess.data = some e) :
    ∃ s', exec .sessWrite s = .next s' ∧ s'.csr.status = .ok ∧ s'.run = s.run ∧ (∀ u r, sreg u r s' = sreg u r s) ∧
      (s.csr.waiting.length < 4 → s'.csr.waiting = s.csr.waiting ++ [(.ok, s'.csr.rdata)]) ∧
      getSess s' s.sess.idx.toNat = e ∧ ∀ j, j ≠ s.sess.idx.toNat → getSess s' j = getSess s j := by
  obtain ⟨hs, hd⟩ := reached_sess 0x3001 0x3001 s
  have hi : ¬(reached 0x3001 0x3001 s).sess.used.toNat ≤ (reached 0x3001 0x3001 s).sess.idx.toNat := by rw [hs]; omega
  have hdat : (sessTouch s.sess.idx.toNat (reached 0x3001 0x3001 s)).sess.data = s.sess.data := by
    rw [sessTouch_sess, hs]
    split
    · split <;> rfl
    · rfl
  have hw : sessWriteOp (reached 0x3001 0x3001 s) = wrOk (setSess s.sess.idx.toNat e (sessTouch s.sess.idx.toNat (reached 0x3001 0x3001 s))) := by
    unfold sessWriteOp
    dsimp only
    rw [if_neg hi, hs, hst]
    dsimp only
    rw [getSess_sessTouch_congr hs hd, hdat, he]
  exact does_of_write (addr := 0x3001) (d := 2) (acc := .wo) rfl hm (by decide) rfl (by decide) hw
    (unmoved_sessTouch _ (unmoved_reached 0x3001 0x3001 s)) (getSess_setSess_sessTouch e hc hs rfl)

/-- An entry with `n` more credits, up to 255 (R274). -/
def credited (n : Nat) (e : Session) : Session := { e with credits := BitVec.ofNat 8 (min 255 (e.credits.toNat + n)) }

theorem writeCreditAdd_eq {v : Nat} {s : State} (hu : v % 2 ^ 16 < s.sess.used.toNat) (hn : v / 2 ^ 16 % 2 ^ 8 ≠ 0)
    (hf : (getSess (sessTouch (v % 2 ^ 16) s) (v % 2 ^ 16)).state ≠ .free) :
    ∃ u, writeCreditAdd v s = wrOk (setSess (v % 2 ^ 16) (withCredits
      (credited (v / 2 ^ 16 % 2 ^ 8) (getSess (sessTouch (v % 2 ^ 16) s) (v % 2 ^ 16)))) u) ∧
      u.sess = (sessTouch (v % 2 ^ 16) s).sess ∧ ∀ t, Unmoved t s → Unmoved t u := by
  unfold writeCreditAdd
  dsimp only
  rw [if_neg (by omega), if_neg hf]
  split
  · exact ⟨_, rfl, rfl, fun t h => unmoved_sessTouch _ h⟩
  · exact ⟨_, rfl, rfl, fun t h => unmoved_sessTouch _ h⟩

theorem sessCreditAdd_does {d : Word32} {s : State} (hc : memoriesCanonical s) (hm : csrMay 0x3008 s)
    (hu : d.toNat % 2 ^ 16 < s.sess.used.toNat) (hn : d.toNat / 2 ^ 16 % 2 ^ 8 ≠ 0)
    (hf : (getSess (sessTouch (d.toNat % 2 ^ 16) s) (d.toNat % 2 ^ 16)).state ≠ .free) :
    ∃ s', exec (.sessCreditAdd d) s = .next s' ∧ s'.csr.status = .ok ∧ s'.run = s.run ∧ (∀ u r, sreg u r s' = sreg u r s) ∧
      (s.csr.waiting.length < 4 → s'.csr.waiting = s.csr.waiting ++ [(.ok, s'.csr.rdata)]) ∧
      getSess s' (d.toNat % 2 ^ 16) = withCredits
        (credited (d.toNat / 2 ^ 16 % 2 ^ 8) (getSess (sessTouch (d.toNat % 2 ^ 16) s) (d.toNat % 2 ^ 16))) := by
  obtain ⟨hs, hd⟩ := reached_sess 0x3008 0x3008 s
  obtain ⟨u, hw, he, hq⟩ := writeCreditAdd_eq (v := d.toNat) (s := reached 0x3008 0x3008 s) (by rw [hs]; exact hu) hn
    (by rw [getSess_sessTouch_congr hs hd]; exact hf)
  rw [getSess_sessTouch_congr hs hd] at hw
  exact does_of_write (addr := 0x3008) (acc := .wo) rfl hm (by decide) rfl (by decide) hw
    (hq s (unmoved_reached 0x3008 0x3008 s)) (getSess_setSess_sessTouch _ hc hs he).1

/-! Handle entries. -/

/-- The blocks of the island answer together (R379). -/
theorem csrMay_of_block {a b : Nat} {s : State} (h : csrMay a s) (ha : 0x500 ≤ a ∧ a < 0x7000) (hb : 0x500 ≤ b ∧ b < 0x4000) :
    csrMay b s := by
  obtain ⟨hp, ho, -⟩ := h
  refine ⟨hp, ?_, by simp [glazeAbsent, show ¬0x4000 ≤ b by omega]⟩
  rw [← ho]
  simp only [blockOpen, show ¬a < 0x200 by omega, show ¬b < 0x200 by omega, show ¬a < 0x500 by omega, show ¬b < 0x500 by omega,
    show ¬0x7800 ≤ a by omega, show ¬0x7800 ≤ b by omega, show ¬a < 0x300 by omega, show ¬b < 0x300 by omega,
    show ¬0x7000 ≤ a by omega, show ¬0x7000 ≤ b by omega, decide_false, Bool.and_false, Bool.false_and, Bool.or_false]

theorem regWrite_of_handle {a : Nat} (v : Nat) (s : State) (ha : 0x1000 ≤ a ∧ a < 0x2000) : regWrite a v s = writeHandle a v s := by
  simp only [regWrite, show a ≠ 0x106 by omega, show a ≠ 0x108 by omega, show ¬a < 0x200 by omega, show ¬a < 0x400 by omega,
    show ¬a < 0x800 by omega, show ¬a < 0x1000 by omega, show a < 0x2000 by omega, if_false, if_true]

theorem writeHandle_of_entry {a : Nat} {h : BitVec 8} (v : Nat) (s : State) (ha : a = 0x1000 + 8 * h.toNat) :
    writeHandle a v s = writeHandleWord h 0 v s := by
  have hlt := h.isLt
  unfold writeHandle
  rw [if_neg (by omega), show (a - 0x1000) / 8 = h.toNat by omega, show a % 8 = 0 by omega, BitVec.ofNat_toNat,
    BitVec.setWidth_eq]

/-- A FREE entry is activated by the write of its word 0 (Table 14.1, R304). -/
theorem writeHandleWord_of_free {h : BitVec 8} {v : Nat} {s : State} (hf : (getHandle s h).state = .free)
    (hst : handleState v = .bound ∨ handleState v = .pinned) (he : entryOk s (handleFields (getHandle s h) v) = true) :
    writeHandleWord h 0 v s = wrOk (setHandle h { handleFields (getHandle s h) v with
      state := handleState v, prevValid := false, refcount := 0, lastuse := cycleStamp s } s) := by
  have hn : ¬(handleState v = .free ∨ handleState v = .draining) := by
    rcases hst with hst | hst <;> simp [hst]
  unfold writeHandleWord
  dsimp only
  rw [if_neg (by decide), if_pos hf, if_pos rfl, activate]
  dsimp only
  rw [if_neg hn, if_pos he]

theorem handleEntryWrite_does {a : BitVec 16} {d : Word32} {h : BitVec 8} {s : State} (hm : csrMay 0x1000 s)
    (ha : a.toNat = 0x1000 + 8 * h.toNat) (hf : (getHandle s h).state = .free)
    (hst : handleState d.toNat = .bound ∨ handleState d.toNat = .pinned)
    (he : entryOk s (handleFields (getHandle s h) d.toNat) = true) :
    ∃ s', exec (.handleEntryWrite a d) s = .next s' ∧ s'.csr.status = .ok ∧ s'.run = s.run ∧
      (∀ u r, sreg u r s' = sreg u r s) ∧
      (s.csr.waiting.length < 4 → s'.csr.waiting = s.csr.waiting ++ [(.ok, s'.csr.rdata)]) ∧
      s'.handles = (setHandle h { handleFields (getHandle s h) d.toNat with
        state := handleState d.toNat, prevValid := false, refcount := 0, lastuse := cycleStamp (passLull s) } s).handles := by
  have hlt := h.isLt
  have hr : regAt s a.toNat = reg1 a.toNat .rw := by
    have h0 : a.toNat % 8 = 0 := by omega
    simp [regAt, regHandle, h0, show ¬a.toNat < 0x100 by omega, show ¬a.toNat < 0x200 by omega, show ¬a.toNat < 0x1000 by omega,
      show a.toNat < 0x2000 by omega, show a.toNat < 0x1800 by omega]
  obtain ⟨_, _, _, _, _, _, _, e, hcy, -⟩ := reached_eq a.toNat a.toNat s
  have hw : regWrite a.toNat d.toNat (reached a.toNat a.toNat s) = wrOk (setHandle h
      { handleFields (getHandle s h) d.toNat with
        state := handleState d.toNat, prevValid := false, refcount := 0, lastuse := cycleStamp (passLull s) }
      (reached a.toNat a.toNat s)) := by
    have hg : getHandle (reached a.toNat a.toNat s) h = getHandle s h := by rw [e]; rfl
    have hk : entryOk (reached a.toNat a.toNat s) (handleFields (getHandle s h) d.toNat) = true := by rw [e]; exact he
    have hy : cycleStamp (reached a.toNat a.toNat s) = cycleStamp (passLull s) := by
      rw [e]
      exact congrArg (fun c : Word64 => BitVec.ofNat 32 (c.toNat / 1024)) hcy
    rw [regWrite_of_handle _ _ (by omega), writeHandle_of_entry _ _ ha,
      writeHandleWord_of_free (by rw [hg]; exact hf) hst (by rw [hg]; exact hk), hg, hy]
  exact does_of_write rfl (csrMay_of_block hm (by decide) (by omega)) (by omega) hr (by decide) hw
    (unmoved_reached a.toNat a.toNat s) (by rw [e]; rfl)

/-! Parameter staging. -/

theorem regAt_of_stage {a n : Nat} (s : State) (hn : n < 64) (ha : a = 0x800 + 2 * n ∨ a = 0x800 + 2 * n + 1) :
    regAt s a = reg2 (0x800 + 2 * n) .rw := by
  have he : evenBelow a = 0x800 + 2 * n := by unfold evenBelow; omega
  simp [regAt, regSlots, he, show ¬a < 0x100 by omega, show ¬a < 0x200 by omega, show a < 0x1000 by omega, show a ≠ 0x201 by omega,
    show ¬a ≤ 0x205 by omega, show a ≠ 0x402 by omega, show ¬a ≤ 0x40B by omega, show ¬a ≤ 0x404 by omega,
    show 0x800 ≤ a by omega, show a ≤ 0x881 by omega]

theorem writeBarred_of_stage {a : Nat} {s : State} (hp : s.stage.pending = false) (ha : a < 0x1000) : writeBarred s a = false := by
  simp [writeBarred, hp, show ¬0x7800 ≤ a by omega]

/-- The write of a lower word is held (R393). -/
theorem writeWord_of_lower {r : CsrReg} {a : BitVec 16} (d : Word32) (held : Option (BitVec 16 × Word32)) (s : State)
    (hw : r.wide = true) (ha : a.toNat = r.base) :
    writeWord r a.toNat d held s = answer .ok 0 { s with csr := { s.csr with held := some (a, d) } } := by
  unfold writeWord
  rw [if_neg (by simp [hw]), if_pos ha, BitVec.ofNat_toNat, BitVec.setWidth_eq]

/-- The write of an upper word writes the register with the lower word that is held (R393). -/
theorem writeWord_of_upper {r : CsrReg} {a : Nat} {b : BitVec 16} (d low : Word32) (s : State) (hw : r.wide = true)
    (ha : a ≠ r.base) (hb : b.toNat = r.base) :
    writeWord r a d (some (b, low)) s = finishWrite (regWrite r.base (low.toNat + 2 ^ 32 * d.toNat) s) := by
  unfold writeWord
  rw [if_neg (by simp [hw]), if_neg ha]
  dsimp only
  rw [if_pos hb]

theorem regWrite_of_stage {n : Nat} (v : Nat) (s : State) (hn : n < 64) :
    regWrite (0x800 + 2 * n) v s = wrOk (writeStage n v s) := by
  simp only [regWrite, writeStaging, show 0x800 + 2 * n ≠ 0x106 by omega, show 0x800 + 2 * n ≠ 0x108 by omega,
    show ¬0x800 + 2 * n < 0x200 by omega, show ¬0x800 + 2 * n < 0x400 by omega, show ¬0x800 + 2 * n < 0x800 by omega,
    show 0x800 + 2 * n < 0x1000 by omega, show 0x800 + 2 * n ≠ 0x880 by omega, show (0x800 + 2 * n - 0x800) / 2 = n by omega,
    if_false, if_true]

/-- The lower word of a staged value is held for its upper word (R393). -/
theorem pstageWrite_holds {a : BitVec 16} {d : Word32} {n : Nat} {s : State} (hm : csrMay 0x800 s) (hp : s.stage.pending = false)
    (hn : n < 64) (ha : a.toNat = 0x800 + 2 * n) :
    ∃ s', exec (.pstageWrite a d) s = .next s' ∧ s'.csr.status = .ok ∧ s'.run = s.run ∧ (∀ u r, sreg u r s' = sreg u r s) ∧
      (s.csr.waiting.length < 4 → s'.csr.waiting = s.csr.waiting ++ [(.ok, s'.csr.rdata)]) ∧
      s'.csr.held = some (a, d) ∧ s'.stage = s.stage := by
  have hr := regAt_of_stage s hn (.inl ha)
  obtain ⟨_, _, _, _, _, _, _, e, -⟩ := reached_eq a.toNat (0x800 + 2 * n) s
  obtain ⟨h1, h2, h3, h4⟩ := unmoved_reached a.toNat (0x800 + 2 * n) s
  have hw : csrWriteStep a d s = answer .ok 0 { reached a.toNat (0x800 + 2 * n) s with
      csr := { (reached a.toNat (0x800 + 2 * n) s).csr with held := some (a, d) } } := by
    rw [csrWriteStep_of_reg (csrMay_of_block hm (by decide) (by omega)) (by omega) (by omega) hr
      (writeBarred_of_stage hp (by omega))]
    rw [if_neg (by simp), if_neg (by omega), writeWord_of_lower _ _ _ rfl ha]
    rfl
  refine does_of_answer (P := fun s' => s'.csr.held = some (a, d) ∧ s'.stage = s.stage) ?_
    (congrArg Host.Outcome.next hw) ⟨rfl, ?_⟩
  · exact ⟨h1, h2, h3, h4⟩
  · rw [e]
    rfl

/-- The write of the upper word stages the value with the lower word that was held (R393, R400). -/
theorem pstageWrite_stages {a b : BitVec 16} {d low : Word32} {n : Nat} {s : State} (hm : csrMay 0x800 s)
    (hp : s.stage.pending = false) (hn : n < 64) (hb : b.toNat = 0x800 + 2 * n) (ha : a.toNat = b.toNat + 1)
    (hh : s.csr.held = some (b, low)) :
    ∃ s', exec (.pstageWrite a d) s = .next s' ∧ s'.csr.status = .ok ∧ s'.run = s.run ∧ (∀ u r, sreg u r s' = sreg u r s) ∧
      (s.csr.waiting.length < 4 → s'.csr.waiting = s.csr.waiting ++ [(.ok, s'.csr.rdata)]) ∧
      s'.csr.held = none ∧ s'.stage.vals = Sparse.set 0 s.stage.vals n (d ++ low) ∧
      (∀ k, s'.stage.mask.getLsbD k = (s.stage.mask.getLsbD k || k == n)) := by
  have hr := regAt_of_stage (a := a.toNat) s hn (.inr (by omega))
  obtain ⟨_, _, _, _, _, _, _, e, -, -, hheld⟩ := reached_eq a.toNat (0x800 + 2 * n) s
  have hw : csrWriteStep a d s = answer .ok 0 (writeStage n (low.toNat + 2 ^ 32 * d.toNat) (reached a.toNat (0x800 + 2 * n) s)) := by
    rw [csrWriteStep_of_reg (csrMay_of_block hm (by decide) (by omega)) (by omega) (by omega) hr
      (writeBarred_of_stage hp (by omega))]
    rw [if_neg (by simp), if_neg (by omega), hh, writeWord_of_upper _ _ _ rfl (by show a.toNat ≠ 0x800 + 2 * n; omega) hb]
    exact congrArg finishWrite (regWrite_of_stage _ _ hn)
  have hv : BitVec.ofNat 64 (low.toNat + 2 ^ 32 * d.toNat) = d ++ low := by
    have h1 := d.isLt
    have h2 := low.isLt
    apply BitVec.eq_of_toNat_eq
    rw [BitVec.toNat_append, BitVec.toNat_ofNat, ← Nat.shiftLeft_add_eq_or_of_lt h2, Nat.shiftLeft_eq, Nat.mod_eq_of_lt (by omega)]
    omega
  have hk (k : Nat) : (BitVec.ofNat 64 (2 ^ n)).getLsbD k = (k == n) := by
    rw [BitVec.getLsbD_ofNat, Nat.testBit_two_pow, Bool.eq_iff_iff]
    simp only [Bool.and_eq_true, decide_eq_true_eq, beq_iff_eq]
    omega
  refine does_of_answer (P := fun s' => s'.csr.held = none ∧ s'.stage.vals = Sparse.set 0 s.stage.vals n (d ++ low) ∧
    ∀ k, s'.stage.mask.getLsbD k = (s.stage.mask.getLsbD k || k == n)) ?_ (congrArg Host.Outcome.next hw) ?_
  · exact unmoved_reached a.toNat (0x800 + 2 * n) s
  · rw [e]
    refine ⟨hheld, congrArg (Sparse.set 0 s.stage.vals n) hv, fun k => ?_⟩
    exact (BitVec.getLsbD_or ..).trans (by rw [hk]; rfl)

/-! Registers of one word. -/

theorem evtCauseClear_does {d : Word32} {s : State} (hm : csrMay 0x400 s) :
    ∃ s', exec (.evtCauseClear d) s = .next s' ∧ s'.csr.status = .ok ∧ s'.run = s.run ∧ (∀ u r, sreg u r s' = sreg u r s) ∧
      (s.csr.waiting.length < 4 → s'.csr.waiting = s.csr.waiting ++ [(.ok, s'.csr.rdata)]) ∧
      s'.evt = { s.evt with cause := s.evt.cause &&& ~~~(d.setWidth 4) } := by
  obtain ⟨_, _, _, _, _, _, _, e, -⟩ := reached_eq (0x400 : BitVec 16).toNat (0x400 : BitVec 16).toNat s
  refine does_of_write (addr := 0x400) (acc := .rw) rfl hm (by decide) rfl (by decide)
    (show regWrite 0x400 d.toNat _ = wrOk (clearCause d.toNat _) from rfl) (unmoved_reached 0x400 0x400 s) ?_
  rw [e, ← BitVec.ofNat_toNat]
  rfl

theorem evtLogSel_does {d : Word32} {s : State} (hm : csrMay 0x400 s) :
    ∃ s', exec (.evtLogSel d) s = .next s' ∧ s'.csr.status = .ok ∧ s'.run = s.run ∧ (∀ u r, sreg u r s' = sreg u r s) ∧
      (s.csr.waiting.length < 4 → s'.csr.waiting = s.csr.waiting ++ [(.ok, s'.csr.rdata)]) ∧
      s'.evt.sel = d.setWidth 16 ∧ s'.evt.entry = Sparse.get 0 s.evt.log (d.toNat % 4096) := by
  obtain ⟨_, _, _, _, _, _, _, e, -⟩ := reached_eq (0x403 : BitVec 16).toNat (0x403 : BitVec 16).toNat s
  refine does_of_write (addr := 0x403) (acc := .rw) rfl hm (by decide) rfl (by decide)
    (show regWrite 0x403 d.toNat _ = wrOk (selectLog (d.toNat % 2 ^ 16) _) from rfl) (unmoved_reached 0x403 0x403 s) ?_
  rw [e]
  refine ⟨?_, ?_⟩
  · apply BitVec.eq_of_toNat_eq
    simp [answer, selectLog]
  · exact congrArg (Sparse.get 0 s.evt.log) (by omega)

theorem evtLogRdptr_does {d : Word32} {s : State} (hm : csrMay 0x400 s) :
    ∃ s', exec (.evtLogRdptr d) s = .next s' ∧ s'.csr.status = .ok ∧ s'.run = s.run ∧ (∀ u r, sreg u r s' = sreg u r s) ∧
      (s.csr.waiting.length < 4 → s'.csr.waiting = s.csr.waiting ++ [(.ok, s'.csr.rdata)]) ∧
      s'.evt = { s.evt with rdptr := d.setWidth 16, lostArmed := true } := by
  obtain ⟨_, _, _, _, _, _, _, e, -⟩ := reached_eq (0x404 : BitVec 16).toNat (0x404 : BitVec 16).toNat s
  refine does_of_write (addr := 0x404) (acc := .rw) rfl hm (by decide) rfl (by decide)
    (show regWrite 0x404 d.toNat _ = wrOk (setRdptr d.toNat _) from rfl) (unmoved_reached 0x404 0x404 s) ?_
  rw [e, ← BitVec.ofNat_toNat]
  rfl

theorem waitLimitWrite_does {d : Word32} {s : State} (hm : csrMay 0x1800 s) :
    ∃ s', exec (.csrWrite 0x1800 d) s = .next s' ∧ s'.csr.status = .ok ∧ s'.run = s.run ∧ (∀ u r, sreg u r s' = sreg u r s) ∧
      (s.csr.waiting.length < 4 → s'.csr.waiting = s.csr.waiting ++ [(.ok, s'.csr.rdata)]) ∧
      s'.ls = { s.ls with waitLimit := d } ∧ s'.handles = s.handles := by
  obtain ⟨_, _, _, _, _, _, _, e, -⟩ := reached_eq (0x1800 : BitVec 16).toNat (0x1800 : BitVec 16).toNat s
  refine does_of_write (addr := 0x1800) (acc := .rw) rfl hm (by decide) rfl (by decide)
    (show regWrite 0x1800 d.toNat _ = wrOk _ from rfl) (unmoved_reached 0x1800 0x1800 s) ?_
  rw [e, BitVec.ofNat_toNat, BitVec.setWidth_eq]
  exact ⟨rfl, rfl⟩

theorem windowEpochWrite_does {d : Word32} {s : State} (hm : csrMay 0x2080 s) (ho : windowsOpen s = true) :
    ∃ s', exec (.csrWrite 0x2080 d) s = .next s' ∧ s'.csr.status = .ok ∧ s'.run = s.run ∧ (∀ u r, sreg u r s' = sreg u r s) ∧
      (s.csr.waiting.length < 4 → s'.csr.waiting = s.csr.waiting ++ [(.ok, s'.csr.rdata)]) ∧
      s'.fab = { s.fab with epoch := d } := by
  obtain ⟨_, _, _, _, _, _, _, e, -⟩ := reached_eq (0x2080 : BitVec 16).toNat (0x2080 : BitVec 16).toNat s
  have hw : windowsOpen (reached 0x2080 0x2080 s) = true := (congrArg windowsOpen e).trans ho
  refine does_of_write (addr := 0x2080) (acc := .rw) rfl hm (by decide) rfl (by decide)
    (show regWrite 0x2080 d.toNat _ = wrOk _ from if_pos hw) (unmoved_reached 0x2080 0x2080 s) ?_
  rw [e, BitVec.ofNat_toNat, BitVec.setWidth_eq]
  rfl

/-! Refused writes. -/

theorem unmoved_posted (s : State) : Unmoved s (posted s) := by
  obtain ⟨_, _, _, _, _, e, -⟩ := posted_eq s
  rw [e]
  exact ⟨rfl, rfl, rfl, rfl⟩

/-- An answer, a dropped capture and the drop of the held word touch the CSR port's own state only. -/
theorem answer_setCapture_dropHeld (st : CsrStatus) (w : Word32) (b : Nat) (now : State) :
    { answer st w (setCapture b none (dropHeld now)) with csr := now.csr } = now := rfl

/-- The write of an address without a register (R392). -/
theorem csrWrite_of_none {a : BitVec 16} {d : Word32} {s : State} (hm : csrMay a.toNat s) (h1 : a ≠ 0x200) (h2 : a ≠ 0x7800)
    (hr : regAt s a.toNat = none) :
    ∃ s', exec (.csrWrite a d) s = .next s' ∧ s'.csr.status = .errAddr ∧ s'.run = s.run ∧ (∀ u r, sreg u r s' = sreg u r s) ∧
      (s.csr.waiting.length < 4 → s'.csr.waiting = s.csr.waiting ++ [(.errAddr, s'.csr.rdata)]) ∧
      { s' with csr := (passLull s).csr } = passLull s := by
  have hc : csrReach (dropHeld (passLull s)) a.toNat = .error .errAddr := (csrReach_posted s _).trans (csrReach_of_none hm hr)
  have hw : csrWriteStep a d s = answer .errAddr 0 (posted s) := by
    obtain ⟨hp, -⟩ := hm
    have h1' : a.toNat ≠ 0x200 := fun h => h1 (BitVec.eq_of_toNat_eq h)
    have h2' : a.toNat ≠ 0x7800 := fun h => h2 (BitVec.eq_of_toNat_eq h)
    unfold csrWriteStep
    rw [if_neg (by simp [hp]), if_neg h1', if_neg h2']
    dsimp only
    rw [hc]
    rfl
  exact does_of_answer (P := fun s' => { s' with csr := (passLull s).csr } = passLull s) (unmoved_posted s)
    (congrArg Host.Outcome.next hw) rfl

/-- The write of a read-only register (R394). -/
theorem csrWrite_of_ro {a : BitVec 16} {d : Word32} {s : State} {r : CsrReg} (hm : csrMay a.toNat s) (h1 : a ≠ 0x200)
    (h2 : a ≠ 0x7800) (hr : regAt s a.toNat = some r) (hro : r.acc = .ro) (hb : writeBarred s a.toNat = false) :
    ∃ s', exec (.csrWrite a d) s = .next s' ∧ s'.csr.status = .errRights ∧ s'.run = s.run ∧ (∀ u r, sreg u r s' = sreg u r s) ∧
      (s.csr.waiting.length < 4 → s'.csr.waiting = s.csr.waiting ++ [(.errRights, s'.csr.rdata)]) ∧
      { s' with csr := (passLull s).csr } = passLull s := by
  have hw : csrWriteStep a d s = answer .errRights 0 (setCapture r.base none (posted s)) := by
    rw [csrWriteStep_of_reg hm (fun h => h1 (BitVec.eq_of_toNat_eq h)) (fun h => h2 (BitVec.eq_of_toNat_eq h)) hr hb, if_pos hro]
  exact does_of_answer (t := setCapture r.base none (posted s)) (P := fun s' => { s' with csr := (passLull s).csr } = passLull s)
    (unmoved_posted s) (congrArg Host.Outcome.next hw) (answer_setCapture_dropHeld ..)

/-! Reads. -/

/-- A read that no check refuses (R394). -/
theorem csrRead_of_reg {a : BitVec 16} {s t : State} {r : CsrReg} (ht : t = if islandBlock a.toNat then passLull s else s)
    (hm : csrMay a.toNat s) (hr : regAt s a.toNat = some r) (hw : r.acc ≠ .wo) (hc : mirrorClosed s a.toNat = false) :
    csrRead a s = answer .ok (readWord t r a.toNat).1
      (readEffect a.toNat (readTable a.toNat (setCapture r.base (readWord t r a.toNat).2 t))) := by
  have hreach : csrReach t a.toNat = .ok r := by
    rw [ht]
    split
    · exact (csrReach_posted s _).trans (csrReach_of_reg hm hr)
    · exact csrReach_of_reg hm hr
  have hclosed : mirrorClosed t a.toNat = false := by
    rw [ht]
    split
    · obtain ⟨_, _, _, _, _, e⟩ := passLull_eq s
      rw [e]
      exact hc
    · exact hc
  obtain ⟨hp, -⟩ := hm
  unfold csrRead
  rw [if_neg (by simp [hp])]
  dsimp only
  rw [← ht, hreach]
  dsimp only
  rw [if_neg hw, if_neg (by simp [hclosed])]

theorem unmoved_readTable (a : Nat) {s t : State} (h : Unmoved s t) : Unmoved s (readTable a t) := by
  obtain ⟨_, _, e⟩ := readTable_eq a t
  rw [e]
  exact h

theorem unmoved_passLull (s : State) : Unmoved s (passLull s) := by
  obtain ⟨_, _, _, _, _, e⟩ := passLull_eq s
  rw [e]
  exact ⟨rfl, rfl, rfl, rfl⟩

theorem readEffect_csr (a : Nat) (s : State) : (readEffect a s).csr = s.csr := by
  unfold readEffect
  split <;> rfl

theorem unmoved_readEffect (a : Nat) {s t : State} (h : Unmoved s t) : Unmoved s (readEffect a t) := by
  unfold readEffect
  split
  · exact h
  · exact h

/-- A read of CONE_MIN restarts its record (R321). -/
theorem coneMinRead_does {s : State} (hm : csrMay 0x5805 s) :
    ∃ s', exec .coneMinRead s = .next s' ∧ s'.csr.status = .ok ∧ s'.run = s.run ∧ (∀ u r, sreg u r s' = sreg u r s) ∧
      (s.csr.waiting.length < 4 → s'.csr.waiting = s.csr.waiting ++ [(.ok, s'.csr.rdata)]) ∧
      s'.csr.rdata = s.clk.coneMin.setWidth 32 ∧ s'.clk = { (passLull s).clk with coneMin := 63 } := by
  have hw := csrRead_of_reg (a := 0x5805) (t := passLull s) rfl hm (r := { base := 0x5805, wide := false, acc := .ro }) rfl
    (by decide) rfl
  refine does_of_answer (P := fun s' => s'.csr.rdata = s.clk.coneMin.setWidth 32 ∧ s'.clk = { (passLull s).clk with coneMin := 63 })
    ?_ (congrArg Host.Outcome.next hw) ⟨?_, ?_⟩
  · exact unmoved_passLull s
  · obtain ⟨_, _, _, _, _, e⟩ := passLull_eq s
    rw [e, ← BitVec.ofNat_toNat]
    rfl
  · rfl

/-- The first entry of a key after it has been put. -/
theorem find_put (k : Nat) (w : Word32) (m : Sparse Word32) : (Sparse.put m k w).find? (fun x => x.1 == k) = some (k, w) := by
  induction m with
  | nil => simp [Sparse.put]
  | cons p m ih =>
    obtain ⟨j, v⟩ := p
    simp only [Sparse.put]
    split
    · simp
    · split
      · simp
      · next h _ =>
        rw [List.find?_cons_of_neg (by simpa using fun e => h e.symm)]
        exact ih

/-- The read of a lower word captures the upper one (R378). -/
theorem wideRead_does {a : BitVec 16} {s t : State} {acc : CsrAccess} (ht : t = if islandBlock a.toNat then passLull s else s)
    (hm : csrMay a.toNat s) (hr : regAt s a.toNat = some { base := a.toNat, wide := true, acc := acc }) (ha : acc ≠ .wo)
    (hc : mirrorClosed s a.toNat = false) :
    ∃ s', exec (.wideRegisterLowerRead a) s = .next s' ∧ s'.csr.status = .ok ∧ s'.run = s.run ∧
      (∀ u r, sreg u r s' = sreg u r s) ∧
      (s.csr.waiting.length < 4 → s'.csr.waiting = s.csr.waiting ++ [(.ok, s'.csr.rdata)]) ∧
      s'.csr.rdata.toNat = regValue t a.toNat % 2 ^ 32 ∧
      captured s' a.toNat = some (BitVec.ofNat 32 (regValue t a.toNat / 2 ^ 32)) := by
  have hw := csrRead_of_reg ht hm hr ha hc
  have hv : readWord t { base := a.toNat, wide := true, acc := acc } a.toNat =
      (BitVec.ofNat 32 (regValue t a.toNat), some (BitVec.ofNat 32 (regValue t a.toNat / 2 ^ 32))) := by
    simp [readWord]
  rw [hv] at hw
  have hut : Unmoved s t := by
    rw [ht]
    split
    · exact unmoved_passLull s
    · exact ⟨rfl, rfl, rfl, rfl⟩
  refine does_of_answer (P := fun s' => s'.csr.rdata.toNat = regValue t a.toNat % 2 ^ 32 ∧
    captured s' a.toNat = some (BitVec.ofNat 32 (regValue t a.toNat / 2 ^ 32))) ?_ (congrArg Host.Outcome.next hw)
    ⟨BitVec.toNat_ofNat .., ?_⟩
  · exact unmoved_readEffect _ (unmoved_readTable _ hut)
  · obtain ⟨_, _, e⟩ := readTable_eq a.toNat
      (setCapture a.toNat (some (BitVec.ofNat 32 (regValue t a.toNat / 2 ^ 32))) t)
    have hcap : (readEffect a.toNat (readTable a.toNat
        (setCapture a.toNat (some (BitVec.ofNat 32 (regValue t a.toNat / 2 ^ 32))) t))).csr.capture =
        Sparse.put (Sparse.drop t.csr.capture a.toNat) a.toNat (BitVec.ofNat 32 (regValue t a.toNat / 2 ^ 32)) := by
      rw [readEffect_csr, e]
      rfl
    unfold captured
    exact (congrArg (fun m => (List.find? (fun x : Nat × Word32 => x.1 == a.toNat) m).map (fun x => x.2)) hcap).trans
      (by rw [find_put])

/-- Settles O53: every access that reaches a register is one answer on the state that the register's own rules leave. -/
theorem csrAccesses : Obligations.CsrAccesses := by
  intro a d n h s hc i s0 does now wide
  refine ⟨fun hm hu => ⟨sessRead_does hm hu, fun st e hst he => sessWrite_does hc hm hu hst he⟩,
    fun hm hu hn => fun hf => sessCreditAdd_does hc hm hu hn hf,
    fun hm ha => fun hf hst he => handleEntryWrite_does hm ha hf hst he,
    fun hm hp hn => ⟨pstageWrite_holds hm hp hn, fun b low hb ha hh => pstageWrite_stages hm hp hn hb ha hh⟩,
    fun hm => ⟨evtCauseClear_does hm, evtLogSel_does hm, evtLogRdptr_does hm⟩, coneMinRead_does, fun hm hw hcl => ?_,
    waitLimitWrite_does, windowEpochWrite_does,
    fun hm h1 h2 => ⟨csrWrite_of_none hm h1 h2, fun r hr hro hb => csrWrite_of_ro hm h1 h2 hr hro hb⟩⟩
  rcases hw with hr | hr
  · exact wideRead_does rfl hm hr (by decide) hcl
  · exact wideRead_does rfl hm hr (by decide) hcl

end Sys2Proof.Machine
end

section
/-! SUPPORT. Packed elements: O57. -/

namespace Sys2Proof.Machine

/-- The widths of elements, each with the bytes and the elements of its packing unit (R24). -/
def packUnits : List (Nat × Nat × Nat) := [(4, 1, 2), (6, 3, 4), (8, 1, 1), (16, 2, 1), (32, 4, 1)]

/-! What a unit comes to, width by width. -/

theorem unpack_four_cons (a : Byte) (bs : Bytes) : unpack 4 (a :: bs) = a.toNat % 16 :: a.toNat / 16 :: unpack 4 bs := by
  delta unpack; rfl

theorem unpack_six_cons (a b c : Byte) (bs : Bytes) : unpack 6 (a :: b :: c :: bs) =
    (a.toNat + 256 * b.toNat + 65536 * c.toNat) % 64 :: (a.toNat + 256 * b.toNat + 65536 * c.toNat) / 64 % 64 ::
    (a.toNat + 256 * b.toNat + 65536 * c.toNat) / 4096 % 64 :: (a.toNat + 256 * b.toNat + 65536 * c.toNat) / 262144 ::
    unpack 6 bs := by
  delta unpack; rfl

theorem unpack_eight_cons (a : Byte) (bs : Bytes) : unpack 8 (a :: bs) = a.toNat :: unpack 8 bs := by
  delta unpack; rfl

theorem unpack_sixteen_cons (a b : Byte) (bs : Bytes) :
    unpack 16 (a :: b :: bs) = (a.toNat + 256 * b.toNat) :: unpack 16 bs := by
  delta unpack; rfl

theorem unpack_thirtytwo_cons (a b c d : Byte) (bs : Bytes) : unpack 32 (a :: b :: c :: d :: bs) =
    (a.toNat + 256 * b.toNat + 65536 * c.toNat + 16777216 * d.toNat) :: unpack 32 bs := by
  delta unpack; rfl

theorem pack_four_cons (a b : Nat) (ws : List Nat) : pack 4 (a :: b :: ws) = BitVec.ofNat 8 (a + 16 * b) :: pack 4 ws := by
  delta pack; rfl

theorem pack_six_cons (a b c d : Nat) (ws : List Nat) :
    pack 6 (a :: b :: c :: d :: ws) = leBytes 3 (a + 64 * b + 4096 * c + 262144 * d) ++ pack 6 ws := by
  delta pack; rfl

/-- Elements of whole bytes are packed in little-endian bytes (R9, R24). -/
theorem pack_cons_of_bytes {n : Nat} (h6 : n ≠ 6) (h4 : n ≠ 4) (a : Nat) (ws : List Nat) :
    pack n (a :: ws) = leBytes (n / 8) a ++ pack n ws := by
  delta pack; exact (if_neg h6).trans (if_neg h4)

@[simp] theorem unpack_nil (n : Nat) : unpack n [] = [] := rfl
@[simp] theorem pack_nil (n : Nat) : pack n [] = [] := rfl

/-! Whole units. -/

section
variable {n u v : Nat} (h : (n, u, v) ∈ packUnits)
include h

/-- The bytes of one unit hold its elements, apart from the bytes after them. -/
theorem unpack_unit_append (us bs : Bytes) (hu : us.length = u) :
    unpack n (us ++ bs) = unpack n us ++ unpack n bs ∧ (unpack n us).length = v := by
  simp only [packUnits, List.mem_cons, Prod.mk.injEq, List.not_mem_nil, or_false] at h
  rcases h with ⟨rfl, rfl, rfl⟩ | ⟨rfl, rfl, rfl⟩ | ⟨rfl, rfl, rfl⟩ | ⟨rfl, rfl, rfl⟩ | ⟨rfl, rfl, rfl⟩
  · obtain ⟨a, rfl⟩ := List.length_eq_one_iff.1 hu; simp [unpack_four_cons]
  · obtain ⟨a, b, c, rfl⟩ := List.length_eq_three.1 hu; simp [unpack_six_cons]
  · obtain ⟨a, rfl⟩ := List.length_eq_one_iff.1 hu; simp [unpack_eight_cons]
  · obtain ⟨a, b, rfl⟩ := List.length_eq_two.1 hu; simp [unpack_sixteen_cons]
  · obtain ⟨a, b, c, d, rfl⟩ := List.length_eq_four.1 hu; simp [unpack_thirtytwo_cons]

/-- The elements of one unit fill its bytes, apart from the elements after them. -/
theorem pack_unit_append (xs ws : List Nat) (hv : xs.length = v) :
    pack n (xs ++ ws) = pack n xs ++ pack n ws ∧ (pack n xs).length = u := by
  simp only [packUnits, List.mem_cons, Prod.mk.injEq, List.not_mem_nil, or_false] at h
  rcases h with ⟨rfl, rfl, rfl⟩ | ⟨rfl, rfl, rfl⟩ | ⟨rfl, rfl, rfl⟩ | ⟨rfl, rfl, rfl⟩ | ⟨rfl, rfl, rfl⟩
  · obtain ⟨a, b, rfl⟩ := List.length_eq_two.1 hv; simp [pack_four_cons]
  · obtain ⟨a, b, c, d, rfl⟩ := List.length_eq_four.1 hv; simp [pack_six_cons, leBytes_length]
  all_goals obtain ⟨a, rfl⟩ := List.length_eq_one_iff.1 hv; simp [pack_cons_of_bytes, leBytes_length]

/-- A unit that stands after `k` units gives the elements after those of the `k` units (R24). -/
theorem unpack_getElem?_of_drop {us rest : Bytes} (hu : us.length = u) {j : Nat} (hj : j < v) (k : Nat) (bs : Bytes)
    (hb : bs.drop (u * k) = us ++ rest) : (unpack n bs)[v * k + j]? = (unpack n us)[j]? := by
  induction k generalizing bs with
  | zero =>
    rw [Nat.mul_zero, List.drop_zero] at hb
    obtain ⟨he, hl⟩ := unpack_unit_append h us rest hu
    rw [hb, he, Nat.mul_zero, Nat.zero_add, List.getElem?_append_left (by omega)]
  | succ k ih =>
    have hlen := congrArg List.length hb
    rw [List.length_drop, List.length_append, hu] at hlen
    obtain ⟨he, hl⟩ := unpack_unit_append h (bs.take u) (bs.drop u) (by rw [List.length_take]; omega)
    rw [List.take_append_drop] at he
    rw [he, List.getElem?_append_right (by rw [hl, Nat.mul_succ]; omega), hl, ← ih (bs.drop u)]
    · rw [show v * (k + 1) + j - v = v * k + j by rw [Nat.mul_succ]; omega]
    · rw [List.drop_drop, Nat.add_comm u, ← Nat.mul_succ, hb]

/-- The elements of one unit read back from its bytes. -/
theorem unpack_pack_unit {xs : List Nat} (hv : xs.length = v) (hx : ∀ w ∈ xs, w < 2 ^ n) : unpack n (pack n xs) = xs := by
  simp only [packUnits, List.mem_cons, Prod.mk.injEq, List.not_mem_nil, or_false] at h
  rcases h with ⟨rfl, rfl, rfl⟩ | ⟨rfl, rfl, rfl⟩ | ⟨rfl, rfl, rfl⟩ | ⟨rfl, rfl, rfl⟩ | ⟨rfl, rfl, rfl⟩
  · obtain ⟨a, b, rfl⟩ := List.length_eq_two.1 hv
    simp only [List.forall_mem_cons] at hx
    simp [pack_four_cons, unpack_four_cons]
    omega
  · obtain ⟨a, b, c, d, rfl⟩ := List.length_eq_four.1 hv
    simp only [List.forall_mem_cons] at hx
    simp [pack_six_cons, unpack_six_cons, leBytes]
    omega
  all_goals
    obtain ⟨a, rfl⟩ := List.length_eq_one_iff.1 hv
    simp only [List.forall_mem_cons] at hx
    simp [pack_cons_of_bytes, unpack_eight_cons, unpack_sixteen_cons, unpack_thirtytwo_cons, leBytes]
    omega

/-- Any number of whole units of elements read back from the bytes that they are packed into. -/
theorem unpack_pack (k : Nat) (ws : List Nat) (hl : ws.length = v * k) (hw : ∀ w ∈ ws, w < 2 ^ n) :
    unpack n (pack n ws) = ws := by
  induction k generalizing ws with
  | zero =>
    rw [Nat.mul_zero, List.length_eq_zero_iff] at hl
    subst hl
    rfl
  | succ k ih =>
    rw [Nat.mul_succ] at hl
    have ht : (ws.take v).length = v := by rw [List.length_take]; omega
    obtain ⟨hp, hu⟩ := pack_unit_append h (ws.take v) (ws.drop v) ht
    obtain ⟨he, -⟩ := unpack_unit_append h _ (pack n (ws.drop v)) hu
    rw [List.take_append_drop] at hp
    rw [hp, he, unpack_pack_unit h ht fun w hm => hw w (List.mem_of_mem_take hm),
      ih (ws.drop v) (by rw [List.length_drop]; omega) fun w hm => hw w (List.mem_of_mem_drop hm),
      List.take_append_drop]

end

/-- A list from a place on is the element there and the list after it. -/
theorem drop_of_getElem? {bs : Bytes} {i : Nat} {a : Byte} (h : bs[i]? = some a) : bs.drop i = a :: bs.drop (i + 1) := by
  rw [List.drop_eq_getElem?_toList_append, h]
  rfl

/-- Settles O57: a packing unit after `k` units holds the elements after theirs. -/
theorem elementsArePackedInOrder : Obligations.ElementsArePackedInOrder := by
  intro bs k j a b c d
  refine ⟨fun ha => ?_, fun ha hb => ?_, fun ha hb hc hd => ?_, fun ha hb hc hj => ?_, fun n ws hn hw h4 h6 => ?_⟩
  · have hdrop : bs.drop (1 * k) = [a] ++ bs.drop (k + 1) := by rw [Nat.one_mul]; exact drop_of_getElem? ha
    refine ⟨unpack_getElem?_of_drop (n := 4) (u := 1) (v := 2) (by decide) rfl (j := 0) (by decide) k bs hdrop,
      unpack_getElem?_of_drop (n := 4) (u := 1) (v := 2) (by decide) rfl (j := 1) (by decide) k bs hdrop, ?_⟩
    simpa [unpack_eight_cons] using
      unpack_getElem?_of_drop (n := 8) (u := 1) (v := 1) (by decide) rfl (j := 0) (by decide) k bs hdrop
  · have hdrop : bs.drop (2 * k) = [a, b] ++ bs.drop (2 * k + 2) := by
      rw [drop_of_getElem? ha, drop_of_getElem? hb]; rfl
    simpa [unpack_sixteen_cons] using
      unpack_getElem?_of_drop (n := 16) (u := 2) (v := 1) (by decide) rfl (j := 0) (by decide) k bs hdrop
  · have hdrop : bs.drop (4 * k) = [a, b, c, d] ++ bs.drop (4 * k + 4) := by
      rw [drop_of_getElem? ha, drop_of_getElem? hb, drop_of_getElem? hc, drop_of_getElem? hd]; rfl
    simpa [unpack_thirtytwo_cons] using
      unpack_getElem?_of_drop (n := 32) (u := 4) (v := 1) (by decide) rfl (j := 0) (by decide) k bs hdrop
  · have hdrop : bs.drop (3 * k) = [a, b, c] ++ bs.drop (3 * k + 3) := by
      rw [drop_of_getElem? ha, drop_of_getElem? hb, drop_of_getElem? hc]; rfl
    rw [unpack_getElem?_of_drop (n := 6) (u := 3) (v := 4) (by decide) rfl hj k bs hdrop]
    interval_cases j <;> simp [unpack_six_cons]
    omega
  · rcases hn with rfl | rfl | rfl | rfl | rfl
    · exact unpack_pack (u := 1) (v := 2) (by decide) (ws.length / 2) ws (by have := h4 rfl; omega) hw
    · exact unpack_pack (u := 3) (v := 4) (by decide) (ws.length / 4) ws (by have := h6 rfl; omega) hw
    · exact unpack_pack (u := 1) (v := 1) (by decide) ws.length ws (by omega) hw
    · exact unpack_pack (u := 2) (v := 1) (by decide) ws.length ws (by omega) hw
    · exact unpack_pack (u := 4) (v := 1) (by decide) ws.length ws (by omega) hw

end Sys2Proof.Machine
end

section
/-! SUPPORT. Elements of MX blocks: O58. -/

namespace Sys2Proof.Machine

/-- The MX formats have no encoding for an infinity or a NaN (Table 02.2). -/
theorem special_of_mx {f : Fmt} {g : FloatFmt} (hm : fmtIsMx f = true) (hf : floatFmt f = some g) : g.special = .none := by
  cases f with
  | e3m2 => cases hf; rfl
  | e2m3 => cases hf; rfl
  | e2m1 => cases hf; rfl
  | fp32 | fp16 | bf16 | e4m3 | e5m2 | int8 | int4 | int32 => exact absurd hm (by decide)

/-- Every encoding of such a format is a number. -/
theorem decodeFloat_of_none {g : FloatFmt} (h : g.special = .none) (w : Nat) :
    ∃ neg m e, decodeFloat g w = .fin neg m e := by
  unfold decodeFloat
  dsimp only
  rw [if_neg (by simp [h]), if_neg (by simp [h])]
  split
  · exact ⟨_, _, _, rfl⟩
  · exact ⟨_, _, _, rfl⟩

/-- Without FTZ the elements of a list have their own values, and nothing is counted (R41). -/
theorem decodeList_of_not_ftz {f : Fmt} {g : FloatFmt} (h : floatFmt f = some g) (ws : List Nat) (t : Tally) :
    decodeList f false ws t = (ws.map (decodeFloat g), t) := by
  induction ws with
  | nil => rfl
  | cons w ws ih => simp [decodeList, decodeFtz, h, ih]

/-- A block with the scale byte 0xFF (R26). -/
theorem decodeBlock_of_nan (f : Fmt) (ftz : Bool) (ws : List Nat) (t : Tally) :
    decodeBlock f ftz 0xFF ws t = (ws.map (fun _ => Val.canonNan), t) := rfl

/-- A block with any other scale byte, without FTZ (R26). -/
theorem decodeBlock_of_scale {f : Fmt} {g : FloatFmt} {x : Byte} (h : floatFmt f = some g) (hx : x ≠ 0xFF) (ws : List Nat)
    (t : Tally) : decodeBlock f false x ws t = (ws.map (fun w => scalePow2 ((x.toNat : Int) - 127) (decodeFloat g w)), t) := by
  have hk : mxScale x = some ((x.toNat : Int) - 127) := if_neg hx
  simp [decodeBlock, hk, decodeList_of_not_ftz h]

/-- Settles O58, by the scale byte. -/
theorem mxElementValues : Obligations.MxElementValues := by
  intro f g x ws t i w hm hf hi _
  by_cases hx : x = 0xFF
  · subst hx
    rw [decodeBlock_of_nan]
    exact ⟨List.length_map _, rfl, fun _ => ⟨Val.canonNan, by rw [List.getElem?_map, hi]; rfl, rfl⟩,
      fun h => absurd rfl h⟩
  · rw [decodeBlock_of_scale hf hx]
    obtain ⟨neg, m, e, hd⟩ := decodeFloat_of_none (special_of_mx hm hf) w
    exact ⟨List.length_map _, rfl, fun h => absurd h hx, fun _ => ⟨neg, m, e, hd, by
      rw [List.getElem?_map, hi, Option.map_some, hd]; rfl⟩⟩

end Sys2Proof.Machine
end

section
/-! SUPPORT. Binary64 instructions: O11. -/

namespace Sys2Proof.Machine
open Claims

/-! Encodings that read back. -/

/-- The fields of an encoding: a sign bit above `B` values of the exponent, above `M` values of the mantissa. -/
theorem fields_of_encoding {M B r e : Nat} (b : Nat) (hr : r < M) (he : e < B) :
    (b * (M * B) + e * M + r) % M = r ∧ (b * (M * B) + e * M + r) / M % B = e ∧
      (b * (M * B) + e * M + r) / (M * B) = b := by
  have hx : b * (M * B) + e * M + r = r + M * (e + B * b) := by ring
  have hd : (r + M * (e + B * b)) / M = e + B * b := by
    rw [Nat.add_mul_div_left _ _ (by omega), Nat.div_eq_of_lt hr, Nat.zero_add]
  rw [hx, Nat.add_mul_mod_self_left, Nat.mod_eq_of_lt hr, ← Nat.div_div_eq_div_mul, hd, Nat.add_mul_mod_self_left,
    Nat.mod_eq_of_lt he, Nat.add_mul_div_left _ _ (by omega), Nat.div_eq_of_lt he, Nat.zero_add]
  exact ⟨rfl, rfl, rfl⟩

/-- The encoding of a normal number (R25): its sign, its exponent with the bias, and its mantissa without the leading one. -/
theorem encodeFloat_of_normal (f : FloatFmt) (neg : Bool) {k : Nat} {q : Int} (hlo : 2 ^ f.mbits ≤ k)
    (hhi : k < 2 ^ (f.mbits + 1)) (hmin : 0 < q + f.mbits + f.bias) :
    encodeFloat f (.fin neg k q) = neg.toNat * (2 ^ f.mbits * 2 ^ f.ebits) + (q + f.mbits + f.bias).toNat * 2 ^ f.mbits +
      (k - 2 ^ f.mbits) := by
  have hk : k ≠ 0 := by have := Nat.two_pow_pos f.mbits; omega
  have hlog : Nat.log2 k = f.mbits := (Nat.log2_eq_iff hk).2 ⟨hlo, hhi⟩
  have hq : max (leadExp k q) (1 - (f.bias : Int)) - f.mbits = q := by unfold leadExp; rw [hlog]; omega
  simp only [encodeFloat, if_neg hk, hq, ge_iff_le, le_refl, if_true, Int.sub_self, Int.toNat_zero, Nat.pow_zero, Nat.mul_one,
    if_neg (Nat.not_lt.2 hlo), ← Nat.pow_add]
  cases neg <;> simp

/-- A normal number reads back from its encoding (R25). -/
theorem decodeFloat_encodeFloat (f : FloatFmt) (neg : Bool) {k : Nat} {q : Int} (hlo : 2 ^ f.mbits ≤ k)
    (hhi : k < 2 ^ (f.mbits + 1)) (hmin : 0 < q + f.mbits + f.bias)
    (hmax : (q + f.mbits + f.bias).toNat < 2 ^ f.ebits - 1) :
    decodeFloat f (encodeFloat f (.fin neg k q)) = .fin neg k q := by
  rw [Nat.pow_succ] at hhi
  obtain ⟨hm, he, hs⟩ := fields_of_encoding (M := 2 ^ f.mbits) (B := 2 ^ f.ebits) (r := k - 2 ^ f.mbits) neg.toNat
    (by omega) (Nat.lt_of_lt_of_le hmax (Nat.sub_le _ _))
  rw [encodeFloat_of_normal f neg hlo (by rw [Nat.pow_succ]; exact hhi) hmin]
  simp only [decodeFloat, Nat.pow_add, hm, he, hs]
  rw [if_neg (by omega), if_neg (by omega), if_neg (by omega), Nat.sub_add_cancel hlo]
  congr 1
  · cases neg <;> rfl
  · omega

/-- An encoding of binary64 has 64 bits. -/
theorem encodeFloat_lt_of_normal (neg : Bool) {k : Nat} {q : Int} (hlo : 2 ^ 52 ≤ k) (hhi : k < 2 ^ 53)
    (hmin : -1074 < q) (hmax : q < 971) : encodeFloat fpD (.fin neg k q) < 2 ^ 64 := by
  have he : (q + fpD.mbits + fpD.bias).toNat ≤ 2045 := by simp only [fpD]; omega
  rw [encodeFloat_of_normal fpD neg hlo hhi (by simp only [fpD]; omega)]
  have hs : neg.toNat ≤ 1 := by cases neg <;> decide
  simp only [fpD] at he ⊢
  omega

/-- A normal number of binary64 reads back from its bits. -/
theorem valOfF64_f64OfVal (neg : Bool) {k : Nat} {q : Int} (hlo : 2 ^ 52 ≤ k) (hhi : k < 2 ^ 53)
    (hmin : -1074 < q) (hmax : q < 971) : valOfF64 (f64OfVal (.fin neg k q)) = .fin neg k q := by
  unfold valOfF64 f64OfVal
  rw [BitVec.toNat_ofNat, Nat.mod_eq_of_lt (encodeFloat_lt_of_normal neg hlo hhi hmin hmax)]
  exact decodeFloat_encodeFloat fpD neg hlo hhi (by simp only [fpD]; omega) (by simp only [fpD]; omega)

/-! Integers of at most 53 bits are exact. -/

/-- A whole number below 2^53 shifted left to 53 bits. -/
theorem shifted_bounds {m : Nat} (h0 : m ≠ 0) (h : m < 2 ^ 53) :
    Nat.log2 m ≤ 52 ∧ 2 ^ 52 ≤ m * 2 ^ (52 - Nat.log2 m) ∧ m * 2 ^ (52 - Nat.log2 m) < 2 ^ 53 := by
  have hl : Nat.log2 m < 53 := (Nat.log2_lt h0).2 h
  refine ⟨by omega, ?_, ?_⟩
  · calc 2 ^ 52 = 2 ^ Nat.log2 m * 2 ^ (52 - Nat.log2 m) := by rw [← Nat.pow_add]; congr 1; omega
      _ ≤ _ := Nat.mul_le_mul_right _ (Nat.log2_self_le h0)
  · calc m * 2 ^ (52 - Nat.log2 m) < 2 ^ (Nat.log2 m + 1) * 2 ^ (52 - Nat.log2 m) :=
        Nat.mul_lt_mul_of_pos_right Nat.lt_log2_self (Nat.two_pow_pos _)
      _ = 2 ^ 53 := by rw [← Nat.pow_add]; congr 1; omega

/-- A whole number below 2^53 is a value of binary64, with 53 bits of mantissa. -/
theorem roundVal_of_whole (c : RCtx) (hc : c.ftz = false) (neg : Bool) {m : Nat} (h0 : m ≠ 0) (h : m < 2 ^ 53) (t : Tally) :
    roundVal fpD c (.fin neg m 0) t = (.fin neg (m * 2 ^ (52 - Nat.log2 m)) ((Nat.log2 m : Int) - 52), t) := by
  obtain ⟨hl, hlo, hhi⟩ := shifted_bounds h0 h
  have hq : max (leadExp m 0) (1 - (fpD.bias : Int)) - fpD.mbits = (Nat.log2 m : Int) - 52 := by
    simp only [leadExp, fpD]; omega
  have hr : roundQuantum c.rnd neg m 0 ((Nat.log2 m : Int) - 52) t = (m * 2 ^ (52 - Nat.log2 m), t) := by
    unfold roundQuantum
    rw [if_pos (by omega), show (0 - ((Nat.log2 m : Int) - 52)).toNat = 52 - Nat.log2 m by omega]
  have hg : magGt (m * 2 ^ (52 - Nat.log2 m)) ((Nat.log2 m : Int) - 52) (maxFinite fpD).1 (maxFinite fpD).2 = false := by
    have hmax : maxFinite fpD = (2 ^ 53 - 1, 971) := by simp [maxFinite, fpD]
    rw [hmax, magGt, if_neg (by omega), decide_eq_false_iff_not, Nat.not_lt]
    exact Nat.le_trans (Nat.le_sub_one_of_lt hhi) (Nat.le_mul_of_pos_right _ (Nat.two_pow_pos _))
  have hk : m * 2 ^ (52 - Nat.log2 m) ≠ 0 := by omega
  simp [roundVal, h0, hq, hr, hg, hk, hc]

/-- Two numbers are equal whose signed mantissas are, at the lower of their exponents (R35). -/
theorem eqVal_fin_shift (neg : Bool) (m n : Nat) {e : Int} (he : e ≤ 0) (hn : n = m * 2 ^ (-e).toNat) :
    eqVal (.fin neg n e) (.fin neg m 0) = true := by
  have hc : cmpVal (.fin neg n e) (.fin neg m 0) = 0 := by
    simp [cmpVal, alignTo, Val.expOf, hn, Int.min_eq_left he]
  simp [eqVal, Val.isNan, hc]

/-- The conversion of an integer of magnitude below 2^53 is exact (R62). -/
theorem eqVal_f64_of_int {k : Int} (h : k.natAbs < 2 ^ 53) (c : RCtx) (hc : c.ftz = false) (t : Tally) :
    eqVal (valOfF64 (f64OfVal (roundVal fpD c (Val.ofInt k) t).1)) (Val.ofInt k) = true := by
  by_cases h0 : k.natAbs = 0
  · rw [Int.natAbs_eq_zero] at h0
    subst h0
    have hr : (roundVal fpD c (Val.ofInt 0) t).1 = Val.zero false := by simp [roundVal, Val.ofInt]
    have hz : valOfF64 (f64OfVal (Val.zero false)) = .fin false 0 (-1074) := by decide
    rw [hr, hz]
    exact eqVal_fin_shift false 0 0 (by omega) (Nat.zero_mul _).symm
  · obtain ⟨hl, hlo, hhi⟩ := shifted_bounds h0 h
    rw [Val.ofInt, roundVal_of_whole c hc _ h0 h, valOfF64_f64OfVal _ hlo hhi (by omega) (by omega)]
    exact eqVal_fin_shift _ _ _ (by omega) (by congr 2; omega)

/-! The instructions. -/

/-- An instruction that rounds issues under a mode that exists, once its registers and, for SR, the LFSR are free (R40, R64):
its own rule acts on the state that it sees. -/
theorem fpRound_of_ready {t : Thread} {rd : Reg} {srcs : List Reg} {rnd : BitVec 3} {m : Rnd} {f : Rnd → State → State}
    {s : State} (h : ready t 1 s) (hm : rndOfCode rnd = some m) (hf : free t (rd :: srcs) (seen t 1 s))
    (hs : m = .sr → srBusy t (seen t 1 s) = false) :
    Host.Outcome.next (fpRound t rd srcs rnd f s) = goesOn t 1 s (f m (seen t 1 s)) := by
  have hf' : regsHeld t (rd :: srcs) (seen t 1 s) = false := hf
  have hb : (decide (m = .sr) && srBusy t (seen t 1 s)) = false := by
    by_cases e : m = .sr <;> simp [e, hs]
  unfold fpRound goesOn
  rw [issue_of_ready h]
  simp only [hm, hf', hb, Bool.false_eq_true, if_false]

/-- The magnitude of a 32-bit integer. -/
theorem natAbs_toInt_lt (w : Word32) : w.toInt.natAbs < 2 ^ 53 := by
  have h1 := BitVec.toInt_lt (x := w)
  have h2 := BitVec.le_toInt w
  omega

/-- No comparison holds with a NaN (R35). -/
theorem compare_nan {a b : Val} (h : a.isNan = true ∨ b.isNan = true) :
    eqVal a b = false ∧ ltVal a b = false ∧ leVal a b = false := by
  rcases h with h | h <;> simp [eqVal, ltVal, leVal, h]

/-- Settles O11: each instruction is one rule on the state that it sees; an integer of 32 bits needs no rounding. -/
theorem binarySixtyFourResults : Obligations.BinarySixtyFourResults := by
  refine ⟨fun t rd r1 r2 r3 rnd m s h => ?_, fun t rd r1 r2 num s h hf => ?_⟩
  · intro v hm hf hs a b c t0 put real whole
    have free2 : free t [rd, r1, r2] v := free_of_subset hf (by simp)
    have free1 : free t [rd, r1] v := free_of_subset hf (by simp)
    exact ⟨fpRound_of_ready h hm free2 hs, fpRound_of_ready h hm free2 hs, fpRound_of_ready h hm free2 hs,
      fpRound_of_ready h hm free2 hs, fpRound_of_ready h hm hf hs, fpRound_of_ready h hm free1 hs,
      fpRound_of_ready h hm free1 hs, fpRound_of_ready h hm free1 hs, fpRound_of_ready h hm free1 hs⟩
  · intro a b bit
    have free1 : free t [rd, r1] (seen t 1 s) := free_of_subset hf (by simp)
    exact ⟨scalarWrite_of_ready h hf, scalarWrite_of_ready h hf, scalarWrite_of_ready h hf, scalarWrite_of_ready h hf,
      scalarWrite_of_ready h hf, scalarWrite_of_ready h hf, compare_nan, _, scalarWrite_of_ready h free1, _,
      eqVal_f64_of_int (natAbs_toInt_lt _) _ rfl _, rfl⟩

end Sys2Proof.Machine
end

section
/-! SUPPORT. Commits of numeric events: O42. -/

namespace Sys2Proof.Machine

/-! What the memories of a commit leave alone. -/

/-- What numeric events are counted in: the threads, the counters and the AMAX registers. -/
def numericState (s : State) : ThreadState × ThreadState × Sparse Nat × Sparse Word32 := (s.ta, s.tx, s.counters, s.amax)

@[simp] theorem numericState_sdmWrite (a : Nat) (bs : Bytes) (s : State) :
    numericState (sdmWrite a bs s) = numericState s := rfl

@[simp] theorem numericState_queueMoved (s : State) : numericState (queueMoved s) = numericState s := rfl

@[simp] theorem numericState_setQueue (q : Nat) (l : List QEntry) (s : State) :
    numericState (setQueue q l s) = numericState s := rfl

@[simp] theorem numericState_removePopped (fid : Nat) (s : State) : numericState (removePopped fid s) = numericState s := by
  unfold removePopped
  dsimp only
  split <;> rfl

@[simp] theorem numericState_fillToken (fid : Nat) (v : Word64) (s : State) :
    numericState (fillToken fid v s) = numericState s := rfl

@[simp] theorem numericState_writeTile (w : TileWrite) (s : State) : numericState (writeTile w s) = numericState s := rfl

@[simp] theorem numericState_writeRow (p : Nat) (bs : Bytes) (s : State) :
    numericState (writeRow p bs s) = numericState s := rfl

/-- What every operation of a fold keeps, the fold keeps. -/
theorem foldl_keeps {α β : Type} (g : State → β) (f : State → α → State) (h : ∀ s a, g (f s a) = g s) (l : List α)
    (s : State) : g (l.foldl f s) = g s := by
  induction l generalizing s with
  | nil => rfl
  | cons a l ih => rw [List.foldl_cons, ih, h]

theorem numericState_foldl {α : Type} (f : State → α → State) (h : ∀ s a, numericState (f s a) = numericState s)
    (l : List α) (s : State) : numericState (l.foldl f s) = numericState s := foldl_keeps numericState f h l s

@[simp] theorem numericState_writeTiles (ws : List TileWrite) (s : State) :
    numericState (writeTiles ws s) = numericState s := numericState_foldl _ (fun s w => numericState_writeTile w s) ws s

theorem getThread_of_numericState {s s' : State} (h : numericState s' = numericState s) (t : Thread) :
    getThread t s' = getThread t s := by
  cases t with
  | ta => exact congrArg (fun x => x.1) h
  | tx => exact congrArg (fun x => x.2.1) h

theorem counters_of_numericState {s s' : State} (h : numericState s' = numericState s) : s'.counters = s.counters :=
  congrArg (fun x => x.2.2.1) h

theorem amax_of_numericState {s s' : State} (h : numericState s' = numericState s) : s'.amax = s.amax :=
  congrArg (fun x => x.2.2.2) h

/-! The parts of a commit (R44). -/

/-- SDM and the registers that a completing instruction commits. -/
def commitRegs (f : Flight) (s : State) : State :=
  f.commit.regs.foldl (fun s p => setSreg f.thread p.1 p.2 s) (f.commit.sdm.foldl (fun s p => sdmWrite p.1 p.2 s) s)

/-- The token that it commits. -/
def commitToken (f : Flight) (s : State) : State :=
  match f.commit.token with
  | some v => fillToken f.id v s
  | none => s

/-- The accumulators that it commits. -/
def commitAcc (f : Flight) (s : State) : State :=
  { s with mx := { s.mx with
      acc := f.commit.acc.foldl (fun (m : Sparse Word32) (p : Nat × Word32) => Sparse.set 0 m p.1 p.2) s.mx.acc } }

/-- The types of the accumulators that it commits. -/
def commitAccTypes (f : Flight) (s : State) : State :=
  match f.commit.accInt with
  | some (m, b) => { s with mx := { s.mx with intTypes := if b then s.mx.intTypes ||| m else s.mx.intTypes &&& ~~~m } }
  | none => s

/-- Queues, tiles, accumulators and rows that it commits. -/
def commitStores (f : Flight) (s : State) : State :=
  f.commit.rows.foldl (fun s p => writeRow p.1 p.2 s)
    (commitAccTypes f (commitAcc f (writeTiles f.commit.tiles (commitToken f (removePopped f.id
      (f.commit.push.foldl (fun s p => queueMoved (setQueue p.1 (fillRows f.id p.2 (queueEntries s p.1)) s)) s))))))

/-- The AMAX register that it commits. -/
def commitAmaxReg (f : Flight) (s : State) : State :=
  match f.commit.amax with
  | some (r, b, v) => commitAmax r b v s
  | none => s

/-- The LFSR that it commits. -/
def commitLfsr (f : Flight) (s : State) : State :=
  match f.commit.lfsr with
  | some l => modThread f.thread (fun th => { th with lfsr := l }) s
  | none => s

/-- The AMAX register, LFSR, counters and events that it commits. -/
def commitStatus (f : Flight) (s : State) : State :=
  f.commit.events.foldl (fun s p => logEvent p.1 p.2.toNat s)
    (f.commit.counters.foldl (fun s p => bump p.1 p.2 s) (commitLfsr f (commitAmaxReg f s)))

/-- The commit of a tensor instruction, part by part. -/
theorem commitAll_of_tensor {f : Flight} (h : f.tensor = true) (s : State) :
    commitAll f s = commitStatus f (commitNstat f.thread f.snap.first f.commit.nstat (commitStores f (commitRegs f s))) := by
  unfold commitAll
  simp only [h, if_true]
  rfl

@[simp] theorem numericState_commitToken (f : Flight) (s : State) : numericState (commitToken f s) = numericState s := by
  unfold commitToken
  split <;> rfl

@[simp] theorem numericState_commitAcc (f : Flight) (s : State) : numericState (commitAcc f s) = numericState s := rfl

@[simp] theorem numericState_commitAccTypes (f : Flight) (s : State) :
    numericState (commitAccTypes f s) = numericState s := by
  unfold commitAccTypes
  split <;> rfl

/-- The queues, tiles, accumulators and rows hold nothing that numeric events are counted in. -/
theorem numericState_commitStores (f : Flight) (s : State) : numericState (commitStores f s) = numericState s := by
  unfold commitStores
  rw [numericState_foldl _ (fun s (p : Nat × Bytes) => numericState_writeRow p.1 p.2 s), numericState_commitAccTypes,
    numericState_commitAcc, numericState_writeTiles, numericState_commitToken, numericState_removePopped,
    numericState_foldl _ (fun s (p : Nat × List Bytes) => (numericState_queueMoved _).trans (numericState_setQueue _ _ s))]

/-! Threads and registers. -/

theorem getThread_bump (u : Thread) (a n : Nat) (s : State) : getThread u (bump a n s) = getThread u s := by cases u <;> rfl

theorem getThread_logEvent (u : Thread) (code : BitVec 12) (d : Nat) (s : State) :
    getThread u (logEvent code d s) = getThread u s := by
  cases u <;> simp [getThread]

/-- A write to a register leaves both threads' NSTAT and the number of its instruction alone. -/
theorem nstat_setSreg (t u : Thread) (r : Reg) (v : Word64) (s : State) :
    (getThread u (setSreg t r v s)).nstat = (getThread u s).nstat ∧
      (getThread u (setSreg t r v s)).nstatBy = (getThread u s).nstatBy := by
  by_cases hu : u = t
  · subst hu
    obtain ⟨m, e⟩ := getThread_setSreg u r v s
    rw [e]
    exact ⟨rfl, rfl⟩
  · rw [setSreg, getThread_modThread_ne _ _ hu]
    exact ⟨rfl, rfl⟩

/-- The state before the registers are written. -/
theorem numericState_commitSdm (f : Flight) (s : State) :
    numericState (f.commit.sdm.foldl (fun s p => sdmWrite p.1 p.2 s) s) = numericState s :=
  numericState_foldl _ (fun s (p : Nat × Bytes) => numericState_sdmWrite p.1 p.2 s) _ s

theorem nstat_commitRegs (f : Flight) (u : Thread) (s : State) :
    (getThread u (commitRegs f s)).nstat = (getThread u s).nstat ∧
      (getThread u (commitRegs f s)).nstatBy = (getThread u s).nstatBy := by
  unfold commitRegs
  rw [← getThread_of_numericState (numericState_commitSdm f s) u]
  have hreg (s : State) (p : Reg × Word64) := nstat_setSreg f.thread u p.1 p.2 s
  exact ⟨foldl_keeps (fun s => (getThread u s).nstat) _ (fun s p => (hreg s p).1) _ _,
    foldl_keeps (fun s => (getThread u s).nstatBy) _ (fun s p => (hreg s p).2) _ _⟩

theorem counters_commitRegs (f : Flight) (s : State) : (commitRegs f s).counters = s.counters := by
  unfold commitRegs
  rw [← counters_of_numericState (numericState_commitSdm f s)]
  exact foldl_keeps (fun s => s.counters) _ (fun s p => by simp [setSreg]) _ _

theorem amax_commitRegs (f : Flight) (s : State) : (commitRegs f s).amax = s.amax := by
  unfold commitRegs
  rw [← amax_of_numericState (numericState_commitSdm f s)]
  exact foldl_keeps (fun s => s.amax) _ (fun s p => by simp [setSreg]) _ _

/-- The only register of a commit reads what was committed. -/
theorem sreg_commitRegs {f : Flight} {s : State} {r : Reg} {v : Word64} (h : f.commit.regs = [(r, v)])
    (hw : Claims.threadsWellFormed s) : sreg f.thread r (commitRegs f s) = if r = 0 then 0 else v := by
  obtain ⟨-, hregs, -⟩ := ((threadsWellFormed_iff s).1 hw).1 f.thread
  rw [← getThread_of_numericState (numericState_commitSdm f s)] at hregs
  simp only [commitRegs, h, List.foldl_cons, List.foldl_nil, sreg_setSreg _ _ _ _ _ _ hregs, true_and]
  by_cases hr : r = 0
  · subst hr; rw [sreg_zero, if_pos rfl]; exact if_neg (fun h => h rfl)
  · rw [if_pos hr, if_neg hr]

/-! NSTAT and the cumulative counters (R44 to R46). -/

theorem getThread_commitNstat (t u : Thread) (first : Nat) (n : Nstat) (s : State) :
    getThread u (commitNstat t first n s) = getThread u (modThread t (fun th =>
      if first < th.nstatBy then th else { th with nstat := n, nstatBy := first }) s) := by
  simp only [commitNstat, getThread_bump]

/-- NSTAT of the thread: a later instruction's counts stay (R45). -/
theorem nstat_commitNstat_self (t : Thread) (first : Nat) (n : Nstat) (s : State) :
    (getThread t (commitNstat t first n s)).nstat = if first < (getThread t s).nstatBy then (getThread t s).nstat else n := by
  rw [getThread_commitNstat, getThread_modThread_self]
  split <;> rfl

theorem getThread_commitNstat_other (t : Thread) (first : Nat) (n : Nstat) (s : State) :
    getThread (otherThread t) (commitNstat t first n s) = getThread (otherThread t) s := by
  rw [getThread_commitNstat, getThread_modThread_other]

theorem sreg_commitNstat (t u : Thread) (r : Reg) (first : Nat) (n : Nstat) (s : State) :
    sreg u r (commitNstat t first n s) = sreg u r s :=
  (sreg_congr u r (congrArg ThreadState.regs (getThread_commitNstat t u first n s))).trans
    (sreg_modThread t u r _ s (by split <;> rfl))

theorem amax_commitNstat (t : Thread) (first : Nat) (n : Nstat) (s : State) : (commitNstat t first n s).amax = s.amax := by
  simp [commitNstat]

/-- A counter of a canonical table after counting, whatever is counted (R407). -/
theorem counter_bump_of_wf (a n : Nat) {s : State} (h : Sparse.wf 0 s.counters = true) :
    counter (bump a n s) a = min (2 ^ 48 - 1) (counter s a + n) := Sparse.get_set_self 0 _ _ _ h

/-- Counting keeps the canonical form of the counters. -/
theorem wf_counters_bump (a n : Nat) {s : State} (h : Sparse.wf 0 s.counters = true) :
    Sparse.wf 0 (bump a n s).counters = true := Sparse.wf_set 0 _ _ _ h

/-- Of three counters that are counted in turn, the first. -/
theorem counter_bump_three (a x y z : Nat) {s : State} (h : Sparse.wf 0 s.counters = true) :
    counter (bump (a + 4) z (bump (a + 2) y (bump a x s))) a = min (2 ^ 48 - 1) (counter s a + x) := by
  have hx := wf_counters_bump a x h
  rw [counter_bump_ne _ _ _ (wf_counters_bump _ _ hx) (by omega), counter_bump_ne _ _ _ hx (by omega),
    counter_bump_of_wf _ _ h]

/-- NSAT_TOTAL counts the saturations of the instruction (R46). -/
theorem nsat_commitNstat (t : Thread) (first : Nat) (n : Nstat) {s : State} (h : Sparse.wf 0 s.counters = true) :
    counter (commitNstat t first n s) (cntNsat t) = min (2 ^ 48 - 1) (counter s (cntNsat t) + n.nsat.toNat) := by
  unfold commitNstat
  rw [counter_bump_three _ _ _ _ (by simpa using h)]
  simp [counter]

/-! AMAX, the LFSR and the events. -/

theorem getThread_commitAmaxReg (u : Thread) (f : Flight) (s : State) : getThread u (commitAmaxReg f s) = getThread u s := by
  unfold commitAmaxReg
  split
  · cases u <;> rfl
  · rfl

/-- The commit of an LFSR leaves NSTAT and the registers alone (R40). -/
theorem getThread_commitLfsr (u : Thread) (f : Flight) (s : State) :
    (getThread u (commitLfsr f s)).nstat = (getThread u s).nstat ∧
      (getThread u (commitLfsr f s)).regs = (getThread u s).regs := by
  unfold commitLfsr
  split
  · by_cases hu : u = f.thread
    · subst hu
      rw [getThread_modThread_self]
      exact ⟨rfl, rfl⟩
    · rw [getThread_modThread_ne _ _ hu]
      exact ⟨rfl, rfl⟩
  · exact ⟨rfl, rfl⟩

/-- This part of a commit leaves NSTAT and the registers alone. -/
theorem getThread_commitStatus (u : Thread) (f : Flight) (s : State) :
    (getThread u (commitStatus f s)).nstat = (getThread u s).nstat ∧
      (getThread u (commitStatus f s)).regs = (getThread u s).regs := by
  unfold commitStatus
  rw [foldl_keeps (getThread u) _ (fun s (p : BitVec 12 × BitVec 48) => getThread_logEvent u p.1 p.2.toNat s),
    foldl_keeps (getThread u) _ (fun s (p : Nat × Nat) => getThread_bump u p.1 p.2 s), ← getThread_commitAmaxReg u f s]
  exact getThread_commitLfsr u f _

/-- A commit that counts and logs nothing of its own leaves the counters as NSTAT's commit left them. -/
theorem counters_commitStatus {f : Flight} (hc : f.commit.counters = []) (he : f.commit.events = []) (s : State) :
    (commitStatus f s).counters = s.counters := by
  have ha : (commitAmaxReg f s).counters = s.counters := by unfold commitAmaxReg; split <;> rfl
  have hl : (commitLfsr f (commitAmaxReg f s)).counters = (commitAmaxReg f s).counters := by
    unfold commitLfsr
    split
    · simp
    · rfl
  simp only [commitStatus, hc, he, List.foldl_nil, hl, ha]

/-- The AMAX registers after a commit that has one (R48). -/
theorem amax_commitStatus {f : Flight} {r : BitVec 3} {b : Bool} {v : Word32} (h : f.commit.amax = some (r, b, v))
    (s : State) : (commitStatus f s).amax = (commitAmax r b v s).amax := by
  have ha : commitAmaxReg f s = commitAmax r b v s := by simp only [commitAmaxReg, h]
  have hl : (commitLfsr f (commitAmaxReg f s)).amax = (commitAmaxReg f s).amax := by
    unfold commitLfsr
    split
    · simp
    · rfl
  unfold commitStatus
  rw [foldl_keeps (fun s => s.amax) _ (fun s p => by simp), foldl_keeps (fun s => s.amax) _ (fun s p => by simp), hl, ha]

/-- An AMAX register after a commit depends on the AMAX registers before it alone. -/
theorem amax_commitAmax_congr {s s' : State} (h : s'.amax = s.amax) (r : BitVec 3) (b : Bool) (v : Word32) :
    (commitAmax r b v s').amax = (commitAmax r b v s).amax := by
  unfold commitAmax
  rw [h]

/-- Settles O42: the parts of a commit before NSTAT's leave the counts alone, and those after it the threads' NSTAT and
registers. -/
theorem commitsCountNumericEvents : Obligations.CommitsCountNumericEvents := by
  intro f s ht hc hm hw s' th
  have hs : s' = commitStatus f (commitNstat f.thread f.snap.first f.commit.nstat (commitStores f (commitRegs f s))) :=
    commitAll_of_tensor ht s
  have hst := numericState_commitStores f (commitRegs f s)
  have hcnt : (commitStores f (commitRegs f s)).counters = s.counters :=
    (counters_of_numericState hst).trans (counters_commitRegs f s)
  have hamax : (commitStores f (commitRegs f s)).amax = s.amax := (amax_of_numericState hst).trans (amax_commitRegs f s)
  rw [hs]
  refine ⟨?_, ?_, fun he => ?_, fun r v hr => ?_, fun r b v ha => ?_⟩
  · obtain ⟨hn, hb⟩ := nstat_commitRegs f f.thread s
    rw [(getThread_commitStatus f.thread f _).1, nstat_commitNstat_self, getThread_of_numericState hst, hn, hb]
  · rw [(getThread_commitStatus (otherThread f.thread) f _).1, getThread_commitNstat_other, getThread_of_numericState hst]
    exact (nstat_commitRegs f _ s).1
  · obtain ⟨-, -, -, -, -, hwc, -⟩ := hm
    calc counter (commitStatus f _) (cntNsat f.thread)
        = counter (commitNstat f.thread f.snap.first f.commit.nstat (commitStores f (commitRegs f s))) (cntNsat f.thread) :=
          congrArg (fun m => Sparse.get 0 m (cntNsat f.thread)) (counters_commitStatus hc he _)
      _ = min (2 ^ 48 - 1) (counter (commitStores f (commitRegs f s)) (cntNsat f.thread) + f.commit.nstat.nsat.toNat) :=
          nsat_commitNstat _ _ _ (by rwa [hcnt])
      _ = _ := by rw [counter, counter, hcnt]
  · rw [sreg_congr f.thread r (getThread_commitStatus f.thread f _).2, sreg_commitNstat,
      sreg_congr f.thread r (congrArg ThreadState.regs (getThread_of_numericState hst f.thread)), sreg_commitRegs hr hw]
  · rw [amax_commitStatus ha]
    exact amax_commitAmax_congr ((amax_commitNstat _ _ _ _).trans hamax) r b v

end Sys2Proof.Machine
end

section
/-! SUPPORT. What an instruction that may issue comes to, by its verdict. -/

namespace Sys2Proof.Machine
open Claims

/-! The four verdicts (R64, R80). -/

section
variable {t : Thread} {n : Nat} {f : State → Verdict} {s : State} (h : ready t n s)
include h

theorem goesOn_of_ready {s' : State} (hf : f (seen t n s) = .go s') :
    Host.Outcome.next (issue t n f s) = goesOn t n s s' := by rw [issue_of_ready h, hf]; rfl

theorem goesTo_of_ready {s' : State} {a : BitVec 48} (hf : f (seen t n s) = .jump s' a) :
    Host.Outcome.next (issue t n f s) = goesTo t n a s s' := by rw [issue_of_ready h, hf]; rfl

theorem faults_of_ready {fc : BitVec 8} {v : Word64} (hf : f (seen t n s) = .fault fc v) :
    Host.Outcome.next (issue t n f s) = faults t n fc v s := by rw [issue_of_ready h, hf]; rfl

theorem waits_of_ready {w : Wait} (hf : f (seen t n s) = .wait w) :
    Host.Outcome.next (issue t n f s) = waits t n w s := by rw [issue_of_ready h, hf]; rfl

end

/-- The scoreboard holds nothing where the registers are free. -/
theorem not_regsHeld_of_free {t : Thread} {l m : List Reg} {s : State} (h : free t l s) (hm : ∀ r ∈ m, r ∈ l) :
    ¬ regsHeld t m s = true := ne_true_of_eq_false (free_of_subset h hm)

end Sys2Proof.Machine
end

section
/-! SUPPORT. Registers: O4. -/

namespace Sys2Proof.Machine

/-- Settles O4: s0 is apart in every read and write, and the registers of a well-formed thread read back. -/
theorem registerZeroIsHardWired : Obligations.RegisterZeroIsHardWired := fun t u r q v s h =>
  ⟨sreg_zero t s, setSreg_zero t v s, sreg_setSreg t u r q v s (((threadsWellFormed_iff s).1 h).1 t).2.1⟩

end Sys2Proof.Machine
end

section
/-! SUPPORT. Integer instructions: O9. -/

namespace Sys2Proof.Machine
open Claims

/-! What the model's operations come to on the integers. -/

theorem add_eq_ofInt (a b : Word64) : a + b = BitVec.ofInt 64 (a.toInt + b.toInt) := by
  rw [BitVec.ofInt_add, BitVec.ofInt_toInt, BitVec.ofInt_toInt]

theorem sub_eq_ofInt (a b : Word64) : a - b = BitVec.ofInt 64 (a.toInt - b.toInt) :=
  BitVec.eq_of_toInt_eq (by rw [BitVec.toInt_sub, BitVec.toInt_ofInt])

theorem mul_eq_ofInt (a b : Word64) : a * b = BitVec.ofInt 64 (a.toInt * b.toInt) := by
  rw [BitVec.ofInt_mul, BitVec.ofInt_toInt, BitVec.ofInt_toInt]

theorem shiftLeft_eq_ofNat (a : Word64) (n : Nat) : a <<< n = BitVec.ofNat 64 (a.toNat * 2 ^ n) :=
  BitVec.eq_of_toNat_eq (by rw [BitVec.toNat_shiftLeft, BitVec.toNat_ofNat, Nat.shiftLeft_eq])

theorem ushiftRight_eq_ofNat (a : Word64) (n : Nat) : a >>> n = BitVec.ofNat 64 (a.toNat / 2 ^ n) := by
  refine BitVec.eq_of_toNat_eq ?_
  rw [BitVec.toNat_ushiftRight, BitVec.toNat_ofNat, Nat.shiftRight_eq_div_pow,
    Nat.mod_eq_of_lt (Nat.lt_of_le_of_lt (Nat.div_le_self _ _) a.isLt)]

theorem sshiftRight_eq_ofInt (a : Word64) (n : Nat) : a.sshiftRight n = BitVec.ofInt 64 (a.toInt / 2 ^ n) := by
  have h : (a.sshiftRight n).toInt = a.toInt / 2 ^ n := by
    rw [BitVec.toInt_sshiftRight, Int.shiftRight_eq_div_pow]; norm_cast
  rw [← h, BitVec.ofInt_toInt]

/-- The high half of a product of 128 bits. -/
theorem high_half (x : Int) : (BitVec.ofInt 128 x >>> 64).setWidth 64 = BitVec.ofInt 64 (x / 2 ^ 64) := by
  refine BitVec.eq_of_toNat_eq ?_
  simp only [BitVec.toNat_setWidth, BitVec.toNat_ushiftRight, BitVec.toNat_ofInt, Nat.shiftRight_eq_div_pow]
  omega

theorem mulHigh_signed (a b : Word64) : mulHigh true a b = BitVec.ofInt 64 (a.toInt * b.toInt / 2 ^ 64) := by
  rw [← high_half, BitVec.ofInt_mul]
  rfl

theorem mulHigh_unsigned (a b : Word64) : mulHigh false a b = BitVec.ofNat 64 (a.toNat * b.toNat / 2 ^ 64) := by
  have hab : a.toNat * b.toNat < 2 ^ 128 := by
    calc a.toNat * b.toNat < 2 ^ 64 * 2 ^ 64 := Nat.mul_lt_mul_of_lt_of_lt a.isLt b.isLt
      _ = 2 ^ 128 := by norm_num
  refine BitVec.eq_of_toNat_eq ?_
  simp only [mulHigh, Bool.false_eq_true, if_false, BitVec.toNat_setWidth, BitVec.toNat_ushiftRight, BitVec.toNat_mul,
    BitVec.toNat_ofNat, Nat.shiftRight_eq_div_pow]
  rw [Nat.mod_eq_of_lt (a := a.toNat) (by omega), Nat.mod_eq_of_lt (a := b.toNat) (by omega), Nat.mod_eq_of_lt hab]

theorem divSigned_eq (a b : Word64) : divSigned a b = BitVec.ofInt 64 (if b = 0 then -1 else a.toInt.tdiv b.toInt) := by
  unfold divSigned
  split
  · rfl
  · exact BitVec.eq_of_toInt_eq (by rw [BitVec.toInt_sdiv, BitVec.toInt_ofInt])

theorem divUnsigned_eq (a b : Word64) :
    divUnsigned a b = BitVec.ofNat 64 (if b = 0 then 2 ^ 64 - 1 else a.toNat / b.toNat) := by
  unfold divUnsigned
  split
  · rfl
  · rw [← BitVec.toNat_udiv, BitVec.ofNat_toNat, BitVec.setWidth_eq]

theorem remSigned_eq (a b : Word64) :
    remSigned a b = BitVec.ofInt 64 (if b = 0 then a.toInt else a.toInt.tmod b.toInt) := by
  unfold remSigned
  split
  · rw [BitVec.ofInt_toInt]
  · rw [← BitVec.toInt_srem, BitVec.ofInt_toInt]

theorem remUnsigned_eq (a b : Word64) :
    remUnsigned a b = BitVec.ofNat 64 (if b = 0 then a.toNat else a.toNat % b.toNat) := by
  unfold remUnsigned
  split
  · rw [BitVec.ofNat_toNat, BitVec.setWidth_eq]
  · rw [← BitVec.toNat_umod, BitVec.ofNat_toNat, BitVec.setWidth_eq]

/-- A comparison's 1 or 0. -/
theorem flag64_of_iff {c : Bool} {p : Prop} [Decidable p] (h : c = true ↔ p) : flag64 c = if p then 1 else 0 := by
  simp only [flag64, h]

theorem signExtend_toInt (imm : BitVec 32) : (imm.signExtend 64).toInt = imm.toInt :=
  BitVec.toInt_signExtend_of_le (by decide)

/-- A shift takes bits [5:0] of its immediate (R62, R412). -/
theorem shiftCount_signExtend (imm : BitVec 32) : shiftCount (imm.signExtend 64) = imm.toNat % 64 := by
  have h : shiftCount (imm.signExtend 64) = ((imm.signExtend 64).setWidth 6).toNat := by
    rw [BitVec.toNat_setWidth]; rfl
  have k : imm.toNat % 64 = (imm.setWidth 6).toNat := by rw [BitVec.toNat_setWidth]
  rw [h, k]
  congr 1
  ext i hi
  simp only [BitVec.getElem_setWidth, BitVec.getLsbD_signExtend]
  rw [if_pos (by omega)]
  simp; omega

theorem lih_eq_ofNat (imm : BitVec 32) (a : Word64) :
    imm ++ a.setWidth 32 = BitVec.ofNat 64 (a.toNat % 2 ^ 32 + 2 ^ 32 * imm.toNat) := by
  refine BitVec.eq_of_toNat_eq ?_
  rw [BitVec.toNat_append, BitVec.toNat_setWidth, ← Nat.shiftLeft_add_eq_or_of_lt (Nat.mod_lt _ (by decide)), Nat.shiftLeft_eq, BitVec.toNat_ofNat]
  have := imm.isLt
  omega

/-! The instructions. -/

/-- An instruction of two register sources issues with the value `w` that its operation gives. -/
theorem alu2_of_ready {t : Thread} {rd r1 r2 : Reg} {f : Word64 → Word64 → Word64} {s : State} {w : Word64}
    (h : ready t 1 s) (hf : free t [rd, r1, r2] (seen t 1 s)) (hw : f (sreg t r1 (seen t 1 s)) (sreg t r2 (seen t 1 s)) = w) :
    Host.Outcome.next (alu2 t rd r1 r2 f s) = writes t rd w s :=
  hw ▸ scalarWrite_of_ready h hf

/-- An instruction of a register and an immediate issues with the value `w` that its operation gives. -/
theorem aluImm_of_ready {t : Thread} {rd r1 : Reg} {imm : BitVec 32} {f : Word64 → Word64 → Word64} {s : State} {w : Word64}
    (h : ready t 1 s) (hf : free t [rd, r1] (seen t 1 s)) (hw : f (sreg t r1 (seen t 1 s)) (imm.signExtend 64) = w) :
    Host.Outcome.next (aluImm t rd r1 imm f s) = writes t rd w s :=
  hw ▸ scalarWrite_of_ready h hf

/-- Settles O9: each instruction is one operation on the registers that it sees, which comes to an integer modulo 2^64. -/
theorem integerResults : Obligations.IntegerResults := by
  refine ⟨fun t rd r1 r2 s h hf => ?_, fun t rd r1 r2 s h hf => ?_, fun t rd r1 imm s h hf => ?_⟩
  · exact ⟨alu2_of_ready h hf (add_eq_ofInt _ _), alu2_of_ready h hf (sub_eq_ofInt _ _), alu2_of_ready h hf rfl,
      alu2_of_ready h hf rfl, alu2_of_ready h hf rfl, alu2_of_ready h hf (shiftLeft_eq_ofNat _ _),
      alu2_of_ready h hf (ushiftRight_eq_ofNat _ _), alu2_of_ready h hf (sshiftRight_eq_ofInt _ _),
      alu2_of_ready h hf (mul_eq_ofInt _ _), alu2_of_ready h hf (mulHigh_signed _ _),
      alu2_of_ready h hf (mulHigh_unsigned _ _), alu2_of_ready h hf (divSigned_eq _ _),
      alu2_of_ready h hf (divUnsigned_eq _ _), alu2_of_ready h hf (remSigned_eq _ _),
      alu2_of_ready h hf (remUnsigned_eq _ _)⟩
  · intro a b
    refine ⟨alu2_of_ready h hf ?_, alu2_of_ready h hf ?_, alu2_of_ready h hf ?_, alu2_of_ready h hf ?_,
      alu2_of_ready h hf ?_, alu2_of_ready h hf ?_⟩
    · exact flag64_of_iff beq_iff_eq
    · rw [flag64_of_iff (p := a ≠ b) bne_iff_ne, ite_not]
    · exact flag64_of_iff BitVec.slt_iff_toInt_lt
    · exact flag64_of_iff BitVec.ult_iff_toNat_lt
    · exact flag64_of_iff (by rw [Bool.not_eq_true', ← Bool.not_eq_true, BitVec.slt_iff_toInt_lt, Int.not_lt])
    · exact flag64_of_iff (by rw [Bool.not_eq_true', ← Bool.not_eq_true, BitVec.ult_iff_toNat_lt, Nat.not_lt])
  · have none1 : free t [rd] (seen t 1 s) := free_of_subset hf (by simp)
    refine ⟨aluImm_of_ready h hf ?_, aluImm_of_ready h hf rfl, aluImm_of_ready h hf rfl,
      aluImm_of_ready h hf rfl, aluImm_of_ready h hf ?_, aluImm_of_ready h hf ?_, aluImm_of_ready h hf ?_, ?_, ?_⟩
    · rw [add_eq_ofInt, signExtend_toInt]
    · rw [shiftCount_signExtend]; exact shiftLeft_eq_ofNat _ _
    · rw [shiftCount_signExtend]; exact ushiftRight_eq_ofNat _ _
    · rw [shiftCount_signExtend]; exact sshiftRight_eq_ofInt _ _
    · exact scalarWrite_of_ready h none1
    · rw [← lih_eq_ofNat]
      exact scalarWrite_of_ready h (free_of_subset hf (by simp))

end Sys2Proof.Machine
end

section
/-! SUPPORT. Branches and jumps: O10. -/

namespace Sys2Proof.Machine
open Claims

/-! Offsets (R412). -/

theorem not_offsetOk_iff (off : BitVec 32) : (!offsetOk off) = true ↔ 2 ^ 20 < off.toInt ∨ off.toInt < -(2 ^ 20) := by
  simp only [offsetOk, Bool.not_eq_true', ← Bool.not_eq_true, Bool.and_eq_true, decide_eq_true_eq]
  omega

/-- The target counts words of eight bytes from the instruction itself (R63, log entry 16). -/
theorem branchTarget_eq (pc : BitVec 48) (off : BitVec 32) :
    branchTarget pc off = pc + BitVec.ofInt 48 (8 * off.toInt) := by
  have hs : off.signExtend 48 = BitVec.ofInt 48 off.toInt := rfl
  have h8 : BitVec.ofInt 48 8 = 8#48 := rfl
  unfold branchTarget
  rw [BitVec.shiftLeft_eq_mul_twoPow, hs, BitVec.ofInt_mul, h8, BitVec.mul_comm]
  rfl

/-! Branches. -/

/-- A branch in range goes to its target where its condition holds, and on where not. -/
theorem branch_of_ready {t : Thread} {rd r1 r2 : Reg} {off : BitVec 32} {c : Word64 → Word64 → Bool} {s : State}
    (h : ready t 1 s) (ho : ¬ (!offsetOk off) = true) (hf : free t [rd, r1, r2] (seen t 1 s)) :
    Host.Outcome.next (branch t r1 r2 off c s) =
      if c (sreg t r1 (seen t 1 s)) (sreg t r2 (seen t 1 s)) = true then
        goesTo t 1 ((getThread t (seen t 1 s)).pc + BitVec.ofInt 48 (8 * off.toInt)) s (seen t 1 s)
      else goesOn t 1 s (seen t 1 s) := by
  have hr : ¬ regsHeld t [r1, r2] (seen t 1 s) = true := not_regsHeld_of_free hf (by simp)
  rw [← branchTarget_eq]
  split
  · next hc => exact goesTo_of_ready h ((if_neg ho).trans ((if_neg hr).trans (if_pos hc)))
  · next hc => exact goesOn_of_ready h ((if_neg ho).trans ((if_neg hr).trans (if_neg hc)))

/-- A branch out of range is refused (R412). -/
theorem branch_of_offset {t : Thread} {r1 r2 : Reg} {off : BitVec 32} {c : Word64 → Word64 → Bool} {s : State}
    (h : ready t 1 s) (ho : (!offsetOk off) = true) :
    Host.Outcome.next (branch t r1 r2 off c s) = faults t 1 fcIllegal 0 s :=
  faults_of_ready h (if_pos ho)

/-- Settles O10: one rule for the branches in range, one for those out of it, and the checks of the jumps in their order. -/
theorem branchesAndJumps : Obligations.BranchesAndJumps := by
  refine ⟨fun t rd r1 r2 off s h hlo hhi hf => ?_, fun t rd r1 r2 off s h => ?_⟩
  · intro v a b pc target there on
    have ho : ¬ (!offsetOk off) = true := fun k => by rw [not_offsetOk_iff] at k; omega
    have hrd : ¬ regsHeld t [rd] v = true := not_regsHeld_of_free hf (by simp)
    have hr1 : ¬ regsHeld t [r1] v = true := not_regsHeld_of_free hf (by simp)
    have ht : branchTarget pc off = target := branchTarget_eq pc off
    have hb (c : Word64 → Word64 → Bool) :
        Host.Outcome.next (branch t r1 r2 off c s) = if c a b = true then there else on := branch_of_ready h ho hf
    refine ⟨?_, ?_, ?_, ?_, ?_, ?_, ?_, ?_, fun h8 h48 => ?_⟩
    · exact (hb _).trans (by simp only [beq_iff_eq])
    · exact (hb _).trans (by simp only [bne_iff_ne, ne_eq, ite_not])
    · exact (hb _).trans (by simp only [BitVec.slt_iff_toInt_lt])
    · exact (hb _).trans (by simp only [Bool.not_eq_true', ← Bool.not_eq_true, BitVec.slt_iff_toInt_lt, ite_not])
    · exact (hb _).trans (by simp only [BitVec.ult_iff_toNat_lt])
    · exact (hb _).trans (by simp only [Bool.not_eq_true', ← Bool.not_eq_true, BitVec.ult_iff_toNat_lt, ite_not])
    · exact goesTo_of_ready h (ht ▸ if_neg ho)
    · exact goesTo_of_ready h (ht ▸ (if_neg ho).trans (if_neg hrd))
    · exact goesTo_of_ready h ((if_neg hr1).trans ((if_neg (not_not.2 h8)).trans (if_neg (Nat.not_le.2 h48))))
  · intro a ill
    refine ⟨fun hoff => ?_, fun hf => ?_⟩
    · have ho : (!offsetOk off) = true := (not_offsetOk_iff off).2 hoff
      exact ⟨branch_of_offset h ho, branch_of_offset h ho, branch_of_offset h ho, branch_of_offset h ho,
        branch_of_offset h ho, branch_of_offset h ho, faults_of_ready h (if_pos ho), faults_of_ready h (if_pos ho)⟩
    · have hr : ¬ regsHeld t [r1] (seen t 1 s) = true := ne_true_of_eq_false hf
      exact ⟨fun h8 => faults_of_ready h ((if_neg hr).trans (if_pos h8)),
        fun h8 h48 => faults_of_ready h ((if_neg hr).trans ((if_neg (not_not.2 h8)).trans (if_pos h48)))⟩

end Sys2Proof.Machine
end

section
/-! SUPPORT. What is kept behind an instruction that issues: the memories and registers that time and the fetch do not move. -/

namespace Sys2Proof.Machine
open Claims

/-- The memories, parameters, queues, the Ballast and the Mould settings, which neither time nor a fetch moves. -/
def holdings (s : State) : Mem × Mem × Tiles × Sparse Word64 × Queues × Ballast × Mould :=
  (s.sdm, s.ls.rows, s.tiles, s.preg, s.queues, s.ballast, s.mould)

@[simp] theorem holdings_modThread (t : Thread) (f : ThreadState → ThreadState) (s : State) :
    holdings (modThread t f s) = holdings s := by simp [holdings]

@[simp] theorem holdings_advance (t : Thread) (n : Nat) (s : State) : holdings (advance t n s) = holdings s :=
  holdings_modThread _ _ _

@[simp] theorem holdings_jumpTo (t : Thread) (a : BitVec 48) (s : State) : holdings (jumpTo t a s) = holdings s :=
  holdings_modThread _ _ _

@[simp] theorem holdings_liveView (t : Thread) (old s : State) : holdings (liveView t old s) = holdings s := by
  unfold liveView
  split
  · exact holdings_modThread _ _ _
  · rfl

theorem holdings_fetched {t : Thread} {n : Nat} {s : State} (h : ready t n s) : holdings (fetched t n s) = holdings s := by
  obtain ⟨_, _, _, _, _, e⟩ := spoolOnly_fetched h
  obtain ⟨_, _, _, _, _, _, _, _, k⟩ := timeOnly_settle t s
  rw [e, k]
  rfl

theorem holdings_seen {t : Thread} {n : Nat} {s : State} (h : ready t n s) : holdings (seen t n s) = holdings s := by
  obtain ⟨_, _, e⟩ := firstView_eq t (fetched t n s)
  rw [seen, e, holdings_modThread, holdings_fetched h]

section
variable {s s' : State} (h : holdings s' = holdings s)
include h

theorem sdm_of_holdings : s'.sdm = s.sdm := congrArg (fun x => x.1) h
theorem rows_of_holdings : s'.ls.rows = s.ls.rows := congrArg (fun x => x.2.1) h
theorem tiles_of_holdings : s'.tiles = s.tiles := congrArg (fun x => x.2.2.1) h
theorem preg_of_holdings : s'.preg = s.preg := congrArg (fun x => x.2.2.2.1) h
theorem queues_of_holdings : s'.queues = s.queues := congrArg (fun x => x.2.2.2.2.1) h
theorem ballast_of_holdings : s'.ballast = s.ballast := congrArg (fun x => x.2.2.2.2.2.1) h
theorem mould_of_holdings : s'.mould = s.mould := congrArg (fun x => x.2.2.2.2.2.2) h

end

/-- Registers after an instruction that leaves the registers it sees alone: those from before it (R87). -/
theorem regs_liveView {t : Thread} {n : Nat} {s w : State} (h : ready t n s)
    (hw : ∀ u, (getThread u w).regs = (getThread u (seen t n s)).regs) (u : Thread) :
    (getThread u (liveView t (fetched t n s) w)).regs = (getThread u s).regs := by
  obtain ⟨k, e⟩ := getThread_fetched h u
  have hu : (getThread u (fetched t n s)).regs = (getThread u s).regs := by rw [e]
  cases hr : (getThread t (fetched t n s)).reissuing with
  | false => rw [liveView_of_not_reissuing w hr, hw, seen, firstView_of_not_reissuing hr, hu]
  | true =>
    by_cases hut : u = t
    · subst hut
      rw [getThread_liveView_of_reissuing w hr, hu]
    · obtain ⟨m, b, ev⟩ := firstView_eq t (fetched t n s)
      rw [liveView, if_pos hr, getThread_modThread_ne _ _ hut, hw, seen, ev, getThread_modThread_ne _ _ hut, hu]

theorem sreg_advance (t u : Thread) (n : Nat) (r : Reg) (s : State) : sreg u r (advance t n s) = sreg u r s := by
  obtain ⟨_, _, _, _, e⟩ := getThread_advance t n s
  exact sreg_modThread t u r _ s (by rw [advance, getThread_modThread_self] at e; rw [e])

theorem sreg_jumpTo (t u : Thread) (a : BitVec 48) (r : Reg) (s : State) : sreg u r (jumpTo t a s) = sreg u r s :=
  sreg_modThread t u r _ s rfl

/-- The thread's PC is no part of what time and the fetch move, nor of what a reissue sees anew. -/
theorem pc_seen {t : Thread} {n : Nat} {s : State} (h : ready t n s) (u : Thread) :
    (getThread u (seen t n s)).pc = (getThread u s).pc ∧ (getThread u (seen t n s)).reissuing = (getThread u s).reissuing := by
  obtain ⟨k, e⟩ := getThread_fetched h u
  obtain ⟨m, b, ev⟩ := firstView_eq t (fetched t n s)
  rw [seen, ev]
  by_cases hut : u = t
  · subst hut; rw [getThread_modThread_self, e]; exact ⟨rfl, rfl⟩
  · rw [getThread_modThread_ne _ _ hut, e]; exact ⟨rfl, rfl⟩

end Sys2Proof.Machine
end

section
/-! SUPPORT. Loads of scalar data memory: O12. -/

namespace Sys2Proof.Machine
open Claims

/-! Addresses (R57, R412). -/

theorem not_sdmOffset_of_range {imm : BitVec 32} (hlo : -(2 ^ 15) ≤ imm.toInt) (hhi : imm.toInt < 2 ^ 15) :
    ¬ (!sdmOffsetOk imm) = true := by
  simp only [sdmOffsetOk, Bool.not_eq_true', ← Bool.not_eq_true, Bool.and_eq_true, decide_eq_true_eq]
  omega

theorem not_sdmAddrOk_iff (a : Word64) (n : Nat) : (!sdmAddrOk a n) = true ↔ 0x40000 ≤ a.toNat ∨ a.toNat % n ≠ 0 := by
  simp only [sdmAddrOk, Bool.not_eq_true', ← Bool.not_eq_true, Bool.and_eq_true, decide_eq_true_eq, beq_iff_eq]
  omega

/-! Loads. -/

section
variable {t : Thread} {rd r1 : Reg} {imm : BitVec 32} {n : Nat} {s : State} (h : ready t 1 s) (hlo : -(2 ^ 15) ≤ imm.toInt)
  (hhi : imm.toInt < 2 ^ 15) (hf : free t [rd, r1] (seen t 1 s))
include h hlo hhi hf

/-- A load of words that can be corrected writes its register and goes on (R57, R347). -/
theorem sdmLoad_of_good (sg : Bool)
    (ha : ¬ (!sdmAddrOk (sreg t r1 (seen t 1 s) + imm.signExtend 64) n) = true)
    (hb : sdmBad (seen t 1 s) (sreg t r1 (seen t 1 s) + imm.signExtend 64).toNat n = none) :
    Host.Outcome.next (sdmLoad t rd r1 imm n sg s) =
      let a := (sreg t r1 (seen t 1 s) + imm.signExtend 64).toNat
      let x := leNat (Mem.readBytes (seen t 1 s).sdm a n)
      goesOn t 1 s (setSreg t rd (if sg then BitVec.ofInt 64 (toSigned (8 * n) x) else BitVec.ofNat 64 x)
        (sdmCorrect a n (seen t 1 s))) :=
  goesOn_of_ready h ((if_neg (not_sdmOffset_of_range hlo hhi)).trans
    ((if_neg (ne_true_of_eq_false hf)).trans ((if_neg ha).trans (by rw [hb]))))

/-- A load that meets a word that cannot be corrected stops its thread at the load (R348, log entry 15). -/
theorem sdmLoad_of_bad (sg : Bool) {k : Nat}
    (ha : ¬ (!sdmAddrOk (sreg t r1 (seen t 1 s) + imm.signExtend 64) n) = true)
    (hb : sdmBad (seen t 1 s) (sreg t r1 (seen t 1 s) + imm.signExtend 64).toNat n = some k) :
    Host.Outcome.next (sdmLoad t rd r1 imm n sg s) =
      goesTo t 1 (getThread t (seen t 1 s)).pc s (sdmUncorr t k (seen t 1 s)) :=
  goesTo_of_ready h ((if_neg (not_sdmOffset_of_range hlo hhi)).trans
    ((if_neg (ne_true_of_eq_false hf)).trans ((if_neg ha).trans (by rw [hb]))))

/-- A load from an address out of range or misaligned faults with the address (R57). -/
theorem sdmLoad_of_addr (sg : Bool) (ha : 0x40000 ≤ (sreg t r1 (seen t 1 s) + imm.signExtend 64).toNat ∨
      (sreg t r1 (seen t 1 s) + imm.signExtend 64).toNat % n ≠ 0) :
    Host.Outcome.next (sdmLoad t rd r1 imm n sg s) = faults t 1 fcSdm (sreg t r1 (seen t 1 s) + imm.signExtend 64) s :=
  faults_of_ready h ((if_neg (not_sdmOffset_of_range hlo hhi)).trans
    ((if_neg (ne_true_of_eq_false hf)).trans (if_pos ((not_sdmAddrOk_iff _ _).2 ha))))

end

/-- A store to an address out of range or misaligned faults with the address (R57). -/
theorem sdmStore_of_addr {t : Thread} {r1 r2 : Reg} {imm : BitVec 32} {n : Nat} {s : State} (h : ready t 1 s)
    (hlo : -(2 ^ 15) ≤ imm.toInt) (hhi : imm.toInt < 2 ^ 15) (hf : free t [r1, r2] (seen t 1 s))
    (ha : 0x40000 ≤ (sreg t r1 (seen t 1 s) + imm.signExtend 64).toNat ∨
      (sreg t r1 (seen t 1 s) + imm.signExtend 64).toNat % n ≠ 0) :
    Host.Outcome.next (sdmStore t r1 r2 imm n s) = faults t 1 fcSdm (sreg t r1 (seen t 1 s) + imm.signExtend 64) s :=
  faults_of_ready h ((if_neg (not_sdmOffset_of_range hlo hhi)).trans
    ((if_neg (ne_true_of_eq_false hf)).trans (if_pos ((not_sdmAddrOk_iff _ _).2 ha))))

/-- Settles O12: a load is decided by its address and then by the words it meets; the sizes are one rule. -/
theorem loadsReadScalarMemory : Obligations.LoadsReadScalarMemory := by
  refine ⟨fun t rd r1 imm n s h => ?_, fun t r1 r2 imm s h hf hlo hhi => ?_⟩
  · intro v hf hlo hhi a x hn ha reads
    have ha' : ¬ (!sdmAddrOk (sreg t r1 v + imm.signExtend 64) n) = true := by
      rw [not_sdmAddrOk_iff]; exact not_or.2 ⟨Nat.not_le.2 ha, not_not.2 hn⟩
    have hs (i : Instr) (sg : Bool) (w : Word64) (hi : exec i s = .next (sdmLoad t rd r1 imm n sg s))
        (hw : (if sg then BitVec.ofInt 64 (toSigned (8 * n) x) else BitVec.ofNat 64 x) = w) : reads i w :=
      ⟨fun hb => hw ▸ hi.trans (sdmLoad_of_good h hlo hhi hf sg ha' hb),
        fun k hb => hi.trans (sdmLoad_of_bad h hlo hhi hf sg ha' hb)⟩
    refine ⟨?_, ?_, ?_, ?_⟩
    · rintro rfl
      exact ⟨hs _ true _ rfl rfl, hs _ false _ rfl rfl⟩
    · rintro rfl
      exact ⟨hs _ true _ rfl rfl, hs _ false _ rfl rfl⟩
    · rintro rfl
      exact ⟨hs _ true _ rfl rfl, hs _ false _ rfl rfl⟩
    · rintro rfl
      exact hs _ false _ rfl rfl
  · intro a stop
    have hf' : free t [r2, r1] (seen t 1 s) := free_of_subset hf (by simp)
    exact ⟨fun ha => ⟨sdmStore_of_addr h hlo hhi hf (.inl ha), sdmLoad_of_addr h hlo hhi hf' true (.inl ha),
        sdmLoad_of_addr h hlo hhi hf' false (.inl ha)⟩,
      fun ha => ⟨sdmStore_of_addr h hlo hhi hf ha, sdmLoad_of_addr h hlo hhi hf' true ha, sdmLoad_of_addr h hlo hhi hf' false ha⟩,
      fun ha => ⟨sdmStore_of_addr h hlo hhi hf ha, sdmLoad_of_addr h hlo hhi hf' true ha, sdmLoad_of_addr h hlo hhi hf' false ha⟩,
      fun ha => ⟨sdmStore_of_addr h hlo hhi hf ha, sdmLoad_of_addr h hlo hhi hf' false ha⟩⟩

end Sys2Proof.Machine
end

section
/-! SUPPORT. Stores to scalar data memory: O13. -/

namespace Sys2Proof.Machine
open Claims

/-- A store at an address in range writes its bytes and goes on (R57). -/
theorem sdmStore_of_ready {t : Thread} {r1 r2 : Reg} {imm : BitVec 32} {n : Nat} {s : State} (h : ready t 1 s)
    (hlo : -(2 ^ 15) ≤ imm.toInt) (hhi : imm.toInt < 2 ^ 15) (hf : free t [r1, r2] (seen t 1 s))
    (ha : ¬ (!sdmAddrOk (sreg t r1 (seen t 1 s) + imm.signExtend 64) n) = true) :
    Host.Outcome.next (sdmStore t r1 r2 imm n s) =
      goesOn t 1 s (sdmWrite (sreg t r1 (seen t 1 s) + imm.signExtend 64).toNat
        (leBytes n (sreg t r2 (seen t 1 s)).toNat) (seen t 1 s)) :=
  goesOn_of_ready h ((if_neg (not_sdmOffset_of_range hlo hhi)).trans
    ((if_neg (ne_true_of_eq_false hf)).trans (if_neg ha)))

/-- Settles O13: a store is one write of bytes into the SDM that it sees, and what else it sees goes on as it was. -/
theorem storesWriteScalarMemory : Obligations.StoresWriteScalarMemory := by
  intro t r1 r2 imm n i s h v hm hf hlo hhi hi a hn ha
  have ha' : ¬ (!sdmAddrOk (sreg t r1 v + imm.signExtend 64) n) = true := by
    rw [not_sdmAddrOk_iff]; exact not_or.2 ⟨Nat.not_le.2 ha, not_not.2 hn⟩
  have he : exec i s = .next (sdmStore t r1 r2 imm n s) := by
    rcases hi with hi | hi | hi | hi <;> cases hi <;> rfl
  have hv : holdings v = holdings s := holdings_seen h
  have hwf : Mem.wf v.sdm = true := by rw [sdm_of_holdings hv]; exact hm.1
  let w := sdmWrite a (leBytes n (sreg t r2 v).toNat) v
  have hw : ∀ u, getThread u w = getThread u v := fun u => by cases u <;> rfl
  have hout : holdings (advance t 1 (liveView t (fetched t 1 s) w)) = holdings w := by simp
  have hsdm : (advance t 1 (liveView t (fetched t 1 s) w)).sdm = Mem.writeBytes v.sdm a (leBytes n (sreg t r2 v).toNat) :=
    sdm_of_holdings hout
  refine ⟨_, he.trans (sdmStore_of_ready h hlo hhi hf ha'), fun k hk => ?_, fun b hb => ?_, fun u r => ?_,
    (rows_of_holdings hout).trans (rows_of_holdings (s' := v) hv), (tiles_of_holdings hout).trans (tiles_of_holdings (s' := v) hv),
    (preg_of_holdings hout).trans (preg_of_holdings (s' := v) hv), (queues_of_holdings hout).trans (queues_of_holdings (s' := v) hv), fun hr => ?_⟩
  · have hk' : k < (leBytes n (sreg t r2 v).toNat).length := by rw [leBytes_length]; exact hk
    rw [hsdm, Mem.read_writeBytes _ _ _ _ hwf hk', leBytes_get]
  · rw [hsdm, Mem.read_writeBytes_ne _ _ _ hwf (by rw [leBytes_length]; exact hb), sdm_of_holdings (holdings_seen h)]
  · rw [sreg_advance]
    exact sreg_congr u r (regs_liveView h (fun u => by rw [hw u]) u)
  · obtain ⟨hpc, hre⟩ := pc_seen h t
    have hfr : (getThread t (fetched t 1 s)).reissuing = false := by
      obtain ⟨k, e⟩ := getThread_fetched h t
      rw [e]; exact hr
    rw [liveView_of_not_reissuing w hfr, getThread_advance_of_not_reissuing _ _ _ (by rw [hw, hre]; exact hr)]
    show alignPc ((getThread t w).pc + 8) = _
    rw [hw, hpc]

end Sys2Proof.Machine
end

section
/-! SUPPORT. Parameters and the numeric status: O14. -/

namespace Sys2Proof.Machine
open Claims

/-- Parameters as an instruction that issues sees them. -/
theorem readParam_seen {t : Thread} {n : Nat} {s : State} (h : ready t n s) (k : Nat) :
    readParam (seen t n s) k = readParam s k := by rw [readParam, preg_of_holdings (holdings_seen h), readParam]

/-- A number of 64 or more names no parameter register (R412). -/
theorem param_of_number {t : Thread} {r : Reg} {n : BitVec 32} {s : State} (h : ready t 1 s) (hn : 64 ≤ n.toNat) :
    exec (.pmov t r n) s = faults t 1 fcIllegal 0 s ∧ exec (.pset t r n) s = faults t 1 fcIllegal 0 s :=
  ⟨faults_of_ready h (if_pos hn), faults_of_ready h (if_pos hn)⟩

theorem pmov_of_ready {t : Thread} {r : Reg} {n : BitVec 32} {s : State} (h : ready t 1 s) (hf : free t [r] (seen t 1 s))
    (hn : n.toNat < 64) : exec (.pmov t r n) s = writes t r (readParam s n.toNat) s := by
  rw [← readParam_seen h]
  exact goesOn_of_ready h ((if_neg (Nat.not_le.2 hn)).trans (if_neg (ne_true_of_eq_false hf)))

/-- PSET writes one parameter register and leaves the registers, SDM and queues alone (R59). -/
theorem pset_of_ready {t : Thread} {r : Reg} {n : BitVec 32} {s : State} (hs : threadsWellFormed s) (h : ready t 1 s)
    (hf : free t [r] (seen t 1 s)) (hn : n.toNat < 64) :
    ∃ s', exec (.pset t r n) s = .next s' ∧
      (∀ k, readParam s' k = if k = n.toNat then sreg t r (seen t 1 s) else readParam s k) ∧
      (∀ u q, sreg u q s' = sreg u q s) ∧ s'.sdm = s.sdm ∧ s'.queues = s.queues := by
  let v := seen t 1 s
  let w := { v with preg := Sparse.set 0 v.preg n.toNat (sreg t r v) }
  have hv : holdings v = holdings s := holdings_seen h
  have hwf : Sparse.wf 0 v.preg = true := by rw [preg_of_holdings hv]; exact hs.2.2
  have hout : holdings (advance t 1 (liveView t (fetched t 1 s) w)) = holdings w := by simp
  have hregs : ∀ u, (getThread u w).regs = (getThread u v).regs := fun u => by cases u <;> rfl
  have hpreg : (advance t 1 (liveView t (fetched t 1 s) w)).preg = Sparse.set 0 v.preg n.toNat (sreg t r v) :=
    preg_of_holdings hout
  refine ⟨_, goesOn_of_ready h ((if_neg (Nat.not_le.2 hn)).trans (if_neg (ne_true_of_eq_false hf))), fun k => ?_,
    fun u q => ?_, (sdm_of_holdings hout).trans (sdm_of_holdings (s' := v) hv), (queues_of_holdings hout).trans (queues_of_holdings (s' := v) hv)⟩
  · rw [readParam, hpreg]
    split
    · next e => rw [e, Sparse.get_set_self 0 _ _ _ hwf]
    · next e => rw [Sparse.get_set_ne 0 _ _ hwf e]; exact readParam_seen h k
  · rw [sreg_advance]
    exact sreg_congr u q (regs_liveView h hregs u)

/-- Settles O14: the checks of each instruction in their order, in the state that it sees. -/
theorem parametersAndNumericStatus : Obligations.ParametersAndNumericStatus := by
  refine ⟨fun t r n s hs h => ⟨param_of_number h, fun hf => ⟨?_, fun hn => ⟨pmov_of_ready h hf hn, pset_of_ready hs h hf hn⟩⟩⟩,
    fun t r n s h => ?_⟩
  · rw [← ballast_of_holdings (holdings_seen h)]
    exact scalarWrite_of_ready h hf
  · intro v x
    refine ⟨fun hn => faults_of_ready h (if_pos (by simpa using hn)), fun hn => faults_of_ready h (if_pos hn), fun hf => ?_⟩
    have hr : ¬ regsHeld t [r] v = true := ne_true_of_eq_false hf
    refine ⟨fun hb => ?_, fun ht => ?_, fun htx hn hfl => ?_⟩
    · have hb' : ¬ srBusy t v = true := ne_true_of_eq_false hb
      exact ⟨goesOn_of_ready h ((if_neg hr).trans (if_neg hb')), goesOn_of_ready h ((if_neg hr).trans (if_neg hb'))⟩
    · have ht' : ¬ (flightsOf t v).any (fun f => f.tensor) = true := ne_true_of_eq_false ht
      refine ⟨?_, ?_, ?_⟩ <;> rintro rfl <;>
        exact goesOn_of_ready h ((if_neg (by decide)).trans ((if_neg hr).trans (if_neg ht')))
    · have ht : ¬ (decide (t = .ta) || decide (8 ≤ n.toNat)) = true := by
        rw [htx]; simpa using hn
      have ha : ¬ (flightsOf t v).any (fun f => namedAmax f.instr == some (n.setWidth 3)) = true := by
        simpa using hfl
      exact goesOn_of_ready h ((if_neg ht).trans ((if_neg hr).trans (if_neg ha)))

end Sys2Proof.Machine
end

section
/-! SUPPORT. Token queues: O15. -/

namespace Sys2Proof.Machine
open Claims

section
variable {t : Thread} {n : Nat} {s : State} (h : ready t n s)
include h

theorem tokenEntries_seen (k : Nat) : tokenEntries (seen t n s) k = tokenEntries s k := by
  rw [tokenEntries, queues_of_holdings (holdings_seen h), tokenEntries]

theorem visibleTokens_seen (k : Nat) : visibleTokens (seen t n s) k = visibleTokens s k := by
  rw [visibleTokens, tokenEntries_seen h, visibleTokens]

theorem visibleRows_seen (q : Nat) : visibleRows (seen t n s) q = visibleRows s q := by
  rw [visibleRows, queueEntries, queues_of_holdings (holdings_seen h), visibleRows, queueEntries]

theorem tokenProducer_seen (k : Nat) : tokenProducer (seen t n s) k = tokenProducer s k := by
  rw [tokenProducer, mould_of_holdings (holdings_seen h), tokenProducer]

theorem queueDepth_seen (q : Nat) : queueDepth (seen t n s) q = queueDepth s q := by
  rw [queueDepth, mould_of_holdings (holdings_seen h), queueDepth]

end

section
variable {t : Thread} {r : Reg} {n : BitVec 32} {s : State} (h : ready t 1 s) (hf : free t [r] (seen t 1 s))
include h hf

/-- A push to a queue of the thread with room (R69). -/
theorem kpush_of_ready (hk : n.toNat < 4) (hp : tokenProducer s n.toNat = t) (hl : (tokenEntries s n.toNat).length < 32) :
    exec (.kpush t r n) s = goesOn t 1 s (queueMoved (setTokens n.toNat
      (tokenEntries s n.toNat ++ [{ prod := none, val := some (sreg t r (seen t 1 s)) }]) (seen t 1 s))) := by
  rw [← tokenEntries_seen h] at hl ⊢
  rw [← tokenProducer_seen h] at hp
  exact goesOn_of_ready h ((if_neg (Nat.not_le.2 hk)).trans ((if_neg (ne_true_of_eq_false hf)).trans
    ((if_neg (by rw [hp]; simp)).trans (if_neg (Nat.not_le.2 hl)))))

/-- A push to a full queue waits (R11). -/
theorem kpush_of_full (hk : n.toNat < 4) (hp : tokenProducer s n.toNat = t) (hl : 32 ≤ (tokenEntries s n.toNat).length) :
    exec (.kpush t r n) s = waits t 1 (.queue (BitVec.ofNat 4 (8 + n.toNat))) s := by
  rw [← tokenEntries_seen h] at hl
  rw [← tokenProducer_seen h] at hp
  exact waits_of_ready h ((if_neg (Nat.not_le.2 hk)).trans ((if_neg (ne_true_of_eq_false hf)).trans
    ((if_neg (by rw [hp]; simp)).trans (if_pos hl))))

/-- A push to a queue of the other thread is refused (R69, R420). -/
theorem kpush_of_direction (hk : n.toNat < 4) (hp : tokenProducer s n.toNat ≠ t) :
    exec (.kpush t r n) s = faults t 1 fcQueue (BitVec.ofNat 64 (8 + n.toNat)) s := by
  rw [← tokenProducer_seen h] at hp
  exact faults_of_ready h ((if_neg (Nat.not_le.2 hk)).trans ((if_neg (ne_true_of_eq_false hf)).trans
    (if_pos (bne_iff_ne.2 hp))))

/-- What a pop from a queue of the other thread comes to: its oldest entry decides (R69). -/
theorem kpop_of_ready (hk : n.toNat < 4) (hp : tokenProducer s n.toNat ≠ t) {p : Option Nat} {x : Word64} {rest : List KEntry}
    (he : tokenEntries s n.toNat = { prod := p, val := some x } :: rest) :
    exec (.kpop t r n) s = goesOn t 1 s (queueMoved (setTokens n.toNat rest (setSreg t r x (seen t 1 s)))) := by
  rw [← tokenEntries_seen h] at he
  rw [← tokenProducer_seen h] at hp
  exact goesOn_of_ready h ((if_neg (Nat.not_le.2 hk)).trans ((if_neg (ne_true_of_eq_false hf)).trans
    ((if_neg (by simpa using hp)).trans (by rw [he]))))

/-- A pop whose queue has no visible token waits (R11). -/
theorem kpop_of_empty (hk : n.toNat < 4) (hp : tokenProducer s n.toNat ≠ t) (hv : visibleTokens s n.toNat = []) :
    exec (.kpop t r n) s = waits t 1 (.queue (BitVec.ofNat 4 (8 + n.toNat))) s := by
  rw [← visibleTokens_seen h] at hv
  rw [← tokenProducer_seen h] at hp
  refine waits_of_ready h ((if_neg (Nat.not_le.2 hk)).trans ((if_neg (ne_true_of_eq_false hf)).trans
    ((if_neg (by simpa using hp)).trans ?_)))
  split
  · next e => simp [visibleTokens, e] at hv
  · rfl

/-- A pop from a queue of the thread itself is refused (R69, R420). -/
theorem kpop_of_direction (hk : n.toNat < 4) (hp : tokenProducer s n.toNat = t) :
    exec (.kpop t r n) s = faults t 1 fcQueue (BitVec.ofNat 64 (8 + n.toNat)) s := by
  rw [← tokenProducer_seen h] at hp
  exact faults_of_ready h ((if_neg (Nat.not_le.2 hk)).trans ((if_neg (ne_true_of_eq_false hf)).trans
    (if_pos (beq_iff_eq.2 hp))))

/-- QDEPTH of an enabled operand queue or of a token queue (R70). -/
theorem qdepth_of_ready (hk : n.toNat < 12) (hd : n.toNat < 8 → queueDepth s n.toNat ≠ 0) :
    exec (.qdepth t r n) s = writes t r (BitVec.ofNat 64 (if n.toNat < 8 then (visibleRows s n.toNat).length
      else (visibleTokens s (n.toNat - 8)).length)) s := by
  rw [← visibleRows_seen h, ← visibleTokens_seen h]
  rw [← queueDepth_seen h] at hd
  exact goesOn_of_ready h ((if_neg (Nat.not_le.2 hk)).trans ((if_neg (ne_true_of_eq_false hf)).trans
    (if_neg (fun k => hd k.1 k.2))))

/-- QDEPTH of a disabled operand queue is refused (R67). -/
theorem qdepth_of_disabled (hk : n.toNat < 8) (hd : queueDepth s n.toNat = 0) :
    exec (.qdepth t r n) s = faults t 1 fcQueue (BitVec.ofNat 64 n.toNat) s := by
  rw [← queueDepth_seen h] at hd
  exact faults_of_ready h ((if_neg (by omega)).trans ((if_neg (ne_true_of_eq_false hf)).trans (if_pos ⟨hk, hd⟩)))

end

/-- Settles O15: a queue's number, its direction and its entries decide, in this order. -/
theorem tokenQueues : Obligations.TokenQueues := by
  refine ⟨fun t r n s h hf => ⟨kpush_of_ready h hf, fun hk hp p x rest => kpop_of_ready h hf hk hp, fun hk hd => ?_,
    fun hlo hhi => ?_⟩, fun t r n s h => ⟨fun hk => ⟨faults_of_ready h (if_pos hk), faults_of_ready h (if_pos hk)⟩,
    fun hk => faults_of_ready h (if_pos hk), fun hf => ⟨qdepth_of_disabled h hf, kpush_of_direction h hf,
    fun hk hp => ⟨kpop_of_direction h hf hk hp, kpush_of_full h hf hk hp⟩, kpop_of_empty h hf⟩⟩⟩
  · rw [qdepth_of_ready h hf (by omega) (fun _ => hd), if_pos hk]
  · rw [qdepth_of_ready h hf hhi (fun hk => absurd hk (by omega)), if_neg (by omega)]

end Sys2Proof.Machine
end

section
/-! SUPPORT. Special registers: O16. -/

namespace Sys2Proof.Machine
open Claims

/-- The numbers below 12 are assigned (Table 03.1). -/
theorem specialReg_of_lt (t : Thread) {n : Nat} (s : State) (hn : n < 12) : ∃ w, specialReg t n s = some w := by
  interval_cases n <;> exact ⟨_, rfl⟩

/-- No number from 12 on is assigned. -/
theorem specialReg_of_le (t : Thread) {n : Nat} (s : State) (hn : 12 ≤ n) : specialReg t n s = none := by
  obtain ⟨k, rfl⟩ := Nat.exists_eq_add_of_le' hn
  rfl

/-- SRD returns the register of an assigned number (R55). -/
theorem srd_of_ready {t : Thread} {r : Reg} {n : BitVec 32} {s : State} (h : ready t 1 s) (hf : free t [r] (seen t 1 s))
    {w : Word64} (hw : specialReg t n.toNat (seen t 1 s) = some w) : exec (.srd t r n) s = writes t r w s := by
  refine goesOn_of_ready h ?_
  rw [hw]
  exact if_neg (ne_true_of_eq_false hf)

/-- SRD of a number that is not assigned is refused. -/
theorem srd_of_unassigned {t : Thread} {r : Reg} {n : BitVec 32} {s : State} (h : ready t 1 s) (hn : 12 ≤ n.toNat) :
    exec (.srd t r n) s = faults t 1 fcIllegal 0 s := by
  refine faults_of_ready h ?_
  rw [specialReg_of_le t _ hn]
  rfl

/-- SWR changes the thread by the writable register of the number (R55); a write of the LFSR waits for SR (R40). -/
theorem swr_of_ready {t : Thread} {r : Reg} {n : BitVec 32} {s : State} (h : ready t 1 s) (hf : free t [r] (seen t 1 s))
    (hb : n.toNat = 10 → srBusy t (seen t 1 s) = false) {g : ThreadState → ThreadState}
    (hw : ∀ th, (writeSpecial n.toNat 0 th).isNone = false)
    (hg : ∀ th, (writeSpecial n.toNat (sreg t r (seen t 1 s)) th).getD th = g th) :
    exec (.swr t r n) s = goesOn t 1 s (modThread t g (seen t 1 s)) := by
  have hb' : ¬ (decide (n.toNat = 0x0A) && srBusy t (seen t 1 s)) = true := by simpa using hb
  rw [← funext hg]
  exact goesOn_of_ready h ((if_neg (ne_true_of_eq_false (hw _))).trans ((if_neg (ne_true_of_eq_false hf)).trans (if_neg hb')))

/-- The numbers that no register or a read-only one has cannot be written (R55). -/
theorem writeSpecial_of_readOnly {n : Nat} (v : Word64) (th : ThreadState) (hn : n = 3 ∨ (6 ≤ n ∧ n ≠ 10)) :
    writeSpecial n v th = none := by
  unfold writeSpecial
  split <;> first | omega | rfl

/-- Settles O16: SRD answers what `specialReg` gives, SWR writes what `writeSpecial` gives, number by number. -/
theorem specialRegisters : Obligations.SpecialRegisters := by
  intro t r n s h v hf hb th x set
  have hrd {w : Word64} (hw : specialReg t n.toNat v = some w) : exec (.srd t r n) s = writes t r w s := srd_of_ready h hf hw
  have hwr {g : ThreadState → ThreadState} (hw : ∀ th, (writeSpecial n.toNat 0 th).isNone = false)
      (hg : ∀ th, (writeSpecial n.toNat x th).getD th = g th) : exec (.swr t r n) s = set g := swr_of_ready h hf hb hw hg
  refine ⟨fun hn => ?_, ?_, ?_, ?_, ?_, ?_, ?_, ?_, ?_, ?_, ?_, srd_of_unassigned h, ?_, ?_, ?_, ?_, ?_, ?_, fun hn => ?_⟩
  · obtain ⟨w, hw⟩ := specialReg_of_lt t v hn
    exact ⟨w, hw, hrd hw⟩
  iterate 9 (rintro rfl; exact hrd rfl)
  · rintro rfl
    cases t <;> exact hrd rfl
  · rintro rfl
    refine hwr (fun _ => rfl) (fun th => ?_)
    show (if (x >>> 11).toNat % 16 = 0 then _ else _) = _
    split <;> rfl
  iterate 5 (rintro rfl; exact hwr (fun _ => rfl) (fun _ => rfl))
  · refine faults_of_ready h (if_pos ?_)
    rw [writeSpecial_of_readOnly _ _ hn]
    rfl

end Sys2Proof.Machine
end

section
/-! SUPPORT. Coil loops: O17. -/

namespace Sys2Proof.Machine
open Claims

/-- A change of a thread is what it makes of the thread. -/
theorem modThread_congr {t : Thread} {f g : ThreadState → ThreadState} {s : State} (h : f (getThread t s) = g (getThread t s)) :
    modThread t f s = modThread t g s := by rw [modThread, h, modThread]

/-- A level that is there, changed. -/
theorem modify_eq_set {α : Type} (l : List α) {n : Nat} (f : α → α) {a : α} (h : l[n]? = some a) :
    l.modify n f = l.set n (f a) := by
  rw [List.modify_eq_set_getElem?, h]
  rfl

/-! The levels. -/

theorem levelOk_iff (n : BitVec 32) : levelOk n = true ↔ n.toNat < 4 := by simp [levelOk]

/-- A level that COIL.BREAK and COIL.IDX name. -/
theorem namedLevel_eq {n : BitVec 32} {th : ThreadState} {l : CoilLevel} (hn : n.toNat < 4) (hl : th.coil[n.toNat]? = some l) :
    (if levelOk n then coilLevel th n.toNat else none) = some l :=
  (if_pos ((levelOk_iff n).2 hn)).trans hl

/-- A level that is not there. -/
theorem namedLevel_eq_none {n : BitVec 32} {th : ThreadState} (h : 4 ≤ n.toNat ∨ th.coil.length ≤ n.toNat) :
    (if levelOk n then coilLevel th n.toNat else none) = none := by
  split
  · next hn =>
    rw [levelOk_iff] at hn
    exact List.getElem?_eq_none (h.resolve_left (by omega))
  · rfl

theorem coilSet_level {n : BitVec 32} {th : ThreadState} :
    (!levelOk n || (coilLevel th n.toNat).isNone) = true ↔ 4 ≤ n.toNat ∨ th.coil.length ≤ n.toNat := by
  simp only [levelOk, coilLevel, Bool.or_eq_true, Bool.not_eq_true', decide_eq_false_iff_not, Option.isNone_iff_eq_none,
    List.getElem?_eq_none_iff]
  omega

theorem coilBegin_offset {n : BitVec 32} :
    (decide (n.toNat = 0) || decide (2 ^ 20 < n.toNat)) = true ↔ n.toNat = 0 ∨ 2 ^ 20 < n.toNat := by
  simp only [Bool.or_eq_true, decide_eq_true_eq]

/-! The instructions. -/

section
variable {t : Thread} {r : Reg} {n : BitVec 32} {s : State} (h : ready t 1 s)
include h

/-- COIL.BEGIN opens a level, or goes on past the loop where there is nothing to repeat (R71). -/
theorem coilBegin_of_ready (hf : free t [r] (seen t 1 s)) (h0 : 0 < n.toNat) (h20 : n.toNat ≤ 2 ^ 20)
    (hl : (getThread t (seen t 1 s)).coil.length < 4) (hx : (sreg t r (seen t 1 s)).toNat < 2 ^ 32) :
    exec (.coilBegin t r n) s =
      let th := getThread t (seen t 1 s)
      let stop := th.pc + BitVec.ofNat 48 (8 * n.toNat)
      if sreg t r (seen t 1 s) = 0 ∨ n = 1 then goesTo t 1 (stop + 8) s (seen t 1 s)
      else goesOn t 1 s (modThread t (fun h => { h with
        coil := { remaining := (sreg t r (seen t 1 s)).setWidth 32, index := 0, body := th.pc + 8, stop := stop,
                  setTo := none } :: th.coil }) (seen t 1 s)) := by
  have ho : ¬ (decide (n.toNat = 0) || decide (2 ^ 20 < n.toNat)) = true := by rw [coilBegin_offset]; omega
  have h1 : n = 1 ↔ n.toNat = 1 := ⟨fun e => by rw [e]; rfl, fun e => BitVec.eq_of_toNat_eq e⟩
  have hc : (decide (sreg t r (seen t 1 s) = 0) || decide (n.toNat = 1)) = true ↔ sreg t r (seen t 1 s) = 0 ∨ n = 1 := by
    simp only [Bool.or_eq_true, decide_eq_true_eq, h1]
  dsimp only
  split
  · next hz =>
    exact goesTo_of_ready h ((if_neg ho).trans ((if_neg (ne_true_of_eq_false hf)).trans ((if_neg (Nat.not_le.2 hl)).trans
      ((if_neg (Nat.not_le.2 hx)).trans (if_pos (hc.2 hz))))))
  · next hz =>
    refine goesOn_of_ready h ((if_neg ho).trans ((if_neg (ne_true_of_eq_false hf)).trans ((if_neg (Nat.not_le.2 hl)).trans
      ((if_neg (Nat.not_le.2 hx)).trans ((if_neg (mt hc.1 hz)).trans (congrArg _ (modThread_congr rfl)))))))

/-- COIL.BEGIN with four levels open, or with a count of 2^32 or more (R71). -/
theorem coilBegin_faults (hf : free t [r] (seen t 1 s)) (h0 : 0 < n.toNat) (h20 : n.toNat ≤ 2 ^ 20) :
    (4 ≤ (getThread t (seen t 1 s)).coil.length → exec (.coilBegin t r n) s = faults t 1 fcCoil 0 s) ∧
      ((getThread t (seen t 1 s)).coil.length < 4 → 2 ^ 32 ≤ (sreg t r (seen t 1 s)).toNat →
        exec (.coilBegin t r n) s = faults t 1 fcParam 1 s) := by
  have ho : ¬ (decide (n.toNat = 0) || decide (2 ^ 20 < n.toNat)) = true := by rw [coilBegin_offset]; omega
  exact ⟨fun hl => faults_of_ready h ((if_neg ho).trans ((if_neg (ne_true_of_eq_false hf)).trans (if_pos hl))),
    fun hl hx => faults_of_ready h ((if_neg ho).trans ((if_neg (ne_true_of_eq_false hf)).trans
      ((if_neg (Nat.not_le.2 hl)).trans (if_pos hx))))⟩

/-- COIL.END at the end of the innermost level (R72, R73). -/
theorem coilEnd_of_ready {l : CoilLevel} {outer : List CoilLevel} (hc : (getThread t (seen t 1 s)).coil = l :: outer)
    (hp : (getThread t (seen t 1 s)).pc = l.stop) :
    exec (.coilEnd t) s =
      let left := l.setTo.getD (l.remaining - 1)
      if left = 0 then goesTo t 1 (l.stop + 8) s (modThread t (fun h => { h with coil := outer }) (seen t 1 s))
      else goesTo t 1 l.body s (modThread t (fun h => { h with
        coil := { l with remaining := left, index := l.index + 1, setTo := none } :: outer }) (seen t 1 s)) := by
  dsimp only
  split
  · next hz =>
    refine goesTo_of_ready h ?_
    simp only [hc]
    exact (if_neg (not_not.2 hp)).trans (if_pos hz)
  · next hz =>
    refine goesTo_of_ready h ?_
    simp only [hc]
    exact (if_neg (not_not.2 hp)).trans (if_neg hz)

/-- COIL.END where no level ends (R412). -/
theorem coilEnd_of_none (hc : (getThread t (seen t 1 s)).coil = [] ∨
      (∃ l, (getThread t (seen t 1 s)).coil.head? = some l ∧ (getThread t (seen t 1 s)).pc ≠ l.stop)) :
    exec (.coilEnd t) s = faults t 1 fcIllegal 0 s := by
  refine faults_of_ready h ?_
  dsimp only
  split
  · rfl
  · next l outer e =>
    obtain hc | ⟨k, hk, hp⟩ := hc
    · rw [e] at hc; cases hc
    · rw [e] at hk; cases hk
      exact if_pos hp

end

/-- Settles O17: each instruction's checks in their order, and the list of levels that it leaves. -/
theorem coilLoops : Obligations.CoilLoops := by
  refine ⟨fun t r n s h => ⟨coilBegin_of_ready h, fun l outer => coilEnd_of_ready h, fun l hn hl => ⟨?_, fun hf => ⟨?_, fun hx => ?_⟩⟩⟩,
    fun t r n s h => ⟨fun hn => faults_of_ready h (if_pos (coilBegin_offset.2 hn)), coilBegin_faults h, coilEnd_of_none h,
      fun hn hl hf hx => ?_, fun hn => ⟨?_, ?_, faults_of_ready h (if_pos (coilSet_level.2 hn))⟩⟩⟩
  · refine goesTo_of_ready h ?_
    rw [namedLevel_eq hn hl]
    rfl
  · refine goesOn_of_ready h ?_
    rw [namedLevel_eq hn hl]
    exact if_neg (ne_true_of_eq_false hf)
  · have hlen := (List.getElem?_eq_some_iff.1 hl).1
    refine goesOn_of_ready h ((if_neg (by rw [coilSet_level]; omega)).trans ((if_neg (ne_true_of_eq_false hf)).trans
      ((if_neg (Nat.not_le.2 hx)).trans (congrArg _ (modThread_congr ?_)))))
    rw [modify_eq_set _ _ hl]
  · exact faults_of_ready h ((if_neg (by rw [coilSet_level]; omega)).trans ((if_neg (ne_true_of_eq_false hf)).trans (if_pos hx)))
  · refine faults_of_ready h ?_
    rw [namedLevel_eq_none hn]
    rfl
  · refine faults_of_ready h ?_
    rw [namedLevel_eq_none hn]
    rfl

end Sys2Proof.Machine
end

section
/-! SUPPORT. Synchronisation and the return from a handler: O18. -/

namespace Sys2Proof.Machine
open Claims

/-! Synchronisation (R61, R63). -/

section
variable {t : Thread} {s : State} (h : ready t 1 s)
include h

/-- With nothing of the thread in flight, FENCE goes on and HALT halts (R63). -/
theorem fence_of_done (hd : flightsOf t (seen t 1 s) = []) :
    exec (.fence t) s = goesOn t 1 s (seen t 1 s) ∧
      exec (.halt t) s = goesOn t 1 s (logEvent 0x101 (threadNum t + (getThread t (seen t 1 s)).pc.toNat)
        (modThread t (fun h => { h with halted := true }) (seen t 1 s))) :=
  ⟨goesOn_of_ready h (if_pos (by rw [hd]; rfl)), goesOn_of_ready h (if_pos (by rw [hd]; rfl))⟩

/-- With something of the thread in flight, FENCE and HALT wait (R63). -/
theorem fence_of_busy (hd : flightsOf t (seen t 1 s) ≠ []) :
    exec (.fence t) s = waits t 1 .earlier s ∧ exec (.halt t) s = waits t 1 .earlier s := by
  have hd' : ¬ (flightsOf t (seen t 1 s)).isEmpty = true := by rwa [List.isEmpty_iff]
  exact ⟨waits_of_ready h (if_neg hd'), waits_of_ready h (if_neg hd')⟩

/-- The status of a thread as an instruction that issues sees it: that from before it, but for registers and bindings. -/
theorem getThread_seen (u : Thread) :
    ∃ m b k, getThread u (seen t 1 s) = { getThread u s with regs := m, bind := b, nextIssue := k } := by
  obtain ⟨k, e⟩ := getThread_fetched h u
  obtain ⟨m, b, ev⟩ := firstView_eq t (fetched t 1 s)
  rw [seen, ev]
  by_cases hut : u = t
  · subst hut; rw [getThread_modThread_self, e]; exact ⟨m, b, k, rfl⟩
  · rw [getThread_modThread_ne _ _ hut, e]; exact ⟨_, _, k, rfl⟩

/-- The first REPLAY.SYNC waits for the second, which is the boundary (R61). -/
theorem replaySync_of_ready :
    ((getThread (otherThread t) s).atSync = false →
      exec (.replaySync t) s = goesOn t 1 s (modThread t (fun h => { h with atSync := true }) (seen t 1 s))) ∧
    ((getThread (otherThread t) s).atSync = true →
      exec (.replaySync t) s = goesOn t 1 s (listsBoundary (commitStaged
        (modThread (otherThread t) (fun h => { h with atSync := false }) (seen t 1 s))))) := by
  obtain ⟨m, b, k, e⟩ := getThread_seen h (otherThread t)
  have hs : (getThread (otherThread t) (seen t 1 s)).atSync = (getThread (otherThread t) s).atSync := by rw [e]
  rw [← hs]
  exact ⟨fun ho => goesOn_of_ready h (if_neg (ne_true_of_eq_false ho)), fun ho => goesOn_of_ready h (if_pos ho)⟩

end

/-! The return from a handler (R84). -/

/-- A PC that is aligned stays as it is. -/
theorem alignPc_alignPc (a : BitVec 48) : alignPc (alignPc a) = alignPc a := by
  rw [alignPc, alignPc, BitVec.and_assoc, BitVec.and_self]

/-- A thread that pauses keeps its registers and its handler; the end of its instructions in flight moves the state (R86). -/
theorem pauseThread_status (t : Thread) (s : State) :
    ∃ u g, FlightsOnly s u ∧ pauseThread t s = modThread t g u ∧
      ∀ th, (g th).paused = true ∧ (g th).regs = th.regs ∧ (g th).hact = th.hact := by
  unfold pauseThread
  dsimp only
  generalize (flightsOf t s).filter (fun f => f.tileOp && f.faulted.isNone) = stop
  refine ⟨_, _, ?_, rfl, fun th => ?_⟩
  · refine flightsOnly_foldl _ (fun s f => ?_) stop s
    exact flightsOnly_trans (flightsOnly_releaseLeft f s) ⟨_, _, _, rfl⟩
  · split
    · exact ⟨rfl, rfl, rfl⟩
    · split <;> exact ⟨rfl, rfl, rfl⟩

/-- After an instruction its thread may have other registers and bindings than it left (R87). -/
theorem getThread_liveView (t : Thread) (old s : State) :
    ∃ m b, getThread t (liveView t old s) = { getThread t s with regs := m, bind := b } := by
  cases hr : (getThread t old).reissuing with
  | false => rw [liveView_of_not_reissuing _ hr]; exact ⟨_, _, rfl⟩
  | true => exact ⟨_, _, getThread_liveView_of_reissuing _ hr⟩

/-- Where issue goes on after a handler: the first entry of the restart list, or else FNPC, or FPC where the two are equal (R84). -/
def returnPc (th : ThreadState) : BitVec 48 :=
  alignPc ((th.restart.head?.map (fun e => e.pc)).getD (if th.fnpc = th.fpc then th.fpc else th.fnpc))

/-- The thread after FRET, before a PAUSE that is due. -/
def returned (th : ThreadState) : ThreadState :=
  { th with hact := false, reissuing := !th.restart.isEmpty, pc := returnPc th }

/-- The state after FRET, with a PAUSE that is due (R84, R86). -/
def afterReturn (t : Thread) (s : State) : State :=
  let s := modThread t returned s
  if pauseDue s then pauseThread t s else s

/-- FRET in a handler. -/
theorem fret_of_handler {t : Thread} {s : State} (h : ready t 1 s) (ha : (getThread t (seen t 1 s)).hact = true) :
    exec (.fret t) s = goesTo t 1 (getThread t (afterReturn t (seen t 1 s))).pc s (afterReturn t (seen t 1 s)) := by
  have e : (fun th : ThreadState => { th with
      hact := false, reissuing := !th.restart.isEmpty,
      pc := alignPc (match th.restart with
        | e :: _ => e.pc
        | [] => if th.fnpc = th.fpc then th.fpc else th.fnpc) }) = returned := by
    funext th
    rw [returned, returnPc]
    cases th.restart <;> rfl
  refine goesTo_of_ready h ?_
  have ha' : ¬ (!(getThread t (seen t 1 s)).hact) = true := by rw [ha]; decide
  refine (if_neg ha').trans ?_
  rw [afterReturn, ← e] <;> rfl

/-- After the return the handler is over, and the registers, SDM and tiles are as before (R84). -/
theorem afterReturn_keeps (t : Thread) (s : State) :
    (getThread t (afterReturn t s)).hact = false ∧ (∀ u, (getThread u (afterReturn t s)).regs = (getThread u s).regs) ∧
      (afterReturn t s).sdm = s.sdm ∧ (afterReturn t s).tiles = s.tiles ∧
      (pauseDue s = true → (getThread t (afterReturn t s)).paused = true) := by
  have hm : ∀ u, (getThread u (modThread t returned s)).regs = (getThread u s).regs := fun u => by
    by_cases hu : u = t
    · subst hu; rw [getThread_modThread_self]; rfl
    · rw [getThread_modThread_ne _ _ hu]
  have hd : pauseDue (modThread t returned s) = pauseDue s := by simp [pauseDue]
  unfold afterReturn
  dsimp only
  rw [hd]
  split
  · obtain ⟨u, g, ⟨q, fs, tg, hu⟩, e, hg⟩ := pauseThread_status t (modThread t returned s)
    have hthread : ∀ v, getThread v u = getThread v (modThread t returned s) := fun v => by rw [hu]; cases v <;> rfl
    rw [e]
    refine ⟨?_, fun v => ?_, by simp [hu], by simp [hu], fun _ => ?_⟩
    · rw [getThread_modThread_self, (hg _).2.2, hthread, getThread_modThread_self]; rfl
    · rw [← hm v, ← hthread v]
      by_cases hv : v = t
      · subst hv; rw [getThread_modThread_self, (hg _).2.1]
      · rw [getThread_modThread_ne _ _ hv]
    · rw [getThread_modThread_self]; exact (hg _).1
  · next hp => exact ⟨by rw [getThread_modThread_self]; rfl, hm, by simp, by simp, fun k => absurd k hp⟩

/-- A PAUSE is due where one was before the instruction. -/
theorem pauseDue_seen {t : Thread} {s : State} (h : ready t 1 s) : pauseDue (seen t 1 s) = pauseDue s := by
  obtain ⟨m, b, ev⟩ := firstView_eq t (fetched t 1 s)
  obtain ⟨_, _, _, _, _, e⟩ := spoolOnly_fetched h
  obtain ⟨_, _, _, _, _, _, _, _, k⟩ := timeOnly_settle t s
  rw [seen, ev, pauseDue, modThread_cmd, modThread_run, e, k]
  rfl

/-- Settles O18: each instruction's checks, and the thread and state that the return leaves. -/
theorem synchronisationAndReturn : Obligations.SynchronisationAndReturn := by
  refine ⟨fun t s h => ⟨goesOn_of_ready h rfl, fence_of_done h, fence_of_busy h, replaySync_of_ready h⟩, fun t s h => ?_⟩
  intro th
  obtain ⟨m, b, k, e⟩ := getThread_seen h t
  have hh : (getThread t (seen t 1 s)).hact = th.hact := by rw [e]
  refine ⟨fun ha => faults_of_ready h (if_pos (by rw [hh, ha]; rfl)), fun ha => ?_⟩
  obtain ⟨khact, kregs, ksdm, ktiles, kpaused⟩ := afterReturn_keeps t (seen t 1 s)
  obtain ⟨m', b', ew⟩ := getThread_liveView t (fetched t 1 s) (afterReturn t (seen t 1 s))
  have hout (a : BitVec 48) : holdings (jumpTo t a (liveView t (fetched t 1 s) (afterReturn t (seen t 1 s)))) =
      holdings (afterReturn t (seen t 1 s)) := by simp
  refine ⟨_, fret_of_handler h (hh.trans ha), ?_, fun u r => ?_, ?_, ?_, fun hp => ?_, fun hp => ?_⟩
  · rw [getThread_jumpTo, ew]
    exact khact
  · rw [sreg_jumpTo]
    exact sreg_congr u r (regs_liveView h kregs u)
  · rw [sdm_of_holdings (hout _), ksdm, sdm_of_holdings (holdings_seen h)]
  · rw [tiles_of_holdings (hout _), ktiles, tiles_of_holdings (holdings_seen h)]
  · rw [getThread_jumpTo, ew]
    exact kpaused ((pauseDue_seen h).trans hp)
  · have ha : afterReturn t (seen t 1 s) = modThread t returned (seen t 1 s) := by
      have hd : pauseDue (modThread t returned (seen t 1 s)) = false := by
        rw [← hp, ← pauseDue_seen h]; simp [pauseDue]
      rw [afterReturn, hd]
      rfl
    rw [getThread_jumpTo, ew, ha, getThread_modThread_self, e]
    exact ⟨rfl, rfl, alignPc_alignPc _⟩

end Sys2Proof.Machine
end

section
/-! SUPPORT. Instruction words: O60. -/

namespace Sys2Proof.Machine
open Claims

/-! Bits and fields of a word. -/

/-- A word with bits of a mask only has no other bit set. -/
theorem testBit_of_onlyBits {w : Word64} {mask i : Nat} (h : onlyBits w mask = true) (hi : mask.testBit i = false) :
    w.toNat.testBit i = false := by
  by_cases h64 : i < 64
  · have hw : (w &&& ~~~(BitVec.ofNat 64 mask)).getLsbD i = false := by
      rw [eq_of_beq h]; exact BitVec.getLsbD_zero
    rw [BitVec.getLsbD_and, BitVec.getLsbD_not, BitVec.getLsbD_ofNat, hi] at hw
    simpa [h64, BitVec.getLsbD] using hw
  · exact Nat.testBit_lt_two_pow (Nat.lt_of_lt_of_le w.isLt (Nat.pow_le_pow_right (by decide) (by omega)))

/-- A field without a set bit is zero. -/
theorem wordBits_eq_zero {w : Word64} {lo n : Nat} (h : ∀ i, i < n → w.toNat.testBit (lo + i) = false) :
    wordBits w lo n = 0 := by
  refine Nat.zero_of_testBit_eq_false fun i => ?_
  rw [wordBits, Nat.testBit_mod_two_pow, Nat.testBit_div_two_pow]
  by_cases hi : i < n
  · rw [Nat.add_comm, h i hi, Bool.and_false]
  · simp [hi]

/-- A field is zero that lies outside the bits a word may set. -/
theorem wordBits_of_onlyBits {w : Word64} {mask lo n : Nat} (h : onlyBits w mask = true)
    (hm : ∀ i, i < n → mask.testBit (lo + i) = false) : wordBits w lo n = 0 :=
  wordBits_eq_zero fun i hi => testBit_of_onlyBits h (hm i hi)

/-- A word with bits below `n` only is below 2^n. -/
theorem toNat_lt_of_onlyBits {w : Word64} {n : Nat} (h : onlyBits w (2 ^ n - 1) = true) : w.toNat < 2 ^ n :=
  Nat.lt_pow_two_of_testBit _ fun i hi =>
    testBit_of_onlyBits h (by rw [Nat.testBit_two_pow_sub_one, decide_eq_false_iff_not]; omega)

/-! Scalar words (R412). -/

/-- A scalar word with a set bit that its instruction does not carry is no instruction. -/
theorem decodeWords_of_scalarBits {t : Thread} {w0 : Word64} (w1 w2 : Word64) {u : ScalarUse}
    (hu : scalarUse (wordBits w0 0 8) = some u) (hopc : wordBits w0 0 8 < 0x60) (hb : ¬ onlyBits w0 (scalarMask u) = true) :
    decodeWords t w0 w1 w2 = none := by
  have hb' : (!onlyBits w0 (scalarMask u)) = true := by simpa using hb
  unfold decodeWords
  simp only [hopc, if_true, decodeScalar, hu, hb']

/-- NOP carries nothing but its opcode. -/
theorem decodeWords_nop {t : Thread} {w0 : Word64} (w1 w2 : Word64) (h0 : wordBits w0 0 8 = 0) (hw : w0 ≠ 0) :
    decodeWords t w0 w1 w2 = none := by
  refine decodeWords_of_scalarBits w1 w2 (by rw [h0]; rfl) (by omega) fun hb => hw ?_
  have hlt : w0.toNat < 2 ^ 8 := toNat_lt_of_onlyBits hb
  refine BitVec.eq_of_toNat_eq ?_
  have h0' : w0.toNat / 2 ^ 0 % 2 ^ 8 = 0 := h0
  show w0.toNat = 0
  omega

/-- The three-register instructions 0x01 to 0x08 carry bits below 23. -/
theorem decodeWords_threeRegisters {t : Thread} {w0 : Word64} (w1 w2 : Word64) (hlo : 1 ≤ wordBits w0 0 8)
    (hhi : wordBits w0 0 8 ≤ 8) (hw : 2 ^ 23 ≤ w0.toNat) : decodeWords t w0 w1 w2 = none := by
  have hu : scalarUse (wordBits w0 0 8) = some
      { rd := true, rs1 := true, rs2 := true, rs3 := false, rnd := false, num := false, imm := false } := by
    generalize wordBits w0 0 8 = opc at hlo hhi
    interval_cases opc <;> rfl
  refine decodeWords_of_scalarBits w1 w2 hu (by omega) fun hb => ?_
  have : w0.toNat < 2 ^ 23 := toNat_lt_of_onlyBits hb
  omega

/-- The branches carry neither bits 12 to 8 nor bits 31 to 23. -/
theorem decodeWords_branch {t : Thread} {w0 : Word64} (w1 w2 : Word64) (hlo : 0x20 ≤ wordBits w0 0 8)
    (hhi : wordBits w0 0 8 ≤ 0x25) (hw : wordBits w0 8 5 ≠ 0 ∨ wordBits w0 23 9 ≠ 0) : decodeWords t w0 w1 w2 = none := by
  have hu : scalarUse (wordBits w0 0 8) = some
      { rd := false, rs1 := true, rs2 := true, rs3 := false, rnd := false, num := false, imm := true } := by
    generalize wordBits w0 0 8 = opc at hlo hhi
    interval_cases opc <;> rfl
  refine decodeWords_of_scalarBits w1 w2 hu (by omega) fun hb => ?_
  rcases hw with hw | hw
  · exact hw (wordBits_of_onlyBits hb (by decide))
  · exact hw (wordBits_of_onlyBits hb (by decide))

/-! Words of an instruction (R410, R411). -/

/-- The scalar opcodes have no layout. -/
theorem layoutOf_scalar {opc : Nat} (h : opc < 0x60) : layoutOf opc = none := by
  interval_cases opc <;> rfl

/-- A layout has one word or two. -/
theorem layoutOf_words {opc : Nat} {l : Layout} (h : layoutOf opc = some l) : l.words = 1 ∨ l.words = 2 := by
  unfold layoutOf at h
  dsimp only at h
  split at h <;> cases h <;> decide

/-- The opcodes of two words or more, by their ranges. -/
theorem wordCount_cases (opc : Nat) : wordCount opc = 1 ∨
    (wordCount opc = 2 ∧ 0x60 ≤ opc ∧ ∃ l, layoutOf opc = some l ∧ l.words = 2) ∨
    (wordCount opc = 3 ∧ 0xC0 ≤ opc ∧ opc ≤ 0xC4) := by
  unfold wordCount
  split
  · next h => exact .inr (.inr ⟨rfl, h⟩)
  · split
    · next l hl =>
      rcases layoutOf_words hl with hw | hw
      · exact .inl hw
      · refine .inr (.inl ⟨hw, ?_, l, hl, hw⟩)
        by_contra hlt
        rw [layoutOf_scalar (by omega)] at hl
        cases hl
    · exact .inl rfl

/-- A TDC-3 form has extension words behind its first. -/
theorem decodeC3_of_notExtension {t : Thread} {w0 w1 w2 : Word64} (h : isExtension w1 = false ∨ isExtension w2 = false) :
    decodeC3 t w0 w1 w2 = none := by
  unfold decodeC3
  dsimp only
  split
  · rfl
  · rcases h with h | h <;> simp [h]

theorem isExtension_eq_false {w : Word64} (h : wordBits w 0 8 ≠ 0xFE) : isExtension w = false := by simpa [isExtension] using h

/-- A second word that is no extension word spells no instruction. -/
theorem decodeWords_of_secondWord {t : Thread} {w0 w1 : Word64} (w2 : Word64) (hn : 2 ≤ wordCount (wordBits w0 0 8))
    (h1 : wordBits w1 0 8 ≠ 0xFE) : decodeWords t w0 w1 w2 = none := by
  have hx := isExtension_eq_false h1
  rcases wordCount_cases (wordBits w0 0 8) with hc | ⟨-, hlo, l, hl, hw⟩ | ⟨-, hlo, -⟩
  · omega
  · unfold decodeWords
    dsimp only
    rw [if_neg (by omega)]
    split
    · simp [decodeTensor, hl, hw, hx]
    · exact decodeC3_of_notExtension (.inl hx)
  · unfold decodeWords
    dsimp only
    rw [if_neg (by omega), if_neg (by omega)]
    exact decodeC3_of_notExtension (.inl hx)

/-- A third word that is no extension word spells no instruction. -/
theorem decodeWords_of_thirdWord {t : Thread} {w0 : Word64} (w1 : Word64) {w2 : Word64} (hn : wordCount (wordBits w0 0 8) = 3)
    (h2 : wordBits w2 0 8 ≠ 0xFE) : decodeWords t w0 w1 w2 = none := by
  rcases wordCount_cases (wordBits w0 0 8) with hc | ⟨hc, -⟩ | ⟨-, hlo, -⟩
  · omega
  · omega
  · unfold decodeWords
    dsimp only
    rw [if_neg (by omega), if_neg (by omega)]
    exact decodeC3_of_notExtension (.inr (isExtension_eq_false h2))

/-- The opcodes above the TDC-3 forms, the extension opcode among them, are reserved. -/
theorem decodeWords_of_reserved {t : Thread} {w0 : Word64} (w1 w2 : Word64) (h : 0xC4 < wordBits w0 0 8) :
    decodeWords t w0 w1 w2 = none := by
  have hn : nativeOpc (wordBits w0 0 8) = none := by
    unfold nativeOpc
    split <;> first | omega | rfl
  unfold decodeWords
  dsimp only
  rw [if_neg (by omega), if_neg (by omega)]
  simp [decodeC3, hn]

/-- Settles O60: the decoder's refusals, and the words that the Spool holds at the PC. -/
theorem instructionWords : Obligations.InstructionWords := by
  intro t w0 w1 w2 s opc n none? pc at_
  refine ⟨fun i hi => by simp only [issueWords, hi], fun hn h => ?_, decodeWords_of_reserved w1 w2,
    decodeWords_of_secondWord w2, decodeWords_of_thirdWord w1, decodeWords_nop w1 w2, decodeWords_threeRegisters w1 w2,
    decodeWords_branch w1 w2, fun hw => ?_⟩
  · simp only [issueWords, show decodeWords t w0 w1 w2 = none from hn]
    exact faults_of_ready h rfl
  · have hs : spoolWords t s = [at_ 0, at_ 1, at_ 2] := rfl
    simp only [issueNext, hs, hw, if_true]

end Sys2Proof.Machine
end

section
/-! SUPPORT. The frame of the instructions that compute a register or the PC: O19. -/

namespace Sys2Proof.Machine
open Claims

/-- A running cluster whose thread TA lists register s3 before s2, so that s2 reads as zero behind it. -/
def misorderedRegisters : State :=
  { State.reset with
    run := { State.reset.run with porN := true, rstN := true, step := 0, state := .run, owner := .tether }
    spool := { State.reset.spool with lines := [{ tag := 0, pinned := false, data := [] }] }
    ta := { State.reset.ta with regs := [(3, 1), (2, 5)] } }

/-- Where s3 is cleared it leaves the list, and s2 reads what stood behind it. -/
theorem li_misorderedRegisters : ∃ s', exec (.li .ta 3 0) misorderedRegisters = .next s' ∧ sreg .ta 2 s' = 5 :=
  ⟨_, rfl, by decide +kernel⟩

/-- Refutes O19: no premise keeps the registers canonical, and the write of zero to s3 changes what s2 reads. -/
theorem not_scalarFrame : ¬ Obligations.ScalarFrame := by
  intro h
  obtain ⟨s', he, h5⟩ := li_misorderedRegisters
  have h0 : sreg .ta 2 misorderedRegisters = 0 := by decide
  obtain rfl | ⟨-, -, hregs, -⟩ := h (.li .ta 3 0) .ta 3 misorderedRegisters s' rfl he
  · rw [h0] at h5; exact absurd h5 (by decide)
  · rw [hregs 2 (by decide), h0] at h5; exact absurd h5 (by decide)

end Sys2Proof.Machine
end

section
/-! SUPPORT. The state at reset: O3. -/

namespace Sys2Proof.Machine

/-- A thread at reset: every register zero, LFSR 1, no loop open, no handler, not halted (R55, R56). -/
theorem thread_reset (t : Thread) (r : Reg) :
    sreg t r State.reset = 0 ∧ (getThread t State.reset).lfsr = 1 ∧ (getThread t State.reset).coil = [] ∧
      (getThread t State.reset).hvec = 0 ∧ (getThread t State.reset).halted = false := by
  have hr : (getThread t State.reset).regs = [] := by cases t <;> rfl
  refine ⟨?_, by cases t <;> rfl, by cases t <;> rfl, by cases t <;> rfl, by cases t <;> rfl⟩
  rw [sreg, readReg, hr]
  exact ite_self _

/-- Settles O3: every map of the reset state is empty, so each of its entries reads as the reset value of its kind. -/
theorem resetLeavesInitialState : Obligations.ResetLeavesInitialState :=
  ⟨rfl, rfl, rfl, rfl, thread_reset, fun _ => ⟨rfl, rfl, rfl, rfl, rfl, rfl, rfl, rfl, rfl⟩, fun _ => rfl, fun _ => rfl, rfl, rfl,
    rfl⟩

end Sys2Proof.Machine
end

section
/-! SUPPORT. Spool control: O29. -/

namespace Sys2Proof.Machine
open Claims

/-! Lines that are asked for. -/

/-- A fill of a line ahead of its use is in flight, and pins the line if it shall (R78). -/
def fillsLine (pin : Bool) (s : State) (a : BitVec 48) : Prop :=
  ∃ f ∈ s.spool.fills, f.tag = a ∧ f.ahead = true ∧ (pin = true → f.pin = true) ∧ f.discard = false

/-- Every resident line of an address is pinned. -/
def linePinned (s : State) (a : BitVec 48) : Prop := ∀ l ∈ s.spool.lines, l.tag = a → l.pinned = true

/-- What SPOOL.PREFETCH and SPOOL.PIN do to one line (R78). -/
def askLine (pin : Bool) (s : State) (a : BitVec 48) : State :=
  if spoolHit s a then
    if pin then
      { s with spool := { s.spool with lines := s.spool.lines.map (fun l => if l.tag == a then { l with pinned := true } else l) } }
    else s
  else spoolFill a none true pin s

theorem spoolHit_iff (s : State) (a : BitVec 48) : spoolHit s a = true ↔ ∃ l ∈ s.spool.lines, l.tag = a := by
  simp [spoolHit]

/-- A fill leaves the lines alone. -/
theorem spoolFill_lines (a : BitVec 48) (t : Option Thread) (ahead pin : Bool) (s : State) :
    (spoolFill a t ahead pin s).spool.lines = s.spool.lines := by
  unfold spoolFill
  dsimp only
  split <;> rfl

/-- What a fill ahead makes of a fill in flight: it joins that of its line. -/
def joinAhead (a : BitVec 48) (pin : Bool) (f : SpoolFill) : SpoolFill :=
  if f.tag == a && !f.discard then { f with ahead := true, pin := f.pin || pin } else f

/-- The fills after a fill ahead: it joins the one in flight, or comes behind them (R77, R78). -/
theorem spoolFill_fills (a : BitVec 48) (pin : Bool) (s : State) : (spoolFill a none true pin s).spool.fills =
    if s.spool.fills.any (fun f => f.tag == a && !f.discard) then s.spool.fills.map (joinAhead a pin)
    else s.spool.fills ++ [{ tag := a, pin := pin, demandTa := false, demandTx := false, ahead := true, discard := false }] := by
  unfold spoolFill
  dsimp only
  split
  · refine List.map_congr_left fun f _ => ?_
    unfold joinAhead
    split
    · simp only [Bool.or_true]
      congr 1
      · exact Bool.or_false _
      · exact Bool.or_false _
    · rfl
  · rfl

/-- The fill of a line is in flight after it has been asked for. -/
theorem fillsLine_spoolFill_self (pin : Bool) (a : BitVec 48) (s : State) : fillsLine pin (spoolFill a none true pin s) a := by
  unfold fillsLine
  rw [spoolFill_fills]
  split
  · next h =>
    obtain ⟨f, hf, he⟩ := List.any_eq_true.1 h
    refine ⟨joinAhead a pin f, List.mem_map_of_mem hf, ?_⟩
    simp only [Bool.and_eq_true, beq_iff_eq, Bool.not_eq_true'] at he
    rw [joinAhead, if_pos (by simp [he])]
    exact ⟨he.1, rfl, fun hp => by simp [hp], he.2⟩
  · exact ⟨_, List.mem_append_right _ (List.mem_singleton_self _), rfl, rfl, id, rfl⟩

/-- The fills in flight go on when another line is asked for. -/
theorem fillsLine_spoolFill {pin : Bool} {s : State} {b : BitVec 48} (a : BitVec 48) (h : fillsLine pin s b) :
    fillsLine pin (spoolFill a none true pin s) b := by
  obtain ⟨f, hf, ht, ha, hp, hd⟩ := h
  unfold fillsLine
  rw [spoolFill_fills]
  split
  · refine ⟨joinAhead a pin f, List.mem_map_of_mem hf, ?_⟩
    unfold joinAhead
    split
    · exact ⟨ht, rfl, fun h => by simp [h], hd⟩
    · exact ⟨ht, ha, hp, hd⟩
  · exact ⟨f, List.mem_append_left _ hf, ht, ha, hp, hd⟩

/-- A line that is asked for stays as resident as it was. -/
theorem spoolHit_askLine (pin : Bool) (a b : BitVec 48) (s : State) : spoolHit (askLine pin s a) b = spoolHit s b := by
  unfold askLine
  split
  · split
    · simp only [spoolHit, List.any_map]
      congr 1
      funext l
      simp only [Function.comp_apply]
      split <;> rfl
    · rfl
  · rw [spoolHit, spoolFill_lines, spoolHit]

theorem fillsLine_askLine {pin : Bool} {s : State} {b : BitVec 48} (a : BitVec 48) (h : fillsLine pin s b) :
    fillsLine pin (askLine pin s a) b := by
  unfold askLine
  split
  · split <;> exact h
  · exact fillsLine_spoolFill a h

/-- A line that is asked for is resident, or its fill is in flight. -/
theorem fillsLine_askLine_self (pin : Bool) (s : State) (a : BitVec 48) :
    spoolHit s a = true ∨ fillsLine pin (askLine pin s a) a := by
  unfold askLine
  split
  · next h => exact .inl h
  · exact .inr (fillsLine_spoolFill_self pin a s)

/-- Lines stay pinned when others are. -/
theorem linePinned_askLine {s : State} {b : BitVec 48} (a : BitVec 48) (h : linePinned s b) : linePinned (askLine true s a) b := by
  unfold askLine
  split
  · rw [if_pos rfl]
    intro l hl ht
    obtain ⟨m, hm, rfl⟩ := List.mem_map.1 hl
    by_cases hc : (m.tag == a) = true
    · rw [if_pos hc]
    · rw [if_neg hc] at ht ⊢
      exact h m hm ht
  · intro l hl ht
    rw [spoolFill_lines] at hl
    exact h l hl ht

/-- SPOOL.PIN pins a resident line. -/
theorem linePinned_askLine_self (s : State) (a : BitVec 48) : linePinned (askLine true s a) a := by
  unfold askLine
  split
  · rw [if_pos rfl]
    intro l hl ht
    obtain ⟨m, hm, rfl⟩ := List.mem_map.1 hl
    by_cases hc : (m.tag == a) = true
    · rw [if_pos hc]
    · rw [if_neg hc] at ht ⊢
      exact absurd (beq_iff_eq.2 ht) hc
  · next hs =>
    intro l hl ht
    rw [spoolFill_lines] at hl
    exact absurd ((spoolHit_iff s a).2 ⟨l, hl, ht⟩) hs

/-- After lines have been asked for each is resident or its fill is in flight; fills in flight go on. -/
theorem fillsLine_askLines (pin : Bool) (ls : List (BitVec 48)) (s : State) :
    (∀ b, fillsLine pin s b → fillsLine pin (ls.foldl (askLine pin) s) b) ∧
      ∀ a ∈ ls, spoolHit s a = true ∨ fillsLine pin (ls.foldl (askLine pin) s) a := by
  induction ls generalizing s with
  | nil => exact ⟨fun _ h => h, fun _ h => absurd h List.not_mem_nil⟩
  | cons b ls ih =>
    obtain ⟨hk, ha⟩ := ih (askLine pin s b)
    refine ⟨fun c h => hk c (fillsLine_askLine b h), fun a h => ?_⟩
    rcases List.mem_cons.1 h with rfl | h
    · exact (fillsLine_askLine_self pin s a).imp id (hk a)
    · rw [← spoolHit_askLine pin b a s]
      exact ha a h

/-- After SPOOL.PIN every resident line that it names is pinned. -/
theorem linePinned_askLines (ls : List (BitVec 48)) (s : State) :
    (∀ b, linePinned s b → linePinned (ls.foldl (askLine true) s) b) ∧
      ∀ a ∈ ls, linePinned (ls.foldl (askLine true) s) a := by
  induction ls generalizing s with
  | nil => exact ⟨fun _ h => h, fun _ h => absurd h List.not_mem_nil⟩
  | cons b ls ih =>
    obtain ⟨hk, ha⟩ := ih (askLine true s b)
    refine ⟨fun c h => hk c (linePinned_askLine b h), fun a h => ?_⟩
    rcases List.mem_cons.1 h with rfl | h
    · exact hk a (linePinned_askLine_self s a)
    · exact ha a h

/-- SPOOL.PREFETCH leaves the lines alone. -/
theorem lines_prefetch (ls : List (BitVec 48)) (s : State) : (ls.foldl (askLine false) s).spool.lines = s.spool.lines := by
  induction ls generalizing s with
  | nil => rfl
  | cons b ls ih =>
    rw [List.foldl_cons, ih, askLine]
    split
    · rfl
    · exact spoolFill_lines _ _ _ _ _

/-! The instructions. -/

/-- The pinned lines of a line's set once those that a SPOOL.PIN names are pinned as well (R78). -/
def pinsAfter (s : State) (ls : List (BitVec 48)) (a : BitVec 48) : Nat :=
  ((pinnedIn s (spoolSet s a) ++ ls.filter (fun b => spoolSet s b == spoolSet s a)).eraseDups).length

/-- SPOOL.PREFETCH and SPOOL.PIN: the operand, the check of the pins, and the lines in turn. -/
theorem issueSpoolFill_eq (t : Thread) (pin : Bool) (ss : Reg) (n1 : BitVec 6) (s : State) :
    issueSpoolFill t pin ss n1 s = verdict (spoolOperand t ss s >>= fun w =>
      need (!pin || (spoolNamed w (rowCount n1)).all (fun a => decide (pinsAfter s (spoolNamed w (rowCount n1)) a < 4)))
        (paramRange 0) >>= fun _ => pure (.go ((spoolNamed w (rowCount n1)).foldl (askLine pin) s))) := rfl

section
variable {ss : Reg} {n1 : BitVec 6} {s : State} (h : ready .ta 1 s) (hf : free .ta [ss] (seen .ta 1 s))
  (h128 : (sreg .ta ss (seen .ta 1 s)).toNat % 128 = 0) (h48 : (sreg .ta ss (seen .ta 1 s)).toNat < 2 ^ 48)
include hf h128 h48

/-- The address operand passes its checks. -/
theorem spoolOperand_ok : spoolOperand .ta ss (seen .ta 1 s) = .ok (sreg .ta ss (seen .ta 1 s)) := by
  have hr : regsHeld .ta [ss] (seen .ta 1 s) = false := hf
  have ho : ((sreg .ta ss (seen .ta 1 s)).toNat % 128 == 0 && decide ((sreg .ta ss (seen .ta 1 s)).toNat < 2 ^ 48)) = true := by
    rw [h128, decide_eq_true h48]; rfl
  simp only [spoolOperand, onlyThread, regsReady, need, hr, ho]
  rfl

include h

/-- SPOOL.PREFETCH asks for its lines; SPOOL.PIN does where no set comes to four pinned ways. -/
theorem spoolFill_of_ready (pin : Bool)
    (hp : pin = true → ∀ a ∈ spoolNamed (sreg .ta ss (seen .ta 1 s)) (rowCount n1),
      pinsAfter (seen .ta 1 s) (spoolNamed (sreg .ta ss (seen .ta 1 s)) (rowCount n1)) a < 4) :
    Host.Outcome.next (issue .ta 1 (issueSpoolFill .ta pin ss n1) s) =
      goesOn .ta 1 s ((spoolNamed (sreg .ta ss (seen .ta 1 s)) (rowCount n1)).foldl (askLine pin) (seen .ta 1 s)) := by
  refine goesOn_of_ready h ?_
  have hn : (!pin || (spoolNamed (sreg .ta ss (seen .ta 1 s)) (rowCount n1)).all (fun a =>
      decide (pinsAfter (seen .ta 1 s) (spoolNamed (sreg .ta ss (seen .ta 1 s)) (rowCount n1)) a < 4))) = true := by
    cases pin with
    | false => rfl
    | true => simpa using hp rfl
  rw [issueSpoolFill_eq, spoolOperand_ok hf h128 h48, ok_bind, need, hn]
  rfl

/-- SPOOL.PIN where a set would come to four pinned ways (log entry 56). -/
theorem spoolPin_of_full
    (hp : ∃ a ∈ spoolNamed (sreg .ta ss (seen .ta 1 s)) (rowCount n1),
      4 ≤ pinsAfter (seen .ta 1 s) (spoolNamed (sreg .ta ss (seen .ta 1 s)) (rowCount n1)) a) :
    Host.Outcome.next (issue .ta 1 (issueSpoolFill .ta true ss n1) s) = faults .ta 1 fcParam 0 s := by
  refine faults_of_ready h ?_
  have hn : (!true || (spoolNamed (sreg .ta ss (seen .ta 1 s)) (rowCount n1)).all (fun a =>
      decide (pinsAfter (seen .ta 1 s) (spoolNamed (sreg .ta ss (seen .ta 1 s)) (rowCount n1)) a < 4))) = false := by
    simpa using hp
  rw [issueSpoolFill_eq, spoolOperand_ok hf h128 h48, ok_bind, need, hn]
  rfl

end

/-- What an instruction leaves of the Spool stands after its issue. -/
theorem spool_goesOn (t : Thread) (n : Nat) (old s : State) : (advance t n (liveView t old s)).spool = s.spool := by
  unfold liveView advance
  split <;> simp

/-- The lines of the operand after SPOOL.UNPIN are not pinned, nor will those be that are being filled (R78). -/
theorem spoolUnpin_of_ready {ss : Reg} {n1 : BitVec 6} {s : State} (h : ready .ta 1 s) (hf : free .ta [ss] (seen .ta 1 s))
    (h128 : (sreg .ta ss (seen .ta 1 s)).toNat % 128 = 0) (h48 : (sreg .ta ss (seen .ta 1 s)).toNat < 2 ^ 48) :
    ∃ s', exec (.spoolUnpin .ta ss n1) s = .next s' ∧
      (∀ l ∈ s'.spool.lines, l.tag ∈ spoolNamed (sreg .ta ss (seen .ta 1 s)) (rowCount n1) → l.pinned = false) ∧
      (∀ f ∈ s'.spool.fills, f.tag ∈ spoolNamed (sreg .ta ss (seen .ta 1 s)) (rowCount n1) → f.pin = false) := by
  generalize hls : spoolNamed (sreg .ta ss (seen .ta 1 s)) (rowCount n1) = ls
  have hi : issueSpoolUnpin .ta ss n1 (seen .ta 1 s) = .go { seen .ta 1 s with spool :=
      { lines := (seen .ta 1 s).spool.lines.map (fun l => if ls.contains l.tag then { l with pinned := false } else l)
        fills := (seen .ta 1 s).spool.fills.map (fun f => if ls.contains f.tag then { f with pin := false } else f) } } := by
    rw [← hls, issueSpoolUnpin, spoolOperand_ok hf h128 h48]
    rfl
  refine ⟨_, goesOn_of_ready h hi, ?_, ?_⟩ <;> rw [spool_goesOn] <;> intro x hx ht <;> obtain ⟨m, hm, rfl⟩ := List.mem_map.1 hx
  · by_cases hc : ls.contains m.tag = true
    · rw [if_pos hc]
    · rw [if_neg hc] at ht
      exact absurd (List.contains_iff_mem.2 ht) hc
  · by_cases hc : ls.contains m.tag = true
    · rw [if_pos hc]
    · rw [if_neg hc] at ht
      exact absurd (List.contains_iff_mem.2 ht) hc

/-- SPOOL.INV empties the Spool, discards the fills in flight, and leaves the local store and SDM alone (R78). -/
theorem spoolInv_of_ready {s : State} (h : ready .ta 1 s) :
    ∃ s', exec (.spoolInv .ta) s = .next s' ∧ s'.spool.lines = [] ∧ (∀ f ∈ s'.spool.fills, f.discard = true) ∧
      s'.ls = (seen .ta 1 s).ls ∧ s'.sdm = s.sdm := by
  refine ⟨_, goesOn_of_ready h rfl, ?_, ?_, ?_, ?_⟩
  · rw [spool_goesOn]
  · rw [spool_goesOn]
    intro f hf
    obtain ⟨m, hm, rfl⟩ := List.mem_map.1 hf
    rfl
  · unfold liveView advance
    split <;> simp
  · rw [sdm_of_holdings ((holdings_advance _ _ _).trans (holdings_liveView _ _ _)), ← sdm_of_holdings (holdings_seen h)]

/-- Settles O29: the lines are taken in turn, and each keeps what the others have gained. -/
theorem spoolControl : Obligations.SpoolControl := by
  intro ss n1 s h v w ls pins
  refine ⟨fun hf h128 h48 => ⟨?_, fun hp => ?_, fun hp => spoolPin_of_full h hf h128 h48 hp, spoolUnpin_of_ready h hf h128 h48⟩,
    spoolInv_of_ready h⟩
  · refine ⟨_, spoolFill_of_ready h hf h128 h48 false (fun k => absurd k (by decide)), ?_, fun a ha => ?_⟩
    · rw [spool_goesOn]
      exact lines_prefetch _ _
    · refine ((fillsLine_askLines false ls v).2 a ha).imp id fun hfl => ?_
      obtain ⟨f, hf, ht, hah, -, hd⟩ := hfl
      exact ⟨f, by rw [spool_goesOn]; exact hf, ht, hah, hd⟩
  · refine ⟨_, spoolFill_of_ready h hf h128 h48 true (fun _ => hp), fun a ha => ⟨?_, ?_⟩⟩
    · rw [spool_goesOn]
      exact (linePinned_askLines ls v).2 a ha
    · refine ((fillsLine_askLines true ls v).2 a ha).imp id fun hfl => ?_
      obtain ⟨f, hf, ht, -, hp, hd⟩ := hfl
      exact ⟨f, by rw [spool_goesOn]; exact hf, ht, hp rfl, hd⟩

end Sys2Proof.Machine
end

section
/-! SUPPORT. Fault handlers: O43. -/

namespace Sys2Proof.Machine
open Claims

/-- A thread that has taken a fault: the fault, where issue would go on, and its restart list (R82). -/
def taken (fc : BitVec 8) (pc : BitVec 48) (v : Word64) (fnpc : BitVec 48) (l : List RestartEntry) (th : ThreadState) : ThreadState :=
  { th with fc := fc, fpc := pc, fval := v, fnpc := fnpc, restart := l, phase := .normal, reissuing := false }

/-- A thread that has taken a fault and enters its handler (R82, R83). -/
def handling (fc : BitVec 8) (pc : BitVec 48) (v : Word64) (fnpc : BitVec 48) (l : List RestartEntry) (th : ThreadState) :
    ThreadState :=
  { taken fc pc v fnpc l th with hact := true, pc := alignPc th.hvec }

/-- What a handler's entry leaves: the fault stands in its thread, and no register, memory, tile or other thread moves. -/
theorem handling_frame {t : Thread} {fc : BitVec 8} {pc fnpc : BitVec 48} {v : Word64} {l : List RestartEntry} {s u : State}
    (hu : ∀ w, getThread w u = getThread w s) (hs : u.sdm = s.sdm) (ht : u.tiles = s.tiles) :
    let s' := modThread t (handling fc pc v fnpc l) u
    (getThread t s').fc = fc ∧ (getThread t s').fpc = pc ∧ (getThread t s').fval = v ∧ (getThread t s').fnpc = fnpc ∧
    (getThread t s').restart = l ∧ (getThread t s').hact = true ∧ (getThread t s').pc = alignPc (getThread t s).hvec ∧
    (getThread t s').phase = .normal ∧ (∀ u r, sreg u r s' = sreg u r s) ∧ s'.sdm = s.sdm ∧ s'.tiles = s.tiles ∧
    getThread (otherThread t) s' = getThread (otherThread t) s := by
  have hr (w : Thread) (r : Reg) : sreg w r (modThread t (handling fc pc v fnpc l) u) = sreg w r s := by
    rw [sreg_modThread t w r _ u rfl]
    exact sreg_congr w r (by rw [hu])
  simp [handling, taken, hu, hs, ht, hr]

/-- The entry to a handler for a single fault at issue (R81, R83). -/
theorem enterHandler_of_issueFault {t : Thread} {f : FaultRec} {fnpc : BitVec 48} {s : State}
    (ha : (getThread t s).hact = false) (hv : (getThread t s).hvec ≠ 0) :
    enterHandler t [f] none fnpc s = modThread t (handling f.fc f.pc f.fval fnpc []) (bump (cntFault t) 1 s) := by
  unfold enterHandler
  cases t
  · rw [if_neg (by rw [ha]; decide)]; exact if_neg hv
  · rw [if_neg (by rw [ha]; decide)]; exact if_neg hv

/-- The entry to a handler with a restart list: its first entry is the fault (R82). -/
theorem enterHandler_of_restart {t : Thread} {fs : List FaultRec} {e : RestartEntry} {l : List RestartEntry} {fnpc : BitVec 48}
    {s : State} (ha : (getThread t s).hact = false) (hv : (getThread t s).hvec ≠ 0) :
    enterHandler t fs (some (e :: l)) fnpc s =
      modThread t (handling e.fc e.pc e.detail fnpc (e :: l)) (bump (cntFault t) fs.length s) := by
  unfold enterHandler
  cases t
  · rw [if_neg (by rw [ha]; decide)]; exact if_neg hv
  · rw [if_neg (by rw [ha]; decide)]; exact if_neg hv

/-- A fault without a handler is taken and stops its thread (R85). -/
theorem enterHandler_of_no_handler {t : Thread} {f : FaultRec} {fnpc : BitVec 48} {s : State}
    (ha : (getThread t s).hact = false) (hv : (getThread t s).hvec = 0) :
    ∃ d, enterHandler t [f] none fnpc s = logEvent 0x103 d
      (modThread t (fun th => { taken f.fc f.pc f.fval fnpc [] th with stopped := true }) (bump (cntFault t) 1 s)) := by
  unfold enterHandler
  cases t
  · rw [if_neg (by rw [ha]; decide)]; exact ⟨_, if_pos hv⟩
  · rw [if_neg (by rw [ha]; decide)]; exact ⟨_, if_pos hv⟩

/-- A fault in a handler stops its thread at the faulting instruction (R85). -/
theorem enterHandler_in_handler {t : Thread} {f : FaultRec} {fnpc : BitVec 48} {s : State} (ha : (getThread t s).hact = true) :
    ∃ d, enterHandler t [f] none fnpc s = logEvent 0x102 d
      (modThread t (fun th => { th with stopped := true, phase := .normal, pc := alignPc f.pc }) (bump (cntFault t) 1 s)) :=
  ⟨_, if_pos ha⟩

/-- Outside retention a due handler's entry is taken behind the lull (R327). -/
theorem exec_faultHandlerEntry {t : Thread} {s s' : State} (hr : s.run.retained = false)
    (h : faultEntryStep t (passLull s) = some s') : exec (.faultHandlerEntry t) s = .next s' := by
  change Host.Outcome.next ((handlerStep t s).getD s) = _
  rw [handlerStep, if_neg (by simp [hr]), h]
  rfl

theorem getThread_passLull (t : Thread) (s : State) : getThread t (passLull s) = getThread t s := by
  obtain ⟨_, _, _, _, _, e⟩ := passLull_eq s
  rw [e]
  cases t <;> rfl

theorem passLull_holds (s : State) :
    (passLull s).sdm = s.sdm ∧ (passLull s).tiles = s.tiles ∧ (passLull s).flights = s.flights ∧ (passLull s).evt = s.evt := by
  obtain ⟨_, _, _, _, _, e⟩ := passLull_eq s
  rw [e]
  exact ⟨rfl, rfl, rfl, rfl⟩

/-- An issue fault outside a reissue is taken at once (R81). -/
theorem faultEntryStep_of_issueFault {t : Thread} {f : FaultRec} {s : State} (hp : (getThread t s).phase = .issueFault f)
    (hi : (getThread t s).reissuing = false) :
    faultEntryStep t (passLull s) = some (enterHandler t [f] none (getThread t s).pc (passLull s)) := by
  unfold faultEntryStep
  dsimp only
  rw [getThread_passLull, hp]
  exact if_neg (by simp [hi])

/-- An execution fault outside a reissue is taken once nothing of the thread but faulted instructions is in flight (R82). -/
theorem faultEntryStep_of_execFault {t : Thread} {e : RestartEntry} {l : List RestartEntry} {s : State}
    (hp : (getThread t s).phase = .execFault) (hi : (getThread t s).reissuing = false)
    (hd : ∀ f ∈ s.flights, f.thread = t → f.tensor = true → f.faulted ≠ none)
    (hl : (s.flights.filter (fun f => f.thread == t && f.faulted.isSome)).map flightEntry = e :: l) :
    ∃ fs, faultEntryStep t (passLull s) = some (enterHandler t fs (some (e :: l)) (getThread t s).pc
      { passLull s with flights := s.flights.filter (fun f => !(f.thread == t && f.faulted.isSome)) }) := by
  obtain ⟨-, -, hf, -⟩ := passLull_holds s
  have hdr : (flightsOf t (passLull s)).all (fun f => f.faulted.isSome || !f.tensor) = true := by
    simp only [flightsOf, hf, List.all_filter, List.all_eq_true, Bool.or_eq_true, Bool.not_eq_true', beq_eq_false_iff_ne,
      Option.isSome_iff_ne_none]
    intro f hm
    by_cases ht : f.thread = t
    · cases htn : f.tensor
      · exact .inr (.inr rfl)
      · exact .inr (.inl (hd f hm ht htn))
    · exact .inl ht
  have hes : ((flightsOf t (passLull s)).filter (fun f => f.faulted.isSome)).map flightEntry = e :: l := by
    rw [flightsOf, hf, List.filter_filter, ← hl]
    congr 2
    funext f
    exact Bool.and_comm _ _
  refine ⟨((flightsOf t (passLull s)).filter (fun f => f.faulted.isSome)).filterMap (fun f => f.faulted), ?_⟩
  unfold faultEntryStep
  dsimp only
  rw [getThread_passLull, hp]
  refine (if_pos hdr).trans ((if_neg (by simp [hi])).trans ?_)
  simp only [takeFaulted, hes, hf]

/-- Settles O43: a fault that is due is taken by `enterHandler`, whose cases are handler, no handler and fault in a handler. -/
theorem faultsReachTheirHandlers : Obligations.FaultsReachTheirHandlers := by
  refine ⟨fun t s hr ha hi hv => ⟨fun f hp => ?_, fun e l hp hd hl => ?_⟩, fun t f s hr hp hi => ⟨fun ha hv => ?_, fun ha => ?_⟩⟩
  all_goals
    have hg (u : Thread) := getThread_passLull u s
    obtain ⟨hsdm, htiles, -, hevt⟩ := passLull_holds s
  · refine ⟨_, exec_faultHandlerEntry hr (faultEntryStep_of_issueFault hp hi), ?_⟩
    rw [enterHandler_of_issueFault (by rwa [hg]) (by rwa [hg])]
    exact handling_frame (fun w => (getThread_bump w _ _ _).trans (hg w)) hsdm htiles
  · obtain ⟨fs, h⟩ := faultEntryStep_of_execFault hp hi hd hl
    refine ⟨_, exec_faultHandlerEntry hr h, ?_⟩
    generalize hu : ({ passLull s with flights := s.flights.filter (fun f => !(f.thread == t && f.faulted.isSome)) } : State) = u
    have hgu (w : Thread) : getThread w u = getThread w s := by rw [← hg w, ← hu]; cases w <;> rfl
    rw [enterHandler_of_restart (by rwa [hgu]) (by rwa [hgu])]
    refine ⟨handling_frame (fun w => (getThread_bump w _ _ _).trans (hgu w)) (by rw [← hsdm, ← hu]; rfl)
      (by rw [← htiles, ← hu]; rfl), fun f hf ht => ?_⟩
    rw [modThread_flights, ← hu] at hf
    have hf := (List.mem_filter.mp hf).2
    simpa [ht] using hf
  · obtain ⟨d, h⟩ := enterHandler_of_no_handler (f := f) (fnpc := (getThread t s).pc) (s := passLull s) (by rwa [hg t]) (by rwa [hg t])
    refine ⟨_, exec_faultHandlerEntry hr (faultEntryStep_of_issueFault hp hi), ?_⟩
    rw [h, getThread_logEvent, getThread_modThread_self, getThread_bump, hg]
    exact ⟨rfl, rfl, ha, fun hq => queued_logEvent _ _ _ (by rw [modThread_evt]; exact hevt ▸ hq)⟩
  · obtain ⟨d, h⟩ := enterHandler_in_handler (f := f) (fnpc := (getThread t s).pc) (s := passLull s) (by rwa [hg t])
    refine ⟨_, exec_faultHandlerEntry hr (faultEntryStep_of_issueFault hp hi), ?_⟩
    rw [h, getThread_logEvent, getThread_modThread_self, getThread_bump, hg]
    exact ⟨rfl, rfl, rfl, rfl, rfl, fun hq => queued_logEvent _ _ _ (by rw [modThread_evt]; exact hevt ▸ hq)⟩

end Sys2Proof.Machine
end

section
/-! SUPPORT. Changes of the step of CLK: O46. -/

namespace Sys2Proof.Machine
open Claims

/-! The end of a step change. -/

theorem queued_foldl {α : Type} {c : BitVec 12} (f : State → α → State) (h : ∀ s a, queued c s → queued c (f s a)) (l : List α)
    {s : State} (hs : queued c s) : queued c (l.foldl f s) := by
  induction l generalizing s with
  | nil => exact hs
  | cons a l ih => exact ih (h s a hs)

theorem queued_bridleEvent_of_queued {c : BitVec 12} (code : BitVec 12) (d : Nat) {s : State} (h : queued c s) :
    queued c (bridleEvent code d s) := by
  unfold bridleEvent
  split
  · obtain ⟨e, he, hc⟩ := h
    refine ⟨e, ?_, hc⟩
    unfold logAt
    dsimp only
    split
    · simp [he]
    · exact he
  · exact queued_logEvent_of_queued code d h

/-- The retune of the table touches neither the command slot, nor the step and its target, nor an event that waits (R359). -/
theorem retuneTable_keeps (s : State) : (retuneTable s).cmd = s.cmd ∧ (retuneTable s).clk.step = s.clk.step ∧
    (retuneTable s).clk.target = s.clk.target ∧ ∀ c, queued c s → queued c (retuneTable s) := by
  have hf (l : List ((Word32 × Word32) × Nat)) (s : State) :
      let u := l.foldl (fun s x => if x.1.1 = x.1.2 then s
        else bridleEvent 0x505 (x.2 + 2 ^ 8 * stepFreq x.1.2 + 2 ^ 20 * stepVid x.1.2) s) s
      (u.cmd, u.clk) = (s.cmd, s.clk) ∧ ∀ c, queued c s → queued c u :=
    ⟨foldl_keeps (fun s => (s.cmd, s.clk)) _ (fun s x => by split <;> simp) l s,
     fun c => queued_foldl _ (fun s x h => by
       split
       · exact h
       · exact queued_bridleEvent_of_queued _ _ h) l⟩
  unfold retuneTable
  dsimp only
  generalize (s.clk.fsteps.zip (s.mould.cfg.fsteps.zipIdx.map
    (fun x => retuned s.clk.vidOfs.toNat s.clk.freqOfs x.2 x.1))).zipIdx = pairs
  obtain ⟨he, hq⟩ := hf pairs s
  obtain ⟨hcmd, hclk⟩ := Prod.mk.inj he
  split
  · exact ⟨hcmd, congrArg Clocks.step hclk, congrArg Clocks.target hclk, hq⟩
  · exact ⟨hcmd, congrArg Clocks.step hclk, congrArg Clocks.target hclk, hq⟩

/-- A step change ends: nothing is locked to, and command, run state and step stay (R317). -/
theorem endStepChange_keeps (s : State) : (endStepChange s).cmd = s.cmd ∧ (endStepChange s).run = s.run ∧
    (endStepChange s).clk.step = s.clk.step ∧ (endStepChange s).clk.target = none ∧
    (s.brg.retuneWait = false → (endStepChange s).counters = s.counters) ∧
    ∀ c, queued c s → queued c (endStepChange s) := by
  refine ⟨?_, endStepChange_run s, ?_⟩
  all_goals
    unfold endStepChange
    dsimp only
    split
  · exact (retuneTable_keeps _).1
  · rfl
  · next hw =>
    obtain ⟨-, hstep, htarget, hq⟩ := retuneTable_keeps
      { s with clk := { s.clk with target := none }, brg := { s.brg with retuneWait := false } }
    exact ⟨hstep, htarget, fun h => absurd (hw.symm.trans h) (by decide), hq⟩
  · exact ⟨rfl, rfl, fun _ => rfl, fun _ h => h⟩

/-! The end of the command that waited. -/

theorem enterRetention_eq {s : State} (h : s.run.west = s.run.east) : ∃ r, r.retained = true ∧
    enterRetention s = { cmdOk s with run := r } :=
  ⟨_, rfl, handshake_of_equal (by exact h)⟩

theorem leaveRetention_eq {s : State} (h : s.run.west = s.run.east) : ∃ r, r.retained = false ∧
    leaveRetention s = { cmdOk s with run := r } :=
  ⟨_, rfl, handshake_of_equal (by exact h)⟩

/-- A command that waits for the synthesiser is one of three. -/
theorem busyWith_op {s : State} {op : BitVec 8} (h : busyWith s op = true) : s.cmd.status = .busy ∧ s.cmd.op = op := by
  simpa [busyWith] using h

/-- What the end of the command that waited leaves: the command is over, and RETAIN and WAKE have moved the retention (R327). -/
theorem endLocked_keeps {s : State} (h : s.run.west = s.run.east) :
    (endLocked s).clk = s.clk ∧ (endLocked s).counters = s.counters ∧ (endLocked s).brg = s.brg ∧
    (busyWith s 0x11 = true → (endLocked s).cmd.status = .ok ∧ (endLocked s).run.retained = s.run.retained) ∧
    (busyWith s 0x12 = true → (endLocked s).cmd.status = .ok ∧ (endLocked s).run.retained = true) ∧
    (busyWith s 0x13 = true → (endLocked s).cmd.status = .ok ∧ (endLocked s).run.retained = false) := by
  have hne {a b : BitVec 8} (hab : a ≠ b) (ha : busyWith s a = true) : busyWith s b ≠ true :=
    fun hb => hab ((busyWith_op ha).2.symm.trans (busyWith_op hb).2)
  unfold endLocked
  split
  · next h1 => exact ⟨rfl, rfl, rfl, fun _ => ⟨rfl, rfl⟩, fun k => absurd k (hne (by decide) h1), fun k => absurd k (hne (by decide) h1)⟩
  · next h1 =>
    split
    · next h2 =>
      obtain ⟨r, hr, e⟩ := enterRetention_eq h
      rw [e]
      exact ⟨rfl, rfl, rfl, fun k => absurd k h1, fun _ => ⟨rfl, hr⟩, fun k => absurd k (hne (by decide) h2)⟩
    · next h2 =>
      split
      · obtain ⟨r, hr, e⟩ := leaveRetention_eq h
        rw [e]
        exact ⟨rfl, rfl, rfl, fun k => absurd k h1, fun k => absurd k h2, fun _ => ⟨rfl, hr⟩⟩
      · next h3 => exact ⟨rfl, rfl, rfl, fun k => absurd k h1, fun k => absurd k h2, fun k => absurd k h3⟩

/-! The counter of clock switches over a lull. -/

theorem counter_lullTick (s : State) {a : Nat} (h : a ≠ cntLullDrogue) (k : a ≠ cntDrogue50) :
    counter (lullTick s) a = counter s a := by
  have h1 (s : State) : counter (if s.clk.level = .none then s else bump cntLullDrogue 1 s) a = counter s a := by
    split
    · rfl
    · exact counter_bump_ne_of_pos _ 1 s (by decide) h
  have h2 (s : State) : counter (if s.clk.level = .s50 then bump cntDrogue50 1 s else s) a = counter s a := by
    split
    · exact counter_bump_ne_of_pos _ 1 s (by decide) k
    · rfl
  have hd (s : State) : counter (drogueTick s) a = counter s a := by
    unfold drogueTick
    dsimp only
    split
    · exact (h2 _).trans (h1 s)
    · exact (h2 _).trans (h1 s)
  exact hd { s with cycle := s.cycle + 1 }

/-- A lull counts cycles of the Drogue and nothing else. -/
theorem counter_passLull (s : State) {a : Nat} (h : a ≠ cntLullDrogue) (k : a ≠ cntDrogue50) :
    counter (passLull s) a = counter s a := by
  unfold passLull
  split
  · exact foldl_keeps (fun s => counter s a) _ (fun s _ => counter_lullTick s h k) _ s
  · rfl

/-! The commands. -/

/-- What an accepted command finds: the lull has passed, and the slot is its own. -/
theorem accepted_of_lull (op : Nat) (s : State) : ∃ c g l n cs r, passLull s = lullChange c g l n cs s ∧ accepted op s =
    { lullChange c g l n cs s with csr := r, cmd := { s.cmd with op := BitVec.ofNat 8 op, status := .busy } } := by
  obtain ⟨_, _, _, _, _, e⟩ := passLull_eq s
  unfold accepted posted
  rw [e]
  exact ⟨_, _, _, _, _, _, rfl, rfl⟩

theorem replay_arms {s : State} (ha : halvesAgree s) (h : hostMay 0x10 s) (hp : s.stage.pending = false) :
    ∃ s', exec .replay s = .next s' ∧ s'.stage = { s.stage with pending := true } ∧ s'.preg = s.preg ∧ s'.cmd.status = .ok := by
  obtain ⟨_, _, _, _, _, _, k, e⟩ := accepted_of_lull 0x10 s
  have hq : (!(posted s).stage.pending) = true := by
    unfold posted
    rw [k]
    exact congrArg Bool.not hp
  refine ⟨runReplay (accepted 0x10 s), congrArg Host.Outcome.next (postCommand_of_may h ha rfl rfl hq), ?_⟩
  rw [e]
  exact ⟨rfl, rfl, rfl⟩

theorem setStep_locks {t : BitVec 4} {s : State} (ha : halvesAgree s) (h : hostMay 0x11 s) (ht : s.cmd.arg0.toNat = t.toNat) :
    ∃ s', exec .setStep s = .next s' ∧ s'.clk.step = s.clk.step ∧
      (if t = s.clk.step then s'.cmd.status = .ok ∧ s'.clk = (passLull s).clk
       else s'.cmd.status = .busy ∧ s'.cmd.op = 0x11 ∧ s'.clk.target = some t) := by
  obtain ⟨_, _, _, _, _, _, k, e⟩ := accepted_of_lull 0x11 s
  have harg : s.cmd.arg0.setWidth 4 = t := BitVec.eq_of_toNat_eq (by rw [BitVec.toNat_setWidth, ht]; omega)
  have hok : stepArgOk (posted s) = true := by
    unfold stepArgOk
    rw [(posted_control s).2, ht]
    exact decide_eq_true t.isLt
  refine ⟨runSetStep (accepted 0x11 s), congrArg Host.Outcome.next (postCommand_of_may h ha hok rfl rfl), ?_⟩
  have hl : runSetStep (accepted 0x11 s) = lockStep t cmdOk (accepted 0x11 s) := by rw [← harg, e]; rfl
  rw [hl, k, e]
  by_cases hs : t = s.clk.step
  · rw [if_pos hs, lockStep, if_pos (by exact hs)]
    exact ⟨rfl, rfl, rfl⟩
  · rw [if_neg hs, lockStep, if_neg (by exact hs)]
    exact ⟨rfl, rfl, rfl, rfl⟩

/-- RETAIN at F0 enters retention at once (R327). -/
theorem runRetain_of_step {u : State} (hw : u.run.west = u.run.east) (h : u.clk.step = 0) :
    (runRetain u).clk.step = u.clk.step ∧ (runRetain u).clk.saved = u.clk.step ∧ (runRetain u).cmd.status = .ok ∧
    (runRetain u).run.retained = true := by
  obtain ⟨r, hr, e⟩ := enterRetention_eq (s := { u with clk := { u.clk with saved := u.clk.step } }) hw
  have hl : runRetain u = enterRetention { u with clk := { u.clk with saved := u.clk.step } } := if_pos h.symm
  rw [hl, e]
  exact ⟨rfl, rfl, rfl, hr⟩

/-- WAKE at the saved step leaves retention at once (R327). -/
theorem runWake_of_step {u : State} (hw : u.run.west = u.run.east) (h : u.clk.saved = u.clk.step) :
    (runWake u).clk.step = u.clk.step ∧ (runWake u).cmd.status = .ok ∧ (runWake u).run.retained = false := by
  obtain ⟨r, hr, e⟩ := leaveRetention_eq hw
  have hl : runWake u = leaveRetention u := if_pos h
  rw [hl, e]
  exact ⟨rfl, rfl, hr⟩

theorem retain_locks {s : State} (ha : halvesAgree s) (h : hostMay 0x12 s) :
    ∃ s', exec .retain s = .next s' ∧ s'.clk.step = s.clk.step ∧ s'.clk.saved = s.clk.step ∧
      (if s.clk.step = 0 then s'.cmd.status = .ok ∧ s'.run.retained = true
       else s'.cmd.status = .busy ∧ s'.cmd.op = 0x12 ∧ s'.clk.target = some 0 ∧ s'.run.retained = s.run.retained) := by
  obtain ⟨_, _, _, _, _, _, -, e⟩ := accepted_of_lull 0x12 s
  refine ⟨runRetain (accepted 0x12 s), next_postPlain h ha, ?_⟩
  rw [e]
  by_cases hz : s.clk.step = 0
  · rw [if_pos hz]
    exact runRetain_of_step (ha.1.trans ha.2.symm) hz
  · rw [if_neg hz, runRetain, lockStep, if_neg (by exact Ne.symm hz)]
    exact ⟨rfl, rfl, rfl, rfl, rfl, rfl⟩

theorem wake_locks {s : State} (ha : halvesAgree s) (h : hostMay 0x13 s) :
    ∃ s', exec .wake s = .next s' ∧ s'.clk.step = s.clk.step ∧
      (if s.clk.saved = s.clk.step then s'.cmd.status = .ok ∧ s'.run.retained = false
       else s'.cmd.status = .busy ∧ s'.cmd.op = 0x13 ∧ s'.clk.target = some s.clk.saved) := by
  obtain ⟨_, _, _, _, _, _, -, e⟩ := accepted_of_lull 0x13 s
  refine ⟨runWake (accepted 0x13 s), next_postPlain h ha, ?_⟩
  rw [e]
  by_cases hz : s.clk.saved = s.clk.step
  · rw [if_pos hz]
    exact runWake_of_step (ha.1.trans ha.2.symm) hz
  · rw [if_neg hz, runWake, lockStep, if_neg (by exact hz)]
    exact ⟨rfl, rfl, rfl, rfl⟩

/-! The synthesiser's answer. -/

theorem switchBoundary_switches {t : BitVec 4} {s : State} (ha : halvesAgree s) (ht : s.clk.target = some t) :
    ∃ s', exec .switchBoundary s = .next s' ∧ s'.clk.step = t ∧ s'.clk.target = none ∧
      (s.brg.retuneWait = false → counter s' cntClkSwitches = min (2 ^ 48 - 1) (counter s cntClkSwitches + 1)) ∧
      (busyWith s 0x11 = true → s'.cmd.status = .ok ∧ s'.run.retained = s.run.retained) ∧
      (busyWith s 0x12 = true → s'.cmd.status = .ok ∧ s'.run.retained = true) ∧
      (busyWith s 0x13 = true → s'.cmd.status = .ok ∧ s'.run.retained = false) := by
  obtain ⟨_, _, _, _, _, e⟩ := passLull_eq s
  have hrun : (passLull s).run = s.run := by rw [e]; rfl
  have hbrg : (passLull s).brg = s.brg := by rw [e]; rfl
  have htarget : (passLull s).clk.target = s.clk.target := by rw [e]; rfl
  have hcnt : counter (passLull s) cntClkSwitches = counter s cntClkSwitches := counter_passLull s (by decide) (by decide)
  have hs : switchStep (passLull s) = some (endStepChange (endLocked (bump cntClkSwitches 1 (setStep t (passLull s))))) := by
    unfold switchStep
    rw [htarget, ht]
  have hb (op : BitVec 8) : busyWith (bump cntClkSwitches 1 (setStep t (passLull s))) op = busyWith s op := busyWith_passLull s op
  obtain ⟨kclk, kcnt, kbrg, k11, k12, k13⟩ := endLocked_keeps (s := bump cntClkSwitches 1 (setStep t (passLull s)))
    (show (passLull s).run.west = (passLull s).run.east by rw [hrun]; exact ha.1.trans ha.2.symm)
  rw [hb] at k11 k12 k13
  obtain ⟨ecmd, erun, estep, etarget, ecnt, -⟩ := endStepChange_keeps (endLocked (bump cntClkSwitches 1 (setStep t (passLull s))))
  refine ⟨endStepChange _, congrArg (fun o => Host.Outcome.next (Option.getD o s)) hs, ?_, etarget, fun hw => ?_, ?_⟩
  · rw [estep, kclk]
    rfl
  · have hq : (endLocked (bump cntClkSwitches 1 (setStep t (passLull s)))).brg.retuneWait = false := by
      rw [kbrg]
      exact (congrArg Bridle.retuneWait hbrg).trans hw
    rw [counter, ecnt hq, kcnt, ← hcnt]
    exact counter_bump_self cntClkSwitches 1 (setStep t (passLull s)) (Nat.succ_pos _)
  · rw [ecmd, erun, ← hrun]
    exact ⟨k11, k12, k13⟩

theorem synthLockFail_fails {t : BitVec 4} {s : State} (ht : s.clk.target = some t) :
    ∃ s', exec .synthLockFail s = .next s' ∧ s'.clk.step = s.clk.step ∧ s'.clk.target = none ∧ s'.cmd.status = .fail ∧
      s'.cmd.arg3 = 0x504 ∧ (s.evt.queue.length < 64 → queued 0x504 s') := by
  obtain ⟨_, _, _, _, _, e⟩ := passLull_eq s
  have hstep : (passLull s).clk.step = s.clk.step := by rw [e]; rfl
  have htarget : (passLull s).clk.target = s.clk.target := by rw [e]; rfl
  have hevt : (passLull s).evt = s.evt := by rw [e]; rfl
  have hs : lockFailStep (passLull s) = some (endStepChange (cmdFail 0x504 (logEvent 0x504 t.toNat (passLull s)))) := by
    unfold lockFailStep
    rw [htarget, ht]
  obtain ⟨ecmd, -, estep, etarget, -, eq⟩ := endStepChange_keeps (cmdFail 0x504 (logEvent 0x504 t.toNat (passLull s)))
  refine ⟨endStepChange _, congrArg (fun o => Host.Outcome.next (Option.getD o s)) hs, ?_, etarget, ?_, ?_, fun hq => ?_⟩
  · rw [estep, ← hstep]
    exact congrArg Clocks.step (logEvent_clk _ _ _)
  · rw [ecmd]; rfl
  · rw [ecmd]; rfl
  · exact eq 0x504 (queued_logEvent 0x504 t.toNat (passLull s) (hevt ▸ hq))

/-- Settles O46: each command is accepted and locks the synthesiser or ends; the synthesiser's answer ends the change of step. -/
theorem stepChanges : Obligations.StepChanges := fun _ _ ha =>
  ⟨replay_arms ha, setStep_locks ha, retain_locks ha, wake_locks ha,
   fun ht => ⟨switchBoundary_switches ha ht, synthLockFail_fails ht⟩⟩

end Sys2Proof.Machine
end

section
/-! SUPPORT. What a command keeps of the canonical memories and the well-formed threads, and the rules by which it is shown. -/

namespace Sys2Proof.Machine
open Claims

/-! The relation. -/

/-- What is well formed in a thread stays well formed, each part for itself: the PC, the registers, the Coil levels (R54, R71).
  -/
def ThreadKept (th th' : ThreadState) : Prop :=
  (th.pc.toNat % 8 = 0 → th'.pc.toNat % 8 = 0) ∧ (Sparse.wf 0 th.regs = true → Sparse.wf 0 th'.regs = true) ∧
    (th.coil.length ≤ 4 → th'.coil.length ≤ 4)

/-- What is canonical or well formed in the first state is so in the second. An update of any other part of the second state
leaves the statement as it stands. -/
def Kept (s₀ s : State) : Prop :=
  (memoriesCanonical s₀ → memoriesCanonical s) ∧ ThreadKept s₀.ta s.ta ∧ ThreadKept s₀.tx s.tx ∧
    (Sparse.wf 0 s₀.preg = true → Sparse.wf 0 s.preg = true)

theorem ThreadKept.refl (th : ThreadState) : ThreadKept th th := ⟨id, id, id⟩

theorem ThreadKept.trans {a b c : ThreadState} (h : ThreadKept a b) (k : ThreadKept b c) : ThreadKept a c := by
  obtain ⟨hp, hr, hc⟩ := h
  obtain ⟨kp, kr, kc⟩ := k
  exact ⟨kp ∘ hp, kr ∘ hr, kc ∘ hc⟩

theorem threadKept_ite {c : Prop} [Decidable c] {th a b : ThreadState} (ha : ThreadKept th a) (hb : ThreadKept th b) :
    ThreadKept th (if c then a else b) := by
  split
  · exact ha
  · exact hb

/-- Issue goes on at the address of a word. -/
theorem threadKept_align {th : ThreadState} {a : BitVec 48} : ThreadKept th { th with pc := alignPc a } :=
  ⟨fun _ => alignPc_mod a, id, id⟩

theorem threadKept_writeReg {th : ThreadState} {r : Reg} {v : Word64} : ThreadKept th (writeReg th r v) := by
  unfold writeReg
  exact threadKept_ite (.refl _) ⟨id, Sparse.wf_set 0 _ _ _, id⟩

theorem Kept.refl (s : State) : Kept s s := ⟨id, .refl _, .refl _, id⟩

theorem Kept.trans {a b c : State} (h : Kept a b) (k : Kept b c) : Kept a c := by
  obtain ⟨hm, ha, hx, hp⟩ := h
  obtain ⟨km, ka, kx, kp⟩ := k
  exact ⟨km ∘ hm, ha.trans ka, hx.trans kx, kp ∘ hp⟩

theorem Kept.thread {a b : State} (h : Kept a b) (t : Thread) : ThreadKept (getThread t a) (getThread t b) := by
  obtain ⟨-, ha, hx, -⟩ := h
  cases t
  · exact ha
  · exact hx

theorem Kept.memoriesCanonical {s s' : State} (h : Kept s s') (k : memoriesCanonical s) : memoriesCanonical s' := h.1 k

theorem Kept.threadsWellFormed {s s' : State} (h : Kept s s') (k : threadsWellFormed s) : threadsWellFormed s' := by
  obtain ⟨-, ⟨pa, ra, ca⟩, ⟨px, rx, cx⟩, hp⟩ := h
  obtain ⟨⟨a1, a2, a3⟩, ⟨x1, x2, x3⟩, kp⟩ := k
  exact ⟨⟨pa a1, ra a2, ca a3⟩, ⟨px x1, rx x2, cx x3⟩, hp kp⟩

/-- A verdict that issues keeps what is well formed. -/
def VerdictKept (s₀ : State) : Verdict → Prop
  | .go s | .jump s _ => Kept s₀ s
  | .wait _ | .fault _ _ => True

/-- A step that has an effect keeps what is well formed. -/
def OptionKept (s₀ : State) : Option State → Prop
  | some s => Kept s₀ s
  | none => True

/-- An outcome with a next state keeps what is well formed. -/
def OutKept (s₀ : State) : Out → Prop
  | .next s => Kept s₀ s
  | _ => True

/-! Rules for the forms in which the model writes its functions. -/

section
variable {s₀ : State}

theorem kept_ite {c : Prop} [Decidable c] {a b : State} (ha : Kept s₀ a) (hb : Kept s₀ b) : Kept s₀ (if c then a else b) := by
  split
  · exact ha
  · exact hb

/-- Where a condition holds, one operation more is done. -/
theorem kept_iteThen {c : Prop} [Decidable c] {a b : State} (hb : Kept s₀ b) (ha : Kept s₀ b → Kept s₀ a) :
    Kept s₀ (if c then a else b) := kept_ite (ha hb) hb

theorem kept_iteElse {c : Prop} [Decidable c] {a b : State} (ha : Kept s₀ a) (hb : Kept s₀ a → Kept s₀ b) :
    Kept s₀ (if c then a else b) := kept_ite ha (hb ha)

theorem kept_foldl {α : Type} {f : State → α → State} {l : List α} {s : State} (h : Kept s₀ s)
    (hf : ∀ s a, Kept s₀ s → Kept s₀ (f s a)) : Kept s₀ (l.foldl f s) := by
  induction l generalizing s with
  | nil => exact h
  | cons a l ih => exact ih (hf s a h)

theorem kept_getD {o : Option State} {s : State} (ho : OptionKept s₀ o) (h : Kept s₀ s) : Kept s₀ (o.getD s) := by
  cases o with
  | none => exact h
  | some s' => exact ho

theorem optionKept_ite {c : Prop} [Decidable c] {a b : Option State} (ha : OptionKept s₀ a) (hb : OptionKept s₀ b) :
    OptionKept s₀ (if c then a else b) := by
  split
  · exact ha
  · exact hb

theorem optionKept_bind {o : Option State} {f : State → Option State} (ho : OptionKept s₀ o)
    (hf : ∀ s, Kept s₀ s → OptionKept s₀ (f s)) : OptionKept s₀ (o.bind f) := by
  cases o with
  | none => trivial
  | some s => exact hf s ho

theorem verdictKept_ite {c : Prop} [Decidable c] {v w : Verdict} (hv : VerdictKept s₀ v) (hw : VerdictKept s₀ w) :
    VerdictKept s₀ (if c then v else w) := by
  split
  · exact hv
  · exact hw

/-- Two states that no state can leave both alone: a verdict that keeps the authority of every state issues nothing. -/
theorem verdictKept_of_fails {v : Verdict} (h : ∀ s, verdictKeeps s v) : VerdictKept s₀ v := by
  have hno (s' : State) : ¬ ∀ s, authority s' = authority s := fun k => by
    have h0 := k { State.reset with fuses := { State.reset.fuses with lc := 0 } }
    have h1 := k { State.reset with fuses := { State.reset.fuses with lc := 1 } }
    have e := congrArg (fun x => x.2.2.2.2.2.lc) (h0.symm.trans h1)
    exact absurd e (by decide)
  cases v with
  | go s' => exact absurd h (hno s')
  | jump s' a => exact absurd h (hno s')
  | wait w => trivial
  | fault fc v => trivial

/-- A chain of checks goes on behind a check that passes. -/
theorem verdictKept_bind {α : Type} {c : Chk α} {f : α → Chk Verdict} (hc : failsKeeping c)
    (hf : ∀ a, VerdictKept s₀ (verdict (f a))) : VerdictKept s₀ (verdict (c >>= f)) := by
  cases c with
  | error v => exact verdictKept_of_fails (hc v rfl)
  | ok a => exact hf a

end

/-! The state operations that write what is kept well formed. -/

section
variable {s₀ s : State}

/-- An update of the parts of which `Kept` does not speak, in the form in which the model writes it. -/
theorem kept_update {build fuseBus fuses run cmd csr evt stage queues spool toc amax mx vx glz handles res fab ballast clk mould
    brg mon tap cycle upsets flights nextId free pending single double waitLimit corrLast rewrites writeBacks boundary repairs
    round busy idx data handle rows parkBase used lists xfer op status arg0 arg1 arg2 arg3 waits} (h : Kept s₀ s) :
    Kept s₀ { s with
      build, fuseBus, fuses, run, cmd, csr, evt, stage, queues, spool, toc, amax, mx, vx, glz, handles, res, fab, ballast, clk,
      mould, brg, mon, tap, cycle, upsets, flights, nextId, free, pending
      ls := { s.ls with single, double, waitLimit, corrLast, rewrites, writeBacks, boundary, repairs, round, busy }
      sess := { s.sess with idx, data, handle, rows, parkBase, used, lists, xfer }
      mbx := { s.mbx with op, status, arg0, arg1, arg2, arg3, waits } } := h

/-- A change of the memories, the tables and the counters alone. -/
theorem kept_of_memories {s' : State} (h : Kept s₀ s) (hm : memoriesCanonical s → memoriesCanonical s') (ha : s'.ta = s.ta)
    (hx : s'.tx = s.tx) (hp : s'.preg = s.preg) : Kept s₀ s' := by
  obtain ⟨km, ka, kx, kp⟩ := h
  refine ⟨hm ∘ km, ?_, ?_, ?_⟩
  · rwa [ha]
  · rwa [hx]
  · rwa [hp]

theorem kept_setThread {t : Thread} {th : ThreadState} (h : Kept s₀ s) (ht : ThreadKept (getThread t s) th) :
    Kept s₀ (setThread t th s) := by
  obtain ⟨km, ka, kx, kp⟩ := h
  cases t
  · exact ⟨km, ka.trans ht, kx, kp⟩
  · exact ⟨km, ka, kx.trans ht, kp⟩

/-- A change of a thread that leaves what is well formed in it so. -/
theorem kept_modThread {t : Thread} {f : ThreadState → ThreadState} (h : Kept s₀ s) (hf : ∀ th, ThreadKept th (f th)) :
    Kept s₀ (modThread t f s) := kept_setThread h (hf _)

theorem kept_bump {a n : Nat} (h : Kept s₀ s) : Kept s₀ (bump a n s) :=
  kept_of_memories h (memoriesCanonical_bump a n) rfl rfl rfl

theorem kept_setTag {p : Nat} {g : Tag} (h : Kept s₀ s) : Kept s₀ (setTag p g s) :=
  kept_of_memories h (memoriesCanonical_setTag p g) rfl rfl rfl

theorem kept_writeRow {p : Nat} {bs : Bytes} (h : Kept s₀ s) : Kept s₀ (writeRow p bs s) :=
  kept_of_memories h (memoriesCanonical_writeRow p bs) rfl rfl rfl

theorem kept_sdmWrite {a : Nat} {bs : Bytes} (h : Kept s₀ s) : Kept s₀ (sdmWrite a bs s) :=
  kept_of_memories h (memoriesCanonical_sdmWrite a bs) rfl rfl rfl

theorem kept_setSess {i : Nat} {e : Session} (h : Kept s₀ s) : Kept s₀ (setSess i e s) :=
  kept_of_memories h (memoriesCanonical_setSess i e) rfl rfl rfl

theorem kept_setTileCfg {n : Nat} {c : TileCfg} (h : Kept s₀ s) : Kept s₀ (setTileCfg n c s) :=
  kept_of_memories h (memoriesCanonical_setTileCfg n c) rfl rfl rfl

theorem kept_setMbxData {k : Nat} {w : Word32} (h : Kept s₀ s) : Kept s₀ (setMbxData k w s) :=
  kept_of_memories h (memoriesCanonical_setMbxData k w) rfl rfl rfl

theorem kept_writeTile {w : TileWrite} (h : Kept s₀ s) : Kept s₀ (writeTile w s) :=
  kept_of_memories h (memoriesCanonical_writeTile w) rfl rfl rfl

end

end Sys2Proof.Machine
end

section
/-! SUPPORT. What the shared operations, the scalar instructions and the instructions in flight keep well formed. -/

namespace Sys2Proof.Machine
open Claims

section
variable {s₀ s : State}

/-! The shared operations. -/

theorem kept_setSreg {t : Thread} {r : Reg} {v : Word64} (h : Kept s₀ s) : Kept s₀ (setSreg t r v s) :=
  kept_modThread h fun _ => threadKept_writeReg

theorem kept_logAt {place : Event → List Event → List Event} {cycle : BitVec 48} {code : BitVec 12} {detail : Nat}
    (h : Kept s₀ s) : Kept s₀ (logAt place cycle code detail s) :=
  kept_ite h (kept_bump h)

theorem kept_logEvent {code : BitVec 12} {detail : Nat} (h : Kept s₀ s) : Kept s₀ (logEvent code detail s) :=
  kept_logAt h

theorem kept_drogueTick (h : Kept s₀ s) : Kept s₀ (drogueTick s) := by
  unfold drogueTick
  dsimp only
  split
  · exact kept_iteThen (kept_ite h (kept_bump h)) kept_bump
  · exact kept_update (kept_iteThen (kept_ite h (kept_bump h)) kept_bump)

theorem kept_lullTick (h : Kept s₀ s) : Kept s₀ (lullTick s) :=
  kept_update (kept_drogueTick h)

theorem kept_passLull (h : Kept s₀ s) : Kept s₀ (passLull s) :=
  kept_ite (kept_foldl h (fun _ _ => kept_lullTick)) h

theorem kept_releaseClaim {p : Nat} (h : Kept s₀ s) : Kept s₀ (releaseClaim p s) := by
  unfold releaseClaim
  split
  · exact kept_setTag h
  · exact kept_setTag h
  · exact h

theorem kept_releaseTests {tests : List TagTest} (h : Kept s₀ s) : Kept s₀ (releaseTests tests s) :=
  kept_foldl h (fun _ _ h => kept_ite (kept_releaseClaim h) h)

theorem kept_repairTag {p : Nat} (h : Kept s₀ s) : Kept s₀ (repairTag p s) :=
  kept_ite (kept_bump h) h

theorem kept_tagTest {x : TagTest} (h : Kept s₀ s) : Kept s₀ (tagTest x s).2 := by
  have hr : Kept s₀ (repairTag x.phys s) := kept_repairTag h
  unfold tagTest
  split
  · exact h
  · dsimp only
    split
    · exact kept_setTag hr
    · exact hr
    · exact hr
    · exact kept_setTag hr
    · exact hr

theorem kept_runTests {xs : List TagTest} (h : Kept s₀ s) : Kept s₀ (runTests xs s).2 := by
  induction xs generalizing s with
  | nil => exact h
  | cons x xs ih => exact ih (kept_tagTest h)

theorem kept_testCycle {f : Flight} (h : Kept s₀ s) : Kept s₀ (testCycle f s).2 :=
  kept_runTests h

theorem kept_reachTests {n : Nat} {f : Flight} (h : Kept s₀ s) : Kept s₀ (reachTests n f s).2 := by
  induction n generalizing f s with
  | zero => exact h
  | succ n ih =>
    unfold reachTests
    split
    · exact h
    · exact ih (kept_testCycle h)

theorem kept_modFlight {fid : Nat} {g : Flight → Flight} (h : Kept s₀ s) : Kept s₀ (modFlight fid g s) := h

theorem kept_dropFlight {fid : Nat} (h : Kept s₀ s) : Kept s₀ (dropFlight fid s) := h

theorem kept_settle {t : Thread} (h : Kept s₀ s) : Kept s₀ (settle t s) :=
  kept_foldl (kept_passLull h) (fun _ _ h => kept_modThread (kept_modFlight (kept_reachTests h)) (fun _ => .refl _))

theorem kept_issueFault {t : Thread} {fc : BitVec 8} {fval : Word64} (h : Kept s₀ s) : Kept s₀ (issueFault t fc fval s) :=
  kept_modThread h (fun _ => threadKept_ite (.refl _) (.refl _))

theorem kept_advance {t : Thread} {n : Nat} (h : Kept s₀ s) : Kept s₀ (advance t n s) := by
  refine kept_modThread h fun th => threadKept_ite ?_ threadKept_align
  dsimp only
  split
  · exact threadKept_align
  · exact threadKept_align

theorem kept_jumpTo {t : Thread} {a : BitVec 48} (h : Kept s₀ s) : Kept s₀ (jumpTo t a s) :=
  kept_modThread h (fun _ => threadKept_align)

theorem kept_setWait {t : Thread} {w : Wait} (h : Kept s₀ s) : Kept s₀ (setWait t w s) :=
  kept_modThread h (fun _ => .refl _)

theorem kept_reservoirRead {fill : Bool} {r : ResReq} (h : Kept s₀ s) : Kept s₀ (reservoirRead fill r s) :=
  kept_ite h h

theorem kept_reservoirPump (h : Kept s₀ s) : Kept s₀ (reservoirPump s) := h

theorem kept_spoolFill {line : BitVec 48} {t : Option Thread} {ahead pin : Bool} (h : Kept s₀ s) :
    Kept s₀ (spoolFill line t ahead pin s) :=
  kept_ite h (kept_reservoirPump (kept_reservoirRead h))

theorem kept_fetchLine {t : Thread} {line : BitVec 48} {words : List (BitVec 48)} (h : Kept s₀ s) :
    Kept s₀ (fetchLine t line words s).1 := by
  unfold fetchLine
  split
  · split
    · exact kept_spoolFill (kept_bump h)
    · exact h
  · exact kept_spoolFill h

theorem kept_fetchWord {a : BitVec 48} (h : Kept s₀ s) : Kept s₀ (fetchWord a s) :=
  kept_ite (kept_bump h) h

theorem kept_fetch {t : Thread} {n : Nat} (h : Kept s₀ s) : Kept s₀ (fetch t n s).1 := by
  unfold fetch
  dsimp only
  split
  · split
    · exact kept_foldl (kept_fetchLine h) (fun _ _ => kept_fetchWord)
    · exact kept_setWait (kept_fetchLine h)
  · split
    · exact kept_foldl (kept_fetchLine (kept_fetchLine h)) (fun _ _ => kept_fetchWord)
    · exact kept_setWait (kept_fetchLine (kept_fetchLine h))

/-- What an instruction did in the first view holds in the live one, where the thread's registers are its own (R87). -/
theorem kept_liveView_firstView {t : Thread} {s s' : State} (h : Kept (firstView t s) s') : Kept s (liveView t s s') := by
  cases hr : (getThread t s).reissuing with
  | false => rwa [liveView_of_not_reissuing s' hr, ← firstView_of_not_reissuing (t := t) hr]
  | true =>
    obtain ⟨m, b, ev⟩ := firstView_eq t s
    rw [ev] at h
    rw [liveView, if_pos hr]
    obtain ⟨hm, ⟨pa, ra, ca⟩, ⟨px, rx, cx⟩, hp⟩ := h
    cases t
    · exact ⟨hm, ⟨pa, id, ca⟩, ⟨px, rx, cx⟩, hp⟩
    · exact ⟨hm, ⟨pa, ra, ca⟩, ⟨px, id, cx⟩, hp⟩

/-- An instruction whose verdicts keep the state it is given: a reissue sees registers of its own, and they are put back behind
it (R87). -/
theorem kept_issue {t : Thread} {n : Nat} {f : State → Verdict} (h : Kept s₀ s) (hf : ∀ s₁ s, Kept s₁ s → VerdictKept s₁ (f s))
    :
    Kept s₀ (issue t n f s) := by
  have hr : Kept s₀ (fetch t n (settle t s)).1 := kept_fetch (kept_settle h)
  have hv := hf _ _ (.refl (firstView t (fetch t n (settle t s)).1))
  unfold issue
  refine kept_ite ?_ h
  dsimp only
  refine kept_ite ?_ hr
  split
  · exact kept_setWait hr
  · exact kept_issueFault hr
  · next s' e => rw [e] at hv; exact kept_advance (hr.trans (kept_liveView_firstView hv))
  · next s' a e => rw [e] at hv; exact kept_jumpTo (hr.trans (kept_liveView_firstView hv))

theorem kept_scalar {t : Thread} {regs : List Reg} {f : State → Verdict} (h : Kept s₀ s)
    (hf : ∀ s₁ s, Kept s₁ s → VerdictKept s₁ (f s)) :
    Kept s₀ (scalar t regs f s) :=
  kept_issue h fun s₁ s h => verdictKept_ite trivial (hf s₁ s h)

theorem kept_scalarWrite {t : Thread} {rd : Reg} {srcs : List Reg} {v : State → Word64} (h : Kept s₀ s) :
    Kept s₀ (scalarWrite t rd srcs v s) :=
  kept_scalar h (fun _ _ => kept_setSreg)

theorem kept_releaseQueues {fid : Nat} (h : Kept s₀ s) : Kept s₀ (releaseQueues fid s) := h

theorem kept_trimQueues (h : Kept s₀ s) : Kept s₀ (trimQueues s) := h

theorem kept_releaseLeft {f : Flight} (h : Kept s₀ s) : Kept s₀ (releaseLeft f s) :=
  kept_ite (kept_foldl h (fun _ _ => kept_releaseClaim)) (kept_releaseTests h)

theorem kept_execFault {fid : Nat} {fc : BitVec 8} {fval : Word64} (h : Kept s₀ s) : Kept s₀ (execFault fid fc fval s) := by
  unfold execFault
  split
  · exact h
  · dsimp only
    refine kept_ite (kept_dropFlight (kept_bump (kept_trimQueues (kept_releaseQueues (kept_releaseLeft h))))) ?_
    refine kept_modThread (kept_modFlight (kept_trimQueues (kept_releaseQueues (kept_releaseLeft h)))) (fun _ => ?_)
    split
    · exact threadKept_ite (.refl _) (.refl _)
    · exact .refl _

theorem kept_stopThread {t : Thread} (h : Kept s₀ s) : Kept s₀ (stopThread t s) :=
  kept_modThread h (fun _ => .refl _)

theorem kept_enterHandler {t : Thread} {faults : List FaultRec} {new : Option (List RestartEntry)} {fnpc : BitVec 48}
    (h : Kept s₀ s) : Kept s₀ (enterHandler t faults new fnpc s) := by
  unfold enterHandler
  dsimp only
  refine kept_ite (kept_logEvent (kept_modThread (kept_bump h) (fun _ => threadKept_align))) ?_
  refine kept_ite ?_ ?_
  · refine kept_logEvent ?_
    refine kept_modThread ?_ (fun _ => .refl _)
    refine kept_modThread (kept_bump h) (fun _ => ?_)
    split
    · split
      · exact .refl _
      · exact .refl _
    · exact .refl _
  · refine kept_modThread ?_ (fun _ => threadKept_align)
    refine kept_modThread (kept_bump h) (fun _ => ?_)
    split
    · split
      · exact .refl _
      · exact .refl _
    · exact .refl _

theorem optionKept_faultEntryStep {t : Thread} (h : Kept s₀ s) : OptionKept s₀ (faultEntryStep t s) := by
  unfold faultEntryStep
  dsimp only
  split
  · trivial
  · exact optionKept_ite (optionKept_ite (kept_enterHandler h) trivial) (kept_enterHandler h)
  · exact optionKept_ite (optionKept_ite (kept_enterHandler h) (kept_enterHandler h)) trivial

theorem kept_pauseThread {t : Thread} (h : Kept s₀ s) : Kept s₀ (pauseThread t s) := by
  unfold pauseThread
  dsimp only
  refine kept_modThread
    (kept_foldl h (fun _ _ h => kept_trimQueues (kept_releaseQueues (kept_dropFlight (kept_releaseLeft h))))) (fun _ => ?_)
  refine threadKept_ite (.refl _) ?_
  split
  · exact .refl _
  · exact threadKept_align

/-! The scalar instructions. -/

theorem kept_alu2 {t : Thread} {rd rs1 rs2 : Reg} {f : Word64 → Word64 → Word64} (h : Kept s₀ s) :
    Kept s₀ (alu2 t rd rs1 rs2 f s) :=
  kept_scalarWrite h

theorem kept_aluImm {t : Thread} {rd rs1 : Reg} {imm : BitVec 32} {f : Word64 → Word64 → Word64} (h : Kept s₀ s) :
    Kept s₀ (aluImm t rd rs1 imm f s) :=
  kept_scalarWrite h

theorem kept_branch {t : Thread} {rs1 rs2 : Reg} {off : BitVec 32} {c : Word64 → Word64 → Bool} (h : Kept s₀ s) :
    Kept s₀ (branch t rs1 rs2 off c s) :=
  kept_issue h (fun _ _ h => verdictKept_ite trivial (verdictKept_ite trivial (verdictKept_ite h h)))

theorem kept_writeF64 {t : Thread} {rd : Reg} {rnd : Rnd} {v : Val} (h : Kept s₀ s) : Kept s₀ (writeF64 t rd rnd v s) :=
  kept_setSreg (kept_modThread h (fun _ => .refl _))

theorem kept_fpRound {t : Thread} {rd : Reg} {srcs : List Reg} {rnd : BitVec 3} {f : Rnd → State → State}
    (h : Kept s₀ s) (hf : ∀ s₁ m s, Kept s₁ s → Kept s₁ (f m s)) : Kept s₀ (fpRound t rd srcs rnd f s) := by
  refine kept_issue h fun s₁ s h => ?_
  split
  · trivial
  · exact verdictKept_ite trivial (verdictKept_ite trivial (hf _ _ _ h))

theorem kept_fp2 {t : Thread} {rd rs1 rs2 : Reg} {rnd : BitVec 3} {f : Rnd → Val → Val → Val} (h : Kept s₀ s) :
    Kept s₀ (fp2 t rd rs1 rs2 rnd f s) :=
  kept_fpRound h (fun _ _ _ => kept_writeF64)

theorem kept_fpCmp {t : Thread} {rd rs1 rs2 : Reg} {f : Val → Val → Bool} (h : Kept s₀ s) : Kept s₀ (fpCmp t rd rs1 rs2 f s) :=
  kept_scalarWrite h

theorem kept_fpToInt {t : Thread} {rd rs1 : Reg} {rnd : BitVec 3} {bits : Nat} (h : Kept s₀ s) :
    Kept s₀ (fpToInt t rd rs1 rnd bits s) :=
  kept_fpRound h (fun _ _ _ h => kept_setSreg (kept_modThread h (fun _ => .refl _)))

theorem kept_sdmCorrect {a n : Nat} (h : Kept s₀ s) : Kept s₀ (sdmCorrect a n s) :=
  kept_bump h

theorem kept_sdmUncorr {t : Thread} {word : Nat} (h : Kept s₀ s) : Kept s₀ (sdmUncorr t word s) :=
  kept_logEvent (kept_stopThread h)

theorem kept_sdmLoad {t : Thread} {rd rs1 : Reg} {imm : BitVec 32} {n : Nat} {isSigned : Bool} (h : Kept s₀ s) :
    Kept s₀ (sdmLoad t rd rs1 imm n isSigned s) := by
  refine kept_issue h fun _ _ h => verdictKept_ite trivial (verdictKept_ite trivial (verdictKept_ite trivial ?_))
  split
  · exact kept_sdmUncorr h
  · exact kept_setSreg (kept_sdmCorrect h)

theorem kept_sdmStore {t : Thread} {rs1 rs2 : Reg} {imm : BitVec 32} {n : Nat} (h : Kept s₀ s) :
    Kept s₀ (sdmStore t rs1 rs2 imm n s) :=
  kept_issue h (fun _ _ h => verdictKept_ite trivial (verdictKept_ite trivial (verdictKept_ite trivial (kept_sdmWrite h))))

theorem kept_queueMoved (h : Kept s₀ s) : Kept s₀ (queueMoved s) := h

/-! The local store and the tiles. -/

theorem kept_readCfg {n : Nat} (h : Kept s₀ s) : Kept s₀ (readCfg n s) :=
  kept_ite (kept_bump h) h

theorem kept_setHandle {h' : BitVec 8} {e : Handle} (h : Kept s₀ s) : Kept s₀ (setHandle h' e s) := h

theorem kept_dropTileCopies {n : Nat} (h : Kept s₀ s) : Kept s₀ (dropTileCopies n s) := h

theorem kept_writeTiles {ws : List TileWrite} (h : Kept s₀ s) : Kept s₀ (writeTiles ws s) :=
  kept_foldl h (fun _ _ => kept_writeTile)

theorem kept_emptyTile {n : Nat} (h : Kept s₀ s) : Kept s₀ (emptyTile n s) :=
  kept_dropTileCopies (kept_setTileCfg h)

theorem kept_touchRow {input n r : Nat} (h : Kept s₀ s) : Kept s₀ (touchRow input n r s) :=
  kept_ite (kept_bump h) (kept_ite (kept_bump h) h)

/-! Instructions in flight. -/

theorem kept_removePopped {fid : Nat} (h : Kept s₀ s) : Kept s₀ (removePopped fid s) :=
  kept_trimQueues (kept_ite h h)

theorem kept_beginWith {f : Flight} {reads : ParityLoc → Bool} {k : State → State} (h : Kept s₀ s)
    (hk : ∀ s, Kept s₀ s → Kept s₀ (k s)) : Kept s₀ (beginWith f reads k s) := by
  unfold beginWith
  split
  · exact kept_logEvent (kept_stopThread (kept_trimQueues (kept_releaseQueues (kept_releaseTests h))))
  · exact hk _ h

theorem kept_unissue {f : Flight} (h : Kept s₀ s) : Kept s₀ (unissue f s) := by
  unfold unissue
  dsimp only
  refine kept_modThread h (fun _ => ?_)
  split
  · exact threadKept_align
  · exact threadKept_align

theorem verdictKept_launch {f : Flight} {start : Flight → State → State} (h : Kept s₀ s)
    (hstart : ∀ f s, Kept s₀ s → Kept s₀ (start f s)) : VerdictKept s₀ (launch f start s) :=
  kept_iteElse (kept_update (kept_runTests (kept_foldl h (fun _ _ => kept_readCfg)))) (fun h => hstart _ _ h)

theorem kept_setActs {fid : Nat} {acts : List (List Access)} (h : Kept s₀ s) : Kept s₀ (setActs fid acts s) := h

theorem kept_correctedRead {p : Nat} (h : Kept s₀ s) : Kept s₀ (correctedRead p s) :=
  kept_update (kept_bump (kept_bump h))

theorem kept_commitNstat {t : Thread} {first : Nat} {n : Nstat} (h : Kept s₀ s) : Kept s₀ (commitNstat t first n s) :=
  kept_bump (kept_bump (kept_bump (kept_modThread h (fun _ => threadKept_ite (.refl _) (.refl _)))))

theorem kept_commitRegs {f : Flight} (h : Kept s₀ s) : Kept s₀ (commitRegs f s) :=
  kept_foldl (kept_foldl h fun _ _ => kept_sdmWrite) fun _ _ => kept_setSreg

theorem kept_commitToken {f : Flight} (h : Kept s₀ s) : Kept s₀ (commitToken f s) := by
  unfold commitToken
  split
  · exact h
  · exact h

theorem kept_commitAccTypes {f : Flight} (h : Kept s₀ s) : Kept s₀ (commitAccTypes f s) := by
  unfold commitAccTypes
  split
  · exact h
  · exact h

theorem kept_commitStores {f : Flight} (h : Kept s₀ s) : Kept s₀ (commitStores f s) :=
  have hpush := kept_foldl (f := fun s (p : Nat × List Bytes) =>
    queueMoved (setQueue p.1 (fillRows f.id p.2 (queueEntries s p.1)) s)) (l := f.commit.push) h fun _ _ h => h
  have hacc : Kept s₀ (commitAcc f _) := kept_writeTiles (ws := f.commit.tiles)
    (kept_commitToken (f := f) (kept_removePopped hpush))
  kept_foldl (kept_commitAccTypes hacc) fun _ _ => kept_writeRow

theorem kept_commitLfsr {f : Flight} (h : Kept s₀ s) : Kept s₀ (commitLfsr f s) := by
  unfold commitLfsr
  split
  · exact kept_modThread h fun _ => .refl _
  · exact h

theorem kept_commitAmaxReg {f : Flight} (h : Kept s₀ s) : Kept s₀ (commitAmaxReg f s) := by
  unfold commitAmaxReg
  split
  · exact h
  · exact h

theorem kept_commitStatus {f : Flight} (h : Kept s₀ s) : Kept s₀ (commitStatus f s) :=
  kept_foldl (kept_foldl (kept_commitLfsr (kept_commitAmaxReg h)) fun _ _ => kept_bump) fun _ _ => kept_logEvent

/-- The commit of an instruction that is none of the tensor engines' counts nothing. -/
theorem commitAll_of_not_tensor {f : Flight} (h : f.tensor = false) (s : State) :
    commitAll f s = commitStatus f (commitStores f (commitRegs f s)) := by
  unfold commitAll
  simp only [h, Bool.false_eq_true, if_false]
  rfl

theorem kept_commitAll {f : Flight} (h : Kept s₀ s) : Kept s₀ (commitAll f s) := by
  cases ht : f.tensor with
  | true =>
    rw [commitAll_of_tensor ht]
    exact kept_commitStatus (kept_commitNstat (kept_commitStores (kept_commitRegs h)))
  | false =>
    rw [commitAll_of_not_tensor ht]
    exact kept_commitStatus (kept_commitStores (kept_commitRegs h))

end

end Sys2Proof.Machine
end

section
/-! SUPPORT. What the access stream, the sessions and the fabric keep well formed. -/

namespace Sys2Proof.Machine
open Claims

section
variable {s₀ s : State}

/-! The access stream. -/

theorem kept_startPlain {f : Flight} (h : Kept s₀ s) : Kept s₀ (startPlain f s) :=
  kept_beginWith h (fun _ h => h)

theorem verdictKept_issueLsRd {t : Thread} {a : LsArgs} (h : Kept s₀ s) : VerdictKept s₀ (issueLsRd t a s) := by
  unfold issueLsRd
  repeat with_reducible refine verdictKept_bind (by simp) fun _ => ?_
  exact verdictKept_launch h (fun _ _ => kept_startPlain)

theorem kept_finishLsRd {a : LsArgs} {f : Flight} (h : Kept s₀ s) : Kept s₀ (finishLsRd a f s) :=
  kept_commitAll h

theorem verdictKept_issueLsWr {t : Thread} {a : LsArgs} (h : Kept s₀ s) : VerdictKept s₀ (issueLsWr t a s) := by
  unfold issueLsWr
  repeat with_reducible refine verdictKept_bind (by simp) fun _ => ?_
  split
  · exact kept_sdmUncorr h
  · exact verdictKept_launch (kept_sdmCorrect h) (fun _ _ => kept_startPlain)

theorem verdictKept_issueLsRq {i : Instr} {isStrided : Bool} {t : Thread} {a : LsqArgs} (h : Kept s₀ s) :
    VerdictKept s₀ (issueLsRq i isStrided t a s) := by
  unfold issueLsRq
  repeat with_reducible refine verdictKept_bind (by simp) fun _ => ?_
  exact verdictKept_launch h (fun _ _ => kept_startPlain)

theorem kept_finishLsRq {a : LsqArgs} {f : Flight} (h : Kept s₀ s) : Kept s₀ (finishLsRq a f s) :=
  kept_commitAll h

theorem kept_startLsWq {f : Flight} (h : Kept s₀ s) : Kept s₀ (startLsWq f s) :=
  kept_beginWith h (fun _ h => h)

theorem verdictKept_issueLsWq {t : Thread} {a : LsqArgs} (h : Kept s₀ s) : VerdictKept s₀ (issueLsWq t a s) := by
  unfold issueLsWq
  repeat with_reducible refine verdictKept_bind (by simp) fun _ => ?_
  exact verdictKept_launch h (fun _ _ => kept_startLsWq)

theorem verdictKept_issueLsTag {t : Thread} {a : LsTagArgs} (h : Kept s₀ s) : VerdictKept s₀ (issueLsTag t a s) := by
  unfold issueLsTag
  repeat with_reducible refine verdictKept_bind (by simp) fun _ => ?_
  exact kept_foldl h (fun _ _ h => kept_setTag (kept_repairTag h))

theorem verdictKept_issueTld {i : Instr} {isStrided : Bool} {t : Thread} {a : TileMoveArgs} (h : Kept s₀ s) :
    VerdictKept s₀ (issueTld i isStrided t a s) := by
  unfold issueTld
  repeat with_reducible refine verdictKept_bind (by simp) fun _ => ?_
  exact verdictKept_launch h (fun _ _ => kept_startPlain)

theorem verdictKept_issueTldT {t : Thread} {a : TldTArgs} (h : Kept s₀ s) : VerdictKept s₀ (issueTldT t a s) := by
  unfold issueTldT
  repeat with_reducible refine verdictKept_bind (by simp) fun _ => ?_
  dsimp only
  split
  · repeat with_reducible refine verdictKept_bind (by simp) fun _ => ?_
    exact verdictKept_launch h (fun _ _ => kept_startPlain)
  · repeat with_reducible refine verdictKept_bind (by simp) fun _ => ?_
    exact verdictKept_launch h (fun _ _ => kept_startPlain)

theorem kept_cacheRow {n r : Nat} (h : Kept s₀ s) : Kept s₀ (cacheRow n r s) :=
  kept_ite (kept_bump h) h

theorem kept_startTst {a : TileMoveArgs} {f : Flight} (h : Kept s₀ s) : Kept s₀ (startTst a f s) :=
  kept_beginWith h (fun _ h => kept_foldl h (fun _ _ => kept_cacheRow))

theorem verdictKept_issueTst {i : Instr} {isStrided : Bool} {t : Thread} {a : TileMoveArgs} (h : Kept s₀ s) :
    VerdictKept s₀ (issueTst i isStrided t a s) := by
  unfold issueTst
  repeat with_reducible refine verdictKept_bind (by simp) fun _ => ?_
  exact verdictKept_launch h (fun _ _ => kept_startTst)

theorem kept_startTctxSave {f : Flight} (h : Kept s₀ s) : Kept s₀ (startTctxSave f s) :=
  kept_beginWith h (fun _ h => h)

theorem verdictKept_issueTctxSave {t : Thread} {a : TctxArgs} (h : Kept s₀ s) : VerdictKept s₀ (issueTctxSave t a s) := by
  unfold issueTctxSave
  repeat with_reducible refine verdictKept_bind (by simp) fun _ => ?_
  exact verdictKept_launch h (fun _ _ => kept_startTctxSave)

theorem kept_judgeHeader {a : TctxArgs} {f : Flight} (h : Kept s₀ s) : Kept s₀ (judgeHeader a f s) := by
  unfold judgeHeader
  split
  · exact kept_issueFault (kept_unissue (kept_releaseTests h))
  · exact h
  · exact h

theorem verdictKept_issueTctxLoad {t : Thread} {a : TctxArgs} (h : Kept s₀ s) : VerdictKept s₀ (issueTctxLoad t a s) := by
  unfold issueTctxLoad
  repeat with_reducible refine verdictKept_bind (by simp) fun _ => ?_
  dsimp only
  split
  · repeat with_reducible refine verdictKept_bind (by simp) fun _ => ?_
    exact verdictKept_launch h (fun _ _ => kept_startPlain)
  · exact verdictKept_launch h (fun _ _ => kept_startPlain)

theorem kept_startDma {a : DmaArgs} {f : Flight} (h : Kept s₀ s) : Kept s₀ (startDma a f s) :=
  kept_iteThen (kept_startPlain h) (fun h => kept_reservoirPump (kept_foldl h (fun _ _ => kept_reservoirRead)))

theorem verdictKept_issueDmaLl {t : Thread} {a : DmaArgs} (h : Kept s₀ s) : VerdictKept s₀ (issueDmaLl t a s) := by
  unfold issueDmaLl
  repeat with_reducible refine verdictKept_bind (by simp) fun _ => ?_
  exact verdictKept_launch h (fun _ _ => kept_startDma)

theorem verdictKept_issueDmaLr {t : Thread} {a : DmaArgs} (h : Kept s₀ s) : VerdictKept s₀ (issueDmaLr t a s) := by
  unfold issueDmaLr
  repeat with_reducible refine verdictKept_bind (by simp) fun _ => ?_
  exact verdictKept_launch h (fun _ _ => kept_startDma)

theorem verdictKept_issueDmaRl {t : Thread} {a : DmaArgs} (h : Kept s₀ s) : VerdictKept s₀ (issueDmaRl t a s) := by
  unfold issueDmaRl
  repeat with_reducible refine verdictKept_bind (by simp) fun _ => ?_
  exact verdictKept_launch h (fun _ _ => kept_startDma)

theorem verdictKept_issueDmaTl {t : Thread} {a : DmaArgs} (h : Kept s₀ s) : VerdictKept s₀ (issueDmaTl t a s) := by
  unfold issueDmaTl
  repeat with_reducible refine verdictKept_bind (by simp) fun _ => ?_
  split
  · exact kept_logEvent (kept_stopThread h)
  · exact verdictKept_launch (kept_foldl h (fun _ _ => kept_cacheRow)) (fun _ _ => kept_startDma)

theorem verdictKept_issueDma {t : Thread} {a : DmaArgs} (h : Kept s₀ s) : VerdictKept s₀ (issueDma t a s) := by
  unfold issueDma
  repeat with_reducible refine verdictKept_bind (by simp) fun _ => ?_
  split
  · exact verdictKept_issueDmaLl h
  · exact verdictKept_issueDmaLr h
  · exact verdictKept_issueDmaRl h
  · exact verdictKept_issueDmaTl h

theorem kept_takeBinding {t : Thread} {h' : BitVec 8} (h : Kept s₀ s) : Kept s₀ (takeBinding t h' s) :=
  kept_setHandle (kept_modThread h (fun _ => .refl _))

theorem kept_releaseBinding {t : Thread} {h' : BitVec 8} (h : Kept s₀ s) : Kept s₀ (releaseBinding t h' s) := by
  unfold releaseBinding
  split
  · exact h
  · exact kept_iteThen (kept_modThread h (fun _ => .refl _)) (fun h => kept_ite (kept_setHandle h) (kept_setHandle h))

theorem kept_bindRun {b : Bool} {hd : BitVec 8} {ts : List Thread} (h : Kept s₀ s) : Kept s₀ (bindRun b hd ts s).2 := by
  induction ts generalizing s with
  | nil => exact h
  | cons t ts ih =>
    unfold bindRun
    split
    · exact ih h
    · exact ih (kept_iteThen (kept_releaseBinding h) kept_takeBinding)

theorem verdictKept_issueBind {i : Instr} {bind : Bool} {t : Thread} {h' : BitVec 8} {m : BitVec 2} (h : Kept s₀ s) :
    VerdictKept s₀ (issueBind i bind t h' m s) := by
  unfold issueBind
  repeat with_reducible refine verdictKept_bind (by simp) fun _ => ?_
  dsimp only
  split
  · exact kept_bindRun h
  · exact kept_update (kept_bindRun h)

theorem optionKept_bindingReleaseStep {t : Thread} {h' : BitVec 8} (h : Kept s₀ s) :
    OptionKept s₀ (bindingReleaseStep t h' s) := by
  unfold bindingReleaseStep
  dsimp only
  split
  · trivial
  · exact optionKept_ite trivial (kept_ite (kept_dropFlight (kept_iteThen (kept_releaseBinding h) kept_takeBinding))
      (kept_modFlight (kept_iteThen (kept_releaseBinding h) kept_takeBinding)))

theorem verdictKept_issueHswap {t : Thread} {ss : Reg} {h' : BitVec 8} (h : Kept s₀ s) :
    VerdictKept s₀ (issueHswap t ss h' s) := by
  unfold issueHswap
  repeat with_reducible refine verdictKept_bind (by simp) fun _ => ?_
  exact h

theorem verdictKept_issueSpoolFill {t : Thread} {pin : Bool} {ss : Reg} {n1 : BitVec 6} (h : Kept s₀ s) :
    VerdictKept s₀ (issueSpoolFill t pin ss n1 s) := by
  unfold issueSpoolFill
  repeat with_reducible refine verdictKept_bind (by simp) fun _ => ?_
  exact kept_foldl h (fun _ _ h => kept_ite (kept_ite h h) (kept_spoolFill h))

theorem verdictKept_issueSpoolUnpin {t : Thread} {ss : Reg} {n1 : BitVec 6} (h : Kept s₀ s) :
    VerdictKept s₀ (issueSpoolUnpin t ss n1 s) := by
  unfold issueSpoolUnpin
  repeat with_reducible refine verdictKept_bind (by simp) fun _ => ?_
  exact h

theorem verdictKept_issueSpoolInv {t : Thread} (h : Kept s₀ s) : VerdictKept s₀ (issueSpoolInv t s) := by
  unfold issueSpoolInv
  repeat with_reducible refine verdictKept_bind (by simp) fun _ => ?_
  exact h

theorem kept_installLine {l : SpoolLine} (h : Kept s₀ s) : Kept s₀ (installLine l s) := by
  unfold installLine
  dsimp only
  refine kept_update (kept_ite h ?_)
  split
  · exact h
  · exact h

theorem kept_wakeFetch {t : Thread} {demand err : Bool} {line : BitVec 48} (h : Kept s₀ s) :
    Kept s₀ (wakeFetch t demand err line s) :=
  kept_ite (kept_ite (kept_issueFault h) (kept_ite h (kept_setWait h))) h

theorem optionKept_spoolArrival {line : BitVec 48} {err : Bool} {data : Bytes} (h : Kept s₀ s) :
    OptionKept s₀ (spoolArrival line err data s) := by
  unfold spoolArrival
  split
  · trivial
  · split
    · trivial
    · exact kept_wakeFetch (kept_wakeFetch (kept_iteThen (kept_ite (kept_logEvent h) h) kept_installLine))

/-! The session table. -/

theorem kept_cmdOk (h : Kept s₀ s) : Kept s₀ (cmdOk s) := h

theorem kept_cmdFail {code : Word32} (h : Kept s₀ s) : Kept s₀ (cmdFail code s) := h

theorem kept_sessTouch {i : Nat} (h : Kept s₀ s) : Kept s₀ (sessTouch i s) :=
  kept_iteThen (kept_ite (kept_ite h (kept_logEvent (kept_setSess h))) h) (fun h => kept_bump (kept_update h))

theorem kept_sessScan (h : Kept s₀ s) : Kept s₀ (sessScan s) :=
  kept_foldl h (fun _ _ => kept_sessTouch)

theorem kept_retireSession {i : Nat} (h : Kept s₀ s) : Kept s₀ (retireSession i s) := by
  unfold retireSession
  dsimp only
  refine kept_ite ?_ h
  refine kept_setSess ?_
  split
  · exact h
  · exact h

theorem kept_retireList {l : SessList} (h : Kept s₀ s) : Kept s₀ (retireList l s) :=
  kept_foldl (kept_sessScan h) (fun _ _ => kept_retireSession)

theorem kept_retireOldest (h : Kept s₀ s) : Kept s₀ (retireOldest s) := by
  unfold retireOldest
  split
  · exact kept_retireList h
  · exact h

theorem kept_listsBoundary (h : Kept s₀ s) : Kept s₀ (listsBoundary s) :=
  kept_foldl h (fun _ _ => kept_retireList)

theorem kept_addList {sel : List Nat} (h : Kept s₀ s) : Kept s₀ (addList sel s) :=
  kept_ite h h

theorem verdictKept_issueSessNext {t : Thread} {sa sd : Reg} (h : Kept s₀ s) : VerdictKept s₀ (issueSessNext t sa sd s) := by
  unfold issueSessNext
  repeat with_reducible refine verdictKept_bind (by simp) fun _ => ?_
  dsimp only
  split
  · exact kept_sdmUncorr (kept_retireOldest (kept_sessScan h))
  · exact kept_update (kept_addList (kept_foldl (kept_retireOldest (kept_sessScan h)) (fun _ _ => kept_setSess)))

theorem wf_foldl_set (l : List Nat) (v : Nat → Word64) (m : Sparse Word64) (h : Sparse.wf 0 m = true) :
    Sparse.wf 0 (l.foldl (fun m n => Sparse.set 0 m n (v n)) m) = true := by
  induction l generalizing m with
  | nil => exact h
  | cons n l ih => exact ih _ (Sparse.wf_set 0 m n (v n) h)

theorem kept_commitStaged (h : Kept s₀ s) : Kept s₀ (commitStaged s) := by
  unfold commitStaged
  refine kept_ite ?_ h
  obtain ⟨hm, ha, hx, hp⟩ := h
  exact ⟨hm, ha, hx, fun k => wf_foldl_set _ _ _ (hp k)⟩

theorem verdictKept_issueReplaySync {t : Thread} (h : Kept s₀ s) : VerdictKept s₀ (issueReplaySync t s) :=
  verdictKept_ite (kept_listsBoundary (kept_commitStaged (kept_modThread h (fun _ => .refl _)))) (kept_modThread h (fun _ =>
    .refl _))

theorem kept_startResume {idx : Nat} (h : Kept s₀ s) : Kept s₀ (startResume idx s) :=
  kept_reservoirPump (kept_foldl (kept_update (kept_setSess h)) (fun _ _ => kept_reservoirRead))

theorem kept_queueBoundary {b : BAccess} (h : Kept s₀ s) : Kept s₀ (queueBoundary b s) := h

theorem kept_startPark {idx : Nat} (h : Kept s₀ s) : Kept s₀ (startPark idx s) :=
  kept_foldl (kept_update (kept_setSess h)) (fun _ _ h => h)

theorem kept_dropXfer (h : Kept s₀ s) : Kept s₀ (dropXfer s) := h

theorem kept_backOut {x : SessXfer} (h : Kept s₀ s) : Kept s₀ (backOut x s) :=
  kept_ite (kept_setSess h) h

theorem kept_xferError (h : Kept s₀ s) : Kept s₀ (xferError s) := by
  unfold xferError
  split
  · exact h
  · exact kept_cmdFail (kept_logEvent (kept_bump (kept_dropXfer (kept_backOut h))))

theorem kept_xferRowDone (h : Kept s₀ s) : Kept s₀ (xferRowDone s) := by
  unfold xferRowDone
  split
  · exact h
  · exact kept_ite h (kept_cmdOk (kept_ite (kept_setSess h) h))

/-! The fabric and the reservoir port. -/

theorem kept_setPort {p : BitVec 2} {q : Port} (h : Kept s₀ s) : Kept s₀ (setPort p q s) := by
  unfold setPort
  split
  · exact h
  · exact h
  · exact h
  · exact h

theorem kept_modPort {p : BitVec 2} {g : Port → Port} (h : Kept s₀ s) : Kept s₀ (modPort p g s) :=
  kept_setPort h

theorem kept_freeFlits {p : BitVec 2} {n : Nat} (h : Kept s₀ s) : Kept s₀ (freeFlits p n s) :=
  kept_modPort h

theorem kept_ite_snd {α : Type} {c : Prop} [Decidable c] {a b : α × State} (ha : Kept s₀ a.2) (hb : Kept s₀ b.2) :
    Kept s₀ (if c then a else b).2 := by
  split
  · exact ha
  · exact hb

theorem kept_freeBoundary {b : BAccess} (h : Kept s₀ s) : Kept s₀ (freeBoundary s b) := by
  unfold freeBoundary
  split
  · exact kept_freeFlits h
  · exact h

theorem kept_takeFlits {p : BitVec 2} {n : Nat} (h : Kept s₀ s) : Kept s₀ (takeFlits p n s) :=
  kept_modPort h

theorem kept_sendLink {p : BitVec 2} {ack : Bool} {seq : BitVec 8} (h : Kept s₀ s) : Kept s₀ (sendLink p ack seq s) :=
  kept_modPort h

theorem kept_sendResponse {p : BitVec 2} {b : Block} (h : Kept s₀ s) : Kept s₀ (sendResponse p b s) :=
  kept_ite (kept_modPort h) h

theorem kept_transmit {p : BitVec 2} {b : Block} (h : Kept s₀ s) : Kept s₀ (transmit p b s) :=
  kept_modPort h

theorem kept_startBlock {p : BitVec 2} {b : Block} (h : Kept s₀ s) : Kept s₀ (startBlock p b s) :=
  kept_transmit (kept_setPort (kept_readCfg h))

theorem kept_sendLinkUnits {p : BitVec 2} (h : Kept s₀ s) : Kept s₀ (sendLinkUnits p s) :=
  kept_modPort h

theorem kept_sendResends {n : Nat} {p : BitVec 2} (h : Kept s₀ s) : Kept s₀ (sendResends n p s) := by
  induction n generalizing s with
  | zero => exact h
  | succ n ih =>
    unfold sendResends
    dsimp only
    split
    · exact h
    · exact kept_ite (ih (kept_bump (kept_transmit (kept_modPort h)))) h

theorem kept_sendResponses {n : Nat} {p : BitVec 2} (h : Kept s₀ s) : Kept s₀ (sendResponses n p s) := by
  induction n generalizing s with
  | zero => exact h
  | succ n ih =>
    unfold sendResponses
    dsimp only
    split
    · exact h
    · exact kept_ite (ih (kept_startBlock (kept_setPort h))) h

theorem kept_modRemRow {fid i : Nat} {g : RemRow → RemRow} (h : Kept s₀ s) : Kept s₀ (modRemRow fid i g s) := h

theorem kept_sendRequests {n : Nat} {p : BitVec 2} (h : Kept s₀ s) : Kept s₀ (sendRequests n p s) := by
  induction n generalizing s with
  | zero => exact h
  | succ n ih =>
    unfold sendRequests
    split
    · exact h
    · dsimp only
      split
      · exact h
      · exact kept_ite (ih (kept_startBlock (kept_ite (kept_bump (kept_modRemRow (kept_setPort h)))
          (kept_modRemRow (kept_setPort h))))) h

theorem kept_pump {p : BitVec 2} (h : Kept s₀ s) : Kept s₀ (pump p s) :=
  kept_ite (kept_iteElse (kept_sendResends (kept_sendLinkUnits h))
    (fun h => kept_iteThen (kept_sendResponses h) kept_sendRequests)) h

theorem kept_freeTrack {p : BitVec 2} {fid i : Nat} (h : Kept s₀ s) : Kept s₀ (freeTrack p fid i s) :=
  kept_modPort h

theorem kept_rowStatus {fid i : Nat} {status : BitVec 8} (h : Kept s₀ s) : Kept s₀ (rowStatus fid i status s) := by
  unfold rowStatus
  split
  · exact h
  · next r x _ =>
    have hs : Kept s₀ (freeTrack r.port fid i (modRemRow fid i (fun y => { y with phase := .final status }) s)) :=
      kept_freeTrack h
    refine kept_ite h (kept_iteThen ?_ kept_bump)
    split
    · exact kept_iteThen hs kept_releaseClaim
    · exact hs

theorem kept_rowArrived {fid i : Nat} {buffer : Option (BitVec 2)} {row : Bytes} (h : Kept s₀ s) :
    Kept s₀ (rowArrived fid i buffer row s) := by
  unfold rowArrived
  dsimp only
  split
  · split
    · exact kept_freeFlits h
    · exact h
  · refine kept_ite ?_ ?_
    · split
      · exact kept_freeFlits (kept_rowStatus h)
      · exact kept_rowStatus h
    · split
      · exact kept_queueBoundary (kept_modRemRow (kept_bump (kept_freeTrack h)))
      · split
        · exact kept_freeFlits (kept_modRemRow (kept_bump (kept_freeTrack h)))
        · exact kept_modRemRow (kept_bump (kept_freeTrack h))

theorem kept_denyRequest {win : BitVec 4} {reason : Nat} {src : BitVec 19} (h : Kept s₀ s) :
    Kept s₀ (denyRequest win reason src s) :=
  kept_iteThen (kept_update (kept_bump h)) kept_logEvent

theorem kept_serveRequest {req : ReqType} {win : BitVec 4} {wr : BitVec 17} {key : Word32} {src : BitVec 19} {row : Bytes}
    {wuse ruse : BUse} {buffer : Option (BitVec 2)} (h : Kept s₀ s) :
    Kept s₀ (serveRequest req win wr key src row wuse ruse buffer s).2 := by
  have hs : Kept s₀ (readCfg (getWindow s win.toNat).handle.toNat (readCfg (cfgWindow win.toNat) s)) := kept_readCfg
    (kept_readCfg h)
  have hr {c : Prop} [Decidable c] {p : Nat} {u : State} (hu : Kept s₀ u) : Kept s₀ (if c then repairTag p u else u) :=
    kept_iteThen hu kept_repairTag
  have haccept {w : Nat} {b : BAccess} {u : State} (hu : Kept s₀ u) : Kept s₀ (queueBoundary b (bump (cntWinServed w) 1 u)) :=
    kept_queueBoundary (kept_bump hu)
  unfold serveRequest
  dsimp only
  split
  · exact kept_denyRequest hs
  · split
    · exact kept_ite_snd (haccept (hr hs)) (kept_ite_snd (haccept (kept_setTag (hr hs))) (kept_bump (hr hs)))
    · exact kept_ite_snd (kept_queueBoundary (hr hs)) (kept_ite_snd (kept_queueBoundary (kept_setTag (hr hs)))
        (kept_bump (hr hs)))
    · exact kept_ite_snd (kept_queueBoundary (hr hs)) (kept_bump (hr hs))
    · exact kept_queueBoundary (hr hs)

theorem kept_serveSelf {fid i : Nat} (h : Kept s₀ s) : Kept s₀ (serveSelf fid i s) := by
  unfold serveSelf
  split
  · exact h
  · dsimp only
    split
    · next c s' e =>
      have hv : Kept s₀ (Served.status c, s').2 := by
        rw [← e]
        exact kept_serveRequest (kept_iteThen (kept_modRemRow h) kept_bump)
      exact kept_rowStatus hv
    · next s' e =>
      have hv : Kept s₀ (Served.read, s').2 := by
        rw [← e]
        exact kept_serveRequest (kept_iteThen (kept_modRemRow h) kept_bump)
      exact hv

theorem kept_offerRows {fid : Nat} (h : Kept s₀ s) : Kept s₀ (offerRows fid s) := by
  unfold offerRows
  split
  · exact h
  · exact kept_ite (kept_foldl h (fun _ _ => kept_serveSelf)) (kept_pump h)

theorem kept_linkFault {f : Flight} {r : Remote} (h : Kept s₀ s) : Kept s₀ (linkFault f r s) := by
  unfold linkFault
  dsimp only
  refine kept_execFault (kept_foldl h fun _ _ h => ?_)
  split
  · exact kept_ite (kept_releaseClaim h) h
  · exact h

theorem kept_goDown {p : BitVec 2} (h : Kept s₀ s) : Kept s₀ (goDown p s) :=
  kept_foldl (kept_logEvent (kept_modPort h)) (fun _ _ => kept_linkFault)

theorem optionKept_resendFrom {p : BitVec 2} {seq : BitVec 8} (h : Kept s₀ s) : OptionKept s₀ (resendFrom p seq s) := by
  unfold resendFrom
  dsimp only
  split
  · trivial
  · exact optionKept_ite (kept_goDown h) (kept_pump (kept_setPort h))

theorem kept_ackBlock {p : BitVec 2} {seq : BitVec 8} (h : Kept s₀ s) : Kept s₀ (ackBlock p seq s) :=
  kept_ite h (kept_pump (kept_setPort h))

theorem kept_linkUnit {p : BitVec 2} {ack : Bool} {seq : BitVec 8} (h : Kept s₀ s) : Kept s₀ (linkUnit p ack seq s) :=
  kept_ite (kept_ite (kept_ackBlock h) (kept_getD (optionKept_resendFrom h) h)) h

theorem kept_creditReturned {p : BitVec 2} (h : Kept s₀ s) : Kept s₀ (creditReturned p s) :=
  kept_ite (kept_pump (kept_modPort h)) h

theorem kept_acceptRequest {p : BitVec 2} {b : Block} {req : ReqType} (h : Kept s₀ s) :
    Kept s₀ (acceptRequest p b req s) := by
  unfold acceptRequest
  split
  · next c s' e =>
    have hv : Kept s₀ (Served.status c, s').2 := by rw [← e]; exact kept_serveRequest h
    exact kept_sendResponse (kept_ite hv (kept_freeFlits hv))
  · next s' e =>
    have hv : Kept s₀ (Served.read, s').2 := by rw [← e]; exact kept_serveRequest h
    exact kept_freeFlits hv

theorem kept_acceptResponse {p : BitVec 2} {b : Block} (h : Kept s₀ s) : Kept s₀ (acceptResponse p b s) := by
  unfold acceptResponse
  split
  · exact kept_freeFlits (kept_bump h)
  · exact kept_ite (kept_rowArrived (kept_ite (kept_freeTrack h) h))
      (kept_freeFlits (kept_ite (kept_freeTrack h) (kept_rowStatus h)))

theorem kept_acceptBlock {p : BitVec 2} {b : Block} (h : Kept s₀ s) : Kept s₀ (acceptBlock p b s) := by
  unfold acceptBlock
  dsimp only
  refine kept_ite (kept_logEvent (kept_bump (kept_freeFlits (kept_readCfg h)))) ?_
  refine kept_ite (kept_logEvent (kept_bump (kept_freeFlits (kept_readCfg h)))) ?_
  split
  · exact kept_acceptRequest (kept_readCfg h)
  · exact kept_acceptResponse (kept_readCfg h)

theorem kept_discardFlits {p : BitVec 2} {n : Nat} (h : Kept s₀ s) : Kept s₀ (discardFlits p n s) :=
  kept_ite (kept_freeFlits (kept_takeFlits h)) h

theorem kept_blockFailure {p : BitVec 2} {seq : BitVec 8} (h : Kept s₀ s) : Kept s₀ (blockFailure p seq s) :=
  kept_ite (kept_goDown (kept_bump (kept_setPort h))) (kept_pump (kept_sendLink (kept_bump (kept_setPort h))))

theorem kept_arrive {p : BitVec 2} {b : Block} (h : Kept s₀ s) : Kept s₀ (arrive p b s) :=
  kept_ite (kept_ite (kept_blockFailure h)
    (kept_ite (kept_pump (kept_acceptBlock (kept_sendLink (kept_takeFlits (kept_setPort h)))))
      (kept_iteElse (kept_discardFlits h) (fun h => kept_pump (kept_sendLink h))))) h

theorem kept_crcFailure {p : BitVec 2} {kind : LinkFailure} {seq : BitVec 8} (h : Kept s₀ s) :
    Kept s₀ (crcFailure p kind seq s) := by
  unfold crcFailure
  refine kept_ite ?_ h
  split
  · exact kept_bump h
  · exact kept_discardFlits h
  · exact kept_blockFailure (kept_discardFlits h)
  · exact kept_blockFailure h

theorem kept_dropOutstanding {p : BitVec 2} (h : Kept s₀ s) : Kept s₀ (dropOutstanding p s) :=
  kept_foldl h (fun _ _ => kept_rowStatus)

theorem kept_clearLink {p : BitVec 2} {retrain : Bool} (h : Kept s₀ s) : Kept s₀ (clearLink p retrain s) :=
  kept_update (kept_setPort (kept_dropOutstanding h))

theorem kept_boundaryWrite {b : BAccess} {row : Bytes} (h : Kept s₀ s) : Kept s₀ (boundaryWrite b row s) := by
  have hs : Kept s₀ (freeBoundary (if b.tagged then setTag b.phys .full (writeRow b.phys row s) else writeRow b.phys row s) b)
    :=
    kept_freeBoundary (kept_iteThen (kept_writeRow h) kept_setTag)
  unfold boundaryWrite
  dsimp only
  split
  · exact kept_bump (kept_modFlight hs)
  · exact kept_modRemRow hs
  · exact kept_xferRowDone hs
  · exact hs

theorem kept_boundaryBad {b : BAccess} {word : Nat} (h : Kept s₀ s) : Kept s₀ (boundaryBad b word s) := by
  unfold boundaryBad
  dsimp only
  split
  · exact kept_pump (kept_sendResponse (kept_denyRequest (kept_logEvent h)))
  · exact kept_rowStatus (kept_denyRequest (kept_logEvent h))
  · exact kept_xferError (kept_logEvent h)
  · exact kept_logEvent h

theorem kept_boundaryCorrected {p : Nat} (h : Kept s₀ s) : Kept s₀ (boundaryCorrected p s) :=
  kept_update (kept_bump (kept_bump h))

theorem kept_boundaryRead {b : BAccess} (h : Kept s₀ s) : Kept s₀ (boundaryRead b s) := by
  unfold boundaryRead
  split
  split
  · exact kept_boundaryBad h
  · dsimp only
    split
    · exact kept_pump (kept_sendResponse (kept_bump (kept_ite (kept_boundaryCorrected h) h)))
    · exact kept_rowArrived (kept_bump (kept_ite (kept_boundaryCorrected h) h))
    · split
      · exact kept_ite (kept_boundaryCorrected h) h
      · exact kept_reservoirPump (kept_update (kept_ite (kept_boundaryCorrected h) h))
    · exact kept_ite (kept_boundaryCorrected h) h

theorem kept_boundaryStep (h : Kept s₀ s) : Kept s₀ (boundaryStep s) := by
  unfold boundaryStep
  split
  · exact h
  · dsimp only
    split
    · exact kept_boundaryWrite h
    · exact kept_boundaryRead h

theorem kept_startRemoteWith {k : State → State} {f : Flight} (h : Kept s₀ s) (hk : ∀ s, Kept s₀ s → Kept s₀ (k s)) :
    Kept s₀ (startRemoteWith k f s) := by
  unfold startRemoteWith
  split
  · exact h
  · exact kept_beginWith h (fun _ h => kept_ite (kept_execFault (kept_releaseTests h)) (hk _ h))

theorem kept_startRemote {f : Flight} (h : Kept s₀ s) : Kept s₀ (startRemote f s) :=
  kept_startRemoteWith h (fun _ => kept_offerRows)

theorem kept_startPut {a : RemoteArgs} {f : Flight} (h : Kept s₀ s) : Kept s₀ (startPut a f s) :=
  kept_startRemoteWith h (fun _ h => kept_ite (kept_offerRows h) h)

theorem verdictKept_issuePut {i : Instr} {retry : Bool} {t : Thread} {a : RemoteArgs} (h : Kept s₀ s) :
    VerdictKept s₀ (issuePut i retry t a s) := by
  unfold issuePut
  repeat with_reducible refine verdictKept_bind (by simp) fun _ => ?_
  dsimp only
  split
  · repeat with_reducible refine verdictKept_bind (by simp) fun _ => ?_
    exact verdictKept_launch h (fun _ _ => kept_startPut)
  · repeat with_reducible refine verdictKept_bind (by simp) fun _ => ?_
    exact verdictKept_launch h (fun _ _ => kept_startPut)

theorem verdictKept_issueTake {i : Instr} {req : ReqType} {retry : Bool} {t : Thread} {a : RemoteArgs} (h : Kept s₀ s) :
    VerdictKept s₀ (issueTake i req retry t a s) := by
  unfold issueTake
  repeat with_reducible refine verdictKept_bind (by simp) fun _ => ?_
  dsimp only
  split
  · repeat with_reducible refine verdictKept_bind (by simp) fun _ => ?_
    exact verdictKept_launch h (fun _ _ => kept_startRemote)
  · repeat with_reducible refine verdictKept_bind (by simp) fun _ => ?_
    exact verdictKept_launch h (fun _ _ => kept_startRemote)

theorem verdictKept_issueFetch {t : Thread} {a : FetchArgs} (h : Kept s₀ s) : VerdictKept s₀ (issueFetch t a s) := by
  unfold issueFetch
  repeat with_reducible refine verdictKept_bind (by simp) fun _ => ?_
  exact verdictKept_launch h (fun _ _ => kept_startRemote)

theorem kept_dmaRowDone {fid i : Nat} (h : Kept s₀ s) : Kept s₀ (dmaRowDone fid i s) := h

theorem kept_dmaError {fid i : Nat} {address : BitVec 48} (h : Kept s₀ s) : Kept s₀ (dmaError fid i address s) := by
  unfold dmaError
  dsimp only
  refine kept_dmaRowDone (kept_logEvent (kept_bump ?_))
  split
  · exact h
  · split
    · exact kept_ite (kept_releaseClaim h) h
    · exact h

theorem kept_requestStream {base : BitVec 48} {i : Nat} (h : Kept s₀ s) : Kept s₀ (requestStream base i s) :=
  kept_reservoirRead h

theorem kept_readStream {base : BitVec 48} (h : Kept s₀ s) : Kept s₀ (readStream base s) :=
  kept_reservoirPump (kept_requestStream h)

theorem kept_streamArrived {i : Nat} {address : BitVec 48} {err : Bool} {row : Bytes} (h : Kept s₀ s) :
    Kept s₀ (streamArrived i address err row s) :=
  kept_ite (kept_ite h (kept_reservoirPump (kept_requestStream h)))
    (kept_ite (kept_reservoirPump (kept_foldl h (fun _ _ => kept_requestStream))) h)

theorem kept_resReadStep {id : BitVec 6} {err : Bool} {data : Bytes} (h : Kept s₀ s) : Kept s₀ (resReadStep id err data s) := by
  unfold resReadStep
  split
  · exact h
  · dsimp only
    split
    · exact kept_getD (optionKept_spoolArrival h) h
    · split
      · exact h
      · exact kept_ite (kept_dmaError h) h
    · split
      · exact h
      · exact kept_ite (kept_xferError h) h
    · exact kept_streamArrived h
    · exact h

theorem kept_answerStreamRead {err : Bool} {row : Bytes} (h : Kept s₀ s) : Kept s₀ (answerStreamRead err row s) := by
  unfold answerStreamRead
  refine kept_ite h ?_
  split
  · exact kept_resReadStep h
  · exact h

theorem kept_streamAnswers {readErr : Bool} {stream : List Bytes} (h : Kept s₀ s) : Kept s₀ (streamAnswers readErr stream s) :=
  kept_iteThen (kept_foldl h (fun _ _ => kept_answerStreamRead)) (fun h => kept_foldl h (fun _ _ => kept_answerStreamRead))

theorem kept_resWriteStep {id : BitVec 6} {err : Bool} (h : Kept s₀ s) : Kept s₀ (resWriteStep id err s) := by
  unfold resWriteStep
  split
  · exact h
  · dsimp only
    split
    · exact kept_ite (kept_dmaError h) (kept_bump h)
    · exact kept_ite (kept_xferError h) (kept_xferRowDone h)
    · exact h

theorem optionKept_retryStep {fid i : Nat} (h : Kept s₀ s) : OptionKept s₀ (retryStep fid i s) := by
  unfold retryStep
  split
  · trivial
  · split
    · exact kept_offerRows (kept_bump h)
    · trivial

theorem optionKept_rspTimeoutStep {p : BitVec 2} {txn : BitVec 6} (h : Kept s₀ s) : OptionKept s₀ (rspTimeoutStep p txn s) := by
  unfold rspTimeoutStep
  split
  · trivial
  · exact optionKept_ite trivial (kept_pump (kept_rowStatus (kept_freeTrack (kept_logEvent (kept_bump h)))))

end

end Sys2Proof.Machine
end

section
/-! SUPPORT. What the host commands, the governor, the clocks and the mailbox keep well formed. -/

namespace Sys2Proof.Machine
open Claims

section
variable {s₀ s : State}

/-! Run states and host commands. -/

theorem kept_answer {st : CsrStatus} {rdata : Word32} (h : Kept s₀ s) : Kept s₀ (answer st rdata s) := h

theorem kept_dropHeld (h : Kept s₀ s) : Kept s₀ (dropHeld s) := h

theorem kept_requestSafe {cause : SafeCause} (h : Kept s₀ s) : Kept s₀ (requestSafe cause s) :=
  kept_ite h (kept_ite h h)

theorem kept_splitAuthority (h : Kept s₀ s) : Kept s₀ (splitAuthority s) :=
  kept_requestSafe (kept_update (kept_logEvent h))

theorem kept_handshake (h : Kept s₀ s) : Kept s₀ (handshake s) :=
  kept_ite h (kept_splitAuthority h)

theorem kept_bridleEvent {code : BitVec 12} {detail : Nat} (h : Kept s₀ s) : Kept s₀ (bridleEvent code detail s) :=
  kept_ite (kept_logAt h) (kept_logEvent h)

theorem kept_retuneTable (h : Kept s₀ s) : Kept s₀ (retuneTable s) :=
  kept_update (kept_iteThen (kept_foldl h (fun _ _ h => kept_ite h (kept_bridleEvent h))) kept_bump)

theorem kept_applyRetune {vidOfs : BitVec 4} {freqOfs : Bool} (h : Kept s₀ s) : Kept s₀ (applyRetune vidOfs freqOfs s) :=
  kept_ite h (kept_retuneTable h)

theorem kept_endStepChange (h : Kept s₀ s) : Kept s₀ (endStepChange s) :=
  kept_ite (kept_retuneTable h) h

theorem kept_endBusy (h : Kept s₀ s) : Kept s₀ (endBusy s) := by
  unfold endBusy
  dsimp only
  refine kept_cmdFail ?_
  refine kept_endStepChange ?_
  split
  · exact kept_dropXfer (kept_backOut h)
  · exact h

theorem kept_setRun {st : RunState} (h : Kept s₀ s) : Kept s₀ (setRun st s) :=
  kept_handshake (kept_update (kept_ite (kept_endBusy h) h))

theorem kept_rejectCommand {op : Nat} {st : CsrStatus} (h : Kept s₀ s) : Kept s₀ (rejectCommand op st s) :=
  kept_answer (kept_update (kept_logEvent h))

theorem kept_acceptCommand {op : Nat} (h : Kept s₀ s) : Kept s₀ (acceptCommand op s) :=
  kept_handshake h

theorem kept_postCommand {op : Nat} {args absent object : State → Bool} {run : State → State} (h : Kept s₀ s)
    (hrun : ∀ s, Kept s₀ s → Kept s₀ (run s)) : Kept s₀ (postCommand op args absent object run s) := by
  have hs : Kept s₀ (dropHeld (passLull s)) := kept_dropHeld (kept_passLull h)
  have hr {st : CsrStatus} : Kept s₀ (rejectCommand op st (dropHeld (passLull s))) := kept_rejectCommand hs
  exact kept_ite h (kept_ite hr (kept_ite hr (kept_ite hr (kept_ite hr (hrun _ (kept_acceptCommand hs))))))

theorem kept_postPlain {op : Nat} {run : State → State} (h : Kept s₀ s) (hrun : ∀ s, Kept s₀ s → Kept s₀ (run s)) :
    Kept s₀ (postPlain op run s) :=
  kept_postCommand h hrun

theorem kept_postHandle {op : Nat} {want : HState} {run : BitVec 8 → State → State} (h : Kept s₀ s)
    (hrun : ∀ a0 s, Kept s₀ s → Kept s₀ (run a0 s)) : Kept s₀ (postHandle op want run s) :=
  kept_postCommand h (fun _ h => hrun _ _ (kept_readCfg h))

theorem kept_runStart (h : Kept s₀ s) : Kept s₀ (runStart s) := by
  unfold runStart
  refine kept_setRun ?_
  obtain ⟨hm, ha, hx, hp⟩ := h
  exact ⟨hm, ha.trans threadKept_align, hx.trans threadKept_align, hp⟩

theorem kept_pauseIfReady {t : Thread} (h : Kept s₀ s) : Kept s₀ (pauseIfReady t s) :=
  kept_ite (kept_pauseThread h) h

theorem kept_pauseBoth (h : Kept s₀ s) : Kept s₀ (pauseBoth s) :=
  kept_pauseIfReady (kept_pauseIfReady h)

theorem optionKept_pauseCompleteStep (h : Kept s₀ s) : OptionKept s₀ (pauseCompleteStep s) :=
  optionKept_ite (optionKept_ite (kept_setRun (kept_cmdOk (kept_pauseBoth h))) trivial) trivial

theorem kept_stayInSafe (h : Kept s₀ s) : Kept s₀ (stayInSafe s) := h

theorem kept_leaveSafe (h : Kept s₀ s) : Kept s₀ (leaveSafe s) :=
  kept_ite (kept_stayInSafe (kept_splitAuthority h)) (kept_setRun (kept_cmdOk (kept_update (kept_ite h h))))

theorem kept_runResume {split : Bool} (h : Kept s₀ s) : Kept s₀ (runResume split s) :=
  kept_ite (kept_ite h (kept_ite h (kept_leaveSafe h))) (kept_setRun h)

theorem kept_postResume (h : Kept s₀ s) : Kept s₀ (postResume s) :=
  kept_postPlain h (fun _ => kept_runResume)

theorem optionKept_safeEntryStep (h : Kept s₀ s) : OptionKept s₀ (safeEntryStep s) :=
  optionKept_ite (optionKept_ite trivial (kept_setRun (kept_update (kept_ite (kept_pauseBoth h) h)))) trivial

theorem kept_lockStep {t : BitVec 4} {done : State → State} (h : Kept s₀ s) (hdone : ∀ s, Kept s₀ s → Kept s₀ (done s)) :
    Kept s₀ (lockStep t done s) :=
  kept_ite (hdone _ h) h

theorem kept_enterRetention (h : Kept s₀ s) : Kept s₀ (enterRetention s) :=
  kept_handshake h

theorem kept_leaveRetention (h : Kept s₀ s) : Kept s₀ (leaveRetention s) :=
  kept_handshake h

theorem kept_runRetain (h : Kept s₀ s) : Kept s₀ (runRetain s) :=
  kept_lockStep h (fun _ => kept_enterRetention)

theorem optionKept_drainStep {h' : BitVec 8} (h : Kept s₀ s) : OptionKept s₀ (drainStep h' s) :=
  optionKept_ite h trivial

theorem kept_readHandles (h : Kept s₀ s) : Kept s₀ (readHandles s) :=
  kept_foldl h (fun _ _ => kept_readCfg)

theorem kept_runHevict (h : Kept s₀ s) : Kept s₀ (runHevict s) := by
  have hr : Kept s₀ (readHandles s) := kept_readHandles h
  unfold runHevict
  generalize readHandles s = u at hr
  dsimp only
  split
  · exact hr
  · exact hr

theorem kept_runRetrain (h : Kept s₀ s) : Kept s₀ (runRetrain s) :=
  kept_ite (kept_clearLink h) h

theorem kept_endRetrain {p : BitVec 2} {done : State → State} (h : Kept s₀ s) (hdone : ∀ s, Kept s₀ s → Kept s₀ (done s)) :
    Kept s₀ (endRetrain p done s) :=
  kept_ite (hdone _ h) h

theorem optionKept_retrainAckStep {p : BitVec 2} (h : Kept s₀ s) : OptionKept s₀ (retrainAckStep p s) :=
  optionKept_ite (kept_endRetrain (kept_pump (kept_freeFlits (kept_modPort h))) (fun _ h => h)) trivial

theorem optionKept_retrainTimeoutStep {p : BitVec 2} (h : Kept s₀ s) : OptionKept s₀ (retrainTimeoutStep p s) :=
  optionKept_ite (kept_endRetrain (kept_goDown (kept_modPort h)) (fun _ h => h)) trivial

theorem kept_runMaintEnter (h : Kept s₀ s) : Kept s₀ (runMaintEnter s) :=
  kept_setRun h

theorem kept_runMaintExit (h : Kept s₀ s) : Kept s₀ (runMaintExit s) :=
  kept_setRun h

theorem kept_runSetStep (h : Kept s₀ s) : Kept s₀ (runSetStep s) :=
  kept_lockStep h (fun _ h => h)

theorem kept_runWake (h : Kept s₀ s) : Kept s₀ (runWake s) :=
  kept_lockStep h (fun _ => kept_leaveRetention)

theorem kept_postSession {op : Nat} {ok : State → Nat → Bool} {run : Nat → State → State} (h : Kept s₀ s)
    (hrun : ∀ n s, Kept s₀ s → Kept s₀ (run n s)) : Kept s₀ (postSession op ok run s) :=
  kept_postCommand (kept_ite (kept_sessTouch h) h) (fun _ h => hrun _ _ h)

/-! The Ballast governor. -/

theorem kept_deliverTm (h : Kept s₀ s) : Kept s₀ (deliverTm s) :=
  kept_ite h h

theorem kept_thermalStep {used : Word32} (h : Kept s₀ s) : Kept s₀ (thermalStep used s) := h

theorem kept_tripStep (h : Kept s₀ s) : Kept s₀ (tripStep s) :=
  kept_update (kept_ite (kept_logEvent h) h)

theorem kept_writeOutputs (h : Kept s₀ s) : Kept s₀ (writeOutputs s) := h

theorem kept_updateStep {credit : BitVec 16} (h : Kept s₀ s) : Kept s₀ (updateStep credit s) :=
  kept_writeOutputs (kept_tripStep (kept_thermalStep (kept_deliverTm h)))

theorem kept_strobeStep {credit : BitVec 16} (h : Kept s₀ s) : Kept s₀ (strobeStep credit s) :=
  kept_ite h h

theorem optionKept_strobedBoundary (h : Kept s₀ s) : OptionKept s₀ (strobedBoundary s) := by
  unfold strobedBoundary
  split
  · exact optionKept_ite (kept_updateStep h) trivial
  · trivial

theorem optionKept_missedStep (h : Kept s₀ s) : OptionKept s₀ (missedStep s) :=
  optionKept_ite (kept_updateStep (kept_iteThen (kept_bump h) kept_logEvent)) trivial

/-! The clocks. -/

theorem kept_endLocked (h : Kept s₀ s) : Kept s₀ (endLocked s) :=
  kept_ite h (kept_ite (kept_enterRetention h) (kept_ite (kept_leaveRetention h) h))

theorem optionKept_switchStep (h : Kept s₀ s) : OptionKept s₀ (switchStep s) := by
  unfold switchStep
  split
  · trivial
  · exact kept_endStepChange (kept_endLocked (kept_bump h))

theorem optionKept_lockFailStep (h : Kept s₀ s) : OptionKept s₀ (lockFailStep s) := by
  unfold lockFailStep
  split
  · trivial
  · exact kept_endStepChange (kept_cmdFail (kept_logEvent h))

theorem kept_drogueReport {codes : List (Option (BitVec 6))} (h : Kept s₀ s) : Kept s₀ (drogueReport codes s) := by
  unfold drogueReport
  dsimp only
  split
  · exact h
  · exact kept_ite h h

theorem kept_drogueFall (h : Kept s₀ s) : Kept s₀ (drogueFall s) :=
  kept_ite h h

theorem optionKept_marginLowStep {cone : BitVec 4} (h : Kept s₀ s) : OptionKept s₀ (marginLowStep cone s) :=
  optionKept_ite (kept_logEvent h) trivial

theorem optionKept_crossingStep {src dst occ : BitVec 3} (h : Kept s₀ s) : OptionKept s₀ (crossingStep src dst occ s) :=
  optionKept_ite trivial (optionKept_ite h (optionKept_ite (kept_logEvent (kept_bump h)) (kept_requestSafe (kept_logEvent h))))

/-! The mailbox. -/

theorem kept_setMbxWords {ws : List Word32} (h : Kept s₀ s) : Kept s₀ (setMbxWords ws s) :=
  kept_foldl h (fun _ _ => kept_setMbxData)

theorem kept_mbxOk (h : Kept s₀ s) : Kept s₀ (mbxOk s) := h

theorem kept_mbxFail (h : Kept s₀ s) : Kept s₀ (mbxFail s) := h

theorem kept_wearRestore (h : Kept s₀ s) : Kept s₀ (wearRestore s) :=
  kept_applyRetune h

theorem kept_runTelemetry (h : Kept s₀ s) : Kept s₀ (runTelemetry s) :=
  kept_mbxOk (kept_setMbxWords h)

theorem kept_runUartCfg (h : Kept s₀ s) : Kept s₀ (runUartCfg s) :=
  kept_ite h h

theorem kept_mailboxServe (h : Kept s₀ s) : Kept s₀ (mailboxServe s) :=
  kept_ite h h

theorem kept_postMailbox {op : Nat} (h : Kept s₀ s) : Kept s₀ (postMailbox op s) := by
  unfold postMailbox
  refine kept_ite h ?_
  dsimp only
  refine kept_ite (kept_answer (kept_dropHeld (kept_passLull h))) ?_
  split
  · exact kept_answer (kept_dropHeld (kept_passLull h))
  · exact kept_answer (kept_dropHeld (kept_passLull h))
  · exact kept_mailboxServe (kept_answer (kept_update (kept_dropHeld (kept_passLull h))))

theorem kept_setImage {slot : BitVec 1} {x : ImageRead} (h : Kept s₀ s) : Kept s₀ (setImage slot x s) := h

theorem kept_endVerify {x : ImageRead} (h : Kept s₀ s) : Kept s₀ (endVerify x s) :=
  kept_ite h (kept_mbxFail (kept_bridleEvent h))

theorem kept_endAuthorize (h : Kept s₀ s) : Kept s₀ (endAuthorize s) :=
  kept_ite h h

theorem kept_endMailbox {x : ImageRead} (h : Kept s₀ s) : Kept s₀ (endMailbox x s) := by
  unfold endMailbox
  split
  · exact h
  · exact kept_runTelemetry h
  · exact kept_mbxOk (kept_setMbxWords h)
  · exact kept_ite (kept_mbxOk (kept_wearRestore h)) h
  · exact kept_endVerify h
  · exact h
  · exact h
  · exact h
  · exact kept_endAuthorize h
  · exact kept_runUartCfg h
  · exact h

theorem kept_mailboxEndStep {x : ImageRead} (h : Kept s₀ s) : Kept s₀ (mailboxEndStep x s) :=
  kept_ite (kept_endMailbox h) h

end

end Sys2Proof.Machine
end

section
/-! SUPPORT. What the execute stream keeps well formed. -/

namespace Sys2Proof.Machine
open Claims

section
variable {s₀ s : State}

/-! The operands of the execute stream. -/

theorem kept_touchSegs {input : Nat} {gs : List Seg} (h : Kept s₀ s) : Kept s₀ (touchSegs input gs s) :=
  kept_foldl h (fun _ _ => kept_touchRow)

theorem kept_reserveQueues {fid : Nat} {srcs dsts : List (Opd × Nat)} (h : Kept s₀ s) :
    Kept s₀ (reserveQueues fid srcs dsts s) := by
  unfold reserveQueues
  dsimp only
  refine kept_foldl (kept_foldl h fun _ _ h => h) fun _ _ h => ?_
  split
  · exact h
  · exact h

/-! The Matrix Engine. -/

theorem kept_setStationary {half : Bool} {st : Stationary} (h : Kept s₀ s) : Kept s₀ (setStationary half st s) :=
  kept_ite h h

theorem kept_setWindow {half : Bool} {w : BitVec 7} (h : Kept s₀ s) : Kept s₀ (setWindow half w s) :=
  kept_ite h h

theorem kept_finishArray {half : Bool} {f : Flight} (h : Kept s₀ s) : Kept s₀ (finishArray half f s) := by
  unfold finishArray
  split
  · exact h
  · exact kept_bump (kept_setWindow h)

theorem kept_startMm {p : MmPlan} {half accum : Bool} {f : Flight} (h : Kept s₀ s) : Kept s₀ (startMm p half accum f s) := by
  unfold startMm
  dsimp only
  refine kept_beginWith h (fun _ h => ?_)
  split
  · exact kept_touchSegs (kept_touchSegs h)
  · exact kept_touchSegs h

theorem verdictKept_issueMm {i : Instr} {ra rw : Option Carried} {t : Thread} {a : MxMmArgs} (h : Kept s₀ s) :
    VerdictKept s₀ (issueMm i ra rw t a s) := by
  unfold issueMm
  repeat with_reducible refine verdictKept_bind (by simp) fun _ => ?_
  exact verdictKept_launch (kept_reserveQueues h) (fun _ _ => kept_startMm)

theorem kept_finishProduct {f : Flight} {half raw start ftz : Bool} {m n k : Nat} {chunks : List Chunk}
    {aSegs : List (List Val)} {aRaw : List (List ℤ)} {t : Tally} {ws : WSource} {double : Bool} (h : Kept s₀ s) :
      Kept s₀ (finishProduct f half raw start ftz m n k chunks aSegs aRaw t ws double s) := by
  unfold finishProduct
  dsimp only
  split
  · exact kept_setStationary (kept_commitAll (kept_finishArray h))
  · exact kept_commitAll (kept_finishArray h)

theorem kept_finishMm {ra rw : Option Carried} {a : MxMmArgs} {f : Flight} (h : Kept s₀ s) : Kept s₀ (finishMm ra rw a f s) :=
  kept_finishProduct h

theorem kept_startWld {o : Opd} {half : Bool} {f : Flight} (h : Kept s₀ s) : Kept s₀ (startWld o half f s) :=
  kept_beginWith h (fun _ => kept_touchSegs)

theorem verdictKept_issueWld {t : Thread} {a : MxWldArgs} (h : Kept s₀ s) : VerdictKept s₀ (issueWld t a s) := by
  unfold issueWld
  repeat with_reducible refine verdictKept_bind (by simp) fun _ => ?_
  exact verdictKept_launch h (fun _ _ => kept_startWld)

theorem kept_finishWld {a : MxWldArgs} {f : Flight} (h : Kept s₀ s) : Kept s₀ (finishWld a f s) :=
  kept_setStationary (kept_commitAll (kept_finishArray h))

theorem verdictKept_issueWldT {t : Thread} {a : MxWldTArgs} (h : Kept s₀ s) : VerdictKept s₀ (issueWldT t a s) := by
  unfold issueWldT
  repeat with_reducible refine verdictKept_bind (by simp) fun _ => ?_
  exact verdictKept_launch h (fun _ _ => kept_startPlain)

theorem kept_finishWldT {a : MxWldTArgs} {f : Flight} (h : Kept s₀ s) : Kept s₀ (finishWldT a f s) :=
  kept_setStationary (kept_commitAll (kept_finishArray h))

theorem kept_startConv {a : MxConvArgs} {f : Flight} (h : Kept s₀ s) : Kept s₀ (startConv a f s) :=
  kept_beginWith h (fun _ => kept_touchSegs)

theorem verdictKept_issueConv {t : Thread} {a : MxConvArgs} (h : Kept s₀ s) : VerdictKept s₀ (issueConv t a s) := by
  unfold issueConv
  repeat with_reducible refine verdictKept_bind (by simp) fun _ => ?_
  exact verdictKept_launch (kept_reserveQueues h) (fun _ _ => kept_startConv)

theorem kept_finishConv {a : MxConvArgs} {f : Flight} (h : Kept s₀ s) : Kept s₀ (finishConv a f s) := by
  unfold finishConv
  exact kept_finishProduct h

theorem kept_startDrain {r0 n : Nat} {f : Flight} (h : Kept s₀ s) : Kept s₀ (startDrain r0 n f s) :=
  kept_beginWith h (fun _ h => h)

theorem verdictKept_issueDrain {t : Thread} {a : MxDrainArgs} (h : Kept s₀ s) : VerdictKept s₀ (issueDrain t a s) := by
  unfold issueDrain
  repeat with_reducible refine verdictKept_bind (by simp) fun _ => ?_
  exact verdictKept_launch (kept_reserveQueues h) (fun _ _ => kept_startDrain)

theorem kept_finishDrain {a : MxDrainArgs} {f : Flight} (h : Kept s₀ s) : Kept s₀ (finishDrain a f s) :=
  kept_commitAll h

/-! The Matrix-Vector Path. -/

theorem verdictKept_issueGemvWith {i : Instr} {c : Option MvCarried} {t : Thread} {a : MvGemvArgs}
    {start : Flight → State → State} (h : Kept s₀ s) (hstart : ∀ f s, Kept s₀ s → Kept s₀ (start f s)) :
      VerdictKept s₀ (issueGemvWith i c t a start s) := by
  unfold issueGemvWith
  repeat with_reducible refine verdictKept_bind (by simp) fun _ => ?_
  exact verdictKept_launch (kept_reserveQueues h) (fun _ _ h => hstart _ _ h)

theorem kept_mvGroupDone {c : Option MvCarried} {a : MvGemvArgs} {g : Nat} {f : Flight} (h : Kept s₀ s) :
    Kept s₀ (mvGroupDone c a g f s) :=
  kept_ite h (kept_writeTiles h)

theorem kept_startGemv {c : Option MvCarried} {a : MvGemvArgs} {f : Flight} (h : Kept s₀ s) : Kept s₀ (startGemv c a f s) := by
  unfold startGemv
  dsimp only
  refine kept_beginWith h (fun _ h => ?_)
  refine kept_modFlight ?_
  split
  · exact kept_touchSegs (kept_touchSegs h)
  · exact kept_touchSegs h

theorem verdictKept_issueGemv {i : Instr} {c : Option MvCarried} {t : Thread} {a : MvGemvArgs} (h : Kept s₀ s) :
    VerdictKept s₀ (issueGemv i c t a s) :=
  verdictKept_issueGemvWith h (fun _ _ => kept_startGemv)

theorem kept_finishGemv {c : Option MvCarried} {a : MvGemvArgs} {f : Flight} (h : Kept s₀ s) : Kept s₀ (finishGemv c a f s) :=
  kept_commitAll h

/-! The Vector and Element Engine. -/

theorem kept_vxTouch {g : Bool} {n : Nat} {xs : List (Option VxIn)} {i : Nat} (h : Kept s₀ s) : Kept s₀ (vxTouch g n xs i s) :=
    by
  induction xs generalizing i s with
  | nil => exact h
  | cons x xs ih =>
    cases x with
    | none => exact ih h
    | some x => exact ih (kept_touchSegs h)

theorem kept_startVx {g : Bool} {n : Nat} {ins : List (Option VxIn)} {more : List (Opd × List Seg)} {f : Flight}
    (h : Kept s₀ s) : Kept s₀ (startVx g n ins more f s) :=
  kept_beginWith h (fun _ => kept_vxTouch)

theorem verdictKept_issueElementwise {i : Instr} {c : Option EwCarried} {t : Thread} {a : EwArgs} {nin : Nat} {w : Fmt}
    {wfBad : Option Fmt} {mayAbsent : Bool} {slot : Option (BitVec 3)} {ps : EwPos} (h : Kept s₀ s) :
      VerdictKept s₀ (verdict (issueElementwise i c t a nin w wfBad mayAbsent slot ps s)) := by
  unfold issueElementwise
  repeat with_reducible refine verdictKept_bind (by simp) fun _ => ?_
  exact verdictKept_launch (kept_reserveQueues h) (fun _ _ => kept_startVx)

theorem kept_finishElementwise {c : Option EwCarried} {a : EwArgs} {nin : Nat} {wf : Fmt} {us consts : List Word32} {f : Flight}
    (h : Kept s₀ s) : Kept s₀ (finishElementwise c a nin wf us consts f s) :=
  kept_commitAll h

theorem verdictKept_issueEw {i : Instr} {c : Option EwCarried} {t : Thread} {a : VxEwArgs} (h : Kept s₀ s) :
    VerdictKept s₀ (issueEw i c t a s) := by
  unfold issueEw
  repeat with_reducible refine verdictKept_bind (by simp) fun _ => ?_
  exact verdictKept_issueElementwise h

theorem kept_finishEw {c : Option EwCarried} {a : VxEwArgs} {f : Flight} (h : Kept s₀ s) : Kept s₀ (finishEw c a f s) :=
  kept_finishElementwise h

theorem verdictKept_issueEpRun {t : Thread} {a : EpRunArgs} (h : Kept s₀ s) : VerdictKept s₀ (issueEpRun t a s) := by
  unfold issueEpRun
  repeat with_reducible refine verdictKept_bind (by simp) fun _ => ?_
  split
  · trivial
  · exact verdictKept_issueElementwise h

theorem kept_finishEpRun {a : EpRunArgs} {f : Flight} (h : Kept s₀ s) : Kept s₀ (finishEpRun a f s) := by
  unfold finishEpRun
  split
  · exact h
  · exact kept_finishElementwise h

theorem kept_reserveToken {fid k : Nat} (h : Kept s₀ s) : Kept s₀ (reserveToken fid k s) := h

theorem verdictKept_issueRed {i : Instr} {r : Option Carried} {t : Thread} {a : VxRedArgs} (h : Kept s₀ s) :
    VerdictKept s₀ (issueRed i r t a s) := by
  unfold issueRed
  repeat with_reducible refine verdictKept_bind (by simp) fun _ => ?_
  exact verdictKept_launch (kept_iteThen (kept_reserveQueues h) kept_reserveToken) (fun _ _ => kept_startVx)

theorem kept_finishRed {r : Option Carried} {a : VxRedArgs} {f : Flight} (h : Kept s₀ s) : Kept s₀ (finishRed r a f s) :=
  kept_commitAll h

theorem verdictKept_issueScan {i : Instr} {seg : Bool} {t : Thread} {a : VxScanArgs} (h : Kept s₀ s) :
    VerdictKept s₀ (issueScan i seg t a s) := by
  unfold issueScan
  repeat with_reducible refine verdictKept_bind (by simp) fun _ => ?_
  exact verdictKept_launch (kept_reserveQueues h) (fun _ _ h => kept_startVx (kept_touchSegs h))

theorem kept_finishScan {seg : Bool} {a : VxScanArgs} {f : Flight} (h : Kept s₀ s) : Kept s₀ (finishScan seg a f s) :=
  kept_commitAll h

theorem verdictKept_issueCvt {i : Instr} {ri rd : Option Carried} {t : Thread} {a : CvtArgs} (h : Kept s₀ s) :
    VerdictKept s₀ (issueCvt i ri rd t a s) := by
  unfold issueCvt
  repeat with_reducible refine verdictKept_bind (by simp) fun _ => ?_
  exact verdictKept_launch (kept_reserveQueues h) (fun _ _ => kept_startVx)

theorem kept_finishCvt {ri rd : Option Carried} {a : CvtArgs} {f : Flight} (h : Kept s₀ s) : Kept s₀ (finishCvt ri rd a f s) :=
    by
  unfold finishCvt
  dsimp only
  split
  · exact h
  · exact kept_commitAll h

theorem verdictKept_issueEpLoad {t : Thread} {slot : BitVec 3} {tile : BitVec 4} (h : Kept s₀ s) :
    VerdictKept s₀ (issueEpLoad t slot tile s) := by
  unfold issueEpLoad
  repeat with_reducible refine verdictKept_bind (by simp) fun _ => ?_
  split
  · exact kept_logEvent (kept_stopThread h)
  · split
    · trivial
    · exact kept_update (kept_foldl h (fun _ _ => kept_cacheRow))

/-! Glaze. -/

theorem kept_setGroup {g : Nat} {e : Group} (h : Kept s₀ s) : Kept s₀ (setGroup g e s) := h

theorem kept_glzStepGroup {g : Nat} {adv : Bool} {t : Nat} (h : Kept s₀ s) : Kept s₀ (glzStepGroup g adv t s) := by
  unfold glzStepGroup
  dsimp only
  split
  · exact kept_setGroup (kept_ite h (kept_bump h))
  · exact h

theorem kept_startGlaze {srcs : List (Opd × Nat)} {f : Flight} (h : Kept s₀ s) : Kept s₀ (startGlaze srcs f s) :=
  kept_beginWith h (fun _ h => kept_foldl h (fun _ _ => kept_cacheRow))

theorem kept_holdList {lazy : Bool} {t : Thread} {n : Nat} (h : Kept s₀ s) : Kept s₀ (holdList lazy t n s) :=
  kept_modThread h (fun _ => .refl _)

theorem verdictKept_issueGlaze {i : Instr} {lazy : Bool} {t : Thread} {a : GlzArgs} (h : Kept s₀ s) :
    VerdictKept s₀ (issueGlaze i lazy t a s) := by
  unfold issueGlaze
  dsimp only
  repeat with_reducible refine verdictKept_bind (by simp) fun _ => ?_
  split
  · repeat with_reducible refine verdictKept_bind (by simp) fun _ => ?_
    exact verdictKept_launch (kept_holdList (kept_reserveQueues h)) (fun _ _ => kept_startGlaze)
  · repeat with_reducible refine verdictKept_bind (by simp) fun _ => ?_
    exact verdictKept_launch (kept_glzStepGroup (kept_holdList (kept_reserveQueues h))) (fun _ _ => kept_startGlaze)

theorem kept_glzCurveRead {f : Flight} {p : Nat} (h : Kept s₀ s) : Kept s₀ (glzCurveRead f p s) := by
  unfold glzCurveRead
  dsimp only
  split
  · exact kept_logEvent h
  · exact kept_iteThen (kept_ite h (kept_logEvent h)) kept_correctedRead

theorem kept_glzRowRead {p : Nat} (h : Kept s₀ s) : Kept s₀ (glzRowRead p s) := by
  unfold glzRowRead
  split
  · exact kept_logEvent h
  · exact kept_ite (kept_correctedRead h) h

theorem kept_glzStateRead {f : Flight} {i p : Nat} {last : Bool} (h : Kept s₀ s) : Kept s₀ (glzStateRead f i p last s) := by
  unfold glzStateRead
  split
  · exact kept_glzRowRead h
  · exact h

theorem kept_glzCountRead {f : Flight} {c p : Nat} (h : Kept s₀ s) : Kept s₀ (glzCountRead f c p s) := by
  unfold glzCountRead
  split
  · exact kept_glzRowRead h
  · exact h

theorem kept_finishGlaze {lazy : Bool} {a : GlzArgs} {f : Flight} (h : Kept s₀ s) : Kept s₀ (finishGlaze lazy a f s) :=
  kept_commitAll h

/-! The TDC-3 forms. -/

theorem verdictKept_c3Shapes {slots : List (Slot × BitVec 14)} {v : Verdict} (h : VerdictKept s₀ v) :
    VerdictKept s₀ (c3Shapes slots v) := by
  unfold c3Shapes
  split
  · exact h
  · cases v with
    | go s | jump s a | wait w => trivial
    | fault fc fv => exact verdictKept_ite trivial (verdictKept_ite trivial trivial)

theorem verdictKept_issueC3Mm {t : Thread} {a : MxMmArgs} {r : ShapeRecs} (h : Kept s₀ s) :
    VerdictKept s₀ (issueC3Mm t a r s) :=
  verdictKept_bind (by simp) fun _ => verdictKept_bind (by simp) fun _ => verdictKept_c3Shapes (verdictKept_issueMm h)

theorem kept_finishC3Mm {a : MxMmArgs} {r : ShapeRecs} {f : Flight} (h : Kept s₀ s) : Kept s₀ (finishC3Mm a r f s) :=
  kept_finishMm h

theorem verdictKept_issueC3Gemv {t : Thread} {a : MvGemvArgs} {r : ShapeRecs} (h : Kept s₀ s) :
    VerdictKept s₀ (issueC3Gemv t a r s) :=
  verdictKept_bind (by simp) fun _ => verdictKept_bind (by simp) fun _ => verdictKept_c3Shapes (verdictKept_issueGemv h)

theorem kept_finishC3Gemv {a : MvGemvArgs} {r : ShapeRecs} {f : Flight} (h : Kept s₀ s) : Kept s₀ (finishC3Gemv a r f s) :=
  kept_finishGemv h

theorem verdictKept_issueC3Ew {t : Thread} {a : VxEwArgs} {r : ShapeRecs} (h : Kept s₀ s) :
    VerdictKept s₀ (issueC3Ew t a r s) :=
  verdictKept_bind (by simp) fun _ => verdictKept_bind (by simp) fun _ => verdictKept_c3Shapes (verdictKept_issueEw h)

theorem kept_finishC3Ew {a : VxEwArgs} {r : ShapeRecs} {f : Flight} (h : Kept s₀ s) : Kept s₀ (finishC3Ew a r f s) :=
  kept_finishEw h

theorem verdictKept_issueC3Red {t : Thread} {a : VxRedArgs} {r : ShapeRecs} (h : Kept s₀ s) :
    VerdictKept s₀ (issueC3Red t a r s) :=
  verdictKept_bind (by simp) fun _ => verdictKept_bind (by simp) fun _ => verdictKept_c3Shapes (verdictKept_issueRed h)

theorem kept_finishC3Red {a : VxRedArgs} {r : ShapeRecs} {f : Flight} (h : Kept s₀ s) : Kept s₀ (finishC3Red a r f s) :=
  kept_finishRed h

theorem verdictKept_issueC3Cvt {t : Thread} {a : CvtArgs} {r : ShapeRecs} (h : Kept s₀ s) :
    VerdictKept s₀ (issueC3Cvt t a r s) :=
  verdictKept_bind (by simp) fun _ => verdictKept_bind (by simp) fun _ => verdictKept_c3Shapes (verdictKept_issueCvt h)

theorem kept_finishC3Cvt {a : CvtArgs} {r : ShapeRecs} {f : Flight} (h : Kept s₀ s) : Kept s₀ (finishC3Cvt a r f s) :=
  kept_finishCvt h

/-! The tile configurations. -/

theorem kept_configureTile {rows1 : BitVec 5} {bytes1 : BitVec 6} {fmt : BitVec 4} {n : Nat} (h : Kept s₀ s) :
    Kept s₀ (configureTile rows1 bytes1 fmt n s) :=
  kept_setTileCfg (kept_emptyTile h)

theorem verdictKept_issueTcfg {t : Thread} {mask : BitVec 16} {rows1 : BitVec 5} {bytes1 : BitVec 6} {fmt : BitVec 4}
    {zeros : Bool} (h : Kept s₀ s) : VerdictKept s₀ (issueTcfg t mask rows1 bytes1 fmt zeros s) := by
  unfold issueTcfg
  repeat with_reducible refine verdictKept_bind (by simp) fun _ => ?_
  exact kept_foldl h (fun _ _ => kept_configureTile)

theorem verdictKept_issueTrel {t : Thread} {mask : BitVec 16} (h : Kept s₀ s) : VerdictKept s₀ (issueTrel t mask s) := by
  unfold issueTrel
  repeat with_reducible refine verdictKept_bind (by simp) fun _ => ?_
  exact kept_foldl h (fun _ _ => kept_emptyTile)

end

end Sys2Proof.Machine
end

section
/-! SUPPORT. What the starts, the resets, the registers, the Bridle and the monitor keep well formed. -/

namespace Sys2Proof.Machine
open Claims

section
variable {s₀ s : State}

/-! Reads of registers. -/

theorem kept_setCapture {base : Nat} {c : Option Word32} (h : Kept s₀ s) : Kept s₀ (setCapture base c s) := h

theorem kept_readTable {a : Nat} (h : Kept s₀ s) : Kept s₀ (readTable a s) := by
  unfold readTable
  split
  · exact h
  · exact kept_readCfg h

theorem kept_readEffect {a : Nat} (h : Kept s₀ s) : Kept s₀ (readEffect a s) :=
  kept_ite h h

theorem kept_csrRead {addr : BitVec 16} (h : Kept s₀ s) : Kept s₀ (csrRead addr s) := by
  unfold csrRead
  dsimp only
  refine kept_ite h ?_
  split
  · exact kept_answer (kept_ite (kept_passLull h) h)
  · exact kept_ite (kept_answer (kept_ite (kept_passLull h) h)) (kept_ite (kept_answer (kept_ite (kept_passLull h) h))
      (kept_answer (kept_readEffect (kept_readTable (kept_setCapture (kept_ite (kept_passLull h) h))))))

/-! The Mould stream, the starts and the resets. -/

theorem kept_applyPort {linkUp : BitVec 4} {p : Nat} (h : Kept s₀ s) : Kept s₀ (applyPort linkUp s p) :=
  kept_iteElse (kept_clearLink h) (fun h => kept_ite (kept_freeFlits h) (kept_goDown h))

theorem kept_applyStream {c : Checked} {linkUp : BitVec 4} (h : Kept s₀ s) : Kept s₀ (applyStream c linkUp s) :=
  kept_retuneTable (kept_foldl h (fun _ _ => kept_applyPort))

theorem kept_mouldNotes {c : Checked} (h : Kept s₀ s) : Kept s₀ (mouldNotes c s) :=
  kept_foldl (kept_foldl h (fun _ _ => kept_logEvent)) (fun _ _ => kept_logEvent)

theorem kept_setMouldErr {err word : Nat} (h : Kept s₀ s) : Kept s₀ (setMouldErr err word s) := h

theorem optionKept_mouldLoadStep {linkUp : BitVec 4} (h : Kept s₀ s) : OptionKept s₀ (mouldLoadStep linkUp s) := by
  unfold mouldLoadStep
  refine optionKept_ite ?_ trivial
  show Kept s₀ _
  split
  · exact kept_cmdFail (kept_setMouldErr h)
  · refine kept_ite (kept_setRun (kept_update (kept_applyStream (kept_cmdOk ?_)))) (kept_cmdOk (kept_update ?_))
    · exact kept_mouldNotes (kept_update h)
    · exact kept_mouldNotes (kept_update h)

/-- A state that is canonical and well formed keeps what any other had. -/
theorem kept_of_wellFormed (hm : memoriesCanonical s) (ht : threadsWellFormed s) : Kept s₀ s := by
  obtain ⟨⟨pa, ra, ca⟩, ⟨px, rx, cx⟩, hp⟩ := ht
  exact ⟨fun _ => hm, ⟨fun _ => pa, fun _ => ra, fun _ => ca⟩, ⟨fun _ => px, fun _ => rx, fun _ => cx⟩, fun _ => hp⟩

/-- Reset leaves every memory empty and both threads at zero, whatever the state before it was. -/
theorem kept_coldReset {keepLog : Bool} {step : BitVec 4} : Kept s₀ (coldReset keepLog step s) :=
  kept_of_wellFormed memoriesCanonical_reset ⟨threadWellFormed_reset, threadWellFormed_reset, rfl⟩

theorem kept_rstAssert (h : Kept s₀ s) : Kept s₀ (rstAssert s) := kept_ite h (kept_update kept_coldReset)

theorem kept_powerOff : Kept s₀ (powerOff s) := kept_update kept_coldReset

theorem kept_powerGood (h : Kept s₀ s) : Kept s₀ (powerGood s) := h

theorem kept_bootImages {runs : BitVec 1 → Bool} {l : List (BitVec 1 × ImageRead)} (h : Kept s₀ s) :
    Kept s₀ (bootImages runs l s).2 := by
  induction l generalizing s with
  | nil => exact h
  | cons x rest ih =>
    obtain ⟨k, x⟩ := x
    unfold bootImages
    split
    · exact kept_setImage h
    · cases rest with
      | nil => exact h
      | cons y rest => exact ih (kept_bridleEvent h)

theorem kept_bootStep {o : BisqueOutcome} (h : Kept s₀ s) : Kept s₀ (bootStep o s).2 := kept_bootImages h

theorem kept_applyRepair {o : BisqueOutcome} (h : Kept s₀ s) : Kept s₀ (applyRepair o s) :=
  kept_ite (kept_bridleEvent h) h

theorem kept_applyCalibration {o : BisqueOutcome} (h : Kept s₀ s) : Kept s₀ (applyCalibration o s) := h

theorem kept_startFails {code : BitVec 8} (h : Kept s₀ s) : Kept s₀ (startFails code s) :=
  kept_setRun (kept_update (kept_bridleEvent h))

theorem kept_startSteps {o : BisqueOutcome} (h : Kept s₀ s) : Kept s₀ (startSteps o s) :=
  kept_ite (kept_update (kept_applyCalibration (kept_ite (kept_applyRepair h) h)))
    (kept_startFails (kept_ite (kept_applyRepair h) h))

theorem kept_bisqueFrom {boots : Bool} {o : BisqueOutcome} (h : Kept s₀ s) : Kept s₀ (bisqueFrom boots o s) := by
  have hs : Kept s₀ (setMouldErr 0 0 { s with run := { s.run with porN := true, rstN := true } }) := kept_setMouldErr
    (kept_update h)
  have hr {u : State} (hu : Kept s₀ u) : Kept s₀ (if boots then bootStep o u else (true, u)).2 := by
    split
    · exact kept_bootStep hu
    · exact hu
  have hb {u : State} (hu : Kept s₀ u) : Kept s₀ (if u.run.state = .off then setRun .bisque u else u) := kept_ite
    (kept_setRun hu) hu
  exact kept_ite (kept_startSteps (hr (hb hs))) (kept_startFails (hr (hb hs)))

theorem optionKept_bisqueStep {o : BisqueOutcome} (h : Kept s₀ s) : OptionKept s₀ (bisqueStep o s) := by
  rw [bisqueStep_eq]
  exact optionKept_ite (kept_bisqueFrom (kept_ite (kept_powerGood h) h)) trivial

/-- A change of the values of a canonical map, but for those that become the default. -/
theorem wfFrom_filter_map {α : Type} [DecidableEq α] {d : α} (f : α → α) {m : Sparse α} {lo : Nat}
    (h : Sparse.wfFrom d lo m = true) :
    Sparse.wfFrom d lo ((m.map fun x => (x.1, f x.2)).filter fun x => decide (x.2 ≠ d)) = true := by
  induction m generalizing lo with
  | nil => rfl
  | cons p m ih =>
    obtain ⟨k, v⟩ := p
    simp only [Sparse.wfFrom, Bool.and_eq_true, decide_eq_true_eq] at h
    obtain ⟨⟨hk, -⟩, hm⟩ := h
    by_cases hv : f v = d
    · simpa [hv] using Sparse.wfFrom_mono d _ (by omega) (ih hm)
    · simpa [Sparse.wfFrom, hk, hv] using ih hm

theorem wf_refireStore_tags (h : Sparse.wf Tag.empty s.ls.tags = true) : Sparse.wf Tag.empty (refireStore s).tags = true := by
  have e : (fun x : Nat × Tag => x.2 != .empty) = fun x => decide (x.2 ≠ .empty) := by
    funext ⟨_, g⟩
    cases g <;> rfl
  have hf := wfFrom_filter_map unclaim (Sparse.wf_filter _ _ (fun x => pinnedRow s x.1) h)
  rwa [← e] at hf

/-- What refire keeps of the local store is a part of what was there; the rest is at reset, or is not spoken of. -/
theorem kept_refireReset (h : Kept s₀ s) : Kept s₀ (refireReset s) := by
  have hs : Kept s₀ (s.ls.boundary.foldl freeBoundary s) := kept_foldl h fun _ _ => kept_freeBoundary
  unfold refireReset
  dsimp only
  generalize s.ls.boundary.foldl freeBoundary s = u at hs
  obtain ⟨hm, -, -, -⟩ := hs
  refine ⟨fun k => ?_, ⟨fun _ => rfl, fun _ => rfl, fun _ => Nat.zero_le 4⟩, ⟨fun _ => rfl, fun _ => rfl, fun _ =>
    Nat.zero_le 4⟩,
    fun _ => rfl⟩
  obtain ⟨-, hrows, htags, -, -, -, -, -, -, -, hmbx⟩ := hm k
  exact ⟨rfl, Sparse.wf_filter _ _ _ hrows, wf_refireStore_tags htags, rfl, rfl, rfl, rfl, rfl, rfl, rfl, hmbx⟩

theorem kept_runRefire (h : Kept s₀ s) : Kept s₀ (runRefire s) :=
  kept_readStream (kept_update (kept_refireReset (kept_setRun h)))

theorem kept_refireFallback {failed err word : Nat} : Kept s₀ (refireFallback failed err word s) :=
  kept_cmdFail (kept_bridleEvent (kept_setMouldErr kept_coldReset))

theorem kept_refireCheck {o : RefireOutcome} (h : Kept s₀ s) : Kept s₀ (refireCheck o s) := h

theorem kept_refireDone (h : Kept s₀ s) : Kept s₀ (refireDone s) :=
  kept_mailboxServe (kept_update (kept_setRun h))

theorem optionKept_refireCompleteStep {o : RefireOutcome} (h : Kept s₀ s) : OptionKept s₀ (refireCompleteStep o s) := by
  unfold refireCompleteStep
  refine optionKept_ite (optionKept_ite kept_refireFallback (optionKept_ite ?_ trivial)) trivial
  show Kept s₀ _
  split
  · exact kept_refireFallback
  · exact kept_ite kept_refireFallback (kept_refireDone (kept_applyStream (kept_refireCheck h)))

theorem kept_changeLc (h : Kept s₀ s) : Kept s₀ (changeLc s) :=
  kept_ite (kept_cmdFail h) (kept_cmdOk (kept_update kept_coldReset))

theorem kept_runLcSet (h : Kept s₀ s) : Kept s₀ (runLcSet s) :=
  kept_ite h (kept_changeLc h)

theorem kept_runMouldLoad (h : Kept s₀ s) : Kept s₀ (runMouldLoad s) :=
  kept_readStream h

/-! Writes of registers. -/

theorem kept_wrOk (h : Kept s₀ s) : Kept s₀ (wrOk s).2 := h

theorem kept_writeEntry {t : Thread} {v : Nat} (h : Kept s₀ s) : Kept s₀ (writeEntry t v s).2 := by
  unfold writeEntry
  split
  · exact h
  · split
    · exact h
    · split
      · exact h
      · exact h

theorem kept_writeRstsel {t : Thread} {v : Nat} (h : Kept s₀ s) : Kept s₀ (writeRstsel t v s).2 := by
  unfold writeRstsel
  split
  · exact kept_wrOk (kept_modThread h (fun _ => .refl _))
  · exact h

theorem kept_writeCmdArg {k v : Nat} (h : Kept s₀ s) : Kept s₀ (writeCmdArg k v s).2 := by
  unfold writeCmdArg
  dsimp only
  split
  · exact h
  · split
    · exact h
    · exact h
    · exact h
    · exact h

theorem kept_postByCode {op : Nat} (h : Kept s₀ s) : Kept s₀ (postByCode op s) := by
  unfold postByCode
  split
  · exact kept_postPlain h (fun _ => kept_runStart)
  · exact kept_postPlain h (fun _ => kept_pauseBoth)
  · exact kept_postResume h
  · exact kept_postPlain h (fun _ => kept_runRefire)
  · exact kept_postPlain h (fun _ => kept_runMaintEnter)
  · exact kept_postCommand h (fun _ => kept_runMaintExit)
  · exact kept_postCommand h (fun _ => kept_runMouldLoad)
  · exact kept_postCommand h (fun _ => kept_runLcSet)
  · exact kept_postCommand h (fun _ h => h)
  · exact kept_postCommand h (fun _ => kept_runSetStep)
  · exact kept_postPlain h (fun _ => kept_runRetain)
  · exact kept_postPlain h (fun _ => kept_runWake)
  · exact kept_postSession h (fun _ _ => kept_startResume)
  · exact kept_postSession h (fun _ _ => kept_startPark)
  · exact kept_postHandle h (fun _ _ h => h)
  · exact kept_postHandle h (fun _ _ h => h)
  · exact kept_postHandle h (fun _ _ h => h)
  · exact kept_postPlain h (fun _ => kept_runHevict)
  · exact kept_postCommand h (fun _ => kept_runRetrain)
  · exact kept_ite h (kept_rejectCommand (kept_dropHeld (kept_passLull h)))

theorem kept_writeEvent {a v : Nat} (h : Kept s₀ s) : Kept s₀ (writeEvent a v s).2 := by
  unfold writeEvent
  split
  · exact h
  · exact h
  · exact h
  · exact h

theorem kept_writeStaging {a v : Nat} (h : Kept s₀ s) : Kept s₀ (writeStaging a v s).2 := by
  unfold writeStaging
  split
  · exact h
  · exact h

theorem kept_activate {h' : BitVec 8} {v : Nat} (h : Kept s₀ s) : Kept s₀ (activate h' v s).2 := by
  unfold activate
  dsimp only
  split
  · exact h
  · split
    · exact h
    · exact h

theorem kept_writeHandleWord {h' : BitVec 8} {o v : Nat} (h : Kept s₀ s) : Kept s₀ (writeHandleWord h' o v s).2 := by
  unfold writeHandleWord
  dsimp only
  split
  · exact h
  · split
    · split
      · exact kept_activate h
      · split
        · exact h
        · exact h
    · split
      · exact h
      · split
        · exact h
        · exact h

theorem kept_writeHandle {a v : Nat} (h : Kept s₀ s) : Kept s₀ (writeHandle a v s).2 := by
  unfold writeHandle
  split
  · exact h
  · exact kept_writeHandleWord h

theorem kept_writeWindow {k o v : Nat} (h : Kept s₀ s) : Kept s₀ (writeWindow k o v s).2 := by
  unfold writeWindow
  dsimp only
  split
  · exact h
  · split
    · exact h
    · exact h

theorem kept_writeFabricCtl {a v : Nat} (h : Kept s₀ s) : Kept s₀ (writeFabricCtl a v s).2 := by
  unfold writeFabricCtl
  split
  · split
    · exact h
    · exact h
  · split
    · exact h
    · exact h
  · split
    · exact h
    · exact h
  · exact h
  · exact h

theorem kept_sessReadOp (h : Kept s₀ s) : Kept s₀ (sessReadOp s).2 := by
  unfold sessReadOp
  dsimp only
  split
  · exact h
  · exact kept_wrOk (kept_update (kept_sessTouch h))

theorem kept_sessWriteOp (h : Kept s₀ s) : Kept s₀ (sessWriteOp s).2 := by
  unfold sessWriteOp
  dsimp only
  split
  · exact h
  · split
    · exact h
    · split
      · exact kept_sessTouch h
      · exact kept_wrOk (kept_setSess (kept_sessTouch h))

theorem kept_writeSessOp {v : Nat} (h : Kept s₀ s) : Kept s₀ (writeSessOp v s).2 := by
  unfold writeSessOp
  split
  · exact kept_sessReadOp h
  · exact kept_sessWriteOp h
  · exact h

theorem kept_writeCreditAdd {v : Nat} (h : Kept s₀ s) : Kept s₀ (writeCreditAdd v s).2 := by
  unfold writeCreditAdd
  dsimp only
  split
  · exact h
  · split
    · exact kept_sessTouch h
    · exact kept_wrOk (kept_setSess (kept_iteThen (kept_sessTouch h) kept_bump))

theorem kept_writeSessCfg {a v : Nat} (h : Kept s₀ s) : Kept s₀ (writeSessCfg a v s).2 := by
  unfold writeSessCfg
  split
  · exact h
  · split
    · exact h
    · dsimp only
      split
      · exact h
      · exact h
    · split
      · exact h
      · exact h

theorem kept_writeSess {a v : Nat} (h : Kept s₀ s) : Kept s₀ (writeSess a v s).2 := by
  unfold writeSess
  split
  · exact h
  · split
    · exact kept_writeSessOp h
    · split
      · exact kept_writeCreditAdd h
      · split
        · exact h
        · exact kept_writeSessCfg h

theorem kept_writeGlaze {a v : Nat} (h : Kept s₀ s) : Kept s₀ (writeGlaze a v s).2 := by
  unfold writeGlaze
  split
  · exact h
  · split
    · exact h
    · split
      · exact h
      · exact h

theorem kept_writeBallast {a v : Nat} (h : Kept s₀ s) : Kept s₀ (writeBallast a v s).2 := by
  unfold writeBallast
  dsimp only
  split
  · exact h
  · exact h

theorem kept_writeHold {v : Nat} (h : Kept s₀ s) : Kept s₀ (writeHold v s).2 := by
  unfold writeHold
  split
  · exact h
  · exact h

theorem kept_writeCounter {a v : Nat} (h : Kept s₀ s) : Kept s₀ (writeCounter a v s).2 := by
  obtain ⟨hm, ha, hx, hp⟩ := h
  refine ⟨fun k => ?_, ha, hx, hp⟩
  obtain ⟨h1, h2, h3, h4, h5, hc, hrest⟩ := hm k
  exact ⟨h1, h2, h3, h4, h5, Sparse.wf_set 0 _ _ _ hc, hrest⟩

theorem kept_writeMbx {a v : Nat} (h : Kept s₀ s) : Kept s₀ (writeMbx a v s).2 := by
  unfold writeMbx
  dsimp only
  split
  · exact h
  · split
    · exact h
    · exact h
    · exact h
    · exact h
    · exact kept_wrOk (kept_setMbxData h)

theorem kept_regWrite {a v : Nat} (h : Kept s₀ s) : Kept s₀ (regWrite a v s).2 :=
  kept_ite_snd (kept_writeEntry h) <| kept_ite_snd (kept_writeEntry h) <| kept_ite_snd (kept_writeRstsel h) <|
  kept_ite_snd (kept_writeCmdArg h) <| kept_ite_snd (kept_writeEvent h) <| kept_ite_snd (kept_writeStaging h) <|
  kept_ite_snd (kept_writeHandle h) <| kept_ite_snd (kept_writeWindow h) <| kept_ite_snd (kept_writeFabricCtl h) <|
  kept_ite_snd (kept_writeSess h) <| kept_ite_snd (kept_writeGlaze h) <| kept_ite_snd (kept_writeBallast h) <|
  kept_ite_snd (kept_writeHold h) <| kept_ite_snd (kept_writeCounter h) (kept_writeMbx h)

theorem kept_writeWord {r : CsrReg} {a : Nat} {d : Word32} {held : Option (BitVec 16 × Word32)} (h : Kept s₀ s) :
    Kept s₀ (writeWord r a d held s) :=
  kept_ite (kept_answer (kept_regWrite h)) (kept_ite h (kept_answer (kept_regWrite h)))

theorem kept_csrWriteStep {addr : BitVec 16} {d : Word32} (h : Kept s₀ s) : Kept s₀ (csrWriteStep addr d s) := by
  have hs : Kept s₀ (dropHeld (passLull s)) := kept_dropHeld (kept_passLull h)
  refine kept_ite h (kept_ite (kept_postByCode h) (kept_ite (kept_postMailbox h) ?_))
  dsimp only
  split
  · exact kept_answer hs
  · next r _ =>
    have hc : Kept s₀ (setCapture r.base none (dropHeld (passLull s))) := kept_setCapture hs
    exact kept_iteElse (kept_answer hc) (fun h => kept_ite h (kept_writeWord (kept_iteElse hc kept_readTable)))

/-! The duties of the Bridle. -/

theorem optionKept_tickStep {x : TickSample} (h : Kept s₀ s) : OptionKept s₀ (tickStep x s) :=
  optionKept_ite h trivial

theorem optionKept_calibrationStep {offsets : List (BitVec 8)} (h : Kept s₀ s) : OptionKept s₀ (calibrationStep offsets s) :=
  optionKept_ite h trivial

theorem optionKept_wearStep (h : Kept s₀ s) : OptionKept s₀ (wearStep s) :=
  optionKept_ite (kept_ite h (kept_applyRetune h)) trivial

theorem optionKept_watchdogStep (h : Kept s₀ s) : OptionKept s₀ (watchdogStep s) :=
  optionKept_ite (kept_iteThen (kept_bump h) kept_mbxFail) trivial

theorem optionKept_selfCheckTimeoutStep {slot : BitVec 1} {image0 image1 : ImageRead} (h : Kept s₀ s) :
    OptionKept s₀ (selfCheckTimeoutStep slot image0 image1 s) := by
  unfold selfCheckTimeoutStep
  refine optionKept_ite ?_ trivial
  split
  · trivial
  · refine optionKept_ite trivial ?_
    show Kept s₀ _
    split
    · exact kept_update h
    · exact kept_bridleEvent (kept_update h)

theorem kept_endRestart {slot : BitVec 1} {x : ImageRead} (h : Kept s₀ s) : Kept s₀ (endRestart slot x s) :=
  kept_ite h (kept_ite (kept_mbxOk (kept_bridleEvent h)) h)

theorem kept_heldCommand (h : Kept s₀ s) : Kept s₀ (heldCommand s) :=
  kept_ite (kept_leaveSafe h) (kept_ite (kept_changeLc h) h)

theorem optionKept_selfCheckPassStep {slot : BitVec 1} {image0 image1 : ImageRead} (h : Kept s₀ s) :
    OptionKept s₀ (selfCheckPassStep slot image0 image1 s) := by
  unfold selfCheckPassStep
  refine optionKept_ite ?_ trivial
  split
  · trivial
  · exact optionKept_ite (kept_heldCommand (kept_mailboxServe (kept_endRestart h))) trivial

theorem kept_loseEntry (h : Kept s₀ s) : Kept s₀ (loseEntry s) :=
  kept_iteThen (kept_bump h) (fun h => kept_bridleEvent (kept_update h))

theorem optionKept_logEntryStep (h : Kept s₀ s) : OptionKept s₀ (logEntryStep s) := by
  unfold logEntryStep
  split
  · trivial
  · exact optionKept_ite (kept_ite (kept_loseEntry h) h) trivial

theorem kept_sweepStep (h : Kept s₀ s) : Kept s₀ (sweepStep s) :=
  kept_update (kept_readCfg h)

/-! The monitor and the UART. -/

theorem kept_reply {r : MonReply} (h : Kept s₀ s) : Kept s₀ (reply r s) := h

theorem kept_monitorCommand {lockedToo : Bool} {run : State → State} (h : Kept s₀ s) (hrun : ∀ s, Kept s₀ s → Kept s₀ (run s)) :
    Kept s₀ (monitorCommand lockedToo run s) := by
  unfold monitorCommand
  refine kept_ite h ?_
  split
  · exact h
  · exact hrun _ h
  · exact kept_ite (hrun _ h) h

theorem kept_runId (h : Kept s₀ s) : Kept s₀ (runId s) := h

theorem kept_runState (h : Kept s₀ s) : Kept s₀ (runState s) := h

theorem kept_runTemp (h : Kept s₀ s) : Kept s₀ (runTemp s) := h

theorem kept_runPower (h : Kept s₀ s) : Kept s₀ (runPower s) := h

theorem kept_runCones (h : Kept s₀ s) : Kept s₀ (runCones s) := h

theorem kept_runSteps (h : Kept s₀ s) : Kept s₀ (runSteps s) := h

theorem kept_runLog {n : Nat} (h : Kept s₀ s) : Kept s₀ (runLog n s) := h

theorem kept_runCnt {address : Nat} (h : Kept s₀ s) : Kept s₀ (runCnt address s) := by
  unfold runCnt
  split
  · exact kept_ite h h
  · exact h

theorem kept_runUnlock {token : BitVec 64} (h : Kept s₀ s) : Kept s₀ (runUnlock token s) :=
  kept_ite h (kept_reply (kept_update (kept_bridleEvent h)))

theorem kept_runLock (h : Kept s₀ s) : Kept s₀ (runLock s) := h

/-- The command that a line spells, if any, keeps what is well formed. -/
def LineKept : Option (Bool × (State → State)) → Prop
  | some p => ∀ s₀ s, Kept s₀ s → Kept s₀ (p.2 s)
  | none => True

theorem lineKept_ite {c : Prop} [Decidable c] {o p : Option (Bool × (State → State))} (ho : LineKept o) (hp : LineKept p) :
    LineKept (if c then o else p) := by
  split
  · exact ho
  · exact hp

theorem lineKept_lineCommand {ws : List (List Char)} : LineKept (lineCommand ws) := by
  unfold lineCommand
  dsimp only
  split
  · trivial
  · next w args =>
    refine lineKept_ite (fun _ _ => kept_runUnlock) (lineKept_ite ?_ (lineKept_ite ?_ (lineKept_ite trivial ?_)))
    · split
      · exact fun _ _ => kept_runLog
      · trivial
    · cases counterNamed args with
      | none => trivial
      | some a => exact fun _ _ => kept_runCnt
    · exact lineKept_ite (fun _ _ => kept_reply) <| lineKept_ite (fun _ _ => kept_runId) <|
        lineKept_ite (fun _ _ => kept_runState) <| lineKept_ite (fun _ _ => kept_runTemp) <|
        lineKept_ite (fun _ _ => kept_runPower) <| lineKept_ite (fun _ _ => kept_runCones) <|
        lineKept_ite (fun _ _ => kept_runSteps) <| lineKept_ite (fun _ _ => kept_runLock) trivial

theorem kept_receiveLine {l : List (BitVec 8)} (h : Kept s₀ s) : Kept s₀ (receiveLine l s) := by
  unfold receiveLine
  split
  · next b run e =>
    refine kept_monitorCommand h fun s h => ?_
    split at e
    · have hl : LineKept (lineCommand (lineWords l)) := lineKept_lineCommand
      rw [e] at hl
      exact hl _ _ h
    · cases e
  · exact kept_monitorCommand h fun _ => kept_reply

end

end Sys2Proof.Machine
end

section
/-! SUPPORT. What a cycle of CLK and the events inside the cluster keep well formed. -/

namespace Sys2Proof.Machine
open Claims

section
variable {s₀ s : State}

/-! The row ports. -/

theorem kept_startFlight {f : Flight} (h : Kept s₀ s) : Kept s₀ (startFlight f s) := by
  unfold startFlight
  split
  · exact kept_startLsWq h
  · exact kept_startTst h
  · exact kept_startTst h
  · exact kept_startTctxSave h
  · exact kept_startDma h
  · exact kept_startPut h
  · exact kept_startPut h
  · exact kept_startRemote h
  · exact kept_startRemote h
  · exact kept_startRemote h
  · exact kept_startRemote h
  · exact kept_startConv h
  · exact kept_startGemv h
  · exact kept_startGemv h
  · exact kept_startPlain h

theorem kept_sampleRow {fid : Nat} {a : Access} {act : ReturnAct} (h : Kept s₀ s) : Kept s₀ (sampleRow fid a act s) :=
  kept_ite (kept_correctedRead h) h

theorem kept_readStep {f : Flight} {a : Access} (h : Kept s₀ s) : Kept s₀ (readStep f a s) := by
  unfold readStep
  split
  · exact kept_iteThen (kept_sampleRow h) kept_setTag
  · exact kept_sampleRow h
  · exact kept_glzCurveRead h
  · exact kept_glzStateRead h
  · exact kept_glzCountRead h
  · exact h

theorem kept_writeStep {f : Flight} {a : Access} (h : Kept s₀ s) : Kept s₀ (writeStep f a s) := by
  unfold writeStep
  split
  · split
    · exact kept_iteThen (kept_writeRow h) kept_setTag
    · exact h
  · exact h

theorem kept_performAll {l : List (Flight × Access)} (h : Kept s₀ s) : Kept s₀ (performAll l s) :=
  kept_foldl (kept_foldl h (fun _ _ => kept_readStep)) (fun _ _ => kept_writeStep)

theorem kept_conflictLull {hit : List Nat} (h : Kept s₀ s) : Kept s₀ (conflictLull hit s) :=
  kept_ite h (kept_bump h)

theorem wf_foldl_put_succ {l : List Nat} {f : Nat → Nat} {m : Sparse Nat} (h : Sparse.wf 0 m = true) :
    Sparse.wf 0 (l.foldl (fun m k => Sparse.put m k (f k + 1)) m) = true := by
  induction l generalizing m with
  | nil => exact h
  | cons k l ih => exact ih (Sparse.wfFrom_put 0 m h (Nat.zero_le k) (Nat.succ_ne_zero _))

theorem kept_starveTick {hit : List Nat} (h : Kept s₀ s) : Kept s₀ (starveTick hit s) :=
  kept_of_memories h (fun ⟨h1, h2, h3, h4, _, hrest⟩ => ⟨h1, h2, h3, h4, wf_foldl_put_succ rfl, hrest⟩) rfl rfl rfl

theorem kept_boundaryTick {hit : List Nat} (h : Kept s₀ s) : Kept s₀ (boundaryTick hit s) := by
  unfold boundaryTick
  split
  · exact h
  · exact kept_ite (kept_bump h) h

theorem kept_dropSteps {l : List Flight} (h : Kept s₀ s) : Kept s₀ (dropSteps l s) :=
  kept_foldl h (fun _ _ h => h)

theorem kept_judgeNow {f : Flight} (h : Kept s₀ s) : Kept s₀ (judgeNow f s) := by
  unfold judgeNow
  split
  · exact kept_ite (kept_judgeHeader h) h
  · exact h

theorem kept_afterTests {f : Flight} (h : Kept s₀ s) : Kept s₀ (afterTests f s) := by
  unfold afterTests
  refine kept_ite h ?_
  dsimp only
  split
  · exact kept_startFlight (kept_modThread h (fun _ => .refl _))
  · exact kept_modThread h (fun _ => .refl _)

theorem kept_waitTick {fid : Nat} (h : Kept s₀ s) : Kept s₀ (waitTick fid s) := by
  unfold waitTick
  split
  · exact h
  · next f _ =>
    have hj {g g' : Flight} : Kept s₀ (judgeNow g (modFlight fid (fun _ => g') (testCycle f s).2)) :=
      kept_judgeNow (kept_modFlight (kept_testCycle h))
    dsimp only
    split
    · exact kept_afterTests hj
    · exact hj

theorem kept_arrayTick {half : Bool} (h : Kept s₀ s) : Kept s₀ (arrayTick half s) := by
  unfold arrayTick
  split
  · exact kept_setWindow h
  · split
    · exact h
    · exact kept_ite (kept_ite (kept_modFlight (kept_setWindow h)) (kept_bump (kept_modFlight (kept_setWindow h))))
        (kept_setWindow h)

theorem kept_arraysTick (h : Kept s₀ s) : Kept s₀ (arraysTick s) :=
  kept_ite h (kept_arrayTick (kept_arrayTick h))

theorem kept_rowTick (h : Kept s₀ s) : Kept s₀ (rowTick s) :=
  have ht : Kept s₀ (testTick s) := kept_foldl h fun _ _ => kept_waitTick
  have hp : Kept s₀ (performAll (presented s) _) := kept_performAll (kept_arraysTick (kept_boundaryTick (hit := usedStacks s)
    (kept_starveTick (hit := usedStacks s) ht)))
  kept_update (kept_conflictLull (kept_dropSteps (kept_ite hp (kept_bump hp))))

theorem kept_headerReturn {a : TctxArgs} {f : Flight} {b : Bytes} (h : Kept s₀ s) : Kept s₀ (headerReturn a f b s) := by
  unfold headerReturn
  split
  · exact kept_execFault h
  · dsimp only
    split
    · exact kept_execFault h
    · exact kept_setActs (kept_foldl h (fun _ _ h => kept_dropTileCopies (kept_setTileCfg h)))

theorem kept_applyReturn {f : Flight} {d : DueRead} (h : Kept s₀ s) : Kept s₀ (applyReturn f d s) := by
  unfold applyReturn
  split
  · exact h
  · exact kept_writeTiles h
  · exact kept_writeTiles h
  · split
    · exact kept_headerReturn h
    · exact h
  · exact kept_writeTiles h
  · exact kept_writeTiles h
  · exact h
  · exact kept_offerRows h
  · split
    · exact kept_mvGroupDone h
    · exact kept_mvGroupDone h
    · exact h

theorem optionKept_readReturnStep {fid : Nat} (h : Kept s₀ s) : OptionKept s₀ (readReturnStep fid s) := by
  unfold readReturnStep
  split
  · trivial
  · refine optionKept_ite trivial ?_
    split
    · trivial
    · refine optionKept_ite trivial ?_
      split
      · exact kept_execFault (kept_logEvent h)
      · exact kept_applyReturn h

theorem kept_commitFlight {f : Flight} (h : Kept s₀ s) : Kept s₀ (commitFlight f s) := by
  unfold commitFlight
  split
  · exact kept_finishLsRd h
  · exact kept_finishLsRq h
  · exact kept_finishLsRq h
  · exact kept_finishMm h
  · exact kept_finishWld h
  · exact kept_finishWldT h
  · exact kept_finishConv h
  · exact kept_finishDrain h
  · exact kept_finishGemv h
  · exact kept_finishEw h
  · exact kept_finishEpRun h
  · exact kept_finishRed h
  · exact kept_finishScan h
  · exact kept_finishScan h
  · exact kept_finishCvt h
  · exact kept_finishGlaze h
  · exact kept_finishGlaze h
  · exact kept_finishC3Mm h
  · exact kept_finishC3Gemv h
  · exact kept_finishC3Ew h
  · exact kept_finishC3Red h
  · exact kept_finishC3Cvt h
  · split
    · exact kept_commitAll h
    · exact kept_commitAll h

theorem optionKept_completeStep {fid : Nat} (h : Kept s₀ s) : OptionKept s₀ (completeStep fid s) := by
  unfold completeStep
  split
  · trivial
  · exact optionKept_ite (kept_dropFlight (kept_commitFlight h)) trivial

/-! A cycle of CLK. -/

theorem kept_idleTick (h : Kept s₀ s) : Kept s₀ (idleTick s) :=
  kept_iteThen (kept_iteThen (kept_iteThen (kept_ite (kept_bump h) h) kept_bump) kept_bump) kept_bump

theorem kept_fabricTick (h : Kept s₀ s) : Kept s₀ (fabricTick s) := h

theorem kept_queueTick (h : Kept s₀ s) : Kept s₀ (queueTick s) := h

theorem kept_runTick (h : Kept s₀ s) : Kept s₀ (runTick s) :=
  kept_rowTick (kept_update (kept_fabricTick (kept_queueTick (kept_idleTick h))))

theorem kept_readTables (h : Kept s₀ s) : Kept s₀ (readTables s) :=
  kept_readCfg (kept_readCfg h)

theorem kept_takeResponse (h : Kept s₀ s) : Kept s₀ (takeResponse s) := h

theorem kept_tick (h : Kept s₀ s) : Kept s₀ (tick s) := by
  unfold tick
  refine kept_ite h ?_
  dsimp only
  split
  · exact kept_runTick (kept_drogueTick (kept_takeResponse (kept_readTables h)))
  · exact kept_update (kept_drogueTick (kept_takeResponse (kept_readTables h)))

theorem kept_passUntil {goal : State → Bool} {n : Nat} (h : Kept s₀ s) : Kept s₀ (passUntil goal n s) := by
  induction n generalizing s with
  | zero => exact h
  | succ n ih => exact kept_ite h (ih (kept_passLull (kept_tick h)))

theorem optionKept_reach {goal : State → Bool} (h : Kept s₀ s) : OptionKept s₀ (reach goal s) :=
  optionKept_ite (kept_passUntil (kept_passLull h)) trivial

/-! The events inside the cluster. -/

theorem optionKept_tagTestStep {fid : Nat} (h : Kept s₀ s) : OptionKept s₀ (tagTestStep fid s) := by
  unfold tagTestStep
  split
  · trivial
  · exact optionKept_ite (kept_passUntil (kept_passLull h)) trivial

theorem optionKept_tagTimeoutStep {fid : Nat} (h : Kept s₀ s) : OptionKept s₀ (tagTimeoutStep fid s) := by
  unfold tagTimeoutStep
  dsimp only
  split
  · trivial
  · exact optionKept_ite trivial (optionKept_ite (kept_issueFault (kept_unissue (kept_releaseTests (kept_passLull h))))
      (kept_execFault (kept_passLull h)))

theorem optionKept_returnStep {fid : Nat} (h : Kept s₀ s) : OptionKept s₀ (returnStep fid s) :=
  optionKept_bind (optionKept_reach h) (fun _ => optionKept_readReturnStep)

theorem optionKept_finishStep {fid : Nat} (h : Kept s₀ s) : OptionKept s₀ (finishStep fid s) :=
  optionKept_bind (optionKept_reach h) (fun _ => optionKept_completeStep)

theorem optionKept_handlerStep {t : Thread} (h : Kept s₀ s) : OptionKept s₀ (handlerStep t s) :=
  optionKept_ite trivial (optionKept_faultEntryStep (kept_passLull h))

theorem optionKept_mutualWaitStep (h : Kept s₀ s) : OptionKept s₀ (mutualWaitStep s) := by
  unfold mutualWaitStep
  split
  · exact optionKept_ite trivial (kept_queueMoved (kept_logEvent h))
  · trivial

theorem optionKept_boundaryTurn (h : Kept s₀ s) : OptionKept s₀ (boundaryTurn s) := by
  unfold boundaryTurn
  refine optionKept_bind (optionKept_reach h) (fun _ h => ?_)
  split
  · trivial
  · exact kept_boundaryStep h

theorem optionKept_idleCycle {k : Nat} (h : Kept s₀ s) : OptionKept s₀ (idleCycle k s) :=
  optionKept_ite (optionKept_reach h) trivial

theorem kept_writeBack {p : Nat} (h : Kept s₀ s) : Kept s₀ (writeBack p s) := h

theorem kept_advancePtr {k : Nat} (h : Kept s₀ s) : Kept s₀ (advancePtr k s) := by
  have hp : Kept s₀ { s with ls := { s.ls with ptr := Sparse.set 0 s.ls.ptr k (Sparse.get 0 s.ls.ptr k + 1) } } :=
    kept_of_memories h (fun ⟨h1, h2, h3, h4, hrest⟩ => ⟨h1, h2, h3, Sparse.wf_set 0 _ _ _ h4, hrest⟩) rfl rfl rfl
  exact kept_ite (kept_bump hp) hp

theorem kept_scrubRow {k : Nat} (h : Kept s₀ s) : Kept s₀ (scrubRow k s) := by
  refine kept_advancePtr ?_
  split
  · exact kept_logEvent h
  · exact kept_ite (kept_bump (kept_update h)) h

theorem kept_scrubSlot {k : Nat} (h : Kept s₀ s) : Kept s₀ (scrubSlot k s) := by
  unfold scrubSlot
  split
  · exact h
  · exact kept_scrubRow h

theorem optionKept_scrubReadStep {k : Nat} (h : Kept s₀ s) : OptionKept s₀ (scrubReadStep k s) :=
  optionKept_bind (optionKept_idleCycle h) (fun _ h => optionKept_ite (kept_scrubRow h) trivial)

theorem optionKept_writeBackStep {k : Nat} (h : Kept s₀ s) : OptionKept s₀ (writeBackStep k s) := by
  refine optionKept_bind (optionKept_idleCycle h) fun s h => ?_
  cases dueWriteBack s k with
  | none => trivial
  | some p => exact kept_writeBack h

theorem kept_forcedSlot {k : Nat} (h : Kept s₀ s) : Kept s₀ (forcedSlot k s) :=
  kept_of_memories (kept_scrubSlot h) (fun ⟨h1, h2, h3, h4, h5, hrest⟩ =>
    ⟨h1, h2, h3, h4, Sparse.wf_set 0 _ k 0 h5, hrest⟩) rfl rfl rfl

theorem optionKept_forcedScrub {due : BitVec 24} (h : Kept s₀ s) : OptionKept s₀ (forcedScrub due s) :=
  optionKept_ite trivial (kept_foldl (kept_bump (kept_update (kept_passLull h))) (fun _ _ => kept_forcedSlot))

end

end Sys2Proof.Machine
end

section
/-! SUPPORT. What every command and every step keeps well formed: O6 and O7. -/

namespace Sys2Proof.Machine
open Claims

section
variable {s₀ s : State}

/-! The commands whose text holds a case of its own. -/

theorem outKept_execPset {t : Thread} {rs1 : Reg} {imm : BitVec 32} (h : Kept s₀ s) : OutKept s₀ (execPset t rs1 imm s) := by
  refine kept_issue h fun _ u h => verdictKept_ite trivial (verdictKept_ite trivial ?_)
  obtain ⟨hm, ha, hx, hp⟩ := h
  exact ⟨hm, ha, hx, fun k => Sparse.wf_set 0 _ _ _ (hp k)⟩

theorem outKept_execKpop {t : Thread} {rd : Reg} {imm : BitVec 32} (h : Kept s₀ s) : OutKept s₀ (execKpop t rd imm s) := by
  refine kept_issue h fun _ u h => verdictKept_ite trivial (verdictKept_ite trivial (verdictKept_ite trivial ?_))
  split
  · exact kept_queueMoved (kept_update (kept_setSreg h))
  · trivial

theorem outKept_execSrd {t : Thread} {rd : Reg} {imm : BitVec 32} (h : Kept s₀ s) : OutKept s₀ (execSrd t rd imm s) := by
  refine kept_issue h fun _ u h => ?_
  split
  · trivial
  · exact verdictKept_ite trivial (kept_setSreg h)

theorem threadKept_writeSpecial {n : Nat} {v : Word64} {th : ThreadState} : ThreadKept th ((writeSpecial n v th).getD th) := by
  unfold writeSpecial
  split
  · exact threadKept_ite ⟨id, id, id⟩ ⟨id, id, id⟩
  all_goals exact ⟨id, id, id⟩

theorem outKept_execSwr {t : Thread} {rs1 : Reg} {imm : BitVec 32} (h : Kept s₀ s) : OutKept s₀ (execSwr t rs1 imm s) :=
  kept_issue h fun _ _ h => verdictKept_ite trivial (verdictKept_ite trivial (verdictKept_ite trivial
    (kept_modThread h fun _ => threadKept_writeSpecial)))

/-- A level is opened only where fewer than four are open. -/
theorem outKept_execCoilBegin {t : Thread} {rs1 : Reg} {imm : BitVec 32} (h : Kept s₀ s) :
    OutKept s₀ (execCoilBegin t rs1 imm s) := by
  refine kept_issue h fun _ u h => verdictKept_ite trivial (verdictKept_ite trivial ?_)
  split
  · trivial
  · refine verdictKept_ite trivial (verdictKept_ite h (kept_setThread h ⟨id, id, fun _ => ?_⟩))
    rw [List.length_cons]
    omega

theorem outKept_execCoilEnd {t : Thread} (h : Kept s₀ s) : OutKept s₀ (execCoilEnd t s) := by
  refine kept_issue h fun _ u h => ?_
  dsimp only
  split
  · trivial
  · next l outer e =>
    refine verdictKept_ite trivial (verdictKept_ite (kept_setThread h ?_) (kept_setThread h ?_))
    all_goals
      refine ⟨id, id, fun k => ?_⟩
      rw [e] at k
      simp only [List.length_cons] at k ⊢
      omega

theorem outKept_execCoilSet {t : Thread} {rs1 : Reg} {imm : BitVec 32} (h : Kept s₀ s) : OutKept s₀ (execCoilSet t rs1 imm s) :=
  kept_issue h fun _ _ h => verdictKept_ite trivial (verdictKept_ite trivial (verdictKept_ite trivial
    (kept_modThread h fun _ => ⟨id, id, fun k => by simpa using k⟩)))

theorem outKept_execCoilBreak {t : Thread} {imm : BitVec 32} (h : Kept s₀ s) : OutKept s₀ (execCoilBreak t imm s) := by
  refine kept_issue h fun _ u h => ?_
  split
  · trivial
  · exact kept_modThread h fun _ => ⟨id, id, fun k => by simp only [List.length_drop]; omega⟩

theorem outKept_execCoilIdx {t : Thread} {rd : Reg} {imm : BitVec 32} (h : Kept s₀ s) : OutKept s₀ (execCoilIdx t rd imm s) :=
    by
  refine kept_issue h fun _ u h => ?_
  split
  · trivial
  · exact verdictKept_ite trivial (kept_setSreg h)

theorem outKept_execTcfgR {t : Thread} {shape : Reg} {mask : BitVec 16} (h : Kept s₀ s) :
    OutKept s₀ (execTcfgR t shape mask s) :=
  kept_issue h fun _ _ h => verdictKept_bind (by simp) fun _ => verdictKept_bind (by simp) fun _ => verdictKept_issueTcfg h

theorem outKept_execUartCommandLine {l : List Bool} (h : Kept s₀ s) : OutKept s₀ (execUartCommandLine l s) := by
  unfold execUartCommandLine
  show Kept s₀ _
  split
  · exact h
  · exact kept_receiveLine h

/-- What a command keeps, command by command. -/
theorem outKept_exec {i : Instr} (h : Kept s₀ s) : OutKept s₀ (exec i s) := by
  cases i
  case nop => exact kept_issue h (fun _ _ h => h)
  case add | sub | and | or | xor | shl | shr | sra | mul | mulh | mulhu | divs | divu | rems | remu | cmpEq | cmpNe | cmpLt
      | cmpLtu | cmpGe | cmpGeu =>
    exact kept_alu2 h
  case addi | andi | ori | xori | shli | shri | srai => exact kept_aluImm h
  case li | lih | fmin | fmax | fcvtDW | budget => exact kept_scalarWrite h
  case beq | bne | blt | bge | bltu | bgeu => exact kept_branch h
  case jmp => exact kept_issue h (fun _ _ h => verdictKept_ite trivial h)
  case jal | pmov | srread =>
    exact kept_issue h (fun _ _ h => verdictKept_ite trivial (verdictKept_ite trivial (kept_setSreg h)))
  case jr => exact kept_issue h (fun _ _ h => verdictKept_ite trivial (verdictKept_ite trivial (verdictKept_ite trivial h)))
  case fadd | fsub | fmul | fdiv => exact kept_fp2 h
  case fma | fsqrt | fcvtDL => exact kept_fpRound h (fun _ _ _ => kept_writeF64)
  case fcmpEq | fcmpLt | fcmpLe | fcmpUn => exact kept_fpCmp h
  case fcvtLD | fcvtWD => exact kept_fpToInt h
  case ldB | ldBU | ldH | ldHU | ldW | ldWU | ldD => exact kept_sdmLoad h
  case stB | stH | stW | stD => exact kept_sdmStore h
  case pset => exact outKept_execPset h
  case kpush =>
    exact kept_issue h
      (fun _ _ h => verdictKept_ite trivial (verdictKept_ite trivial (verdictKept_ite trivial (verdictKept_ite trivial h))))
  case kpop => exact outKept_execKpop h
  case qdepth | nstatRd | amaxRd =>
    exact kept_issue h
      (fun _ _ h => verdictKept_ite trivial (verdictKept_ite trivial (verdictKept_ite trivial (kept_setSreg h))))
  case srd => exact outKept_execSrd h
  case swr => exact outKept_execSwr h
  case srseed =>
    exact kept_issue h (fun _ _ h => verdictKept_ite trivial (verdictKept_ite trivial (kept_modThread h (fun _ => .refl _))))
  case coilBegin => exact outKept_execCoilBegin h
  case coilEnd => exact outKept_execCoilEnd h
  case coilSet => exact outKept_execCoilSet h
  case coilBreak => exact outKept_execCoilBreak h
  case coilIdx => exact outKept_execCoilIdx h
  case fence => exact kept_issue h (fun _ _ h => verdictKept_ite h trivial)
  case replaySync => exact kept_issue h (fun _ _ => verdictKept_issueReplaySync)
  case fret =>
    exact kept_issue h
      (fun _ _ h => verdictKept_ite trivial (kept_iteThen (kept_modThread h (fun _ => threadKept_align)) kept_pauseThread))
  case halt => exact kept_issue h (fun _ _ h => verdictKept_ite (kept_logEvent (kept_modThread h (fun _ => .refl _))) trivial)
  case lsRd => exact kept_issue h (fun _ _ => verdictKept_issueLsRd)
  case lsWr => exact kept_issue h (fun _ _ => verdictKept_issueLsWr)
  case lsRq | lsRqS => exact kept_issue h (fun _ _ => verdictKept_issueLsRq)
  case lsWq => exact kept_issue h (fun _ _ => verdictKept_issueLsWq)
  case lsTag => exact kept_issue h (fun _ _ => verdictKept_issueLsTag)
  case tld | tldS => exact kept_issue h (fun _ _ => verdictKept_issueTld)
  case tldT => exact kept_issue h (fun _ _ => verdictKept_issueTldT)
  case tst | tstS => exact kept_issue h (fun _ _ => verdictKept_issueTst)
  case tctxSave => exact kept_issue h (fun _ _ => verdictKept_issueTctxSave)
  case tctxLoad => exact kept_issue h (fun _ _ => verdictKept_issueTctxLoad)
  case dmaCopy => exact kept_issue h (fun _ _ => verdictKept_issueDma)
  case put | msgSend => exact kept_issue h (fun _ _ => verdictKept_issuePut)
  case take | msgRecv | peek => exact kept_issue h (fun _ _ => verdictKept_issueTake)
  case fetch => exact kept_issue h (fun _ _ => verdictKept_issueFetch)
  case bind | unbind => exact kept_issue h (fun _ _ => verdictKept_issueBind)
  case hswap => exact kept_issue h (fun _ _ => verdictKept_issueHswap)
  case sessNext => exact kept_issue h (fun _ _ => verdictKept_issueSessNext)
  case spoolPrefetch | spoolPin => exact kept_issue h (fun _ _ => verdictKept_issueSpoolFill)
  case spoolUnpin => exact kept_issue h (fun _ _ => verdictKept_issueSpoolUnpin)
  case spoolInv => exact kept_issue h (fun _ _ => verdictKept_issueSpoolInv)
  case mxMm => exact kept_issue h (fun _ _ => verdictKept_issueMm)
  case mxWld => exact kept_issue h (fun _ _ => verdictKept_issueWld)
  case mxWldT => exact kept_issue h (fun _ _ => verdictKept_issueWldT)
  case mxConv => exact kept_issue h (fun _ _ => verdictKept_issueConv)
  case mxDrain => exact kept_issue h (fun _ _ => verdictKept_issueDrain)
  case mvGemv => exact kept_issue h (fun _ _ => verdictKept_issueGemv)
  case vxEw => exact kept_issue h (fun _ _ => verdictKept_issueEw)
  case epRun => exact kept_issue h (fun _ _ => verdictKept_issueEpRun)
  case vxRed => exact kept_issue h (fun _ _ => verdictKept_issueRed)
  case vxScan | vxSegscan => exact kept_issue h (fun _ _ => verdictKept_issueScan)
  case cvt => exact kept_issue h (fun _ _ => verdictKept_issueCvt)
  case epLoad => exact kept_issue h (fun _ _ => verdictKept_issueEpLoad)
  case glzStep | glzRows => exact kept_issue h (fun _ _ => verdictKept_issueGlaze)
  case tcfg => exact kept_issue h (fun _ _ => verdictKept_issueTcfg)
  case tcfgR => exact outKept_execTcfgR h
  case trel => exact kept_issue h (fun _ _ => verdictKept_issueTrel)
  case tdc3MxMm => exact kept_issue h (fun _ _ => verdictKept_issueC3Mm)
  case tdc3MvGemv => exact kept_issue h (fun _ _ => verdictKept_issueC3Gemv)
  case tdc3VxEw => exact kept_issue h (fun _ _ => verdictKept_issueC3Ew)
  case tdc3VxRed => exact kept_issue h (fun _ _ => verdictKept_issueC3Red)
  case tdc3Cvt => exact kept_issue h (fun _ _ => verdictKept_issueC3Cvt)
  case tagTestPass => exact kept_getD (optionKept_tagTestStep h) h
  case tagTimeout => exact kept_getD (optionKept_tagTimeoutStep h) h
  case lsReadReturn => exact kept_getD (optionKept_returnStep h) h
  case tensorCompletion => exact kept_getD (optionKept_finishStep h) h
  case faultHandlerEntry => exact kept_getD (optionKept_handlerStep h) h
  case mutualWait => exact kept_getD (optionKept_mutualWaitStep h) h
  case spoolFillArrival => exact kept_getD (optionKept_spoolArrival (kept_passLull h)) h
  case boundaryAccess => exact kept_getD (optionKept_boundaryTurn h) h
  case scrubRead => exact kept_getD (optionKept_scrubReadStep h) h
  case scrubWriteBack => exact kept_getD (optionKept_writeBackStep h) h
  case forcedScrubSlot => exact kept_getD (optionKept_forcedScrub h) h
  case bindingRelease => exact kept_getD (optionKept_bindingReleaseStep (kept_passLull h)) h
  case handleDrainComplete => exact kept_getD (optionKept_drainStep (kept_passLull h)) h
  case msgRetry => exact kept_getD (optionKept_retryStep (kept_passLull h)) h
  case putReq | takeReq | peekReq | fetchReq | dataRsp | statusRsp => exact kept_arrive (kept_passLull h)
  case link | linkNoAnswerResend => exact kept_linkUnit (kept_passLull h)
  case fabricCreditReturn => exact kept_creditReturned (kept_passLull h)
  case fabRspTimeout => exact kept_getD (optionKept_rspTimeoutStep (kept_passLull h)) h
  case reservoirReadResponse => exact kept_resReadStep (kept_passLull h)
  case reservoirWriteAck => exact kept_resWriteStep (kept_passLull h)
  case start => exact kept_postPlain h (fun _ => kept_runStart)
  case pause => exact kept_postPlain h (fun _ => kept_pauseBoth)
  case pauseComplete => exact kept_getD (optionKept_pauseCompleteStep (kept_passLull h)) h
  case resume => exact kept_postResume h
  case refire => exact kept_postPlain h (fun _ => kept_runRefire)
  case refireComplete => exact kept_getD (optionKept_refireCompleteStep h) h
  case maintEnter => exact kept_postPlain h (fun _ => kept_runMaintEnter)
  case maintExit => exact kept_postCommand h (fun _ => kept_runMaintExit)
  case mouldLoad => exact kept_postCommand h (fun _ => kept_runMouldLoad)
  case mouldLoadComplete => exact kept_getD (optionKept_mouldLoadStep (kept_streamAnswers (kept_passLull h))) h
  case lcSet => exact kept_postCommand h (fun _ => kept_runLcSet)
  case replay => exact kept_postCommand h (fun _ h => h)
  case setStep => exact kept_postCommand h (fun _ => kept_runSetStep)
  case switchBoundary => exact kept_getD (optionKept_switchStep (kept_passLull h)) h
  case synthLockFail => exact kept_getD (optionKept_lockFailStep (kept_passLull h)) h
  case retain => exact kept_postPlain h (fun _ => kept_runRetain)
  case wake => exact kept_postPlain h (fun _ => kept_runWake)
  case sessResume => exact kept_postSession h (fun _ _ => kept_startResume)
  case sessPark => exact kept_postSession h (fun _ _ => kept_startPark)
  case hpin | hunpin | hfree => exact kept_postHandle h (fun _ _ h => h)
  case hevict => exact kept_postPlain h (fun _ => kept_runHevict)
  case linkRetrain => exact kept_postCommand h (fun _ => kept_runRetrain)
  case retrainAck => exact kept_getD (optionKept_retrainAckStep (kept_passLull h)) h
  case retrainTimeout => exact kept_getD (optionKept_retrainTimeoutStep (kept_passLull h)) h
  case version | telemetry | wearRead | wearWrite | updateVerify | updateActivate | monToken | monLock | lcChallenge |
      lcAuthorize | uartCfg =>
    exact kept_postMailbox h
  case mailboxOperationEnd => exact kept_mailboxEndStep h
  case help | id | state | temp | power | cones | steps | log | lock => exact kept_monitorCommand h (fun _ h => h)
  case cnt => exact kept_monitorCommand h (fun _ => kept_runCnt)
  case unlock => exact kept_monitorCommand h (fun _ => kept_runUnlock)
  case sessRead | sessWrite | sessCreditAdd | handleEntryWrite | pstageWrite | evtCauseClear | evtLogSel | evtLogRdptr |
      csrWrite =>
    exact kept_csrWriteStep h
  case coneMinRead | wideRegisterLowerRead => exact kept_csrRead h
  case bisqueStart => exact kept_getD (optionKept_bisqueStep h) h
  case windowStrobe => exact kept_strobeStep h
  case updateBoundary => exact kept_getD (optionKept_strobedBoundary (kept_passLull h)) h
  case ballastMissed => exact kept_getD (optionKept_missedStep (kept_passLull h)) h
  case drogueLevelRise => exact kept_ite (kept_drogueReport h) h
  case drogueLevelFall => exact kept_ite (kept_drogueReport (kept_drogueFall h)) h
  case marginLow => exact kept_getD (optionKept_marginLowStep h) h
  case crossingOccupancyCheck => exact kept_getD (optionKept_crossingStep (kept_passLull h)) h
  case safeEntry => exact kept_getD (optionKept_safeEntryStep (kept_passLull h)) h
  case bridleTick => exact kept_getD (optionKept_tickStep h) h
  case coneCalibration => exact kept_getD (optionKept_calibrationStep h) h
  case wearEvaluation => exact kept_getD (optionKept_wearStep h) h
  case watchdogExpiry => exact kept_getD (optionKept_watchdogStep h) h
  case imageSelfCheckTimeout => exact kept_getD (optionKept_selfCheckTimeoutStep h) h
  case eventLogEntry => exact kept_getD (optionKept_logEntryStep h) h
  case uartCommandLine => exact outKept_execUartCommandLine h
  case linkCrcFailure => exact kept_crcFailure (kept_passLull h)
  case imageSelfCheckPass => exact kept_getD (optionKept_selfCheckPassStep h) h
  case configurationSweep => exact kept_ite (kept_sweepStep h) h
  case porNLow => exact kept_powerOff
  case rstNAssert => exact kept_rstAssert h
  case trstN | bypass | idcode | samplePreload | extest | clamp => exact h

end

/-- A step of the cluster: one command, or one cycle of CLK. -/
theorem kept_of_step {s s' : State} (h : step s = .next s') : Kept s s' := by
  unfold step at h
  split at h
  · cases h
    exact kept_tick (.refl s)
  · next c cs _ =>
    have k : OutKept s (exec c { s with pending := cs }) := outKept_exec (kept_update (.refl s))
    rwa [h] at k

/-- Settles O6: no command and no cycle writes a memory, a table or a counter but through the operations that keep the canonical
form; a reset leaves each of them empty or a part of what it was. -/
theorem everyStepKeepsMemoriesCanonical : Obligations.EveryStepKeepsMemoriesCanonical :=
  fun _ _ hm h => (kept_of_step h).memoriesCanonical hm

/-- Settles O7: wherever issue goes on, the address is aligned; registers are written one at a time; and COIL.BEGIN alone
opens a level, where fewer than four are open. -/
theorem everyStepKeepsThreadsWellFormed : Obligations.EveryStepKeepsThreadsWellFormed :=
  fun _ _ ht h => (kept_of_step h).threadsWellFormed ht

end Sys2Proof.Machine
end

section
/-! SUPPORT. Translation through a mapping's mask: O56. -/

namespace Sys2Proof.Machine

theorem mem_maskStacks {m : BitVec 24} {i : Nat} : i ∈ maskStacks m ↔ i < 24 ∧ m.getLsbD i = true := by
  simp [maskStacks]

/-- The stacks of a mask ascend (R96). -/
theorem pairwise_maskStacks (m : BitVec 24) : (maskStacks m).Pairwise (· < ·) := List.pairwise_lt_range.filter _

/-- The ascending list of a mask's set bits is unique. -/
theorem maskStacks_eq_of_ascending {m : BitVec 24} {pos : List Nat} (hp : pos.Pairwise (· < ·))
    (hm : ∀ i, i ∈ pos ↔ i < 24 ∧ m.getLsbD i = true) : maskStacks m = pos :=
  (pairwise_maskStacks m).eq_of_mem_iff hp fun i => mem_maskStacks.trans (hm i).symm

/-- Settles O56: an ascending list of the set bits is the model's own, and a row below 4,096 does not wrap. -/
theorem rowsTranslateThroughTheMask : Obligations.RowsTranslateThroughTheMask := by
  intro m pos r stack hp hm hs hb
  have hst : pos.getD (r % pos.length) 0 = stack := by rw [List.getD_eq_getElem?_getD, hs]; rfl
  simp only [physRow, maskStacks_eq_of_ascending hp hm, hst, Nat.mod_eq_of_lt hb]

end Sys2Proof.Machine
end

section
/-! SUPPORT. Instructions in flight after a change of one of them. -/

namespace Sys2Proof.Machine

theorem findFlight_congr {fid : Nat} {s s' : State} (h : s'.flights = s.flights) : findFlight fid s' = findFlight fid s := by
  unfold findFlight
  rw [h]

/-- A changed instruction that keeps its number is found as it was changed. -/
theorem findFlight_modFlight_self {fid : Nat} {g : Flight → Flight} {s : State} {f : Flight} (h : findFlight fid s = some f)
    (hg : (g f).id = fid) : findFlight fid (modFlight fid g s) = some (g f) := by
  have key (l : List Flight) (hl : l.find? (fun f => f.id == fid) = some f) :
      (l.map (fun f => if f.id == fid then g f else f)).find? (fun f => f.id == fid) = some (g f) := by
    induction l with
    | nil => cases hl
    | cons x l ih =>
      by_cases hx : x.id = fid
      · rw [List.find?_cons_of_pos (by simpa using hx)] at hl
        cases hl
        rw [List.map_cons, if_pos (by simpa using hx), List.find?_cons_of_pos (by simpa using hg)]
      · rw [List.find?_cons_of_neg (by simpa using hx)] at hl
        rw [List.map_cons, if_neg (by simpa using hx), List.find?_cons_of_neg (by simpa using hx), ih hl]
  exact key s.flights h

/-- Two changes that make the same of an instruction that has been replaced are one change. -/
theorem modFlight_modFlight_const {fid : Nat} {g : Flight} {k k' : Flight → Flight} (h : k g = k' g) (s : State) :
    modFlight fid k (modFlight fid (fun _ => g) s) = modFlight fid k' (modFlight fid (fun _ => g) s) := by
  have key (f : Flight) : (if (if f.id == fid then g else f).id == fid then k (if f.id == fid then g else f)
        else if f.id == fid then g else f) =
      if (if f.id == fid then g else f).id == fid then k' (if f.id == fid then g else f)
        else if f.id == fid then g else f := by
    by_cases hf : f.id = fid
    · simp [hf, h]
    · simp [hf]
  unfold modFlight
  dsimp only
  rw [List.map_map, List.map_map]
  exact congrArg (fun l => { s with flights := l }) (List.map_congr_left fun f _ => key f)

/-- Nothing is found of an instruction that has left flight. -/
theorem findFlight_dropFlight_self (fid : Nat) (s : State) : findFlight fid (dropFlight fid s) = none := by
  simp [findFlight, dropFlight]

end Sys2Proof.Machine
end

section
/-! SUPPORT. Tag tests and tag waits: O40. -/

namespace Sys2Proof.Machine

/-! One test (R107, R112). -/

/-- A write takes a claim on an EMPTY row, a CLEAR read on a FULL one (Table 04.3). -/
def takesClaim (x : TagTest) (s : State) : Prop :=
  (x.kind = .write ∧ getTag s x.phys = .empty) ∨ (x.kind = .clear ∧ getTag s x.phys = .full)

/-- A KEEP read passes on a row that is FULL or claimed for reading (Table 04.3). -/
def passesUnclaimed (x : TagTest) (s : State) : Prop :=
  x.kind = .keep ∧ (getTag s x.phys = .full ∨ getTag s x.phys = .rclaim)

@[simp] theorem getTag_repairTag (p q : Nat) (s : State) : getTag (repairTag p s) q = getTag s q := by
  obtain ⟨_, _, e⟩ := repairTag_eq p s
  rw [e]
  rfl

@[simp] theorem repairTag_rows (p : Nat) (s : State) : (repairTag p s).ls.rows = s.ls.rows := by
  obtain ⟨_, _, e⟩ := repairTag_eq p s
  rw [e]

section
variable {x : TagTest} {s : State} (h : x.passed = false)
include h

theorem tagTest_of_takesClaim (ht : takesClaim x s) : tagTest x s =
    ({ x with passed := true }, setTag x.phys (if x.kind = .write then .wclaim else .rclaim) (repairTag x.phys s)) := by
  rcases ht with ⟨hk, hg⟩ | ⟨hk, hg⟩ <;> simp [tagTest, h, hk, hg]

theorem tagTest_of_passesUnclaimed (ht : passesUnclaimed x s) :
    tagTest x s = ({ x with passed := true }, repairTag x.phys s) := by
  obtain ⟨hk, hg | hg⟩ := ht <;> simp [tagTest, h, hk, hg]

theorem tagTest_of_fails (h1 : ¬ takesClaim x s) (h2 : ¬ passesUnclaimed x s) : tagTest x s = (x, repairTag x.phys s) := by
  simp only [tagTest, h, Bool.false_eq_true, if_false, getTag_repairTag]
  split
  · next hk hg => exact absurd (.inl ⟨hk, hg⟩) h1
  · next hk hg => exact absurd ⟨hk, .inl hg⟩ h2
  · next hk hg => exact absurd ⟨hk, .inr hg⟩ h2
  · next hk hg => exact absurd (.inr ⟨hk, hg⟩) h1
  · rfl

end

/-- A test that takes no claim leaves every tag as it was. -/
theorem tagTest_of_not_takesClaim {x : TagTest} {s : State} (h : x.passed = false) (hn : ¬ takesClaim x s) :
    (tagTest x s).2 = repairTag x.phys s := by
  by_cases hp : passesUnclaimed x s
  · rw [tagTest_of_passesUnclaimed h hp]
  · rw [tagTest_of_fails h hn hp]

theorem tagTest_passed_iff {x : TagTest} {s : State} (h : x.passed = false) :
    (tagTest x s).1.passed = true ↔ takesClaim x s ∨ passesUnclaimed x s := by
  by_cases ht : takesClaim x s
  · simp [tagTest_of_takesClaim h ht, ht]
  · by_cases hp : passesUnclaimed x s
    · simp [tagTest_of_passesUnclaimed h hp, hp]
    · simp [tagTest_of_fails h ht hp, ht, hp, h]

/-- A claim is not the tag that an unlisted row reads as, so it leaves the other tags of any state alone. -/
theorem getTag_setTag_claim_ne {p q : Nat} {g : Tag} (s : State) (hg : g ≠ .empty) (hq : q ≠ p) :
    getTag (setTag p g s) q = getTag s q := by
  unfold getTag setTag
  rw [Sparse.set, if_neg hg, Sparse.get_put_ne _ _ _ hq]

theorem tagTest_phys (x : TagTest) (s : State) : (tagTest x s).1.phys = x.phys := by
  unfold tagTest
  dsimp only
  repeat' split
  all_goals rfl

/-- A copy of a tag that disagrees is repaired and counted (R112). -/
theorem counter_repairTag (p : Nat) (s : State) : counter (repairTag p s) cntTagCorr =
    if s.upsets.tags.contains p then min (2 ^ 48 - 1) (counter s cntTagCorr + 1) else counter s cntTagCorr := by
  unfold repairTag
  split
  · exact counter_bump_self _ _ _ (Nat.succ_pos _)
  · rfl

/-- The claim that a test takes. -/
theorem claim_ne_empty (k : TestKind) : (if k = .write then Tag.wclaim else Tag.rclaim) ≠ .empty := by split <;> decide

/-- What a test leaves: the tag of its row where it takes no claim, every other tag, the rows, and TAG_CORR with the repair
counted. -/
theorem tagTest_leaves {x : TagTest} {s : State} (h : x.passed = false) :
    (¬ takesClaim x s → getTag (tagTest x s).2 x.phys = getTag s x.phys) ∧
      (∀ p, p ≠ x.phys → getTag (tagTest x s).2 p = getTag s p) ∧ (tagTest x s).2.ls.rows = s.ls.rows ∧
      counter (tagTest x s).2 cntTagCorr = counter (repairTag x.phys s) cntTagCorr := by
  by_cases ht : takesClaim x s
  · rw [tagTest_of_takesClaim h ht]
    refine ⟨fun hn => absurd ht hn, fun p hp => ?_, repairTag_rows _ _, rfl⟩
    rw [getTag_setTag_claim_ne _ (claim_ne_empty x.kind) hp, getTag_repairTag]
  · rw [tagTest_of_not_takesClaim h ht]
    exact ⟨fun _ => getTag_repairTag _ _ _, fun p _ => getTag_repairTag _ _ _, repairTag_rows _ _, rfl⟩

/-! A cycle of tests (R66, R109). -/

/-- Tag tests leave the instructions in flight and the round of the local store alone. -/
theorem runTests_leaves (xs : List TagTest) (s : State) :
    (runTests xs s).2.flights = s.flights ∧ (runTests xs s).2.ls.round = s.ls.round := by
  have one (x : TagTest) (s : State) : (tagTest x s).2.flights = s.flights ∧ (tagTest x s).2.ls.round = s.ls.round := by
    obtain ⟨_, _, e | ⟨g, -, e⟩⟩ := tagTest_cases x s <;> rw [e] <;> exact ⟨rfl, rfl⟩
  induction xs generalizing s with
  | nil => exact ⟨rfl, rfl⟩
  | cons x xs ih =>
    obtain ⟨hf, hr⟩ := ih (tagTest x s).2
    exact ⟨hf.trans (one x s).1, hr.trans (one x s).2⟩

theorem testCycle_leaves (f : Flight) (s : State) :
    (testCycle f s).2.flights = s.flights ∧ (testCycle f s).2.ls.round = s.ls.round := runTests_leaves _ _

/-- An instruction with no header row to be judged waits where it has neither begun nor faulted and a test has not passed (R66). -/
theorem waitsOnTags_iff {f : Flight} (h : unjudged f = false) :
    waitsOnTags f = true ↔ f.begun = false ∧ f.faulted = none ∧ allPassed f = false := by
  simp [waitsOnTags, h, and_assoc]

theorem not_allPassed_of_testFailed {f : Flight} (h : testFailed f = true) : allPassed f = false := by
  obtain ⟨x, hx, hp⟩ := List.any_eq_true.1 h
  refine List.all_eq_false.2 ⟨x, List.mem_of_mem_take hx, by simpa using hp⟩

section
variable {f : Flight} {s : State} (hf : findFlight f.id s = some f) (hu : unjudged f = false)
include hf hu

/-- A cycle of tests of an instruction in flight puts its tests in it and goes on by what they came to. -/
theorem waitTick_eq : waitTick f.id s =
    afterTests (testCycle f s).1 (modFlight f.id (fun _ => (testCycle f s).1) (testCycle f s).2) := by
  have hg : findFlight f.id (modFlight f.id (fun _ => (testCycle f s).1) (testCycle f s).2) = some (testCycle f s).1 :=
    findFlight_modFlight_self ((findFlight_congr (testCycle_leaves f s).1).trans hf) rfl
  have hj (t : State) : judgeNow (testCycle f s).1 t = t := by
    have hu' : unjudged (testCycle f s).1 = false := hu
    unfold judgeNow
    split
    · rw [hu']; rfl
    · rfl
  unfold waitTick
  rw [hf]
  dsimp only
  rw [hj, hg]

/-- While a test fails, the wait counts (R109, R111). -/
theorem waitTick_of_failed (hw : waitsOnTags f = true) (ht : testFailed (testCycle f s).1 = true) : waitTick f.id s =
    modFlight f.id (fun g => { g with tagWait := g.tagWait + 1 })
      (modFlight f.id (fun _ => (testCycle f s).1) (testCycle f s).2) := by
  obtain ⟨hb, hn, -⟩ := (waitsOnTags_iff hu).1 hw
  have hw' : waitsOnTags (testCycle f s).1 = true :=
    (waitsOnTags_iff (f := (testCycle f s).1) hu).2 ⟨hb, hn, not_allPassed_of_testFailed ht⟩
  rw [waitTick_eq hf hu, afterTests, if_pos hw']
  refine modFlight_modFlight_const (fid := f.id) ?_ _
  rw [ht]
  rfl

/-- Once all tests pass, the accesses begin with the next cycle (R66, R109). -/
theorem waitTick_of_passed (ht : allPassed (testCycle f s).1 = true) :
    let g := (testCycle f s).1
    let begun := { g with notBefore := max g.notBefore (s.ls.round + 1) }
    waitTick f.id s = startFlight begun (modThread f.thread (fun th =>
      { th with nextIssue := max th.nextIssue (s.ls.round + 1) })
        (modFlight f.id (fun _ => begun) (modFlight f.id (fun _ => g) (testCycle f s).2))) := by
  intro g begun
  have hw : ¬ waitsOnTags g = true := fun h => by
    obtain ⟨-, -, hn⟩ := (waitsOnTags_iff (f := g) hu).1 h
    rw [ht] at hn
    cases hn
  obtain ⟨hfl, hr⟩ := testCycle_leaves f s
  have hb : modFlight f.id (fun h => { h with notBefore := max h.notBefore (s.ls.round + 1) })
        (modFlight f.id (fun _ => g) (testCycle f s).2) =
      modFlight f.id (fun _ => begun) (modFlight f.id (fun _ => g) (testCycle f s).2) := by
    refine modFlight_modFlight_const ?_ _
    rfl
  have hg : findFlight f.id (modFlight f.id (fun _ => begun) (modFlight f.id (fun _ => g) (testCycle f s).2)) = some begun :=
    findFlight_modFlight_self (findFlight_modFlight_self ((findFlight_congr hfl).trans hf) rfl) rfl
  have hid : g.id = f.id := rfl
  have hthread : g.thread = f.thread := rfl
  rw [waitTick_eq hf hu, afterTests, if_neg hw]
  dsimp only
  rw [modFlight_ls, hr, hid, hthread, hb, findFlight_congr (modThread_flights _ _ _), hg]

end

/-! The events of a tag wait (R66, R109, R111). -/

theorem passLull_ls (s : State) : (passLull s).ls = s.ls := by
  obtain ⟨_, _, _, _, _, e⟩ := passLull_eq s
  rw [e]
  rfl

theorem tagWaiting_of_waits {f : Flight} {s : State} (hf : findFlight f.id s = some f) (hw : waitsOnTags f = true) :
    tagWaiting f.id s = some f := by
  rw [tagWaiting, hf]
  exact if_pos hw

/-- The cycles that TAG_TEST_PASS lets pass: those of the lull, and up to two more until the instruction waits no longer. -/
theorem tagTestStep_of_waits {f : Flight} {s : State} (hf : findFlight f.id s = some f) (hw : waitsOnTags f = true) :
    tagTestStep f.id s = if (tagWaiting f.id (passUntil (fun s => (tagWaiting f.id s).isNone) 2 (passLull s))).isNone
      then some (passUntil (fun s => (tagWaiting f.id s).isNone) 2 (passLull s)) else none := by
  rw [tagTestStep, tagWaiting_of_waits hf hw]

/-- A wait beyond its limit faults: its thread's issue faults, where it issues, or else its execution (R111). -/
theorem tagTimeoutStep_of_exceeded {f : Flight} {s : State} (hf : findFlight f.id s = some f) (hw : waitsOnTags f = true)
    (hg : gated f s = false) (h0 : s.ls.waitLimit ≠ 0) (hl : s.ls.waitLimit.toNat < f.tagWait) (ht : testFailed f = true) :
    tagTimeoutStep f.id s =
      if (getThread f.thread s).phase = .normal ∧ (getThread f.thread s).stopped = false ∧
          (getThread f.thread s).paused = false then
        some (issueFault f.thread fcTagTimeout (timeoutDetail f) (unissue f (releaseTests f.tests (passLull s))))
      else some (execFault f.id fcTagTimeout (timeoutDetail f) (passLull s)) := by
  obtain ⟨-, -, hfl, -⟩ := passLull_holds s
  obtain ⟨hrun, -⟩ := passLull_control s
  have hw' : tagWaiting f.id (passLull s) = some f := tagWaiting_of_waits ((findFlight_congr hfl).trans hf) hw
  have hc : (gated f (passLull s) || (passLull s).ls.waitLimit == 0 ||
      decide (f.tagWait < (passLull s).ls.waitLimit.toNat + 1) || !testFailed f) = false := by
    have hg' : gated f (passLull s) = false := by rw [gated, hrun]; exact hg
    rw [hg', passLull_ls, ht, beq_eq_false_iff_ne.2 h0, decide_eq_false (by omega)]
    rfl
  unfold tagTimeoutStep
  simp only [hw', hc, getThread_passLull, Bool.not_eq_true', Bool.false_eq_true, if_false]

/-- Settles O40: a test is decided by its kind and the tag of its row; an instruction that waits finds itself in flight again
with the tests of the cycle, and goes on by what they came to. -/
theorem tagTestsAndWaits : Obligations.TagTestsAndWaits := by
  refine ⟨fun x s hx => ?_, fun f s hf hw hu => ?_⟩
  · intro g r took
    obtain ⟨hself, hother, hrows, hcount⟩ := tagTest_leaves (s := s) hx
    refine ⟨tagTest_passed_iff hx, fun ht => ?_, hself, hother, hrows, tagTest_phys x s, hcount.trans (counter_repairTag _ _)⟩
    rw [show r = _ from tagTest_of_takesClaim hx ht]
    exact getTag_setTag_claim _ _ (claim_ne_empty x.kind)
  · intro g s1 begun u
    refine ⟨waitTick_of_failed hf hu hw, waitTick_of_passed hf hu, fun hn => ?_, fun hg h0 hl ht => ?_⟩
    · change Host.Outcome.next ((tagTestStep f.id s).getD s) = _
      rw [tagTestStep_of_waits hf hw, if_pos hn]
      rfl
    · intro fault th
      have hs := tagTimeoutStep_of_exceeded hf hw hg h0 hl ht
      refine ⟨fun hp hst hpa => ?_, fun hno => ?_⟩
      · change Host.Outcome.next ((tagTimeoutStep f.id s).getD s) = _
        rw [hs, if_pos ⟨hp, hst, hpa⟩]
        rfl
      · change Host.Outcome.next ((tagTimeoutStep f.id s).getD s) = _
        have hno' : ¬ (th.phase = .normal ∧ th.stopped = false ∧ th.paused = false) := by
          rintro ⟨hp, hst, hpa⟩
          rcases hno with h | h | h
          · exact h hp
          · exact absurd (hst.symm.trans h) (by decide)
          · exact absurd (hpa.symm.trans h) (by decide)
        rw [hs, if_neg hno']
        rfl

end Sys2Proof.Machine
end

section
/-! SUPPORT. Reads of the local store, their returns, and completion: O21 and O41. -/

namespace Sys2Proof.Machine

/-! LS.RD commits its rows (R208). -/

theorem removePopped_eq (fid : Nat) (s : State) : ∃ q, removePopped fid s = { s with queues := q } := by
  unfold removePopped
  dsimp only
  split <;> exact ⟨_, rfl⟩

/-- The bytes of the rows that an LS.RD has read, in SDM at its address. -/
def rowsWritten (a : LsArgs) (f : Flight) (s : State) : State := sdmWrite (snapReg f a.sa).toNat (gotRows f).flatten s

section
variable {a : LsArgs} {f : Flight} (h : f.commit = Commit.empty) (s : State)
include h

/-- An LS.RD commits its bytes of SDM, gives its queue entries back, and counts no numeric event. -/
theorem finishLsRd_eq : finishLsRd a f s =
    if f.tensor then commitNstat f.thread f.snap.first Commit.empty.nstat (removePopped f.id (rowsWritten a f s))
    else removePopped f.id (rowsWritten a f s) := by
  unfold finishLsRd commitAll
  rw [h]
  rfl

/-- The commit of an LS.RD changes SDM, and leaves the local store, the tiles and the registers alone. -/
theorem finishLsRd_leaves : (finishLsRd a f s).sdm = (rowsWritten a f s).sdm ∧ (finishLsRd a f s).ls = s.ls ∧
    (finishLsRd a f s).tiles = s.tiles ∧ ∀ t r, sreg t r (finishLsRd a f s) = sreg t r s := by
  obtain ⟨q, e⟩ := removePopped_eq f.id (rowsWritten a f s)
  have hreg (t : Thread) (r : Reg) : sreg t r (removePopped f.id (rowsWritten a f s)) = sreg t r s := by
    rw [e]
    cases t <;> rfl
  rw [finishLsRd_eq h]
  split
  · refine ⟨?_, ?_, ?_, fun t r => (sreg_commitNstat f.thread t r _ _ _).trans (hreg t r)⟩
    · simp only [commitNstat, bump_sdm, modThread_sdm, e]
    · simp only [commitNstat, bump_ls, modThread_ls, e]
      rfl
    · simp only [commitNstat, bump_tiles, modThread_tiles, e]
      rfl
  · refine ⟨?_, ?_, ?_, hreg⟩ <;> rw [e] <;> rfl

end

theorem commitFlight_lsRd {f : Flight} {t : Thread} {a : LsArgs} (h : f.instr = .lsRd t a) (s : State) :
    commitFlight f s = finishLsRd a f s := by
  unfold commitFlight
  rw [h]

/-- Settles O41: the cycles before the event bring what it waits for, and the event does the rest. -/
theorem readsReturnAndInstructionsComplete : Obligations.ReadsReturnAndInstructionsComplete := by
  refine ⟨fun f d ds s u hr hf hn hg hd => ?_, fun f s u hr hf hdone hg => ?_⟩
  · intro rest
    have hdue : ¬ u.ls.round < d.ready := by
      have := goal_of_reach hr
      rw [readDue, hf] at this
      simp only [hd, decide_eq_true_eq] at this
      exact Nat.not_lt.2 this
    have hstep : exec (.lsReadReturn f.id) s = .next ((readReturnStep f.id u).getD s) := by
      change Host.Outcome.next ((returnStep f.id s).getD s) = _
      rw [returnStep, hr]
      rfl
    have hlive : (f.faulted.isSome || gated f u) = false := by rw [hn, hg]; rfl
    refine ⟨fun hb => ?_, fun w hb => ?_⟩
    all_goals
      rw [hstep, readReturnStep, hf]
      simp only [hlive, hd, if_neg hdue, hb]
      rfl
  · have hstep : exec (.tensorCompletion f.id) s = .next (dropFlight f.id (commitFlight f u)) := by
      have hc : completeStep f.id u = some (dropFlight f.id (commitFlight f u)) := by
        rw [completeStep, hf]
        exact if_pos (by rw [hdone, hg]; rfl)
      change Host.Outcome.next ((finishStep f.id s).getD s) = _
      rw [finishStep, hr, Option.bind_some, hc]
      rfl
    refine ⟨hstep, fun a hi hc hm => ⟨_, hstep, findFlight_dropFlight_self _ _, ?_⟩⟩
    obtain ⟨hsdm, hls, htiles, hregs⟩ := finishLsRd_leaves (a := a) hc u
    have hwf : Mem.wf u.sdm = true := hm.1
    rw [commitFlight_lsRd hi]
    simp only [dropFlight_sdm, dropFlight_ls, dropFlight_tiles, hsdm]
    exact ⟨Mem.readBytes_writeBytes _ _ _ hwf, fun b hb => read_sdmWrite_ne _ _ hm hb, hls, htiles, hregs⟩

/-! A scheduled read (R96, R100, R107, R113). -/

/-- What a row's read leaves to return. -/
def dueRead (s : State) (a : Access) (act : ReturnAct) : DueRead :=
  { phys := a.phys, rel := a.rel, data := readRow s a.phys, bad := rowBad s a.phys, ready := s.ls.round + 6, act := act }

/-- A sampled row is due for its instruction; one that is corrected costs three lull cycles and is counted (R113). -/
theorem sampleRow_eq (fid : Nat) (a : Access) (act : ReturnAct) (s : State) : ∃ cs c l, sampleRow fid a act s =
    { modFlight fid (fun f => { f with due := f.due ++ [dueRead s a act] }) s with
      counters := cs
      clk := { s.clk with lull := s.clk.lull + if rowCorrectable s a.phys then 3 else 0 }
      ls := { s.ls with corrLast := c, rewrites := l } } := by
  have hc : rowCorrectable (modFlight fid (fun f => { f with due := f.due ++ [dueRead s a act] }) s) a.phys =
      rowCorrectable s a.phys := rfl
  change ∃ cs c l, (if rowCorrectable (modFlight fid (fun f => { f with due := f.due ++ [dueRead s a act] }) s) a.phys
    then _ else _) = _
  rw [hc]
  split
  · exact ⟨_, _, _, rfl⟩
  · exact ⟨s.counters, s.ls.corrLast, s.ls.rewrites, rfl⟩

/-- What an instruction has read. -/
def gotRead (s : State) (a : Access) (g : Flight) : Flight := { g with got := g.got ++ [(readRow s a.phys, rowBad s a.phys)] }

/-- What a scheduled read moves: its instruction, what a correction counts, and the tag of its row with CLEAR (R107). -/
theorem readStep_read {f : Flight} {a : Access} {clear : Bool} {act : ReturnAct} (h : a.op = .read clear act) (s : State) :
    ∃ cs c l, readStep f a s =
      { modFlight f.id (fun g => { g with due := g.due ++ [dueRead s a act] }) (modFlight f.id (gotRead s a) s) with
        counters := cs
        clk := { s.clk with lull := s.clk.lull + if rowCorrectable s a.phys then 3 else 0 }
        ls := { s.ls with
          corrLast := c, rewrites := l
          tags := if clear then Sparse.set .empty s.ls.tags a.phys .empty else s.ls.tags } } := by
  obtain ⟨cs, c, l, e⟩ := sampleRow_eq f.id a act (modFlight f.id (gotRead s a) s)
  have hr : readStep f a s = if clear then setTag a.phys .empty (sampleRow f.id a act (modFlight f.id (gotRead s a) s))
      else sampleRow f.id a act (modFlight f.id (gotRead s a) s) := by
    unfold readStep
    rw [h]
    rfl
  refine ⟨cs, c, l, ?_⟩
  rw [hr, e]
  cases clear <;> rfl

/-- The rows that an LS.RD has read are what its completion writes to SDM (R208). -/
theorem completeStep_lsRd {f : Flight} {t : Thread} {a : LsArgs} {s : State} (hf : findFlight f.id s = some f)
    (hi : f.instr = .lsRd t a) (hc : f.commit = Commit.empty) : completeStep f.id s = none ∨
      ∃ s', completeStep f.id s = some s' ∧ s'.sdm = (rowsWritten a f s).sdm := by
  rw [completeStep, hf]
  by_cases hd : (isDone f s && !gated f s) = true
  · refine .inr ⟨_, if_pos hd, ?_⟩
    rw [dropFlight_sdm, commitFlight_lsRd hi]
    exact (finishLsRd_leaves hc s).1
  · exact .inl (if_neg hd)

/-- Settles O21: a read changes its instruction, the tag of its row with CLEAR, and what a correction counts. -/
theorem localStoreReadTakesRows : Obligations.LocalStoreReadTakesRows := by
  intro f a clear act s ha hf hm s'
  obtain ⟨cs, c, l, e⟩ := readStep_read (f := f) ha s
  change s' = _ at e
  rw [e]
  refine ⟨findFlight_modFlight_self (findFlight_modFlight_self (g := gotRead s a) hf rfl) rfl, rfl, rfl, rfl, rfl,
    fun u q => by cases u <;> rfl, fun p => ?_, rfl, fun b hi hc => completeStep_lsRd hf hi hc⟩
  obtain ⟨-, -, htags, -⟩ := hm
  change Sparse.get .empty (if clear then Sparse.set .empty s.ls.tags a.phys .empty else s.ls.tags) p = _
  cases clear
  · rfl
  · by_cases hp : p = a.phys
    · simp [hp, Sparse.get_set_self _ _ _ _ htags]
    · simp [hp, Sparse.get_set_ne _ _ _ htags hp, getTag]

end Sys2Proof.Machine
end

section
/-! SUPPORT. The boundary port: O32. -/

namespace Sys2Proof.Machine
open Claims

/-- The row of a boundary write in the local store, and the tag of a TAGGED one (Table 04.3). -/
def rowPut (b : BAccess) (row : Bytes) (s : State) : State :=
  if b.tagged then setTag b.phys .full (writeRow b.phys row s) else writeRow b.phys row s

theorem xferRowDone_ls (s : State) : (xferRowDone s).ls = s.ls := by
  unfold xferRowDone
  split
  · rfl
  · dsimp only
    split
    · rfl
    · rw [cmdOk_ls]
      split <;> rfl

/-- What a boundary write does beside its row and tag leaves the local store alone. -/
theorem boundaryWrite_ls (b : BAccess) (row : Bytes) (s : State) : (boundaryWrite b row s).ls = (rowPut b row s).ls := by
  have hbuf (t : State) : (match b.buffer with
      | some p => freeFlits p 18 t
      | none => t).ls = t.ls := by
    split
    · exact modPort_ls _ _ _
    · rfl
  unfold boundaryWrite
  dsimp only
  split
  · exact hbuf _
  · exact hbuf _
  · exact (xferRowDone_ls _).trans (hbuf _)
  · exact hbuf _

theorem readRow_congr {s s' : State} (h : s'.ls = s.ls) (p : Nat) : readRow s' p = readRow s p := by
  unfold readRow
  rw [h]

theorem getTag_congr {s s' : State} (h : s'.ls = s.ls) (p : Nat) : getTag s' p = getTag s p := by
  unfold getTag
  rw [h]

section
variable (b : BAccess) (row : Bytes) {s : State} (h : memoriesCanonical s)

theorem readRow_rowPut (k : Nat) : readRow (rowPut b row s) k = readRow (writeRow b.phys row s) k := by
  unfold rowPut
  split <;> rfl

include h

theorem getTag_rowPut_self (ht : b.tagged = true) : getTag (rowPut b row s) b.phys = .full := by
  rw [rowPut, if_pos ht]
  exact getTag_setTag_self _ _ (memoriesCanonical_writeRow _ _ h)

theorem getTag_rowPut_ne {k : Nat} (hk : k ≠ b.phys) : getTag (rowPut b row s) k = getTag s k := by
  unfold rowPut
  split
  · exact getTag_setTag_ne _ (memoriesCanonical_writeRow _ _ h) hk
  · rfl

end

/-- Settles O32: the oldest access is performed in the state that the cycles before it reach, and what a write does beside its
row and tag touches no row and no tag. -/
theorem boundaryAccessesInOrder : Obligations.BoundaryAccessesInOrder := by
  intro b bs s u hr hb s1
  have hstep : exec .boundaryAccess s = .next (match b.row with
      | some row => boundaryWrite b row s1
      | none => boundaryRead b s1) := by
    change Host.Outcome.next ((boundaryTurn s).getD s) = _
    rw [boundaryTurn, hr, Option.bind_some]
    simp only [hb, Option.getD_some, boundaryStep]
    rfl
  refine ⟨rfl, fun row hrow => ⟨by rw [hstep, hrow], fun hm => ?_⟩, fun hrow => by rw [hstep, hrow]⟩
  have hm1 : memoriesCanonical s1 := hm
  have hls := boundaryWrite_ls b row s1
  refine ⟨?_, fun ht => ?_, fun k hk => ⟨?_, ?_⟩⟩
  · rw [readRow_congr hls, readRow_rowPut, readRow_writeRow_self _ _ hm1]
  · rw [getTag_congr hls, getTag_rowPut_self b row hm1 ht]
  · rw [readRow_congr hls, readRow_rowPut, readRow_writeRow_ne _ hm1 hk]
    rfl
  · rw [getTag_congr hls, getTag_rowPut_ne b row hm1 hk]
    rfl

end Sys2Proof.Machine
end

section
/-! SUPPORT. Checks at issue that pass, or fail in their first operand. -/

namespace Sys2Proof.Machine
open Claims

@[simp] theorem onlyThread_self (t : Thread) : onlyThread t t = .ok () := by cases t <;> rfl

theorem regsReady_of_free {t : Thread} {rs : List Reg} {s : State} (h : free t rs s) : regsReady t rs s = .ok () := by
  have h' : regsHeld t rs s = false := h
  simp [regsReady, need, h']

/-- No operand is out of range. -/
theorem paramsOk_of_all {l : List (Bool × Nat)} (h : ∀ p ∈ l, p.1 = true) : paramsOk l = .ok () := by
  have hl : l.filter (fun p => !p.1) = [] := List.filter_eq_nil_iff.2 fun p hp => by simp [h p hp]
  rw [paramsOk, hl]
  rfl

/-- Position 0 is the first, whatever else is out of range (R127, R420). -/
theorem paramsOk_of_first (l : List (Bool × Nat)) : paramsOk ((false, 0) :: l) = .error (paramRange 0) := by
  have hmin (xs : List Nat) : xs.foldl min 0 = 0 := by
    induction xs with
    | nil => rfl
    | cons x xs ih => rw [List.foldl_cons, Nat.zero_min, ih]
  simp [paramsOk, least, hmin]

theorem rsOk_of_lt {v : Word64} (h : v.toNat < 98304) : rsOk v = true := decide_eq_true h

end Sys2Proof.Machine
end

section
/-! SUPPORT. Tags set together: O22. -/

namespace Sys2Proof.Machine
open Claims

/-- The rows of an LS.TAG's range. -/
def tagRows (x : Xlate) (rels : List Int) : List Nat := rels.map (fun r => physRow x.map r.toNat)

/-- No row of a list is claimed. -/
def unclaimed (s : State) (rows : List Nat) : Bool := rows.all (fun p => getTag s p == .empty || getTag s p == .full)

/-- A tag set, after the repair of its copies (R110, R112). -/
def setRepaired (g : Tag) (s : State) (p : Nat) : State := setTag p g (repairTag p s)

section
variable {a : LsTagArgs} {s : State} (hf : free .ta [a.rs, a.n] s)
include hf

/-- An UNTAGGED handle is out of range, before any other check of the operands (R420). -/
theorem issueLsTag_of_untagged (h1 : (getHandle s a.h).state ≠ .free) (h2 : (getHandle s a.h).tagged = false) :
    issueLsTag .ta a s = .fault fcParam 0 := by
  have hp : ((getHandle s a.h).state == .free || (getHandle s a.h).tagged) = false := by simp [h1, h2]
  simp only [issueLsTag, onlyThread_self, ok_bind, regsReady_of_free hf, hp, paramsOk_of_first, error_bind, verdict_error]
  rfl

/-- With its operands in range and its handle in order, LS.TAG sets the tags of its rows where none is claimed, and else
waits. -/
theorem issueLsTag_of_range {x : Xlate} (ht : (getHandle s a.h).tagged = true) (hr : (sreg .ta a.rs s).toNat < 98304)
    (h1 : 1 ≤ (sreg .ta a.n s).toNat) (h2 : (sreg .ta a.n s).toNat ≤ 98304)
    (hx : checkHandle .ta a.h .wr (strided (sreg .ta a.rs s).toNat (sreg .ta a.n s).toNat 1) s = .ok x) :
    let rows := tagRows x (strided (sreg .ta a.rs s).toNat (sreg .ta a.n s).toNat 1)
    issueLsTag .ta a s = if unclaimed s rows then
      .go (rows.foldl (setRepaired (if a.full then .full else .empty)) s) else .wait .earlier := by
  intro rows
  have hp : paramsOk [((getHandle s a.h).state == .free || (getHandle s a.h).tagged, 0), (rsOk (sreg .ta a.rs s), 1),
      (decide (1 ≤ (sreg .ta a.n s).toNat) && decide ((sreg .ta a.n s).toNat ≤ 98304), 2)] = .ok () :=
    paramsOk_of_all (by simp [ht, rsOk_of_lt hr, h1, h2])
  have hi : issueLsTag .ta a s = verdict (need (unclaimed s rows) (.wait .earlier) >>= fun _ =>
      pure (.go (rows.foldl (setRepaired (if a.full then .full else .empty)) s))) := by
    simp only [issueLsTag, onlyThread_self, ok_bind, regsReady_of_free hf, hp, hx]
    rfl
  rw [hi]
  cases hu : unclaimed s rows <;> rfl

end

/-- What a run of tags set leaves of a canonical state: the tags of its rows, every other tag, and what a tag is not part of. -/
theorem foldl_setRepaired (g : Tag) (rows : List Nat) {s : State} (h : memoriesCanonical s) :
    let t := rows.foldl (setRepaired g) s
    (∀ p, getTag t p = if p ∈ rows then g else getTag s p) ∧ holdings t = holdings s ∧ ∀ u, getThread u t = getThread u s := by
  induction rows generalizing s with
  | nil => exact ⟨fun p => by simp, rfl, fun u => rfl⟩
  | cons q rows ih =>
    have hq : memoriesCanonical (repairTag q s) := memoriesCanonical_repairTag q h
    obtain ⟨htag, hhold, hthread⟩ := ih (s := setRepaired g s q) (memoriesCanonical_setTag q g hq)
    obtain ⟨_, _, e⟩ := repairTag_eq q s
    refine ⟨fun p => ?_, ?_, fun u => ?_⟩
    · rw [List.foldl_cons, htag p]
      by_cases hp : p ∈ rows
      · simp [hp]
      · by_cases hpq : p = q
        · subst hpq
          simp [hp, setRepaired, getTag_setTag_self _ _ hq]
        · simp [hp, hpq, setRepaired, getTag_setTag_ne g hq hpq]
    · rw [List.foldl_cons, hhold, setRepaired, e]
      rfl
    · rw [List.foldl_cons, hthread, setRepaired, e]
      cases u <;> rfl

/-- The state that an instruction sees is canonical where the state before it was. -/
theorem memoriesCanonical_seen {t : Thread} {n : Nat} {s : State} (h : memoriesCanonical s) : memoriesCanonical (seen t n s) := by
  have hk : Kept s (fetched t n s) := kept_fetch (kept_settle (.refl s))
  obtain ⟨m, b, e⟩ := firstView_eq t (fetched t n s)
  rw [seen, e]
  exact memoriesCanonical_congr (hk.memoriesCanonical h) (by simp) (by simp) (by simp) (by simp) (by simp) (by simp)

theorem getTag_goesOn (t : Thread) (n : Nat) (old s : State) (p : Nat) :
    getTag (advance t n (liveView t old s)) p = getTag s p := by
  refine getTag_congr ?_ p
  unfold liveView advance
  split <;> simp

/-- Settles O22: the tags of the range are set one by one in one step, and the rows of a range that is claimed are left alone. -/
theorem tagsAreSetTogether : Obligations.TagsAreSetTogether := by
  intro a x s h hm v n rels rows g hf
  have hmv : memoriesCanonical v := memoriesCanonical_seen hm
  refine ⟨fun h1 h2 => faults_of_ready h (issueLsTag_of_untagged hf h1 h2), fun ht hr h1 h2 hx => ?_⟩
  have hi := issueLsTag_of_range hf ht hr h1 h2 hx
  refine ⟨fun hall => ?_, fun ⟨p, hp, hc⟩ => ?_⟩
  · have hu : unclaimed v rows = true := by simpa [unclaimed] using hall
    obtain ⟨htag, hhold, hthread⟩ := foldl_setRepaired g rows hmv
    have hout := (holdings_advance .ta 1 _).trans (holdings_liveView .ta (fetched .ta 1 s) (rows.foldl (setRepaired g) v))
    have hkept := (hout.trans hhold).trans (holdings_seen h)
    refine ⟨_, goesOn_of_ready h (hi.trans (if_pos hu)), fun p hp => ?_, fun p hp => ?_, rows_of_holdings hkept,
      sdm_of_holdings hkept, fun u q => ?_⟩
    · rw [getTag_goesOn]
      exact (htag p).trans (if_pos hp)
    · rw [getTag_goesOn]
      exact (htag p).trans (if_neg hp)
    · rw [sreg_advance]
      exact sreg_congr u q (regs_liveView h (fun u => congrArg ThreadState.regs (hthread u)) u)
  · have hu : ¬ unclaimed v rows = true := fun k => by
      have := List.all_eq_true.1 k p hp
      rcases hc with hc | hc <;> simp [hc] at this
    exact waits_of_ready h (hi.trans (if_neg hu))

end Sys2Proof.Machine
end

section
/-! SUPPORT. Tile loads and stores: O23. -/

namespace Sys2Proof.Machine
open Claims

/-! Tile loads (R105, R130 to R132). -/

/-- A TLD of the tiles `ts` at its issue, with the distance `d` between its rows. -/
def tldFlight (i : Instr) (a : TileMoveArgs) (ts : List Nat) (x : Xlate) (d : Int) (s : State) : Flight :=
  let fm := tileFmt s (ts.headD 0)
  let segs := tileSegs s ts 0
  let r0 := (sreg .ta a.rs s).toNat
  let all := tldRows fm (strided r0 (rowCount a.n1) d)
  { newFlight .ta i .sequencer s with
    tileOp := true, wrTiles := tileMask ts, xl := [x], tests := testsFor x (readKind a.clear) all
    acts := tldPlan x a.port a.clear fm segs (loadTag s x a.port r0 d segs) all 0 all }

section
variable {a : TileMoveArgs} {ts : List Nat} {s : State} (hg : tileGroup a.tg = some ts) (hf : free .ta [a.rs, a.stride] s)
  (he : engineReady .ta .sequencer s = .ok ())
include hf

/-- The registers of both forms are free where those of the strided one are. -/
theorem regsReady_of_form (isStrided : Bool) :
    regsReady .ta (if isStrided then [a.rs, a.stride] else [a.rs]) s = .ok () := by
  refine regsReady_of_free (free_of_subset hf ?_)
  cases isStrided <;> simp

include hg he

/-- TLD and TLD.S whose checks all pass enter flight. -/
theorem issueTld_of_checks (i : Instr) (isStrided : Bool) {x : Xlate} {d : Int}
    (hd : strideOf isStrided (sreg .ta a.stride s) = d) (ht : tilesReady 0 (tileMask ts) s = .ok ())
    (hp : tileMoveParams isStrided a 6 .ta s = .ok ())
    (hs : tileMoveShapes (strided (sreg .ta a.rs s).toNat (rowCount a.n1) d) ts s = .ok ())
    (hx : checkHandle .ta a.h .rd (tldRows (tileFmt s (ts.headD 0)) (strided (sreg .ta a.rs s).toNat (rowCount a.n1) d)) s =
      .ok x) :
    issueTld i isStrided .ta a s = .go (launched (tldFlight i a ts x d s) startPlain s) := by
  simp only [issueTld, onlyThread_self, ok_bind, hg, Option.getD_some, regsReady_of_form hf, ht, hp, he, hd, hs, hx]
  rfl

/-! Tile stores (R105, R130, R132). -/

/-- A TST of the tiles `ts` at its issue, with the distance `d` between its rows. -/
def tstFlight (i : Instr) (a : TileMoveArgs) (ts : List Nat) (x : Xlate) (d : Int) (s : State) : Flight :=
  let fm := tileFmt s (ts.headD 0)
  let segs := tileSegs s ts 0
  let rels := strided (sreg .ta a.rs s).toNat (rowCount a.n1) d
  { newFlight .ta i .sequencer s with
    tileOp := true, rdTiles := tileMask ts, xl := [x], tests := testsFor x .write (tldRows fm rels)
    rowsIn := (List.range rels.length).map (fun i =>
      fitBytes 512 (((groupStream s segs).drop (i * rowData fm)).take (rowData fm)))
    acts := tstPlan x a.port fm rels (groupScales s fm segs) }

/-- The use of its handle by a TST: the scale rows of an MX group are read too (log entry 20). -/
def tstUse (a : TileMoveArgs) (ts : List Nat) (d : Int) (s : State) : HandleUse :=
  { h := a.h, epoch := none, needs := if fmtIsMx (tileFmt s (ts.headD 0)) then [.wr, .rd] else [.wr]
    rels := tldRows (tileFmt s (ts.headD 0)) (strided (sreg .ta a.rs s).toNat (rowCount a.n1) d) }

/-- TST and TST.S whose checks all pass enter flight. -/
theorem issueTst_of_checks (i : Instr) (isStrided : Bool) {x : Xlate} {d : Int}
    (hd : strideOf isStrided (sreg .ta a.stride s) = d) (ht : tilesReady (tileMask ts) 0 s = .ok ())
    (hp : tileMoveParams isStrided a 5 .ta s = .ok ()) (hfull : tilesFull ts s = .ok ())
    (hs : tileMoveShapes (strided (sreg .ta a.rs s).toNat (rowCount a.n1) d) ts s = .ok ())
    (hx : handlesOk .ta [tstUse a ts d s] s = .ok [x]) :
    issueTst i isStrided .ta a s = .go (launched (tstFlight i a ts x d s) (startTst a) s) := by
  rw [tstUse] at hx
  simp only [issueTst, onlyThread_self, ok_bind, hg, Option.getD_some, regsReady_of_form hf, ht, hp, he, hfull, hd, hs, hx]
  rfl

end

theorem tilesFull_of_all {ts : List Nat} {s : State} (h : ∀ n ∈ ts, (tileCfg s n).full = true) : tilesFull ts s = .ok () := by
  have hn : ts.find? (fun n => !(tileCfg s n).full) = none := List.find?_eq_none.2 fun n k => by simp [h n k]
  rw [tilesFull, hn]

/-! Transposed loads (R106, R131). -/

/-- What the lines of a TLD.T write: a tile row each. -/
def tldTParts (a : TldTArgs) (ts : List Nat) (x : Xlate) (s : State) : List TilePart :=
  (tileSegs s ts 0).map (fun g =>
    { tile := g.tile, row := g.row, off := 0, start := 0, len := g.len, side := []
      xtag := loadTag s x a.port (sreg .ta a.rs s).toNat (sreg .ta a.stride s).toInt (tileSegs s ts 0) g.tile })

/-- A TLD.T at its issue. -/
def tldTFlight (a : TldTArgs) (ts : List Nat) (x : Xlate) (s : State) : Flight :=
  let rels := strided (sreg .ta a.rs s).toNat (transposedRows a.wide) (sreg .ta a.stride s).toInt
  { newFlight .ta (.tldT .ta a) .sequencer s with
    tileOp := true, wrTiles := tileMask ts, xl := [x], tests := testsFor x (readKind a.clear) rels
    acts := tldTPlan x a (tldTParts a ts x s) rels }

theorem strideOk_of_range {v : Word64} (h1 : -2048 ≤ v.toInt) (h2 : v.toInt ≤ 2047) (h0 : v.toInt ≠ 0) : strideOk v = true := by
  have hv : v ≠ 0 := fun k => h0 (by rw [k]; rfl)
  simpa [strideOk, h1, h2] using hv

section
variable {a : TldTArgs} {ts : List Nat} {x : Xlate} {s : State}

/-- The group of a TLD.T: neither MX nor INT4, of rows of 64 bytes, with as many rows as lines (R131). -/
def transposable (a : TldTArgs) (ts : List Nat) (s : State) : Prop :=
  (∀ k ∈ ts, fmtIsMx (tileFmt s k) = false ∧ tileFmt s k ≠ .int4 ∧ tileBytes (tileCfg s k) = 64) ∧
    (ts.map (fun k => tileRows (tileCfg s k))).sum = transposedRows a.wide

/-- TLD.T whose checks all pass enters flight. -/
theorem issueTldT_of_checks (hg : tileGroup a.tg = some ts) (hf : free .ta [a.rs, a.stride] s)
    (he : engineReady .ta .sequencer s = .ok ()) (ht : tilesReady 0 (tileMask ts) s = .ok ())
    (hr : (sreg .ta a.rs s).toNat < 98304) (hport : a.port ≠ s.mould.cfg.bport)
    (hd : strideOk (sreg .ta a.stride s) = true) (hts : transposable a ts s)
    (hx : checkHandle .ta a.h .rd
      (strided (sreg .ta a.rs s).toNat (transposedRows a.wide) (sreg .ta a.stride s).toInt) s = .ok x) :
    issueTldT .ta a s = .go (launched (tldTFlight a ts x s) startPlain s) := by
  obtain ⟨hall, hsum⟩ := hts
  have hfmt : ts.find? (fun n => fmtIsMx (tileFmt s n) || tileFmt s n == .int4) = none :=
    List.find?_eq_none.2 fun n k => by simp [hall n k]
  have hbytes : ts.filter (fun k => tileBytes (tileCfg s k) != 64) = [] :=
    List.filter_eq_nil_iff.2 fun n k => by simp [hall n k]
  have hparams : paramsOk [((some ts).isSome, 0), (rsOk (sreg .ta a.rs s), 2), (portOk a.port s, 4),
      (strideOk (sreg .ta a.stride s), 6)] = .ok () :=
    paramsOk_of_all (by simp [rsOk_of_lt hr, portOk, hport, hd])
  simp only [issueTldT, onlyThread_self, ok_bind, hg, Option.getD_some, regsReady_of_free hf, ht, hparams, he, hfmt, hbytes,
    hsum, beq_self_eq_true, if_true, List.append_nil, hx]
  rfl

end

/-- Settles O23: where every check passes, the issue is its launch; the two forms of a transfer are one rule. -/
theorem tileTransfersIssue : Obligations.TileTransfersIssue := by
  refine ⟨fun a b ts x s h => ?_, fun a ts x s h => ?_⟩
  · intro v fm segs he ht fl r0 loads
    refine ⟨fun hg hf => ?_, fun hg hf => ?_⟩
    · intro d
      exact ⟨fun hp hs hx => goesOn_of_ready h (issueTld_of_checks hg hf he (.tld .ta a) false rfl ht hp hs hx),
        fun hp hs hx => goesOn_of_ready h (issueTld_of_checks hg hf he (.tldS .ta a) true rfl ht hp hs hx)⟩
    · intro n d rels hr hport h1 h2 h0 hall hsum hx
      refine ⟨tldTParts b ts x v, goesOn_of_ready h (issueTldT_of_checks hg hf he ht hr hport (strideOk_of_range h1 h2 h0)
        ⟨hall, hsum⟩ hx), ?_⟩
      rw [tldTParts, List.map_map]
      rfl
  · intro v fm segs r0 d hg hf he ht hfull rels use stores
    have hfull' : tilesFull ts v = .ok () := tilesFull_of_all hfull
    exact ⟨fun hp hs hx => goesOn_of_ready h (issueTst_of_checks hg hf he (.tst .ta a) false rfl ht hp hfull' hs hx),
      fun hp hs hx => goesOn_of_ready h (issueTst_of_checks hg hf he (.tstS .ta a) true rfl ht hp hfull' hs hx)⟩

end Sys2Proof.Machine
end

section
/-! SUPPORT. Tile contexts: O24. -/

namespace Sys2Proof.Machine
open Claims

/-! The rows of a context (R137). -/

/-- A list is cut into as many pieces as its length asks for, where the fuel allows. -/
theorem chunks_length {α : Type} {n : Nat} (hn : 0 < n) (fuel : Nat) (xs : List α) :
    (chunks n fuel xs).length = min fuel ((xs.length + n - 1) / n) := by
  induction fuel generalizing xs with
  | zero => simp [chunks]
  | succ fuel ih =>
    cases xs with
    | nil => simp [chunks, Nat.div_eq_of_lt (Nat.sub_lt hn Nat.one_pos)]
    | cons x xs =>
      have hrest : xs.length / n = (xs.length + 1 - n + n - 1) / n := by
        by_cases h : n ≤ xs.length + 1
        · congr 1
          omega
        · rw [Nat.div_eq_of_lt (by omega), Nat.div_eq_of_lt (by omega)]
      have hdiv : (xs.length + 1 + n - 1) / n = (xs.length + 1 - n + n - 1) / n + 1 := by
        rw [← hrest, ← Nat.add_div_right _ hn]
        congr 1
        omega
      rw [chunks, if_neg (by simp), List.length_cons, ih, List.length_drop, List.length_cons, hdiv]
      omega

/-- Pieces of one length, put together. -/
theorem length_flatMap_of_length {α β : Type} {f : α → List β} {n : Nat} (l : List α) (h : ∀ a, (f a).length = n) :
    (l.flatMap f).length = l.length * n := by
  simp [List.length_flatMap, h]

theorem tileRow_length (s : State) (n r : Nat) : (tileRow s n r).length = 64 := by
  unfold tileRow
  split
  · exact Mem.readBytes_length _ _ _
  · exact List.length_replicate

theorem tileSide_length (s : State) (n r : Nat) : (tileSide s n r).length = 4 := by
  unfold tileSide
  split
  · exact Mem.readBytes_length _ _ _
  · exact List.length_replicate

/-- A context holds at most sixteen MX tiles. -/
theorem contextTiles_mx_length (cs : List TileCfg) : (contextTiles cs).2.length ≤ 16 :=
  calc (contextTiles cs).2.length
      ≤ (contextTiles cs).1.length := List.length_filter_le _ _
    _ ≤ (List.range 16).length := List.length_filter_le _ _
    _ = 16 := List.length_range

theorem contextRows_eq (cs : List TileCfg) :
    contextRows cs = 1 + 4 * (contextTiles cs).1.length + ((contextTiles cs).2.length + 3) / 4 := rfl

/-- The image has the header row, four rows for each full tile, and a row for each four MX tiles (R137). -/
theorem contextImage_length (s : State) : (contextImage s).length = contextRows (allCfgs s) := by
  have hdata (n : Nat) : (chunks 512 4 ((List.range 32).flatMap (fun r => tileRow s n r))).length = 4 := by
    rw [chunks_length (by decide), length_flatMap_of_length _ (tileRow_length s n), List.length_range]
    rfl
  have hside (n : Nat) : ((List.range 32).flatMap (fun r => tileSide s n r)).length = 128 := by
    rw [length_flatMap_of_length _ (tileSide_length s n), List.length_range]
  have hmx := contextTiles_mx_length (allCfgs s)
  simp only [contextImage, contextRows_eq, List.length_cons, List.length_append, List.length_map,
    chunks_length (n := 512) (by decide), length_flatMap_of_length _ hdata, length_flatMap_of_length _ hside]
  omega

theorem contextRows_pos (cs : List TileCfg) : 0 < contextRows cs := by
  rw [contextRows_eq]
  omega

/-! The issue of TCTX.SAVE and TCTX.LOAD (R137, R138). -/

/-- The operand checks of both instructions. -/
theorem paramsOk_tctx {a : TctxArgs} {s : State} (hr : (sreg .ta a.rs s).toNat < 98304) (hport : a.port ≠ s.mould.cfg.bport) :
    paramsOk [(rsOk (sreg .ta a.rs s), 1), (portOk a.port s, 2)] = .ok () :=
  paramsOk_of_all (by simp [rsOk_of_lt hr, portOk, hport])

/-- A TCTX.SAVE at its issue. -/
def tctxSaveFlight (a : TctxArgs) (x : Xlate) (s : State) : Flight :=
  let rows := contextImage s
  let rels := strided (sreg .ta a.rs s).toNat rows.length 1
  { newFlight .ta (.tctxSave .ta a) .sequencer s with
    tileOp := true, rdTiles := 0xFFFF, dests := [a.sd], xl := [x], rowsIn := rows
    tests := testsFor x .write rels, acts := writePlan x a.port rels
    commit := { Commit.empty with regs := [(a.sd, BitVec.ofNat 64 rows.length)] } }

/-- A TCTX.LOAD at its issue, with the tests and the reads that its header row gives, and its mark that the header is judged. -/
def tctxLoadFlight (a : TctxArgs) (x : Xlate) (tests : List TagTest) (acts : List (List Access)) (judged : List Word64)
    (s : State) : Flight :=
  { newFlight .ta (.tctxLoad .ta a) .sequencer s with
    tileOp := true, wrTiles := 0xFFFF, xl := [x], tests := tests, acts := acts, opv := judged }

/-- The tag test of the header row passes now. -/
def headerStands (x : Xlate) (r0 : Nat) (s : State) : Bool :=
  (runTests (testsFor x .keep [(r0 : Int)]) s).1.all (fun y => y.passed)

section
variable {a : TctxArgs} {x : Xlate} {s : State} (hf : free .ta [a.rs, a.sd] s) (hr : (sreg .ta a.rs s).toNat < 98304)
  (hport : a.port ≠ s.mould.cfg.bport) (he : engineReady .ta .sequencer s = .ok ())
include hf hr hport he

/-- TCTX.SAVE whose checks all pass enters flight. -/
theorem issueTctxSave_of_checks (ht : tilesReady 0xFFFF 0 s = .ok ())
    (hx : checkHandle .ta a.h .wr (strided (sreg .ta a.rs s).toNat (contextImage s).length 1) s = .ok x) :
    issueTctxSave .ta a s = .go (launched (tctxSaveFlight a x s) startTctxSave s) := by
  simp only [issueTctxSave, onlyThread_self, ok_bind, regsReady_of_free hf, ht, paramsOk_tctx hr hport, he, hx]
  rfl

/-- TCTX.LOAD whose checks pass judges its header row where that row passes its tag test, and else enters flight to read
it alone. -/
theorem issueTctxLoad_of_checks {r0 : Nat} (hr0 : (sreg .ta a.rs s).toNat = r0) (h0 : a.sd = 0)
    (ht : tilesReady 0 0xFFFF s = .ok ()) (hx : checkHandle .ta a.h .rd [(r0 : Int)] s = .ok x) :
    issueTctxLoad .ta a s = verdict (if headerStands x r0 s then
        contextJudged x a.port r0 s >>= fun p =>
          pure (.go (launched (tctxLoadFlight a x (testsFor x .keep [(r0 : Int)] ++ p.2) p.1 [1] s) startPlain s))
      else pure (.go (launched (tctxLoadFlight a x (testsFor x .keep [(r0 : Int)]) (contextPlan x a.port r0 []) [] s)
        startPlain s))) := by
  subst hr0
  have hf' : free .ta [a.rs] s := free_of_subset hf (by simp)
  simp only [issueTctxLoad, onlyThread_self, ok_bind, h0, beq_self_eq_true, need, if_true, regsReady_of_free hf', ht,
    paramsOk_tctx hr hport, he, hx]
  rfl

end

/-! What the header row gives (R138). -/

theorem testsFor_append (x : Xlate) (k : TestKind) (l m : List Int) :
    testsFor x k (l ++ m) = testsFor x k l ++ testsFor x k m := by
  unfold testsFor
  split <;> simp

/-- The tests of a run of rows are those of its first row and of the others. -/
theorem testsFor_strided_split (x : Xlate) (k : TestKind) (r0 : Nat) {n : Nat} (hn : 0 < n) :
    testsFor x k [(r0 : Int)] ++ testsFor x k ((strided r0 n 1).drop 1) = testsFor x k (strided r0 n 1) := by
  obtain ⟨n, rfl⟩ := Nat.exists_eq_add_one_of_ne_zero hn.ne'
  rw [← testsFor_append]
  simp [strided, List.range_succ_eq_map]

/-- A refused descriptor is the fault of its tile (R138). -/
theorem contextJudged_of_refused {x : Xlate} {port : BitVec 3} {r0 i : Nat} {s : State}
    (h : standingHeader s x r0 = .error i) :
    contextJudged x port r0 s = .error (.fault fcTcfg (BitVec.ofNat 64 i)) := by rw [contextJudged, h]

/-- Accepted descriptors whose rows lie in the mapping give the plan of all rows. -/
theorem contextJudged_of_accepted {x : Xlate} {port : BitVec 3} {r0 : Nat} {cs : List TileCfg} {s : State}
    (h : standingHeader s x r0 = .ok cs) (hn : r0 + contextRows cs ≤ x.map.count.toNat) :
    contextJudged x port r0 s =
      .ok (contextPlan x port r0 cs, testsFor x .keep ((strided r0 (contextRows cs) 1).drop 1)) := by
  have hin : (strided r0 (contextRows cs) 1).find? (fun r => decide ((x.map.count.toNat : Int) ≤ r)) = none := by
    refine List.find?_eq_none.2 fun r hr => ?_
    obtain ⟨i, hi, rfl⟩ := List.mem_map.1 hr
    have := List.mem_range.1 hi
    simp only [decide_eq_true_eq, Int.ofNat_eq_natCast]
    omega
  simp only [contextJudged, h, hin]

/-- Settles O24: where every check passes, the issue is its launch, and a TCTX.LOAD takes its rows from a header that stands. -/
theorem tileContextsIssue : Obligations.TileContextsIssue := by
  intro a x s h v r0 hf hr hport he
  refine ⟨fun ht => ?_, fun h0 ht hx => ?_⟩
  · intro rows rels hx
    exact ⟨contextImage_length v, goesOn_of_ready h (issueTctxSave_of_checks hf hr hport he ht hx)⟩
  intro header found fl
  have hi := issueTctxLoad_of_checks hf hr hport he (r0 := r0) rfl h0 ht hx
  refine ⟨fun hfound => ?_, fun hfound => goesOn_of_ready h ?_⟩
  · have hstands : headerStands x r0 v = true := hfound
    rw [if_pos hstands] at hi
    refine ⟨fun cs hcs hn => goesOn_of_ready h ?_, fun i hcs => faults_of_ready h ?_⟩
    · rw [hi, contextJudged_of_accepted hcs hn, ok_bind, verdict_pure,
        testsFor_strided_split x .keep r0 (contextRows_pos cs)]
      rfl
    · rw [hi, contextJudged_of_refused hcs, error_bind, verdict_error]
  · have hstands : headerStands x r0 v = false := hfound
    rw [hi, if_neg (ne_true_of_eq_false hstands), verdict_pure]
    rfl

end Sys2Proof.Machine
end

section
/-! SUPPORT. The vector engine, the tiles and the parity errors that an instruction sees, and those behind it. -/

namespace Sys2Proof.Machine
open Claims

/-- The vector engine and the recorded parity errors, which neither time nor a fetch moves. -/
def vectorAndParity (s : State) : VxState × List ParityLoc := (s.vx, s.upsets.parity)

theorem vectorAndParity_seen {t : Thread} {n : Nat} {s : State} (h : ready t n s) :
    vectorAndParity (seen t n s) = vectorAndParity s := by
  obtain ⟨_, _, e⟩ := firstView_eq t (fetched t n s)
  obtain ⟨_, _, _, _, _, k⟩ := spoolOnly_fetched h
  obtain ⟨_, _, _, _, _, _, _, _, l⟩ := timeOnly_settle t s
  rw [seen, e, vectorAndParity, modThread_vx, modThread_upsets, k, l]
  rfl

theorem vx_seen {t : Thread} {n : Nat} {s : State} (h : ready t n s) : (seen t n s).vx = s.vx :=
  congrArg Prod.fst (vectorAndParity_seen h)

theorem parity_seen {t : Thread} {n : Nat} {s : State} (h : ready t n s) : (seen t n s).upsets.parity = s.upsets.parity :=
  congrArg Prod.snd (vectorAndParity_seen h)

theorem vx_goesOn (t : Thread) (n : Nat) (old w : State) : (advance t n (liveView t old w)).vx = w.vx := by
  unfold liveView advance
  split <;> simp

theorem tiles_goesOn (t : Thread) (n : Nat) (old w : State) : (advance t n (liveView t old w)).tiles = w.tiles :=
  tiles_of_holdings ((holdings_advance t n _).trans (holdings_liveView t old w))

theorem tileCfg_congr {s s' : State} (h : s'.tiles = s.tiles) (k : Nat) : tileCfg s' k = tileCfg s k := by
  rw [tileCfg, tileCfg, h]

theorem tileRow_congr {s s' : State} (h : s'.tiles = s.tiles) (n r : Nat) : tileRow s' n r = tileRow s n r := by
  rw [tileRow, tileRow, tileCfg_congr h, h]

theorem tilesFull_congr {s s' : State} (h : s'.tiles = s.tiles) (ts : List Nat) : tilesFull ts s' = tilesFull ts s := by
  simp only [tilesFull, tileCfg_congr h]

/-- Whether an engine beside the MXE is present is a matter of the Mould's settings (R337). -/
theorem enginePresent_congr {s s' : State} (h : s'.mould = s.mould) {k : Nat} (hk : k ≠ 0) :
    enginePresent k s' = enginePresent k s := by
  simp [enginePresent, h, bne_iff_ne.2 hk]

/-- Where no byte has a recorded parity error, an instruction that reads no queue meets none (R348). -/
theorem meets_of_no_parity {s : State} (hp : s.upsets.parity = []) (e : Engine) {reads : ParityLoc → Bool}
    (hq : ∀ q i, reads (.queue q i) = false) : meets s e reads = none := by
  refine List.find?_eq_none.2 fun l hl => ?_
  rw [parityErrors, hp, List.nil_append, List.mem_flatMap] at hl
  obtain ⟨p, -, hl⟩ := hl
  obtain ⟨i, -, rfl⟩ := List.mem_map.1 hl
  simp [hq]

@[simp] theorem cacheRow_tiles (n r : Nat) (s : State) : (cacheRow n r s).tiles = s.tiles := by
  unfold cacheRow
  dsimp only
  split <;> rfl

@[simp] theorem cacheRow_vx (n r : Nat) (s : State) : (cacheRow n r s).vx = s.vx := by
  unfold cacheRow
  dsimp only
  split <;> rfl

end Sys2Proof.Machine
end

section
/-! SUPPORT. Tile configuration and element programs: O38. -/

namespace Sys2Proof.Machine
open Claims

/-! Masks of tiles. -/

theorem mem_tilesOf {m : BitVec 16} {i : Nat} : i ∈ tilesOf m ↔ i < 16 ∧ m.getLsbD i = true := by
  simp [tilesOf]

theorem nodup_tilesOf (m : BitVec 16) : (tilesOf m).Nodup := List.nodup_range.filter _

/-- A mask of tiles has the bits of its tiles. -/
theorem getLsbD_tileMask (ts : List Nat) (i : Nat) : (tileMask ts).getLsbD i = true ↔ i < 16 ∧ i ∈ ts := by
  have hfold (m : BitVec 16) : (ts.foldl (fun (m : BitVec 16) n => m ||| (1 <<< n)) m).getLsbD i = true ↔
      m.getLsbD i = true ∨ (i < 16 ∧ i ∈ ts) := by
    induction ts generalizing m with
    | nil => simp
    | cons n ts ih =>
      have hbit : ((1 <<< n : Nat) : BitVec 16).getLsbD i = true ↔ i < 16 ∧ i = n := by
        rw [BitVec.natCast_eq_ofNat, BitVec.getLsbD_ofNat, Nat.one_shiftLeft, Nat.testBit_two_pow,
          Bool.and_eq_true, decide_eq_true_eq, decide_eq_true_eq, eq_comm (a := n)]
      rw [List.foldl_cons, ih, BitVec.getLsbD_or, Bool.or_eq_true, hbit, List.mem_cons]
      tauto
  simpa [tileMask] using hfold 0

/-- Tiles that no instruction in flight names are named by none among fewer. -/
theorem tilesNamed_of_subset {m m' : BitVec 16} {s : State} (h : tilesNamed m s = false)
    (hsub : ∀ i, m'.getLsbD i = true → m.getLsbD i = true) : tilesNamed m' s = false := by
  refine List.any_eq_false.2 fun f hf => ?_
  have h0 : namedTiles f &&& m = 0#16 := by simpa using List.any_eq_false.1 h f hf
  have h1 : namedTiles f &&& m' = 0#16 := by
    refine BitVec.eq_of_getLsbD_eq fun i _ => ?_
    have hi : ((namedTiles f).getLsbD i && m.getLsbD i) = false := by rw [← BitVec.getLsbD_and, h0, BitVec.getLsbD_zero]
    rw [BitVec.getLsbD_and, BitVec.getLsbD_zero]
    cases hm' : m'.getLsbD i with
    | false => exact Bool.and_false _
    | true => rwa [hsub i hm'] at hi
  simp [h1]

/-! Configurations given to a list of tiles. -/

/-- From the one state to the other the tiles of a list take a configuration that follows from their own; no other tile, no
tile data and no thread changes. -/
structure Reconfigured (g : TileCfg → TileCfg) (ts : List Nat) (s s' : State) : Prop where
  canonical : memoriesCanonical s'
  cfg : ∀ k, tileCfg s' k = if k ∈ ts then g (tileCfg s k) else tileCfg s k
  data : s'.tiles.data = s.tiles.data
  thread : ∀ u, getThread u s' = getThread u s

/-- An operation on one tile, done for each tile of a list. -/
theorem reconfigured_foldl {g : TileCfg → TileCfg} {op : Nat → State → State}
    (hop : ∀ n s, memoriesCanonical s → Reconfigured g [n] s (op n s)) {ts : List Nat} (hts : ts.Nodup) {s : State}
    (h : memoriesCanonical s) : Reconfigured g ts s (ts.foldl (fun s n => op n s) s) := by
  induction ts generalizing s with
  | nil => exact ⟨h, fun k => by simp, rfl, fun u => rfl⟩
  | cons n ts ih =>
    obtain ⟨hn, hts⟩ := List.nodup_cons.1 hts
    have first := hop n s h
    have rest := ih hts first.canonical
    refine ⟨rest.canonical, fun k => ?_, rest.data.trans first.data, fun u => (rest.thread u).trans (first.thread u)⟩
    rw [List.foldl_cons, rest.cfg, first.cfg]
    by_cases hk : k = n
    · subst hk
      simp [hn]
    · simp [hk]

/-- An empty tile of the same shape (R119). -/
def emptied (c : TileCfg) : TileCfg := { c with full := false, valid := 0, xtag := XTag.none }

/-- An empty tile of a shape (R119, R122). -/
def shaped (rows1 : BitVec 5) (bytes1 : BitVec 6) (fmt : BitVec 4) (c : TileCfg) : TileCfg :=
  { emptied c with rows1 := rows1, bytes1 := bytes1, fmt := fmt }

/-- A configuration replaced, whatever becomes of the copies of the tile's rows. -/
theorem reconfigured_setTileCfg {g : TileCfg → TileCfg} {n : Nat} {s s' : State} (h : memoriesCanonical s)
    (hc : memoriesCanonical s') (htiles : s'.tiles = (setTileCfg n (g (tileCfg s n)) s).tiles)
    (hthread : ∀ u, getThread u s' = getThread u s) : Reconfigured g [n] s s' := by
  refine ⟨hc, fun k => ?_, by rw [htiles]; rfl, hthread⟩
  rw [tileCfg_congr htiles]
  by_cases hk : k = n
  · subst hk
    simp [tileCfg_setTileCfg_self _ _ h]
  · simp [hk, tileCfg_setTileCfg_ne _ h hk]

theorem reconfigured_emptyTile (n : Nat) (s : State) (h : memoriesCanonical s) :
    Reconfigured emptied [n] s (emptyTile n s) :=
  reconfigured_setTileCfg h ((kept_emptyTile (.refl s)).memoriesCanonical h) rfl fun u => by cases u <;> rfl

theorem reconfigured_configureTile (rows1 : BitVec 5) (bytes1 : BitVec 6) (fmt : BitVec 4) (n : Nat) (s : State)
    (h : memoriesCanonical s) : Reconfigured (shaped rows1 bytes1 fmt) [n] s (configureTile rows1 bytes1 fmt n s) := by
  have first := reconfigured_emptyTile n s h
  have second : Reconfigured (fun c => { c with rows1 := rows1, bytes1 := bytes1, fmt := fmt }) [n] (emptyTile n s)
      (configureTile rows1 bytes1 fmt n s) :=
    reconfigured_setTileCfg first.canonical (memoriesCanonical_setTileCfg n _ first.canonical) rfl fun u => by cases u <;> rfl
  refine ⟨second.canonical, fun k => ?_, second.data.trans first.data, fun u => (second.thread u).trans (first.thread u)⟩
  rw [second.cfg, first.cfg]
  split <;> rfl

/-- An instruction that reconfigures tiles of the state it sees has done so to the state before it; registers stay. -/
theorem goesOn_of_reconfigured {g : TileCfg → TileCfg} {ts : List Nat} {t : Thread} {n : Nat} {s w : State} (h : ready t n s)
    (hw : Reconfigured g ts (seen t n s) w) :
    let s' := advance t n (liveView t (fetched t n s) w)
    (∀ k, tileCfg s' k = if k ∈ ts then g (tileCfg s k) else tileCfg s k) ∧ s'.tiles.data = s.tiles.data ∧
      ∀ u q, sreg u q s' = sreg u q s := by
  have hv : (seen t n s).tiles = s.tiles := tiles_of_holdings (holdings_seen h)
  refine ⟨fun k => ?_, ?_, fun u q => ?_⟩
  · rw [tileCfg_congr (tiles_goesOn t n _ w), hw.cfg, tileCfg_congr hv]
  · rw [tiles_goesOn, hw.data, hv]
  · rw [sreg_advance]
    exact sreg_congr u q (regs_liveView h (fun u => congrArg ThreadState.regs (hw.thread u)) u)

/-! TCFG and TCFG.R (R121 to R124, R250). -/

/-- The tiles of a mask have the shape: those that change are empty, and all others are as they were. -/
def shapeGiven (m : BitVec 16) (rows1 : BitVec 5) (bytes1 : BitVec 6) (fmt : BitVec 4) (s s' : State) : Prop :=
  (∀ i, i ∈ tilesOf m → (tileCfg s' i).rows1 = rows1 ∧ (tileCfg s' i).bytes1 = bytes1 ∧ (tileCfg s' i).fmt = fmt ∧
    (if changesConfig rows1 bytes1 fmt (tileCfg s i) then (tileCfg s' i).full = false ∧ (tileCfg s' i).valid = 0
     else tileCfg s' i = tileCfg s i)) ∧
  (∀ i, i ∉ tilesOf m → tileCfg s' i = tileCfg s i) ∧ s'.tiles.data = s.tiles.data ∧ ∀ u q, sreg u q s' = sreg u q s

/-- The tiles of a mask that a shape changes (R122). -/
def changedTiles (m : BitVec 16) (rows1 : BitVec 5) (bytes1 : BitVec 6) (fmt : BitVec 4) (s : State) : List Nat :=
  (tilesOf m).filter (fun n => changesConfig rows1 bytes1 fmt (tileCfg s n))

section
variable {m : BitVec 16} {rows1 : BitVec 5} {bytes1 : BitVec 6} {fmt : BitVec 4} {s : State} (hm : m ≠ 0)

theorem mem_changedTiles {i : Nat} : i ∈ changedTiles m rows1 bytes1 fmt s ↔
    i ∈ tilesOf m ∧ changesConfig rows1 bytes1 fmt (tileCfg s i) = true := List.mem_filter

theorem changedTiles_congr {s' : State} (h : s'.tiles = s.tiles) :
    changedTiles m rows1 bytes1 fmt s' = changedTiles m rows1 bytes1 fmt s := by
  simp only [changedTiles, tileCfg_congr h]

theorem changesConfig_eq_false {c : TileCfg} (h : changesConfig rows1 bytes1 fmt c = false) :
    c.rows1 = rows1 ∧ c.bytes1 = bytes1 ∧ c.fmt = fmt := by
  simpa [changesConfig, and_assoc] using h

/-- The tiles that change are named by no instruction in flight where none of the mask is (R124). -/
theorem tilesNamed_changedTiles (h : tilesNamed m s = false) (r : State) :
    tilesNamed (tileMask (changedTiles m rows1 bytes1 fmt r)) s = false :=
  tilesNamed_of_subset h fun i hi => (mem_tilesOf.1 (mem_changedTiles.1 ((getLsbD_tileMask _ i).1 hi).2).1).2

include hm

/-- TCFG of a consistent shape gives it to the tiles that it changes. -/
theorem issueTcfg_of_shape (hc : memoriesCanonical s) (hs : shapeOk (rows1.toNat + 1) (bytes1.toNat + 1) fmt = true)
    (hn : tilesNamed m s = false) : ∃ w, issueTcfg .tx m rows1 bytes1 fmt true s = .go w ∧
      Reconfigured (shaped rows1 bytes1 fmt) (changedTiles m rows1 bytes1 fmt s) s w := by
  refine ⟨_, ?_, reconfigured_foldl (reconfigured_configureTile rows1 bytes1 fmt) ((nodup_tilesOf m).filter _) hc⟩
  have hn' := tilesNamed_changedTiles (rows1 := rows1) (bytes1 := bytes1) (fmt := fmt) hn s
  rw [changedTiles] at hn'
  simp only [issueTcfg, onlyThread_self, ok_bind, need, bne_iff_ne.2 hm, hs, Bool.and_self, if_true, hn', Bool.not_false]
  rfl

theorem issueTcfg_of_inconsistent (hs : shapeOk (rows1.toNat + 1) (bytes1.toNat + 1) fmt = false) :
    issueTcfg .tx m rows1 bytes1 fmt true s = .fault fcTcfg (BitVec.ofNat 64 (lowestTile m)) := by
  simp only [issueTcfg, onlyThread_self, ok_bind, need, bne_iff_ne.2 hm, hs, Bool.and_false, if_true]
  rfl

/-- What an instruction comes to whose verdict is that of a TCFG of a consistent shape. -/
theorem shapeGiven_of_ready {f : State → Verdict} (h : ready .tx 1 s) (hc : memoriesCanonical s)
    (hs : shapeOk (rows1.toNat + 1) (bytes1.toNat + 1) fmt = true) (hn : tilesNamed m (seen .tx 1 s) = false)
    (hf : f (seen .tx 1 s) = issueTcfg .tx m rows1 bytes1 fmt true (seen .tx 1 s)) :
    ∃ s', Host.Outcome.next (issue .tx 1 f s) = (.next s' : Out) ∧ shapeGiven m rows1 bytes1 fmt s s' := by
  have hv : (seen .tx 1 s).tiles = s.tiles := tiles_of_holdings (holdings_seen h)
  obtain ⟨w, hi, hw⟩ := issueTcfg_of_shape hm (memoriesCanonical_seen hc) hs hn
  obtain ⟨hcfg, hdata, hregs⟩ := goesOn_of_reconfigured h hw
  simp only [changedTiles_congr hv, mem_changedTiles] at hcfg
  refine ⟨_, goesOn_of_ready h (hf.trans hi), fun i hi => ?_, fun i hi => ?_, hdata, hregs⟩
  · rw [hcfg]
    cases hch : changesConfig rows1 bytes1 fmt (tileCfg s i) with
    | true => simp [hi, shaped, emptied]
    | false => simp [changesConfig_eq_false hch]
  · rw [hcfg, if_neg (fun k => hi k.1)]

end

/-- The shape in bits [19:0] of a register (R250). -/
theorem shape_of_register {w : Word64} {rows1 : BitVec 5} {bytes1 : BitVec 6} {fmt : BitVec 4}
    (h : w.toNat % 2 ^ 20 = rows1.toNat + 2 ^ 5 * bytes1.toNat + 2 ^ 11 * fmt.toNat) :
    w.extractLsb' 0 5 = rows1 ∧ w.extractLsb' 5 6 = bytes1 ∧ w.extractLsb' 11 4 = fmt ∧ w.extractLsb' 15 5 = 0 := by
  have h1 := rows1.isLt
  have h2 := bytes1.isLt
  have h3 := fmt.isLt
  refine ⟨?_, ?_, ?_, ?_⟩ <;> apply BitVec.eq_of_toNat_eq <;>
    simp only [BitVec.extractLsb'_toNat, Nat.shiftRight_eq_div_pow, BitVec.ofNat_eq_ofNat, BitVec.toNat_ofNat] <;>
    omega

/-! TREL (R124, R136). -/

section
variable {m : BitVec 16} {s : State} (hm : m ≠ 0)
include hm

theorem issueTrel_of_unnamed (hn : tilesNamed m s = false) :
    issueTrel .tx m s = .go ((tilesOf m).foldl (fun s n => emptyTile n s) s) := by
  simp only [issueTrel, onlyThread_self, ok_bind, need, bne_iff_ne.2 hm, if_true, hn, Bool.not_false]
  rfl

theorem issueTrel_of_named (hn : tilesNamed m s = true) : issueTrel .tx m s = .wait .interlock := by
  simp only [issueTrel, onlyThread_self, ok_bind, need, bne_iff_ne.2 hm, if_true, hn, Bool.not_true]
  rfl

end

/-! EP.LOAD (R185). -/

/-- The three tiles that hold a program. -/
def programTiles (n : Nat) : List Nat := [n, n + 1, n + 2]

/-- A state with a program in a slot, the tile rows that it came from being in the operand cache. -/
def programLoaded (k : BitVec 3) (n : Nat) (p : Program) (s : State) : State :=
  let s := (programTiles n).foldl (fun s k => cacheRow k 0 s) s
  { s with vx := { s.vx with slots := Sparse.set none s.vx.slots k.toNat (some p) } }

theorem programLoaded_tiles (k : BitVec 3) (n : Nat) (p : Program) (s : State) :
    (programLoaded k n p s).tiles = s.tiles := by
  simp [programLoaded, programTiles]

/-- The slot holds the program, and the others what they held. -/
theorem programLoaded_slots (k : BitVec 3) (n : Nat) (p : Program) (s : State) :
    (programLoaded k n p s).vx.slots = Sparse.put s.vx.slots k.toNat (some p) := by
  simp [programLoaded, programTiles, Sparse.set]

/-- EP.LOAD of a program that is accepted, from full tiles without a parity error, into a slot that is not in use. -/
theorem issueEpLoad_of_checks {k : BitVec 3} {n : BitVec 4} {p : Program} {s : State} (hn : n.toNat ≤ 13)
    (he : enginePresent 2 s = .ok ()) (ht : tilesReady (tileMask (programTiles n.toNat)) 0 s = .ok ())
    (hslot : ∀ f ∈ liveFlights s, f.slot ≠ some k) (hfull : tilesFull (programTiles n.toNat) s = .ok ())
    (hpar : s.upsets.parity = [])
    (hp : programOf (tileRow s n.toNat 0) (tileRow s (n.toNat + 1) 0) (tileRow s (n.toNat + 2) 0) = some p) :
    issueEpLoad .tx k n s = .go (programLoaded k n.toNat p s) := by
  have hfree : (liveFlights s).any (fun f => f.slot == some k) = false :=
    List.any_eq_false.2 fun f hf => by simpa using hslot f hf
  rw [programTiles] at ht hfull
  simp only [issueEpLoad, onlyThread_self, ok_bind, he, need, hn, decide_true, if_true, ht, hfree, Bool.not_false, hfull]
  rw [meets_of_no_parity hpar _ (fun q i => rfl)]
  simp only [hp]
  rfl

/-- Settles O38: the instructions on tiles are folds of an operation on one tile, and EP.LOAD puts one slot. -/
theorem tileConfiguration : Obligations.TileConfiguration := by
  intro m rows1 bytes1 fmt r k n p s h hc v done shape
  have hv : v.tiles = s.tiles := tiles_of_holdings (holdings_seen h)
  refine ⟨fun hm hs hn => ⟨shapeGiven_of_ready hm h hc hs hn rfl, fun hf hw => ?_⟩,
    fun hm hs => faults_of_ready h (issueTcfg_of_inconsistent hm hs), fun hm hn => ?_,
    fun hm hn => waits_of_ready h (issueTrel_of_named hm hn), fun hn he ht hslot hfull hpar hp => ?_⟩
  · have hr : regsReady .tx [r] (seen .tx 1 s) = .ok () := regsReady_of_free hf
    obtain ⟨erows, ebytes, efmt, ezero⟩ := shape_of_register (w := sreg .tx r (seen .tx 1 s)) hw
    refine shapeGiven_of_ready hm h hc hs hn ?_
    simp only [onlyThread_self, ok_bind, hr, verdict_pure, erows, ebytes, efmt, ezero, beq_self_eq_true]
  · obtain ⟨hcfg, -, -⟩ := goesOn_of_reconfigured h
      (reconfigured_foldl reconfigured_emptyTile (nodup_tilesOf m) (memoriesCanonical_seen hc))
    refine ⟨_, goesOn_of_ready h (issueTrel_of_unnamed hm hn), fun i hi => ?_, fun i hi => ?_⟩
    · rw [hcfg, if_pos hi]
      exact ⟨rfl, rfl, rfl, rfl, rfl, rfl⟩
    · rw [hcfg, if_neg hi]
  · have hi : issueEpLoad .tx k n v = .go (programLoaded k n.toNat p v) := by
      refine issueEpLoad_of_checks hn ?_ ht hslot ?_ ((parity_seen h).trans hpar) ?_
      · rw [enginePresent_congr (seen_mould h) (by decide), he]
      · rw [tilesFull_congr hv]
        exact hfull
      · simp only [tileRow_congr hv]
        exact hp
    have hslots : (advance .tx 1 (liveView .tx (fetched .tx 1 s) (programLoaded k n.toNat p v))).vx.slots =
        Sparse.put s.vx.slots k.toNat (some p) := by
      rw [vx_goesOn, programLoaded_slots, vx_seen h]
    refine ⟨_, goesOn_of_ready h hi, ?_, fun j hj => ?_, ?_⟩
    · rw [vxSlot, hslots, Sparse.get_put_self]
    · rw [vxSlot, hslots, Sparse.get_put_ne _ _ _ hj, vxSlot]
    · rw [tiles_goesOn, programLoaded_tiles, hv]

end Sys2Proof.Machine
end

section
/-! SUPPORT. Checks of the execute stream that pass, and chains of checks that all pass. -/

namespace Sys2Proof.Machine
open Claims

/-! Chains of checks. -/

/-- A chain of checks goes on behind a check that passes. -/
theorem verdict_of_passed {α : Type} {c : Chk α} {f : α → Chk Verdict} {a : α} {v : Verdict} (hc : c = .ok a)
    (hf : verdict (f a) = v) : verdict (c >>= f) = v := by rw [hc, ok_bind, hf]

theorem handlesOk_nil (t : Thread) (s : State) : handlesOk t [] s = .ok [] := rfl

/-! Slots (R411, R415). -/

theorem slotIsOpd_of_isTiles {v : Slot} (h : slotIsTiles v = true) : slotIsOpd v = true := by
  unfold slotIsTiles at h
  unfold slotIsOpd
  split at h
  · next e => rw [e]
  · cases h

theorem slotsLegal_of_isOpd {v : Slot} (h : slotIsOpd v = true) : slotsLegal [v] = .ok () := by
  have hv : slotVal v ≠ .reserved := fun k => by simp [slotIsOpd, k] at h
  simp [slotsLegal, need, hv]

/-! Operands in range (R98, R230). -/

theorem zeroAbove_of_lt {v : Word64} {n : Nat} (h : v.toNat < 2 ^ n) : zeroAbove v n = true := decide_eq_true h

theorem portOk_of_ne {p : BitVec 3} {s : State} (h : p ≠ s.mould.cfg.bport) : portOk p s = true := bne_iff_ne.2 h

/-- A gather goes to one of the eight AMAX registers. -/
theorem gathers_of_lt {r : BitVec 4} (h : r.toNat < 8) : r[3] = false := Nat.testBit_lt_two_pow h

/-! Accumulator sets (R64). -/

theorem accsReady_zero (s : State) : accsReady 0 s = .ok () := by
  simp [accsReady, need, accsHeld]

/-- Sets are read where a product adds to them. -/
theorem accsReady_of_accum {accum : Bool} {m : BitVec 4} {s : State} (h : accum = true → accsReady m s = .ok ()) :
    accsReady (if accum then m else 0) s = .ok () := by
  cases accum with
  | false => exact accsReady_zero s
  | true => exact h rfl

/-! Formats and shapes (R126, R127). -/

theorem formatsOk_of_none {l : List (Nat × Option Fmt)} (h : ∀ p ∈ l, p.2 = none) : formatsOk l = .ok () := by
  have hl (q : Nat × Option Fmt → Bool) (hq : ∀ p, q p = true → p.2.isSome = true) : l.find? q = none :=
    List.find?_eq_none.2 fun p hp k => by simpa [h p hp] using hq p k
  rw [formatsOk, hl _ fun p k => (Bool.and_eq_true _ _ ▸ k).1]

theorem badCode_of_accepted {ok : Fmt → Bool} {f : Fmt} (h : ok f = true) : badCode ok f = none := if_pos h

/-- An absent operand has no format that an engine could refuse. -/
theorem badFormat_getD {ok : Fmt → Bool} {o : Option Opd} (h : ∀ x ∈ o, badFormat ok x = none) :
    badFormat ok (o.getD Opd.none) = none := by
  cases o with
  | none => rfl
  | some x => exact h x rfl

theorem shapesOk_of_nil {l : List Nat} (h : l = []) : shapesOk l = .ok () := by
  rw [h]
  rfl

end Sys2Proof.Machine
end

section
/-! SUPPORT. MX.MM and MV.GEMV: O34. -/

namespace Sys2Proof.Machine
open Claims

/-! MX.MM (R144, R145, R147, R160). -/

section
variable {w : Slot}

/-- A stationary on the RAW path holds integers, or nothing; a W operand has formats of its own (R144, R151). -/
theorem weightFormat_of_accepted {raw absent : Bool} {stat : Fmt} {bad : Option Fmt}
    (hstat : slotVal w = .stat → raw = false ∨ rawFmt stat = true ∨ absent = true) (hopd : slotVal w ≠ .stat → bad = none) :
    (if slotVal w == .stat then (if !raw || rawFmt stat || absent then none else some stat) else bad) = none := by
  by_cases hw : slotVal w = .stat
  · rcases hstat hw with h | h | h <;> simp [hw, h]
  · simpa [hw] using hopd hw

/-- A product with the stationary stays within its blocks and the array's width (R147). -/
theorem weightShape_of_fits {k most n width : Nat} {bad : List Nat} (hstat : slotVal w = .stat → k ≤ most ∧ n ≤ width)
    (hopd : slotVal w ≠ .stat → bad = []) :
    (if slotVal w == .stat then (if decide (k ≤ most) && decide (n ≤ width) then [] else [0]) else bad) = [] := by
  by_cases hw : slotVal w = .stat
  · simpa [hw] using hstat hw
  · simpa [hw] using hopd hw

end

/-- A RAW product expands nothing, so that it uses no handle (R30). -/
theorem handlesOk_of_raw {raw : Bool} {us : List HandleUse} {s : State}
    (h : raw = false → ∃ xs, handlesOk .tx us s = .ok xs) :
    ∃ xs, handlesOk .tx (if raw then [] else us) s = .ok xs := by
  cases raw with
  | false => exact h rfl
  | true => exact ⟨[], handlesOk_nil .tx s⟩

/-- MX.MM whose operands are in order enters flight; a TDC-3 form carries its shapes. -/
theorem issueMm_of_ready (i : Instr) {ra rw : Option Carried} {a : MxMmArgs} {s : State} (h : mmReady ra rw a s) :
    issueMm i ra rw .tx a s = .go (mmIssued i ra rw a s) := by
  obtain ⟨hslots, hcodes, hengine, ha, hw, hreg, htiles, hhalf, hsets, hd, ⟨hm1, hm2⟩, ⟨hk1, hk2⟩, hn, haccs, hqueues, hrows,
    hfree, hfull, htypes, hfmta, hraw, hfmtw, hshapea, hstat, hshapew, huses⟩ := h
  obtain ⟨xs, hxs⟩ := handlesOk_of_raw huses
  refine verdict_of_passed (onlyThread_self _) <| verdict_of_passed hslots <| verdict_of_passed hcodes <|
    verdict_of_passed hengine <| verdict_of_passed (regsReady_of_free hreg) <| verdict_of_passed htiles <|
    verdict_of_passed (paramsOk_of_all ?params) <| verdict_of_passed (accsReady_of_accum haccs) <|
    verdict_of_passed hqueues <| verdict_of_passed hrows <| verdict_of_passed hfree <| verdict_of_passed hfull <|
    verdict_of_passed (formatsOk_of_none ?formats) <| verdict_of_passed (shapesOk_of_nil ?shapes) <|
    verdict_of_passed hxs ?launch
  case params =>
    simp [hsets, hhalf, hn, zeroAbove_of_lt hd, hm1, hm2, hk1, hk2, ha, hw]
  case formats =>
    simp only [List.forall_mem_cons]
    exact ⟨htypes, hfmta, weightFormat_of_accepted hraw hfmtw, List.forall_mem_nil _⟩
  case shapes => exact List.append_eq_nil_iff.2 ⟨hshapea, weightShape_of_fits hstat hshapew⟩
  case launch =>
    simp only [mmIssued, ← beq_iff_eq (a := slotVal a.w)]
    exact launch_eq ..

/-! MV.GEMV (R168 to R180). -/

/-- MV.GEMV whose operands are in order enters flight; a TDC-3 form carries its shapes. -/
theorem issueGemv_of_ready (i : Instr) {c : Option MvCarried} {a : MvGemvArgs} {xs : List Xlate} {s : State}
    (h : gemvReady c a xs s) : issueGemv i c .tx a s = .go (gemvIssued i c a xs s) := by
  obtain ⟨hslots, hcodes, hconv, hengine, hva, hvb, hd, hd2, hd2ok, hregs, htiles, hport, hport2, hports, hamx, hr, haligned,
    hmvd, ⟨hk1, hk2⟩, ⟨hn1, hn2⟩, hrecords, hqueues, hrows, hfree, hfull, hfmtw, hvectors, hfmtd, hshaped, hshaped2, hxs⟩ := h
  refine verdict_of_passed (onlyThread_self _) <| verdict_of_passed hslots <| verdict_of_passed hcodes <|
    verdict_of_passed hconv <| verdict_of_passed hengine <| verdict_of_passed (regsReady_of_free hregs) <|
    verdict_of_passed htiles <| verdict_of_passed (paramsOk_of_all ?params) <| verdict_of_passed hqueues <|
    verdict_of_passed hrows <| verdict_of_passed hfree <| verdict_of_passed hfull <|
    verdict_of_passed (formatsOk_of_none ?formats) <| verdict_of_passed (shapesOk_of_nil ?shapes) <|
    verdict_of_passed hxs (launch_eq ..)
  case params =>
    simp [hport, hport2, hports, gathers_of_lt hamx, rsOk_of_lt hr, haligned, zeroAbove_of_lt hmvd, hk1, hk2, hn1, hn2,
      hrecords, hva, hvb, hd, hd2, hd2ok]
  case formats =>
    have ha := (hvectors _ List.mem_cons_self).1
    have hb := badFormat_getD fun o ho => (hvectors o (List.mem_cons_of_mem _ (Option.mem_toList.2 ho))).1
    simp only [List.forall_mem_cons]
    exact ⟨badCode_of_accepted hfmtw, ha, hb, badCode_of_accepted hfmtd, List.forall_mem_nil _⟩
  case shapes =>
    simp only [List.append_eq_nil_iff, List.flatMap_eq_nil_iff, Option.mem_toList]
    exact ⟨⟨⟨(hvectors _ List.mem_cons_self).2, fun o ho => (hvectors o (List.mem_cons_of_mem _ (Option.mem_toList.2 ho))).2⟩,
      hshaped⟩, hshaped2⟩

/-! The TDC-3 forms (R128, R129, R418). -/

/-- Neither time nor a fetch moves the mode of a thread, nor does a reissue. -/
theorem c3_seen {t : Thread} {n : Nat} {s : State} (h : ready t n s) (u : Thread) :
    (getThread u (seen t n s)).c3 = (getThread u s).c3 := by
  obtain ⟨k, e⟩ := getThread_fetched h u
  obtain ⟨m, b, ev⟩ := firstView_eq t (fetched t n s)
  rw [seen, ev]
  by_cases hut : u = t
  · subst hut
    rw [getThread_modThread_self, e]
  · rw [getThread_modThread_ne _ _ hut, e]

section
variable {slots : List (Slot × BitVec 14)}

/-- A form in C3 mode with its zero fields and its records as they must be is legal. -/
theorem c3Legal_of_records {zeros : Bool} {unused : List (BitVec 14)} {s : State} (hc : s.tx.c3 = true) (hz : zeros = true)
    (hslots : ∀ p ∈ slots, recLegal p.1 p.2 = true) (hunused : ∀ r ∈ unused, r = 0) :
    c3Legal .tx zeros slots unused s = .ok () := by
  have hall : slots.all (fun p => recLegal p.1 p.2) = true := List.all_eq_true.2 hslots
  have hnone : unused.all (fun r => r == 0) = true := List.all_eq_true.2 fun r hr => beq_iff_eq.2 (hunused r hr)
  have hmode : (getThread .tx s).c3 = true := hc
  simp only [c3Legal, need, hmode, hz, hall, hnone]
  rfl

theorem c3Shapes_of_fits {v : Verdict} (h : recOverflow slots = none) : c3Shapes slots v = v := by rw [c3Shapes, h]

end

/-- A legal TDC-3 MX.MM whose carried shapes fit enters flight as the native form does. -/
theorem issueC3Mm_of_legal {a : MxMmArgs} {r : ShapeRecs} {s : State} (hc : s.tx.c3 = true) (hhalf : a.half = false)
    (hfmta : a.fmta = 0) (hfmtw : a.fmtw = 0) (hftz : a.ftz = false) (h0 : recLegal a.a r.r0 = true)
    (h1 : recLegal a.w r.r1 = true) (h2 : r.r2 = 0) (h3 : r.r3 = 0) (hfits : recOverflow (c3MmSlots a r) = none)
    (h : mmReady (c3Carried a.a r.r0) (c3Carried a.w r.r1) a s) :
    issueC3Mm .tx a r s = .go (mmIssued (.tdc3MxMm .tx a r) (c3Carried a.a r.r0) (c3Carried a.w r.r1) a s) := by
  have hslots := h.1
  refine verdict_of_passed hslots <| verdict_of_passed (c3Legal_of_records hc ?zeros ?records ?unused) ?form
  case zeros => simp [hhalf, hfmta, hfmtw, hftz]
  case records => simp [c3MmSlots, h0, h1]
  case unused => simp [h2, h3]
  case form => exact (c3Shapes_of_fits hfits).trans (issueMm_of_ready _ h)

/-- A legal TDC-3 MV.GEMV whose carried shapes fit enters flight as the native form does. -/
theorem issueC3Gemv_of_legal {a : MvGemvArgs} {r : ShapeRecs} {xs : List Xlate} {s : State} (hc : s.tx.c3 = true)
    (hfmtw : a.fmtw = 0) (hconv : c3ConvZero a.conv = true) (hrecords : ∀ p ∈ c3GemvSlots a r, recLegal p.1 p.2 = true)
    (hfits : recOverflow (c3GemvSlots a r) = none)
    (h : gemvReady (some (c3Gemv a r)) { a with conv := c3Conv a.conv } xs s) :
    issueC3Gemv .tx a r s =
      .go (gemvIssued (.tdc3MvGemv .tx a r) (some (c3Gemv a r)) { a with conv := c3Conv a.conv } xs s) := by
  have hslots := h.1
  refine verdict_of_passed hslots <| verdict_of_passed (c3Legal_of_records hc ?zeros hrecords (List.forall_mem_nil _)) ?form
  case zeros => simp [hfmtw, hconv]
  case form => exact (c3Shapes_of_fits hfits).trans (issueGemv_of_ready _ h)

/-- Settles O34: where every check passes, the issue is its launch; the TDC-3 forms add their own checks before and after. -/
theorem productsIssue : Obligations.ProductsIssue := by
  refine ⟨fun a r s => ⟨fun hs h => ?_, fun hs hc hhalf hfmta hfmtw hftz h0 h1 h2 h3 hfits h => ?_⟩,
    fun a r xs s => ⟨fun hs h => ?_, fun hs hc hfmtw hconv hrecords hfits h => ?_⟩⟩
  · exact goesOn_of_ready hs (issueMm_of_ready _ h)
  · exact goesOn_of_ready hs
      (issueC3Mm_of_legal ((c3_seen hs .tx).trans hc) hhalf hfmta hfmtw hftz h0 h1 h2 h3 hfits h)
  · exact goesOn_of_ready hs (issueGemv_of_ready _ h)
  · exact goesOn_of_ready hs (issueC3Gemv_of_legal ((c3_seen hs .tx).trans hc) hfmtw hconv hrecords hfits h)

end Sys2Proof.Machine
end

section
/-! SUPPORT. The loads of the stationary, MX.CONV and MX.DRAIN: O35. -/

namespace Sys2Proof.Machine
open Claims

/-! Operands in range and shapes that fit (R153, R163, R235, R236). -/

section
variable {s : State}

theorem paramsOk_wldT {a : MxWldTArgs} (hport : a.port ≠ s.mould.cfg.bport) (hhalf : halfOk s a.half = true)
    (hr : (sreg .tx a.rs s).toNat < 98304) (hd : strideOk (sreg .tx a.stride s) = true) :
    paramsOk [(portOk a.port s, 1), (halfOk s a.half, 4), (rsOk (sreg .tx a.rs s), 7), (strideOk (sreg .tx a.stride s), 8)] =
      .ok () :=
  paramsOk_of_all (by simp [portOk_of_ne hport, hhalf, rsOk_of_lt hr, hd])

theorem paramsOk_conv {a : MxConvArgs} {g : Geometry} {cs : List Chunk} {r v1 v2 : Word64}
    (hport : a.port ≠ s.mould.cfg.bport) (hport2 : a.port2 ≠ s.mould.cfg.bport) (hports : a.port ≠ a.port2)
    (hsets : setsOk s a.half a.acc cs = true) (hhalf : halfOk s a.half = true) (hr : r.toNat < 98304)
    (h1 : cvg1Ok v1 g = true) (h2 : v2.toNat < 2 ^ 28) (hn : nLimit s a.half g.n = true) (hw : slotIsOpd a.w = true) :
    paramsOk [(portOk a.port s, 1), (portOk a.port2 s && a.port != a.port2, 2), (setsOk s a.half a.acc cs, 4),
      (halfOk s a.half, 7), (rsOk r, 10), (cvg1Ok v1 g, 11), (zeroAbove v2 28 && nLimit s a.half g.n, 12),
      (slotIsOpd a.w, 14)] = .ok () :=
  paramsOk_of_all (by
    simp [portOk_of_ne hport, portOk_of_ne hport2, hports, hsets, hhalf, rsOk_of_lt hr, h1, zeroAbove_of_lt h2, hn, hw])

/-- The sets of a drain exist, and in HALF mode belong to its half. -/
theorem drainSetsOk_of_sets {a : MxDrainArgs}
    (hhalf : s.mould.cfg.half = true → ∀ i ∈ drainSets a, i / 2 = (if a.half then 1 else 0))
    (hfull : s.mould.cfg.half = false → ∀ i ∈ drainSets a, i < 4) : drainSetsOk s a = true := by
  unfold drainSetsOk
  split
  · next h => exact List.all_eq_true.2 fun i hi => beq_iff_eq.2 (hhalf h i hi)
  · next h => exact List.all_eq_true.2 fun i hi => decide_eq_true (hfull (Bool.eq_false_of_not_eq_true h) i hi)

theorem paramsOk_drain {a : MxDrainArgs} {d : Word64} (hsets : drainSetsOk s a = true) (hhalf : halfOk s a.half = true)
    (hamx : a.conv.amx.toNat < 8) (hd : d.toNat < 2 ^ 17) (hrows : 1 ≤ field d 8 9) (hlast : field d 0 8 + field d 8 9 ≤ 256)
    (hdest : slotIsOpd a.d = true) :
    paramsOk [(drainSetsOk s a, 0), (halfOk s a.half, 2), (!a.conv.amx.getLsbD 3, 7),
      (zeroAbove d 17 && decide (1 ≤ field d 8 9) && decide (field d 0 8 + field d 8 9 ≤ 256), 11), (slotIsOpd a.d, 13)] =
      .ok () :=
  paramsOk_of_all (by simp [hsets, hhalf, gathers_of_lt hamx, zeroAbove_of_lt hd, hrows, hlast, hdest])

end

/-- No tile fails where the window holds every element taken and the weights are in order (R163). -/
theorem windowShape_of_fits {es bad : List Nat} {n : Nat} (hes : ∀ e ∈ es, e < n) (hbad : bad = []) :
    (if es.all (fun e => decide (e < n)) then [] else [0]) ++ bad = [] := by
  have hall : es.all (fun e => decide (e < n)) = true := List.all_eq_true.2 fun e he => decide_eq_true (hes e he)
  rw [if_pos hall, hbad, List.nil_append]

/-- Settles O35: each check of an instruction passes by one premise, in the order of the checks, and the issue is its launch. -/
theorem stationaryConvolutionAndDrainIssue : Obligations.StationaryConvolutionAndDrainIssue := by
  refine ⟨fun a b x xs ys s h => ?loads, fun a b x xs s h => ?products⟩
  case loads =>
    intro v hengine
    refine ⟨?wld, ?wldT⟩
    case wld =>
      intro o n hw htiles hhalf hfree hfull hfmt hshape hys
      exact goesOn_of_ready h <|
        verdict_of_passed (onlyThread_self _) <| verdict_of_passed (slotsLegal_of_isOpd (slotIsOpd_of_isTiles hw)) <|
        verdict_of_passed hengine <| verdict_of_passed htiles <|
        verdict_of_passed (paramsOk_of_all (by simp [v, hhalf, hw])) <| verdict_of_passed hfree <| verdict_of_passed hfull <|
        verdict_of_passed (formatsOk_of_none (List.forall_mem_singleton.2 hfmt)) <|
        verdict_of_passed (shapesOk_of_nil hshape) <| verdict_of_passed hys (launch_eq ..)
    case wldT =>
      intro r0 d rels fm hcodes hregs hport hhalf hr hd1 hd2 hd0 hfree hfmt hxs
      exact goesOn_of_ready h <|
        verdict_of_passed (onlyThread_self _) <| verdict_of_passed hcodes <| verdict_of_passed hengine <|
        verdict_of_passed (regsReady_of_free hregs) <|
        verdict_of_passed (paramsOk_wldT hport hhalf hr (strideOk_of_range hd1 hd2 hd0)) <| verdict_of_passed hfree <|
        verdict_of_passed (formatsOk_of_none (List.forall_mem_singleton.2 (badCode_of_accepted hfmt))) <|
        verdict_of_passed hxs (launch_eq ..)
  case products =>
    intro v hengine
    refine ⟨?conv, ?drain⟩
    case conv =>
      intro r0 v1 v2 g cs w ow fm rels elems hw hcodes hregs htiles hport hport2 hports hhalf hr h1 h2 hn hsets haccs hqueues
        hrows hfree hfull htypes hfmta hfmtw hwindow hshape hxs
      have hformats : ∀ p ∈ [(4, badTypes v a.accum false (chunkMask cs)), (13, badCode convFmt fm),
          (14, badFormat mxeFmt ow)], p.2 = none := by
        simp only [List.forall_mem_cons]
        exact ⟨htypes, badCode_of_accepted hfmta, hfmtw, List.forall_mem_nil _⟩
      exact goesOn_of_ready h <|
        verdict_of_passed (onlyThread_self _) <| verdict_of_passed (slotsLegal_of_isOpd hw) <| verdict_of_passed hcodes <|
        verdict_of_passed hengine <| verdict_of_passed (regsReady_of_free hregs) <| verdict_of_passed htiles <|
        verdict_of_passed (paramsOk_conv hport hport2 hports hsets hhalf hr h1 h2 hn hw) <|
        verdict_of_passed (accsReady_of_accum haccs) <| verdict_of_passed hqueues <| verdict_of_passed hrows <|
        verdict_of_passed hfree <| verdict_of_passed hfull <| verdict_of_passed (formatsOk_of_none hformats) <|
        verdict_of_passed (shapesOk_of_nil (windowShape_of_fits hwindow hshape)) <| verdict_of_passed hxs (launch_eq ..)
    case drain =>
      intro d sets r0 r n dst od hdest hconv hregs htiles hhalf hhalves hsets hamx hd hr1 hr2 haccs hqueues hrows hfree hshape
      exact goesOn_of_ready h <|
        verdict_of_passed (onlyThread_self _) <| verdict_of_passed (slotsLegal_of_isOpd hdest) <| verdict_of_passed hconv <|
        verdict_of_passed hengine <| verdict_of_passed (regsReady_of_free hregs) <| verdict_of_passed htiles <|
        verdict_of_passed (paramsOk_drain (drainSetsOk_of_sets hhalves hsets) hhalf hamx hd hr1 hr2 hdest) <|
        verdict_of_passed haccs <| verdict_of_passed hqueues <| verdict_of_passed hrows <| verdict_of_passed hfree <|
        verdict_of_passed (shapesOk_of_nil hshape) (launch_eq ..)

end Sys2Proof.Machine
end

section
/-! SUPPORT. VX.EW, EP.RUN, VX.RED, the scans and CVT: O36. -/

namespace Sys2Proof.Machine
open Claims

/-! Operands of the VXE (R126, R181, R230). -/

/-- An operand that is none names no tile. -/
theorem or_opdMask_none (m : BitVec 16) : m ||| opdMask Opd.none = m := BitVec.or_zero

/-- An operand that is none is no source that must be full. -/
theorem sourcesFull_none_cons (os : List Opd) (s : State) : sourcesFull (Opd.none :: os) s = sourcesFull os s := by
  simp only [sourcesFull, List.foldl_cons, or_opdMask_none]

/-- A check behind a condition passes where the condition implies it. -/
theorem notOr_of_imp {c ok : Bool} (h : c = true → ok = true) : (!c || ok) = true := by
  cases c with
  | false => rfl
  | true => exact h rfl

/-- A destination that carries its shape is of the format that is written (R129). -/
theorem destFormat_of_accepted {α : Type} {c : Option α} {bad : Option Fmt} (h : c = none → bad = none) :
    (if c.isNone then bad else none) = none := by
  cases c with
  | none => exact h rfl
  | some x => rfl

/-- No tile fails where the inputs hold their elements and the destination takes the results (R126, R181). -/
theorem vxShapes_of_fits {ins : List (Option VxIn)} {n : Nat} {dst : Opd × Nat} {df : Fmt} (hins : vxBad ins n = [])
    (hdst : ∀ p ∈ [dst], shapeBad p.1 df n = []) : vxBad ins n ++ shapeBad dst.1 df n = [] :=
  List.append_eq_nil_iff.2 ⟨hins, hdst dst List.mem_cons_self⟩

/-! VX.EW and EP.RUN (R181 to R191). -/

/-- An element-wise instruction whose operands are in order enters flight. -/
theorem issueElementwise_of_ready (i : Instr) {c : Option EwCarried} {a : EwArgs} {nin : Nat} {w : Fmt} {mayAbsent : Bool}
    (slot : Option (BitVec 3)) (ps : EwPos) {s : State} (h : ewReady c a nin w mayAbsent s) :
    verdict (issueElementwise i c .tx a nin w none mayAbsent slot ps s) = .go (ewIssued i c a nin slot s) := by
  obtain ⟨hi0, hi1, hi2, hd, hbb, hregs, hvxd, hdirect, hfmt, hgroup, htiles, hqueues, hrows, hfree, hfull, hins, hdst,
    xs, hxs⟩ := h
  rw [or_opdMask_none] at htiles
  rw [sourcesFull_none_cons] at hfull
  refine verdict_of_passed (regsReady_of_free hregs) <| verdict_of_passed htiles <|
    verdict_of_passed (paramsOk_of_all ?params) <| verdict_of_passed hqueues <| verdict_of_passed hrows <|
    verdict_of_passed hfree <| verdict_of_passed hfull <| verdict_of_passed (formatsOk_of_none ?formats) <|
    verdict_of_passed (shapesOk_of_nil (vxShapes_of_fits hins hdst)) <| verdict_of_passed hxs (launch_eq ..)
  case params =>
    simp only [List.forall_mem_cons]
    exact ⟨hgroup, notOr_of_imp hdirect, hvxd, decide_eq_true hbb, hi0, hi1, hi2, hd, List.forall_mem_nil _⟩
  case formats =>
    simp only [List.forall_mem_cons]
    refine ⟨trivial, destFormat_of_accepted fun hc => ?_, List.forall_mem_nil _⟩
    subst hc
    exact hfmt rfl

/-- A legal VX.EW whose operands are in order enters flight; a TDC-3 form carries its shapes. -/
theorem issueEw_of_ready (i : Instr) {c : Option EwCarried} {a : VxEwArgs} {s : State}
    (hslots : slotsLegal [a.i0, a.i1, a.i2, a.d] = .ok ()) (hcodes : codesLegal [a.wf, a.f0, a.f1, a.f2] = .ok ())
    (hconv : convLegal a.conv = .ok ()) (hop : (uopArity a.uop.toNat).isSome = true) (hengine : enginePresent 2 s = .ok ())
    (hwf : ewWf a = none) (h : ewReady c (ewArgs a) (ewNin a) (codeFmt a.wf) true s) :
    issueEw i c .tx a s = .go (ewIssued i c (ewArgs a) (ewNin a) none s) := by
  unfold issueEw
  rw [hwf]
  exact verdict_of_passed (onlyThread_self _) <| verdict_of_passed hslots <| verdict_of_passed hcodes <|
    verdict_of_passed hconv <| verdict_of_passed (if_pos hop) <| verdict_of_passed hengine <|
    issueElementwise_of_ready i none _ h

/-- A legal EP.RUN of a loaded program whose operands are in order enters flight (R190). -/
theorem issueEpRun_of_ready {a : EpRunArgs} {p : Program} {s : State}
    (hslots : slotsLegal [a.i0, a.i1, a.i2, a.d] = .ok ()) (hcodes : codesLegal [a.f0, a.f1, a.f2] = .ok ())
    (hconv : convLegal a.conv = .ok ()) (hengine : enginePresent 2 s = .ok ()) (hp : vxSlot s a.slot.toNat = some p)
    (h : ewReady none (epArgs a) p.nin (codeFmt p.wf) false s) :
    issueEpRun .tx a s = .go (ewIssued (.epRun .tx a) none (epArgs a) p.nin (some a.slot) s) := by
  unfold issueEpRun
  rw [hp]
  exact verdict_of_passed (onlyThread_self _) <| verdict_of_passed hslots <| verdict_of_passed hcodes <|
    verdict_of_passed hconv <| verdict_of_passed hengine <| issueElementwise_of_ready _ _ _ h

/-! VX.RED, the scans and CVT (R192 to R202). -/

/-- VX.RED whose operands are in order enters flight; a TDC-3 form carries its shape. -/
theorem issueRed_of_ready (i : Instr) {r : Option Carried} {a : VxRedArgs} {s : State} (h : redReady r a s) :
    issueRed i r .tx a s = .go (redIssued i r a s) := by
  obtain ⟨hslots, hcodes, hop, hrnd, hengine, hi0, hregs, hpre, hvxd, ⟨hgroup, htiles, hqueues, hrows, hfree, hfull, hins, -,
    xs, hxs⟩, htoken⟩ := h
  rw [or_opdMask_none] at htiles
  rw [sourcesFull_none_cons] at hfull
  refine verdict_of_passed (onlyThread_self _) <| verdict_of_passed hslots <| verdict_of_passed hcodes <|
    verdict_of_passed (if_pos ?legal) <| verdict_of_passed hengine <| verdict_of_passed (regsReady_of_free hregs) <|
    verdict_of_passed htiles <| verdict_of_passed (paramsOk_of_all ?params) <| verdict_of_passed hqueues <|
    verdict_of_passed (if_pos ?producer) <| verdict_of_passed hrows <| verdict_of_passed (if_pos ?space) <|
    verdict_of_passed hfree <| verdict_of_passed hfull <| verdict_of_passed (shapesOk_of_nil hins) <|
    verdict_of_passed hxs (launch_eq ..)
  case legal => rw [decide_eq_true hop, hrnd, Bool.and_self]
  case params =>
    simp only [List.forall_mem_cons]
    exact ⟨hpre, hgroup, hvxd, hi0, notOr_of_imp fun k => beq_iff_eq.2 (htoken k).1, List.forall_mem_nil _⟩
  case producer => exact notOr_of_imp fun k => beq_iff_eq.2 (htoken k).2.1
  case space => exact notOr_of_imp fun k => decide_eq_true (htoken k).2.2

/-- A scan whose operands are in order enters flight, segmented or not. -/
theorem issueScan_of_ready (i : Instr) {seg : Bool} {a : VxScanArgs} {s : State} (h : scanReady seg a s) :
    issueScan i seg .tx a s = .go (scanIssued i seg a s) := by
  obtain ⟨hslots, hcodes, hconv, hop, hengine, hi0, hmask, hd, hregs, hpre, hamx, hvxd, hfmt, hgroup, htiles, hqueues, hrows,
    hfree, hfull, hins, hdst, xs, hxs⟩ := h
  refine verdict_of_passed (onlyThread_self _) <| verdict_of_passed hslots <| verdict_of_passed hcodes <|
    verdict_of_passed hconv <| verdict_of_passed (if_pos (decide_eq_true hop)) <| verdict_of_passed hengine <|
    verdict_of_passed (regsReady_of_free hregs) <| verdict_of_passed htiles <|
    verdict_of_passed (paramsOk_of_all ?params) <| verdict_of_passed hqueues <| verdict_of_passed hrows <|
    verdict_of_passed hfree <| verdict_of_passed hfull <|
    verdict_of_passed (formatsOk_of_none (List.forall_mem_singleton.2 hfmt)) <|
    verdict_of_passed (shapesOk_of_nil ?shapes) <| verdict_of_passed hxs ((verdict_pure _).trans (launch_eq ..))
  case params =>
    simp only [List.forall_mem_cons]
    exact ⟨hpre, hgroup, by simp [gathers_of_lt hamx], hvxd, hi0, notOr_of_imp fun k => (hmask k).1, hd,
      List.forall_mem_nil _⟩
  case shapes =>
    rw [if_pos (notOr_of_imp fun k => decide_eq_true (hmask k).2), List.append_nil]
    exact vxShapes_of_fits hins hdst

/-- CVT whose operands are in order enters flight; a TDC-3 form carries its shapes. -/
theorem issueCvt_of_ready (i : Instr) {ri rd : Option Carried} {a : CvtArgs} {s : State} (h : cvtReady ri rd a s) :
    issueCvt i ri rd .tx a s = .go (cvtIssued i ri rd a s) := by
  obtain ⟨hslots, hcodes, hconv, hengine, hi0, hd, hregs, hamx, hvxd, hfmt, hgroup, htiles, hqueues, hrows, hfree, hfull,
    hins, hdst, xs, hxs⟩ := h
  rw [or_opdMask_none] at htiles
  rw [sourcesFull_none_cons] at hfull
  refine verdict_of_passed (onlyThread_self _) <| verdict_of_passed hslots <| verdict_of_passed hcodes <|
    verdict_of_passed hconv <| verdict_of_passed hengine <| verdict_of_passed (regsReady_of_free hregs) <|
    verdict_of_passed htiles <| verdict_of_passed (paramsOk_of_all ?params) <| verdict_of_passed hqueues <|
    verdict_of_passed hrows <| verdict_of_passed hfree <| verdict_of_passed hfull <|
    verdict_of_passed (formatsOk_of_none (List.forall_mem_singleton.2 (destFormat_of_accepted hfmt))) <|
    verdict_of_passed (shapesOk_of_nil (vxShapes_of_fits hins hdst)) <| verdict_of_passed hxs (launch_eq ..)
  case params =>
    simp only [List.forall_mem_cons]
    exact ⟨hgroup, by simp [gathers_of_lt hamx], hvxd, hi0, hd, List.forall_mem_nil _⟩

/-! The TDC-3 forms (R129, R252, R418). -/

/-- The fixed conversion of the TDC-3 forms holds no reserved code (R252). -/
theorem convLegal_c3Conv (c : ConvBlk) : convLegal (c3Conv c) = .ok () := rfl

/-- A reduction with its rounding fields zero is rounded as the TDC-3 form is (R252). -/
theorem c3Red_of_zero {a : VxRedArgs} (hrnd : a.rnd = 0) (hftz : a.ftz = false) (hieee : a.ieee = false) : c3Red a = a := by
  cases a
  cases hrnd
  cases hftz
  cases hieee
  rfl

/-- A legal TDC-3 VX.EW whose carried shapes fit enters flight as the native form does. -/
theorem issueC3Ew_of_legal {a : VxEwArgs} {r : ShapeRecs} {s s' : State} (hc : s.tx.c3 = true)
    (hgroup : a.group = false) (hf0 : a.f0 = 0) (hf1 : a.f1 = 0) (hf2 : a.f2 = 0) (hconv : c3ConvZero a.conv = true)
    (hrecords : ∀ p ∈ c3EwSlots a r, recLegal p.1 p.2 = true) (hfits : recOverflow (c3EwSlots a r) = none)
    (hslots : slotsLegal [a.i0, a.i1, a.i2, a.d] = .ok ())
    (h : issueEw (.tdc3VxEw .tx a r) (some (c3Ew a r)) .tx { a with conv := c3Conv a.conv } s = .go s') :
    issueC3Ew .tx a r s = .go s' := by
  refine verdict_of_passed hslots <| verdict_of_passed (c3Legal_of_records hc ?zeros hrecords (List.forall_mem_nil _)) ?form
  case zeros => simp [hgroup, hf0, hf1, hf2, hconv]
  case form => exact (c3Shapes_of_fits hfits).trans h

/-- A legal TDC-3 VX.RED whose carried shape fits enters flight as the native form does. -/
theorem issueC3Red_of_legal {a : VxRedArgs} {r : ShapeRecs} {s : State} (hc : s.tx.c3 = true) (hgroup : a.group = false)
    (hf0 : a.f0 = 0) (hrnd : a.rnd = 0) (hftz : a.ftz = false) (hieee : a.ieee = false) (h0 : recLegal a.i0 r.r0 = true)
    (h1 : r.r1 = 0) (h2 : r.r2 = 0) (h3 : r.r3 = 0) (hfits : recOverflow [(a.i0, r.r0)] = none)
    (h : redReady (c3Carried a.i0 r.r0) a s) :
    issueC3Red .tx a r s = .go (redIssued (.tdc3VxRed .tx a r) (c3Carried a.i0 r.r0) a s) := by
  have hslots := h.1
  refine verdict_of_passed hslots <|
    verdict_of_passed (c3Legal_of_records hc ?zeros (List.forall_mem_singleton.2 h0) ?unused) ?form
  case zeros => simp [hgroup, hf0, hrnd, hftz, hieee]
  case unused => simp [h1, h2, h3]
  case form =>
    rw [c3Red_of_zero hrnd hftz hieee]
    exact (c3Shapes_of_fits hfits).trans (issueRed_of_ready _ h)

/-- A legal TDC-3 CVT whose carried shapes fit enters flight as the native form does. -/
theorem issueC3Cvt_of_legal {a : CvtArgs} {r : ShapeRecs} {s : State} (hc : s.tx.c3 = true) (hgroup : a.group = false)
    (hf0 : a.f0 = 0) (hconv : c3ConvZero a.conv = true) (h0 : recLegal a.i0 r.r0 = true) (h1 : recLegal a.d r.r1 = true)
    (h2 : r.r2 = 0) (h3 : r.r3 = 0) (hfits : recOverflow [(a.i0, r.r0), (a.d, r.r1)] = none)
    (h : cvtReady (c3Carried a.i0 r.r0) (c3Carried a.d r.r1) (c3Cvt a) s) :
    issueC3Cvt .tx a r s =
      .go (cvtIssued (.tdc3Cvt .tx a r) (c3Carried a.i0 r.r0) (c3Carried a.d r.r1) (c3Cvt a) s) := by
  have hslots := h.1
  refine verdict_of_passed hslots <| verdict_of_passed (c3Legal_of_records hc ?zeros ?records ?unused) ?form
  case zeros => simp [hgroup, hf0, hconv]
  case records => simp [h0, h1]
  case unused => simp [h2, h3]
  case form => exact (c3Shapes_of_fits hfits).trans (issueCvt_of_ready _ h)

/-- The VXE is as present to an instruction that issues as it is in the state before (R337). -/
theorem vxePresent_seen {t : Thread} {n : Nat} {s : State} (h : ready t n s) (he : enginePresent 2 s = .ok ()) :
    enginePresent 2 (seen t n s) = .ok () := (enginePresent_congr (seen_mould h) (by decide)).trans he

/-- Settles O36: where every check passes, the issue is its launch; the TDC-3 forms add their own checks before and after. -/
theorem vectorEngineInstructionsIssue : Obligations.VectorEngineInstructionsIssue := by
  refine ⟨fun a b p r s => ⟨fun hslots hcodes hop hengine hwf => ⟨?ew, ?c3Ew⟩, ?epRun⟩,
    fun a b c r s => ⟨?red, ?c3Red, ?scan, ?segscan, ?cvt, ?c3Cvt⟩⟩
  case ew =>
    intro hs hconv h
    exact goesOn_of_ready hs (issueEw_of_ready _ hslots hcodes hconv hop (vxePresent_seen hs hengine) hwf h)
  case c3Ew =>
    intro hs hc hgroup hf0 hf1 hf2 hconv hrecords hfits h
    exact goesOn_of_ready hs <|
      issueC3Ew_of_legal ((c3_seen hs .tx).trans hc) hgroup hf0 hf1 hf2 hconv hrecords hfits hslots <|
      issueEw_of_ready _ hslots hcodes (convLegal_c3Conv _) hop (vxePresent_seen hs hengine) hwf h
  case epRun =>
    intro hs hslots hcodes hconv hengine hp h
    have hp' : vxSlot (seen .tx 2 s) b.slot.toNat = some p := by rw [vxSlot, vx_seen hs, ← vxSlot, hp]
    exact goesOn_of_ready hs (issueEpRun_of_ready hslots hcodes hconv (vxePresent_seen hs hengine) hp' h)
  case red => exact fun hs h => goesOn_of_ready hs (issueRed_of_ready _ h)
  case c3Red =>
    intro hs hc hgroup hf0 hrnd hftz hieee h0 h1 h2 h3 hfits h
    exact goesOn_of_ready hs
      (issueC3Red_of_legal ((c3_seen hs .tx).trans hc) hgroup hf0 hrnd hftz hieee h0 h1 h2 h3 hfits h)
  case scan => exact fun hs h => goesOn_of_ready hs (issueScan_of_ready _ h)
  case segscan => exact fun hs h => goesOn_of_ready hs (issueScan_of_ready _ h)
  case cvt => exact fun hs h => goesOn_of_ready hs (issueCvt_of_ready _ h)
  case c3Cvt =>
    intro hs hc hgroup hf0 hconv h0 h1 h2 h3 hfits h
    exact goesOn_of_ready hs
      (issueC3Cvt_of_legal ((c3_seen hs .tx).trans hc) hgroup hf0 hconv h0 h1 h2 h3 hfits h)

end Sys2Proof.Machine
end

section
/-! SUPPORT. Transfers between the local store and SDM or the queues: O20. -/

namespace Sys2Proof.Machine
open Claims

/-! Operands in range, and conditions that hold (R205, R208). -/

theorem need_of_true {b : Bool} {v : Verdict} (h : b = true) : need b v = .ok () := if_pos h

theorem saOk_of_lt {v : Word64} (h : v.toNat < 0x40000) (h64 : v.toNat % 64 = 0) : saOk v = true := by
  simp [saOk, h, h64]

theorem sdmRange_of_le {a n : Nat} (h : a + n ≤ 0x40000) : sdmRange a n = .ok () := need_of_true (decide_eq_true h)

theorem rowCount_pos (n1 : BitVec 6) : 0 < rowCount n1 := Nat.succ_pos _

/-- The operands of LS.RD and LS.WR are in range: an SDM address whose rows end in SDM, a first row, at most eight rows, and a
port that is not the boundary port. -/
def lsInRange (a : LsArgs) (s : State) : Prop :=
  (sreg .ta a.sa s).toNat % 64 = 0 ∧ (sreg .ta a.sa s).toNat + 512 * rowCount a.n1 ≤ 0x40000 ∧
    (sreg .ta a.rs s).toNat < 98304 ∧ rowCount a.n1 ≤ 8 ∧ a.port ≠ s.mould.cfg.bport

section
variable {a : LsArgs} {x : Xlate} {s : State}

theorem lsParams_of_inRange (h : lsInRange a s) : lsParams a .ta s = .ok () := by
  obtain ⟨hal, hend, hr, hn, hport⟩ := h
  have hpos := rowCount_pos a.n1
  exact paramsOk_of_all (by simp [saOk_of_lt (by omega) hal, rsOk_of_lt hr, hn, portOk_of_ne hport])

theorem sdmRange_of_inRange (h : lsInRange a s) : sdmRange (sreg .ta a.sa s).toNat (512 * rowCount a.n1) = .ok () := by
  obtain ⟨-, hend, -⟩ := h
  exact sdmRange_of_le hend

/-! LS.RD and LS.WR (R208). -/

/-- An LS.RD at its issue. -/
def lsRdFlight (a : LsArgs) (x : Xlate) (s : State) : Flight :=
  let rels := strided (sreg .ta a.rs s).toNat (rowCount a.n1) 1
  { newFlight .ta (.lsRd .ta a) .sequencer s with
    blocking := true, xl := [x], tests := testsFor x (readKind a.clear) rels
    acts := readPlan x a.port a.clear rels }

/-- An LS.WR at its issue, with the bytes of SDM in its issue cycle. -/
def lsWrFlight (a : LsArgs) (x : Xlate) (s : State) : Flight :=
  let rels := strided (sreg .ta a.rs s).toNat (rowCount a.n1) 1
  { newFlight .ta (.lsWr .ta a) .sequencer s with
    blocking := true, xl := [x], tests := testsFor x .write rels
    rowsIn := (List.range (rowCount a.n1)).map (fun i => Mem.readBytes s.sdm ((sreg .ta a.sa s).toNat + 512 * i) 512)
    acts := writePlan x a.port rels }

section
variable (hf : free .ta [a.sa, a.rs] s) (hr : lsInRange a s) (he : engineReady .ta .sequencer s = .ok ())
include hf hr he

/-- LS.RD whose checks all pass enters flight. -/
theorem issueLsRd_of_checks
    (hx : checkHandle .ta a.h .rd (strided (sreg .ta a.rs s).toNat (rowCount a.n1) 1) s = .ok x) :
    issueLsRd .ta a s = .go (launched (lsRdFlight a x s) startPlain s) :=
  verdict_of_passed (onlyThread_self _) <| verdict_of_passed (regsReady_of_free hf) <|
    verdict_of_passed (lsParams_of_inRange hr) <| verdict_of_passed he <| verdict_of_passed (sdmRange_of_inRange hr) <|
    verdict_of_passed hx (launch_eq ..)

/-- LS.WR whose checks all pass enters flight with its bytes, or stops its thread at a word of them that cannot be corrected
(R348, log entry 15). -/
theorem issueLsWr_of_checks
    (hx : checkHandle .ta a.h .wr (strided (sreg .ta a.rs s).toNat (rowCount a.n1) 1) s = .ok x) :
    let sa := (sreg .ta a.sa s).toNat
    let n := 512 * rowCount a.n1
    issueLsWr .ta a s = (sdmBad s sa n).elim (.go (launched (lsWrFlight a x s) startPlain (sdmCorrect sa n s)))
      (fun k => .jump (sdmUncorr .ta k s) (getThread .ta s).pc) := by
  intro sa n
  refine verdict_of_passed (onlyThread_self _) <| verdict_of_passed (regsReady_of_free hf) <|
    verdict_of_passed (lsParams_of_inRange hr) <| verdict_of_passed he <| verdict_of_passed (sdmRange_of_inRange hr) <|
    verdict_of_passed hx ?_
  cases hb : sdmBad s sa n <;> rfl

end
end

/-! LS.RQ, LS.RQ.S and LS.WQ (R67, R68, R209). -/

section
variable {a : LsqArgs} {x : Xlate} {s : State}

/-- The operands of the queue transfers are in range: a first row, and a port that is not the boundary port. -/
def lsqInRange (a : LsqArgs) (s : State) : Prop := (sreg .ta a.rs s).toNat < 98304 ∧ a.port ≠ s.mould.cfg.bport

/-- An LS.RQ or LS.RQ.S at its issue, with the distance `d` between its rows. -/
def lsRqFlight (i : Instr) (a : LsqArgs) (x : Xlate) (d : Int) (s : State) : Flight :=
  let rels := strided (sreg .ta a.rs s).toNat (rowCount a.n1) d
  { newFlight .ta i .sequencer s with
    xl := [x], tests := testsFor x (readKind a.clear) rels, acts := readPlan x a.port a.clear rels }

/-- An LS.WQ at its issue, with the rows that it pops. -/
def lsWqFlight (a : LsqArgs) (x : Xlate) (s : State) : Flight :=
  let rels := strided (sreg .ta a.rs s).toNat (rowCount a.n1) 1
  { newFlight .ta (.lsWq .ta a) .sequencer s with
    xl := [x], tests := testsFor x .write rels, rowsIn := popRows s a.q.toNat (rowCount a.n1)
    acts := writePlan x a.port rels }

section
variable (hf : free .ta [a.rs, a.stride] s) (hr : lsqInRange a s) (he : engineReady .ta .sequencer s = .ok ())
include hf hr he

/-- LS.RQ and LS.RQ.S whose checks all pass enter flight with the entries that they will fill reserved; only the strided form
looks at its stride. -/
theorem issueLsRq_of_checks (i : Instr) (isStrided : Bool) {d : Int} (hd : strideOf isStrided (sreg .ta a.stride s) = d)
    (hs : isStrided = true → strideOk (sreg .ta a.stride s) = true)
    (hq : queueOk .ta a.q.toNat true (rowCount a.n1) s = .ok ()) (hroom : pushReady a.q.toNat (rowCount a.n1) s = .ok ())
    (hx : checkHandle .ta a.h .rd (strided (sreg .ta a.rs s).toNat (rowCount a.n1) d) s = .ok x) :
    issueLsRq i isStrided .ta a s =
      .go (launched (lsRqFlight i a x d s) startPlain (reservePush s.nextId a.q.toNat (rowCount a.n1) s)) := by
  subst hd
  obtain ⟨hrow, hport⟩ := hr
  have hregs : free .ta (if isStrided then [a.rs, a.stride] else [a.rs]) s := by
    cases isStrided
    · exact free_of_subset hf (by simp)
    · exact hf
  have hstride : (!isStrided || strideOk (sreg .ta a.stride s)) = true := by
    cases isStrided
    · rfl
    · exact hs rfl
  have hparams : paramsOk [(rsOk (sreg .ta a.rs s), 2), (portOk a.port s, 4),
      (!isStrided || strideOk (sreg .ta a.stride s), 6)] = .ok () :=
    paramsOk_of_all (by simp [rsOk_of_lt hrow, portOk_of_ne hport, hstride])
  exact verdict_of_passed (onlyThread_self _) <| verdict_of_passed (regsReady_of_free hregs) <|
    verdict_of_passed hparams <| verdict_of_passed hq <| verdict_of_passed hroom <| verdict_of_passed he <|
    verdict_of_passed hx (launch_eq ..)

/-- LS.WQ whose checks all pass enters flight with the rows that it takes reserved. -/
theorem issueLsWq_of_checks (hq : queueOk .ta a.q.toNat false (rowCount a.n1) s = .ok ())
    (hrows : popReady a.q.toNat (rowCount a.n1) s = .ok ())
    (hx : checkHandle .ta a.h .wr (strided (sreg .ta a.rs s).toNat (rowCount a.n1) 1) s = .ok x) :
    issueLsWq .ta a s =
      .go (launched (lsWqFlight a x s) startLsWq (reservePop s.nextId a.q.toNat (rowCount a.n1) s)) := by
  obtain ⟨hrow, hport⟩ := hr
  have hparams : paramsOk [(rsOk (sreg .ta a.rs s), 2), (portOk a.port s, 4)] = .ok () :=
    paramsOk_of_all (by simp [rsOk_of_lt hrow, portOk_of_ne hport])
  exact verdict_of_passed (onlyThread_self _) <|
    verdict_of_passed (regsReady_of_free (free_of_subset hf (m := [a.rs]) (by simp))) <|
    verdict_of_passed hparams <| verdict_of_passed hq <| verdict_of_passed hrows <| verdict_of_passed he <|
    verdict_of_passed hx (launch_eq ..)

end
end

/-- Settles O20: where every check passes, the issue is its launch, and an LS.WR first looks at the words that it takes. -/
theorem localStoreTransfersIssue : Obligations.LocalStoreTransfersIssue := by
  refine ⟨fun a x s h => ?sdm, fun a x s h => ?queues⟩
  case sdm =>
    intro v n sa rs rels hf hal hend hrow hn hport he
    have hr : lsInRange a v := ⟨hal, hend, hrow, hn, hport⟩
    refine ⟨fun hx => goesOn_of_ready h (issueLsRd_of_checks hf hr he hx), fun hx => ?_⟩
    have hi := issueLsWr_of_checks hf hr he hx
    refine ⟨fun hb => goesOn_of_ready h (hi.trans ?_), fun k hb => goesTo_of_ready h (hi.trans ?_)⟩
    · rw [hb]
      rfl
    · rw [hb]
      rfl
  case queues =>
    intro v n r0 d q hf hrow hport he fl reads
    have hr : lsqInRange a v := ⟨hrow, hport⟩
    refine ⟨fun hq hroom => ⟨fun hx => ?rq, fun h1 h2 h0 hx => ?rqS⟩, fun hq hrows hx => ?wq⟩
    case rq =>
      exact goesOn_of_ready h (issueLsRq_of_checks hf hr he (.lsRq .ta a) false rfl (fun k => nomatch k) hq hroom hx)
    case rqS =>
      exact goesOn_of_ready h (issueLsRq_of_checks hf hr he (.lsRqS .ta a) true rfl
        (fun _ => strideOk_of_range h1 h2 h0) hq hroom hx)
    case wq => exact goesOn_of_ready h (issueLsWq_of_checks hf hr he hq hrows hx)

end Sys2Proof.Machine
end

section
/-! SUPPORT. DMA.COPY: O25. -/

namespace Sys2Proof.Machine
open Claims

theorem raOk_of_lt {v : Word64} (h : v.toNat < 2 ^ 48) (h512 : v.toNat % 512 = 0) : raOk v = true := by
  rw [raOk, decide_eq_true h, h512]
  rfl

/-- The relative rows of a local end of a DMA.COPY. -/
def dmaRels (r : Reg) (a : DmaArgs) (s : State) : List Int := strided (sreg .ta r s).toNat (dmaCount a) 1

/-! Each form at its issue (R212 to R214). -/

/-- Local to local. -/
def dmaLlFlight (a : DmaArgs) (x y : Xlate) (s : State) : Flight :=
  { newFlight .ta (.dmaCopy .ta a) .dma s with
    xl := [x, y]
    tests := testsFor x (readKind a.clear) (dmaRels a.src a s) ++ testsFor y .write (dmaRels a.dst a s)
    acts := llPlan x y a.port a.clear ((dmaRels a.src a s).zip (dmaRels a.dst a s)) }

/-- Local to reservoir. -/
def dmaLrFlight (a : DmaArgs) (x : Xlate) (s : State) : Flight :=
  { newFlight .ta (.dmaCopy .ta a) .dma s with
    xl := [x], tests := testsFor x (readKind a.clear) (dmaRels a.src a s), dma := dmaRows x (dmaRels a.src a s)
    acts := (dmaRels a.src a s).zipIdx.map (fun p =>
      [readAccess x a.port a.clear (.reservoir p.2 (BitVec.ofNat 48 ((sreg .ta a.dst s).toNat + 512 * p.2))) p.1]) }

/-- Reservoir to local. -/
def dmaRlFlight (a : DmaArgs) (x : Xlate) (s : State) : Flight :=
  { newFlight .ta (.dmaCopy .ta a) .dma s with
    xl := [x], tests := testsFor x .write (dmaRels a.dst a s), dma := dmaRows x (dmaRels a.dst a s) }

/-- Tiles to local. -/
def dmaTlFlight (a : DmaArgs) (ts : List Nat) (x : Xlate) (s : State) : Flight :=
  { newFlight .ta (.dmaCopy .ta a) .dma s with
    tileOp := true, xl := [x], rowsIn := (rawRows s ts).take (dmaCount a)
    tests := testsFor x .write (dmaRels a.dst a s), acts := writePlan x a.port (dmaRels a.dst a s) }

section
variable {a : DmaArgs} {x y : Xlate} {s : State} (hf : free .ta [a.src, a.dst] s) (he : engineReady .ta .dma s = .ok ())
include hf he

theorem issueDmaLl_of_checks (hsrc : (sreg .ta a.src s).toNat < 98304) (hdst : (sreg .ta a.dst s).toNat < 98304)
    (hport : a.port ≠ s.mould.cfg.bport)
    (hx : handlesOk .ta [{ h := a.ha, epoch := none, needs := [.rd], rels := dmaRels a.src a s },
      { h := a.hb, epoch := none, needs := [.wr], rels := dmaRels a.dst a s }] s = .ok [x, y]) :
    issueDmaLl .ta a s = .go (launched (dmaLlFlight a x y s) (startDma a) s) :=
  verdict_of_passed (regsReady_of_free hf) <|
    verdict_of_passed (paramsOk_of_all (by simp [rsOk_of_lt hsrc, rsOk_of_lt hdst, portOk_of_ne hport])) <|
    verdict_of_passed he <| verdict_of_passed hx (launch_eq ..)

theorem issueDmaLr_of_checks (hhb : a.hb = 0) (hsrc : (sreg .ta a.src s).toNat < 98304)
    (hdst : (sreg .ta a.dst s).toNat < 2 ^ 48) (h512 : (sreg .ta a.dst s).toNat % 512 = 0)
    (hport : a.port ≠ s.mould.cfg.bport) (hx : checkHandle .ta a.ha .rd (dmaRels a.src a s) s = .ok x) :
    issueDmaLr .ta a s = .go (launched (dmaLrFlight a x s) (startDma a) s) :=
  verdict_of_passed (need_of_true (beq_iff_eq.2 hhb)) <| verdict_of_passed (regsReady_of_free hf) <|
    verdict_of_passed (paramsOk_of_all (by simp [rsOk_of_lt hsrc, raOk_of_lt hdst h512, portOk_of_ne hport])) <|
    verdict_of_passed he <| verdict_of_passed hx (launch_eq ..)

theorem issueDmaRl_of_checks (hhb : a.hb = 0) (hsrc : (sreg .ta a.src s).toNat < 2 ^ 48)
    (h512 : (sreg .ta a.src s).toNat % 512 = 0) (hdst : (sreg .ta a.dst s).toNat < 98304)
    (hx : checkHandle .ta a.ha .wr (dmaRels a.dst a s) s = .ok x) :
    issueDmaRl .ta a s = .go (launched (dmaRlFlight a x s) (startDma a) s) :=
  verdict_of_passed (need_of_true (beq_iff_eq.2 hhb)) <| verdict_of_passed (regsReady_of_free hf) <|
    verdict_of_passed (paramsOk_of_all (by simp [raOk_of_lt hsrc h512, rsOk_of_lt hdst])) <|
    verdict_of_passed he <| verdict_of_passed hx (launch_eq ..)

/-- The form TL takes its rows in its issue cycle through the operand cache, where no parity error meets it (R139, R348). -/
theorem issueDmaTl_of_checks {ts : List Nat} (hsrc : a.src = 0) (hhb : a.hb.toNat < 64)
    (hg : tileGroup (a.hb.setWidth 6) = some ts) (ht : tilesReady (tileMask ts) 0 s = .ok ())
    (hdst : (sreg .ta a.dst s).toNat < 98304) (hn : dmaCount a ≤ 4 * ts.length) (hport : a.port ≠ s.mould.cfg.bport)
    (hfull : ∀ k ∈ ts, (tileCfg s k).full = true) (hx : checkHandle .ta a.ha .wr (dmaRels a.dst a s) s = .ok x)
    (hmeets : meets s .dma (readsRaw ts (dmaCount a)) = none) :
    issueDmaTl .ta a s = .go (launched (dmaTlFlight a ts x s) (startDma a)
      ((rawSegs ts (dmaCount a)).foldl (fun s g => cacheRow g.1 g.2 s) s)) := by
  have hsome : (tileGroup (a.hb.setWidth 6)).isSome = true := by rw [hg]; rfl
  obtain rfl : (tileGroup (a.hb.setWidth 6)).getD [] = ts := by rw [hg]; rfl
  refine verdict_of_passed (need_of_true (by simp [hsrc, hhb])) <|
    verdict_of_passed (regsReady_of_free (free_of_subset hf (m := [a.dst]) (by simp))) <| verdict_of_passed ht <|
    verdict_of_passed (paramsOk_of_all ?params) <| verdict_of_passed he <|
    verdict_of_passed (tilesFull_of_all hfull) <| verdict_of_passed hx ?launch
  case params => simp [hsome, rsOk_of_lt hdst, hn, portOk_of_ne hport]
  case launch =>
    rw [hmeets]
    rfl

end

/-! The form picks the issue of a DMA.COPY (Table 09.4). -/

section
variable {a : DmaArgs} {s : State}

theorem issueDma_ll (h : a.form = 0) : issueDma .ta a s = issueDmaLl .ta a s := by
  rw [issueDma, h]
  rfl

theorem issueDma_lr (h : a.form = 1) : issueDma .ta a s = issueDmaLr .ta a s := by
  rw [issueDma, h]
  rfl

theorem issueDma_rl (h : a.form = 2) : issueDma .ta a s = issueDmaRl .ta a s := by
  rw [issueDma, h]
  rfl

theorem issueDma_tl (h : a.form = 3) : issueDma .ta a s = issueDmaTl .ta a s := by
  rw [issueDma, h]
  rfl

end

/-- Settles O25: the form picks the checks, and where they all pass the issue is its launch. -/
theorem dmaCopiesIssue : Obligations.DmaCopiesIssue := by
  intro a x y ts s h v n src dst from_ to_ fl port go hf he
  refine ⟨?ll, ?lr, ?rl, ?tl⟩
  case ll =>
    intro hform hsrc hdst hport hx
    exact goesOn_of_ready h
      ((issueDma_ll hform).trans (issueDmaLl_of_checks hf he hsrc hdst hport hx))
  case lr =>
    intro hform hhb hsrc hdst h512 hport hx
    exact goesOn_of_ready h
      ((issueDma_lr hform).trans (issueDmaLr_of_checks hf he hhb hsrc hdst h512 hport hx))
  case rl =>
    intro hform hhb hsrc h512 hdst hx
    exact goesOn_of_ready h
      ((issueDma_rl hform).trans (issueDmaRl_of_checks hf he hhb hsrc h512 hdst hx))
  case tl =>
    intro hform hsrc hhb hg ht hdst hn hport hfull hx hmeets
    exact goesOn_of_ready h ((issueDma_tl hform).trans
      (issueDmaTl_of_checks hf he hsrc hhb hg ht hdst hn hport hfull hx hmeets))

end Sys2Proof.Machine
end

section
/-! SUPPORT. Remote instructions: O26. -/

namespace Sys2Proof.Machine
open Claims

/-! Local ends (Table 21.7). -/

section
variable {c : Prop} [Decidable c] {m k : Chk Verdict} {v : Verdict}

/-- A chain of checks takes the way of its condition. -/
theorem verdict_of_then (hc : c) (h : verdict m = v) : verdict (if c then m else k) = v := by rw [if_pos hc, h]

theorem verdict_of_else (hc : ¬c) (h : verdict k = v) : verdict (if c then m else k) = v := by rw [if_neg hc, h]

end

theorem localEnd_handle {le : BitVec 9} (h : le.toNat < 256) : le.getLsbD 8 = false := Nat.testBit_lt_two_pow h

theorem localEnd_queue {le : BitVec 9} (h : 256 ≤ le.toNat) : le.getLsbD 8 = true := by
  have hmsb : le.msb = true := by rw [BitVec.msb_eq_decide]; exact decide_eq_true h
  rwa [BitVec.msb_eq_getLsbD_last] at hmsb

theorem localEndOk_of_handle {le : BitVec 9} (h : le.toNat < 256) : localEndOk le = .ok () :=
  need_of_true (by rw [localEnd_handle h]; rfl)

theorem localEndOk_of_queue {le : BitVec 9} (h : le.toNat < 264) (h8 : 256 ≤ le.toNat) : localEndOk le = .ok () :=
  need_of_true (by rw [decide_eq_true (by omega : le.toNat % 256 < 8), Bool.or_true])

/-! Operands in range (R216, Table 09.1). -/

/-- NODE, FP and WR of a remote instruction are in range. -/
def targetInRange (node wr : Reg) (fp : BitVec 2) (s : State) : Prop :=
  (sreg .ta node s).toNat < 2 ^ 19 ∧ portEnabled s fp = true ∧ (sreg .ta wr s).toNat % 2 ^ 32 < 2 ^ 17

theorem remoteParams_of_inRange {node wr : Reg} {fp : BitVec 2} {s : State} (h : targetInRange node wr fp s) (pos : Nat) :
    ∀ p ∈ remoteParams .ta node wr fp pos s, p.1 = true := by
  obtain ⟨hnode, hport, hwr⟩ := h
  simp only [remoteParams, List.forall_mem_cons]
  exact ⟨decide_eq_true hnode, hport, decide_eq_true hwr, List.forall_mem_nil _⟩

/-- The target's operands stand among others; all are in range where each part is. -/
theorem paramsOk_remote {node wr : Reg} {fp : BitVec 2} {pos : Nat} {s : State} {before after : List (Bool × Nat)}
    (h : targetInRange node wr fp s) (hb : ∀ p ∈ before, p.1 = true) (ha : ∀ p ∈ after, p.1 = true) :
    paramsOk (before ++ remoteParams .ta node wr fp pos s ++ after) = .ok () :=
  paramsOk_of_all <| List.forall_mem_append.2
    ⟨List.forall_mem_append.2 ⟨hb, remoteParams_of_inRange h pos⟩, ha⟩

/-- The status area is looked at only where there is one. -/
theorem statusAreaOk {saen : Bool} {v : Word64} (h : saen = true → saOk v = true) : (!saen || saOk v) = true := by
  cases saen
  · rfl
  · exact h rfl

/-! A handle as the local end (R216, R217). -/

section
variable {a : RemoteArgs} {x : Xlate} {sa : Option Nat} {s : State}

/-- PUT or MSG.SEND of a handle's rows at its issue. -/
def putFlight (i : Instr) (retry : Bool) (a : RemoteArgs) (x : Xlate) (sa : Option Nat) (s : State) : Flight :=
  let rels := remoteRels .ta a s
  { newFlight .ta i .remote s with
    dests := [a.sd], xl := [x], tests := testsFor x (readKind a.clear) rels
    remote := some (newRemote .ta .put retry a.fp a.win a.node a.wr a.key (a.le.setWidth 8) x.tagged false
      (rels.map (fun _ => newRow s none none)) a.sd sa s)
    acts := rels.zipIdx.map (fun p => [readAccess x a.port a.clear (.send p.2) p.1]) }

/-- TAKE, MSG.RECV or PEEK to a handle's rows at its issue. -/
def takeFlight (i : Instr) (q : ReqType) (retry : Bool) (a : RemoteArgs) (x : Xlate) (sa : Option Nat) (s : State) : Flight :=
  let rels := remoteRels .ta a s
  { newFlight .ta i .remote s with
    dests := [a.sd], xl := [x], tests := testsFor x .write rels
    remote := some (newRemote .ta q retry a.fp a.win a.node a.wr a.key (a.le.setWidth 8) x.tagged false
      (rels.map (fun k => newRow s none (some (physRow x.map k.toNat)))) a.sd sa s) }

section
variable (he : engineReady .ta .remote s = .ok ()) (hle : a.le.toNat < 256) (hf : free .ta (remoteRegs a) s)
  (hr : (sreg .ta a.rs s).toNat < 98304) (ht : targetInRange a.node a.wr a.fp s)
  (hsaen : a.saen = true → saOk (sreg .ta a.sa s) = true) (hsa : statusArea .ta a.saen a.sa (rowCount a.n1) s = .ok sa)
include he hle hf hr ht hsaen hsa

theorem issuePut_of_handle (i : Instr) (retry : Bool) (hport : a.port ≠ s.mould.cfg.bport)
    (hx : checkHandle .ta (a.le.setWidth 8) .rd (remoteRels .ta a s) s = .ok x) :
    issuePut i retry .ta a s = .go (launched (putFlight i retry a x sa s) (startPut a) s) := by
  have hQ : ¬ a.le.getLsbD 8 = true := ne_true_of_eq_false (localEnd_handle hle)
  exact verdict_of_passed (onlyThread_self _) <| verdict_of_passed (localEndOk_of_handle hle) <|
    verdict_of_passed (regsReady_of_free hf) <|
    verdict_of_passed (paramsOk_remote ht (by simp [rsOk_of_lt hr]) (by simp [portOk_of_ne hport, statusAreaOk hsaen])) <|
    verdict_of_else hQ <| verdict_of_passed rfl <| verdict_of_else hQ <| verdict_of_passed rfl <|
    verdict_of_passed he <| verdict_of_passed hsa <| verdict_of_else hQ <| verdict_of_passed hx (launch_eq ..)

theorem issueTake_of_handle (i : Instr) (q : ReqType) (retry : Bool)
    (hx : checkHandle .ta (a.le.setWidth 8) .wr (remoteRels .ta a s) s = .ok x) :
    issueTake i q retry .ta a s = .go (launched (takeFlight i q retry a x sa s) startRemote s) := by
  have hQ : ¬ a.le.getLsbD 8 = true := ne_true_of_eq_false (localEnd_handle hle)
  exact verdict_of_passed (onlyThread_self _) <| verdict_of_passed (localEndOk_of_handle hle) <|
    verdict_of_passed (regsReady_of_free hf) <|
    verdict_of_passed (paramsOk_remote ht (by simp [rsOk_of_lt hr]) (by simp [statusAreaOk hsaen])) <|
    verdict_of_else hQ <| verdict_of_passed rfl <| verdict_of_else hQ <| verdict_of_passed rfl <|
    verdict_of_passed he <| verdict_of_passed hsa <| verdict_of_else hQ <| verdict_of_passed hx (launch_eq ..)

end
end

/-- The relative rows of a FETCH. -/
def fetchRels (b : FetchArgs) (s : State) : List Int := strided (sreg .ta b.rs s).toNat (sreg .ta b.n s).toNat 1

/-- A FETCH at its issue. -/
def fetchFlight (b : FetchArgs) (x : Xlate) (s : State) : Flight :=
  { newFlight .ta (.fetch .ta b) .remote s with
    dests := [b.sd], xl := [x], tests := testsFor x .write (fetchRels b s)
    remote := some (newRemote .ta .fetch false b.fp b.win b.node b.wr b.key (b.le.setWidth 8) x.tagged false
      ((fetchRels b s).map (fun k => newRow s none (some (physRow x.map k.toNat)))) b.sd none s) }

theorem issueFetch_of_checks {b : FetchArgs} {x : Xlate} {s : State} (he : engineReady .ta .remote s = .ok ())
    (hle : b.le.toNat < 256) (hf : free .ta [b.rs, b.node, b.wr, b.key, b.sd, b.n] s)
    (hr : (sreg .ta b.rs s).toNat < 98304) (ht : targetInRange b.node b.wr b.fp s) (h1 : 1 ≤ (sreg .ta b.n s).toNat)
    (h2 : (sreg .ta b.n s).toNat ≤ 65535) (hx : checkHandle .ta (b.le.setWidth 8) .wr (fetchRels b s) s = .ok x) :
    issueFetch .ta b s = .go (launched (fetchFlight b x s) startRemote s) :=
  verdict_of_passed (onlyThread_self _) <| verdict_of_passed (localEndOk_of_handle hle) <|
    verdict_of_passed (regsReady_of_free hf) <|
    verdict_of_passed (paramsOk_remote ht (by simp [-BitVec.getLsbD_eq_getElem, localEnd_handle hle, rsOk_of_lt hr])
      (by simp [h1, h2])) <|
    verdict_of_passed he <| verdict_of_passed hx (launch_eq ..)

/-! An operand queue as the local end (R67, R68, R217). -/

section
variable {a : RemoteArgs} {sa : Option Nat} {s : State}

/-- PUT or MSG.SEND of a queue's rows at its issue. -/
def putQueueFlight (i : Instr) (retry : Bool) (a : RemoteArgs) (sa : Option Nat) (s : State) : Flight :=
  let rows := popRows s (a.le.toNat % 8) (rowCount a.n1)
  { newFlight .ta i .remote s with
    dests := [a.sd], rowsIn := rows
    remote := some (newRemote .ta .put retry a.fp a.win a.node a.wr a.key 0 false false
      (rows.map (fun b => newRow s (some b) none)) a.sd sa s) }

/-- TAKE, MSG.RECV or PEEK to a queue at its issue. -/
def takeQueueFlight (i : Instr) (r : ReqType) (retry : Bool) (a : RemoteArgs) (sa : Option Nat) (s : State) : Flight :=
  { newFlight .ta i .remote s with
    dests := [a.sd]
    remote := some (newRemote .ta r retry a.fp a.win a.node a.wr a.key 0 false true
      (List.replicate (rowCount a.n1) (newRow s none none)) a.sd sa s) }

section
variable (he : engineReady .ta .remote s = .ok ()) (h8 : 256 ≤ a.le.toNat) (hle : a.le.toNat < 264)
  (hf : free .ta (remoteRegs a) s) (ht : targetInRange a.node a.wr a.fp s)
  (hsaen : a.saen = true → saOk (sreg .ta a.sa s) = true) (hsa : statusArea .ta a.saen a.sa (rowCount a.n1) s = .ok sa)
include he h8 hle hf ht hsaen hsa

theorem issuePut_of_queue (i : Instr) (retry : Bool) (hq : queueOk .ta (a.le.toNat % 8) false (rowCount a.n1) s = .ok ())
    (hrows : popReady (a.le.toNat % 8) (rowCount a.n1) s = .ok ()) :
    issuePut i retry .ta a s = .go (launched (putQueueFlight i retry a sa s) (startPut a)
      (reservePop s.nextId (a.le.toNat % 8) (rowCount a.n1) s)) := by
  have hQ := localEnd_queue h8
  exact verdict_of_passed (onlyThread_self _) <| verdict_of_passed (localEndOk_of_queue hle h8) <|
    verdict_of_passed (regsReady_of_free hf) <|
    verdict_of_passed (paramsOk_remote ht (by rw [hQ]; simp) (by rw [hQ]; simp [statusAreaOk hsaen])) <|
    verdict_of_then hQ <| verdict_of_passed hq <| verdict_of_then hQ <| verdict_of_passed hrows <| verdict_of_passed he <|
    verdict_of_passed hsa <| verdict_of_then hQ (launch_eq ..)

theorem issueTake_of_queue (i : Instr) (r : ReqType) (retry : Bool)
    (hq : queueOk .ta (a.le.toNat % 8) true (rowCount a.n1) s = .ok ())
    (hroom : pushReady (a.le.toNat % 8) (rowCount a.n1) s = .ok ()) :
    issueTake i r retry .ta a s = .go (launched (takeQueueFlight i r retry a sa s) startRemote
      (reservePush s.nextId (a.le.toNat % 8) (rowCount a.n1) s)) := by
  have hQ := localEnd_queue h8
  exact verdict_of_passed (onlyThread_self _) <| verdict_of_passed (localEndOk_of_queue hle h8) <|
    verdict_of_passed (regsReady_of_free hf) <|
    verdict_of_passed (paramsOk_remote ht (by rw [hQ]; simp) (by simp [statusAreaOk hsaen])) <|
    verdict_of_then hQ <| verdict_of_passed hq <| verdict_of_then hQ <| verdict_of_passed hroom <| verdict_of_passed he <|
    verdict_of_passed hsa <| verdict_of_then hQ (launch_eq ..)

end
end

/-- Settles O26: the local end picks the checks, and where they all pass the issue is its launch; the instructions of one
direction are one rule. -/
theorem remoteInstructionsIssue : Obligations.RemoteInstructionsIssue := by
  refine ⟨fun a b x sa s h => ?handle, fun a sa s h => ?queue⟩
  case handle =>
    intro v rels rem put get he
    refine ⟨fun hle hf hr hnode hfp hwr hsaen hsa => ?rows, fun hle hf hr hnode hfp hwr h1 h2 hx => ?fetch⟩
    case rows =>
      have ht : targetInRange a.node a.wr a.fp v := ⟨hnode, hfp, hwr⟩
      refine ⟨fun hport hx => ?_, fun hx => ?_⟩
      · have hput (i : Instr) (retry : Bool) := issuePut_of_handle he hle hf hr ht hsaen hsa i retry hport hx
        exact ⟨goesOn_of_ready h (hput _ _), goesOn_of_ready h (hput _ _)⟩
      · have htake (i : Instr) (q : ReqType) (retry : Bool) := issueTake_of_handle he hle hf hr ht hsaen hsa i q retry hx
        exact ⟨goesOn_of_ready h (htake _ _ _), goesOn_of_ready h (htake _ _ _), goesOn_of_ready h (htake _ _ _)⟩
    case fetch => exact goesOn_of_ready h (issueFetch_of_checks he hle hf hr ⟨hnode, hfp, hwr⟩ h1 h2 hx)
  case queue =>
    intro v n q rem put get h8 hle he hf hnode hfp hwr hsaen hsa
    have ht : targetInRange a.node a.wr a.fp v := ⟨hnode, hfp, hwr⟩
    refine ⟨fun hq hrows => ?_, fun hq hroom => ?_⟩
    · have hput (i : Instr) (retry : Bool) := issuePut_of_queue he h8 hle hf ht hsaen hsa i retry hq hrows
      exact ⟨goesOn_of_ready h (hput _ _), goesOn_of_ready h (hput _ _)⟩
    · have htake (i : Instr) (r : ReqType) (retry : Bool) := issueTake_of_queue he h8 hle hf ht hsaen hsa i r retry hq hroom
      exact ⟨goesOn_of_ready h (htake _ _ _), goesOn_of_ready h (htake _ _ _), goesOn_of_ready h (htake _ _ _)⟩

end Sys2Proof.Machine
end

section
/-! SUPPORT. Answers of the reservoir: O33. -/

namespace Sys2Proof.Machine
open Claims

/-! Requests that are answered (R384, R385). -/

/-- A read that is answered leaves the reservoir's queue, and those that wait are sent. -/
def takenRead (r : ResReq) (s : State) : State := reservoirPump { s with res := { s.res with reads := s.res.reads.erase r } }

/-- A write that is acknowledged leaves the reservoir's queue, and those that wait are sent. -/
def takenWrite (r : ResReq) (s : State) : State := reservoirPump { s with res := { s.res with writes := s.res.writes.erase r } }

theorem findFlight_takenRead (r : ResReq) (fid : Nat) (s : State) : findFlight fid (takenRead r s) = findFlight fid s :=
  findFlight_congr rfl

theorem passLull_res (s : State) : (passLull s).res = s.res := by
  obtain ⟨_, _, _, _, _, e⟩ := passLull_eq s
  rw [e]
  rfl

theorem passLull_spool (s : State) : (passLull s).spool = s.spool := by
  obtain ⟨_, _, _, _, _, e⟩ := passLull_eq s
  rw [e]
  rfl

/-! Rows of a DMA.COPY (R211, R214, R215). -/

section
variable {id : BitVec 6} {r : ResReq} {fid i : Nat} {s : State}

/-- The boundary write that brings a row from the reservoir into the local store. -/
def dmaWrite (f : Flight) (d : DmaRow) (fid i : Nat) (data : Bytes) : BAccess :=
  { phys := d.phys, handle := (xlate f 0).h, tagged := (xlate f 0).tagged, row := some (fitBytes 512 data)
    use := .dma fid i, buffer := none, taken := none }

theorem resReadStep_dma {f : Flight} {d : DmaRow} (hd : f.dma[i]? = some d) (hf : findFlight fid s = some f)
    (hr : s.res.reads.find? (fun q => q.id == some id) = some r) (hu : r.use = .dmaIn fid i) (data : Bytes) :
    resReadStep id false data s = queueBoundary (dmaWrite f d fid i data) (takenRead r s) := by
  have hf' := (findFlight_takenRead r fid s).trans hf
  unfold takenRead at hf'
  simp only [resReadStep, hr, hu, hf', hd]
  rfl

theorem resReadStep_dma_error {f : Flight} (hf : findFlight fid s = some f)
    (hr : s.res.reads.find? (fun q => q.id == some id) = some r) (hu : r.use = .dmaIn fid i) (data : Bytes) :
    resReadStep id true data s = dmaError fid i r.address (takenRead r s) := by
  have hf' := (findFlight_takenRead r fid s).trans hf
  unfold takenRead at hf'
  simp only [resReadStep, hr, hu, hf']
  rfl

theorem resWriteStep_dma (hr : s.res.writes.find? (fun q => q.id == some id) = some r) (hu : r.use = .dmaOut fid i)
    (err : Bool) : resWriteStep id err s = if err then dmaError fid i r.address (takenWrite r s)
      else bump cntDmaOut 1 (dmaRowDone fid i (takenWrite r s)) := by
  simp only [resWriteStep, hr, hu]
  rfl

end

/-! Fills of the Spool (R77, R79). -/

/-- A fill that is answered leaves the reservoir's queue and the fills in flight, and the reads that wait are sent. -/
def takenFill (r : ResReq) (f : SpoolFill) (s : State) : State := reservoirPump { s with
  res := { s.res with reads := s.res.reads.erase r }, spool := { s.spool with fills := s.spool.fills.erase f } }

/-- A fill in flight that one thread alone asks for. -/
def demandedBy (th : Thread) (f : SpoolFill) : Prop :=
  f.discard = false ∧ f.ahead = false ∧ f.demandTa = decide (th = .ta) ∧ f.demandTx = decide (th = .tx)

/-- A filled line is resident. -/
theorem spoolHit_installLine (l : SpoolLine) (s : State) : spoolHit (installLine l s) l.tag = true :=
  (spoolHit_iff _ _).2 ⟨l, List.mem_cons_self, rfl⟩

/-- A thread that waits for a line goes on once all its lines are there, and faults on an error (R77, R79, log entry 56). -/
theorem wakeFetch_of_waiting {th : Thread} {s : State} (hw : (getThread th s).wait = .spool) (err : Bool) (line : BitVec 48) :
    wakeFetch th true err line s = if err then issueFault th fcSpool (line.setWidth 64) s
      else if fetchOutstanding th s then s else setWait th .none s := by
  simp [wakeFetch, hw]

/-- A line that is installed moves no thread. -/
theorem getThread_installLine (th : Thread) (l : SpoolLine) (s : State) : getThread th (installLine l s) = getThread th s := by
  unfold installLine dropLines
  dsimp only
  split
  · cases th <;> rfl
  · split <;> cases th <;> rfl

theorem getThread_takenFill (th : Thread) (r : ResReq) (f : SpoolFill) (s : State) :
    getThread th (takenFill r f s) = getThread th s := by
  cases th <;> rfl

/-- The answer to a fill that one thread asks for: the line is installed unless there is an error, and the thread is told. -/
theorem spoolArrival_of_demand {th : Thread} {line : BitVec 48} {r : ResReq} {f : SpoolFill} {s : State}
    (hr : s.res.reads.find? (fun r => r.id.isSome && r.use == .fill line) = some r)
    (hf : s.spool.fills.find? (fun f => f.tag == line) = some f) (hd : demandedBy th f) (err : Bool) (data : Bytes) :
    spoolArrival line err data s = some (wakeFetch th true err line (if err then takenFill r f s
      else installLine { tag := line, pinned := f.pin, data := fitBytes 128 data } (takenFill r f s))) := by
  obtain ⟨hdiscard, hahead, hta, htx⟩ := hd
  simp only [spoolArrival, hr, hf, hdiscard, hahead, hta, htx]
  cases th <;> cases err <;> rfl

/-- Settles O33: the request that is answered is found, and what it was for decides; the fill's one thread waits for it. -/
theorem reservoirAnswers : Obligations.ReservoirAnswers := by
  refine ⟨fun id r fid i f d data s => ?dma, fun th line r f data s => ?fill⟩
  case dma =>
    intro s0 hd hf
    obtain ⟨-, -, hflights, -⟩ := passLull_holds s
    have hf0 : findFlight fid s0 = some f := (findFlight_congr hflights).trans hf
    refine ⟨fun hr hu => ?read, fun hr hu => ?write⟩
    case read =>
      intro t
      rw [← passLull_res] at hr
      have ht : t = takenRead r s0 := by rw [takenRead, passLull_res]
      rw [ht]
      exact ⟨congrArg _ (resReadStep_dma hd hf0 hr hu data), congrArg _ (resReadStep_dma_error hf0 hr hu data)⟩
    case write =>
      intro t
      rw [← passLull_res] at hr
      have ht : t = takenWrite r s0 := by rw [takenWrite, passLull_res]
      rw [ht]
      exact ⟨congrArg _ (resWriteStep_dma hr hu false), congrArg _ (resWriteStep_dma hr hu true)⟩
  case fill =>
    intro hr hf hdiscard hahead hta htx hw t t'
    rw [← passLull_res] at hr
    rw [← passLull_spool] at hf
    have ht : t = takenFill r f (passLull s) := by rw [takenFill, passLull_res, passLull_spool]
    have hth : (getThread th t).wait = .spool := by rw [ht, getThread_takenFill, getThread_passLull, hw]
    have hth' : (getThread th t').wait = .spool := by rw [getThread_installLine, hth]
    have harrival (err : Bool) : exec (.spoolFillArrival line err data) s =
        .next (wakeFetch th true err line (if err then t else t')) := by
      have h := spoolArrival_of_demand hr hf ⟨hdiscard, hahead, hta, htx⟩ err data
      rw [← ht] at h
      exact congrArg (fun o => Host.Outcome.next (Option.getD o s)) h
    refine ⟨(harrival false).trans ?_, spoolHit_installLine _ t, (harrival true).trans ?_⟩
    · exact congrArg _ (wakeFetch_of_waiting hth' false line)
    · exact congrArg _ (wakeFetch_of_waiting hth true line)

end Sys2Proof.Machine
end

section
/-! SUPPORT. The entries of a canonical sparse map. -/

namespace Sys2Proof.Sparse

variable {α : Type} [DecidableEq α]

/-- An entry that a canonical map lists is what its key reads as. -/
theorem get_of_mem_wfFrom (d : α) {m : Sparse α} {lo k : Nat} {v : α} (h : wfFrom d lo m = true) (hk : (k, v) ∈ m) :
    lo ≤ k ∧ get d m k = v := by
  induction m generalizing lo with
  | nil => cases hk
  | cons p m ih =>
    obtain ⟨j, w⟩ := p
    simp only [wfFrom, Bool.and_eq_true, decide_eq_true_eq] at h
    obtain ⟨⟨hlo, -⟩, hm⟩ := h
    rcases List.mem_cons.1 hk with he | hk
    · obtain ⟨rfl, rfl⟩ := Prod.mk.inj he
      exact ⟨hlo, by simp [get]⟩
    · obtain ⟨hj, hv⟩ := ih hm hk
      refine ⟨by omega, ?_⟩
      rw [get, if_neg (by omega), if_neg (by omega), hv]

theorem get_of_mem (d : α) {m : Sparse α} {k : Nat} {v : α} (h : wf d m = true) (hk : (k, v) ∈ m) : get d m k = v :=
  (get_of_mem_wfFrom d h hk).2

end Sys2Proof.Sparse
end

section
/-! SUPPORT. SESS.NEXT: O28. -/

namespace Sys2Proof.Machine
open Claims

/-! The selection (R275). -/

theorem mem_of_oldest {s : State} {l : List (Nat × Session)} {x : Nat × Session} (h : oldest s l = some x) : x ∈ l := by
  induction l generalizing x with
  | nil => cases h
  | cons y l ih =>
    rw [oldest] at h
    split at h
    · cases h
      exact List.mem_cons_self
    · next z hz =>
      split at h
      · cases h
        exact List.mem_cons_self
      · cases h
        exact List.mem_cons_of_mem _ (ih hz)

/-- The selection takes entries of the list, at most as many as it may, and none twice. -/
theorem oldestFirst_sound (s : State) (n : Nat) (l : List (Nat × Session)) :
    (∀ p ∈ oldestFirst s n l, p ∈ l) ∧ (oldestFirst s n l).length ≤ n ∧
      ((oldestFirst s n l).map (fun p => p.1)).Nodup := by
  induction n generalizing l with
  | zero => exact ⟨fun _ h => absurd h List.not_mem_nil, Nat.le_refl _, List.nodup_nil⟩
  | succ n ih =>
    rw [oldestFirst]
    split
    · exact ⟨fun _ h => absurd h List.not_mem_nil, Nat.zero_le _, List.nodup_nil⟩
    · next x hx =>
      obtain ⟨hmem, hlen, hnodup⟩ := ih (l.filter (fun y => y.1 != x.1))
      refine ⟨fun p hp => ?_, Nat.succ_le_succ hlen, List.nodup_cons.2 ⟨fun hk => ?_, hnodup⟩⟩
      · rcases List.mem_cons.1 hp with rfl | hp
        · exact mem_of_oldest hx
        · exact List.mem_of_mem_filter (hmem p hp)
      · obtain ⟨p, hp, he⟩ := List.mem_map.1 hk
        have hne := (List.mem_filter.1 (hmem p hp)).2
        simp [he] at hne

/-- The selected sessions are entries of the table, READY and of a class within the budget; they are at most the batch cap,
and none is selected twice. -/
theorem selectSessions_sound (s : State) :
    (∀ p ∈ selectSessions s, p ∈ s.sess.entries ∧ p.2.state = .ready ∧ p.2.cls ≤ s.ballast.budget) ∧
      (selectSessions s).length ≤ batchCap s s.ballast.budget ∧ ((selectSessions s).map (fun p => p.1)).Nodup := by
  unfold selectSessions
  dsimp only
  split
  · exact ⟨fun _ h => absurd h List.not_mem_nil, Nat.zero_le _, List.nodup_nil⟩
  · next x _ =>
    obtain ⟨hmem, hlen, hnodup⟩ := oldestFirst_sound s (batchCap s s.ballast.budget)
      ((s.sess.entries.filter (fun p => p.2.state == .ready && decide (p.2.cls ≤ s.ballast.budget))).filter
        (fun p => p.2.model == x.2.model))
    refine ⟨fun p hp => ?_, hlen, hnodup⟩
    obtain ⟨hin, hc⟩ := List.mem_filter.1 (List.mem_of_mem_filter (hmem p hp))
    simpa [hin] using hc

/-- A canonical table reads a listed entry as it is listed. -/
theorem getSess_of_mem {s : State} (hm : memoriesCanonical s) {p : Nat × Session} (h : p ∈ s.sess.entries) :
    getSess s p.1 = p.2 := by
  obtain ⟨-, -, -, -, -, -, -, -, -, hw, -⟩ := hm
  exact Sparse.get_of_mem _ hw h

/-! The selected sessions run (R225). -/

/-- A selected session, with the stamp of the selection. -/
def running (s : State) (p : Nat × Session) : Session := { p.2 with state := .running, stamp := cycleStamp s }

/-- The table with its selected sessions RUNNING. -/
def runSessions (w : State) (sel : List (Nat × Session)) (s : State) : State :=
  sel.foldl (fun s p => setSess p.1 (running w p) s) s

/-- Selected sessions run, the others stay as they are. -/
theorem getSess_runSessions {w : State} {sel : List (Nat × Session)} (hn : (sel.map (fun p => p.1)).Nodup) {s : State}
    (hm : memoriesCanonical s) :
    (∀ p ∈ sel, getSess (runSessions w sel s) p.1 = running w p) ∧
      ∀ i, i ∉ sel.map (fun p => p.1) → getSess (runSessions w sel s) i = getSess s i := by
  induction sel generalizing s with
  | nil => exact ⟨fun _ h => absurd h List.not_mem_nil, fun _ _ => rfl⟩
  | cons q sel ih =>
    obtain ⟨hq, hn⟩ := List.nodup_cons.1 hn
    obtain ⟨hin, hout⟩ := ih hn (memoriesCanonical_setSess q.1 (running w q) hm)
    refine ⟨fun p hp => ?_, fun i hi => ?_⟩
    · rcases List.mem_cons.1 hp with rfl | hp
      · exact (hout _ hq).trans (getSess_setSess_self _ _ hm)
      · exact hin p hp
    · obtain ⟨hi, hout'⟩ := not_or.1 (mt List.mem_cons.2 hi)
      exact (hout i hout').trans (getSess_setSess_ne _ hm hi)

/-- Running sessions change no outstanding list. -/
theorem lists_runSessions (w : State) (sel : List (Nat × Session)) (s : State) :
    (runSessions w sel s).sess.lists = s.sess.lists := by
  induction sel generalizing s with
  | nil => rfl
  | cons q sel ih => exact ih (setSess q.1 (running w q) s)

theorem lists_addList {α : Type} [DecidableEq α] (l : List α) (g : α → Nat) (s : State) :
    (addList (l.map g) s).sess.lists = s.sess.lists ++ (if l = [] then [] else [{ sessions := l.map g, boundaries := 0 }]) := by
  cases l with
  | nil => simp [addList]
  | cons a l => rfl

/-- A list that becomes outstanding changes no entry. -/
theorem getSess_addList (l : List Nat) (s : State) (i : Nat) : getSess (addList l s) i = getSess s i := by
  unfold addList
  split <;> rfl

theorem sessRecords_length (w : State) (sel : List (Nat × Session)) :
    ((sel.map (fun p => sessRecord p.1 (running w p))).flatten).length = 32 * sel.length := by
  rw [← List.flatMap_def, length_flatMap_of_length (n := 32) sel fun p => by simp [sessRecord, leBytes_length], Nat.mul_comm]

/-! What the sequencer does with its tables leaves the instructions in flight alone (R272, R276). -/

theorem flights_foldl {α : Type} {g : State → α → State} (hg : ∀ s a, (g s a).flights = s.flights) (l : List α)
    (s : State) : (l.foldl g s).flights = s.flights := by
  induction l generalizing s with
  | nil => rfl
  | cons a l ih => exact (ih (g s a)).trans (hg s a)

theorem flights_sessTouch (i : Nat) (s : State) : (sessTouch i s).flights = s.flights := by
  simp [sessTouch, apply_ite State.flights]

theorem flights_sessScan (s : State) : (sessScan s).flights = s.flights :=
  flights_foldl (fun s i => flights_sessTouch i s) _ s

theorem flights_retireSession (i : Nat) (s : State) : (retireSession i s).flights = s.flights := by
  unfold retireSession
  dsimp only
  split
  · split <;> rfl
  · rfl

theorem flights_retireOldest (s : State) : (retireOldest s).flights = s.flights := by
  unfold retireOldest
  split
  · exact (flights_foldl (fun s i => flights_retireSession i s) _ _).trans (flights_sessScan _)
  · rfl

theorem flights_runSessions (w : State) (sel : List (Nat × Session)) (s : State) :
    (runSessions w sel s).flights = s.flights :=
  flights_foldl (fun s (p : Nat × Session) => setSess_flights p.1 (running w p) s) sel s

theorem flights_addList (l : List Nat) (s : State) : (addList l s).flights = s.flights := by
  unfold addList
  split <;> rfl

/-! The issue of SESS.NEXT (R225, R276). -/

/-- A SESS.NEXT at its issue: its records and number are committed when it completes. -/
def sessNextFlight (sa sd : Reg) (a : Nat) (w : State) : Flight :=
  { newFlight .ta (.sessNext .ta sa sd) .session w with
    dests := [sd], begun := true
    commit := { Commit.empty with
      sdm := [(a, ((selectSessions w).map (fun p => sessRecord p.1 (running w p))).flatten)]
      regs := [(sd, BitVec.ofNat 64 (selectSessions w).length)] } }

/-- The table behind a SESS.NEXT that has selected, with its list outstanding. -/
def sessionsSelected (w : State) : State :=
  addList ((selectSessions w).map (fun p => p.1)) (runSessions w (selectSessions w) w)

/-- The state behind a SESS.NEXT that has selected. -/
def sessNextIssued (sa sd : Reg) (a : Nat) (w : State) : State :=
  { sessionsSelected w with
    flights := (sessionsSelected w).flights ++ [sessNextFlight sa sd a w], nextId := (sessionsSelected w).nextId + 1 }

theorem getSess_congr {s s' : State} (h : s'.sess = s.sess) (i : Nat) : getSess s' i = getSess s i := by
  rw [getSess, getSess, h]

theorem getSess_sessNextIssued (sa sd : Reg) (a : Nat) (w : State) (i : Nat) :
    getSess (sessNextIssued sa sd a w) i = getSess (runSessions w (selectSessions w) w) i :=
  calc getSess (sessNextIssued sa sd a w) i
      = getSess (sessionsSelected w) i := getSess_congr rfl i
    _ = getSess (runSessions w (selectSessions w) w) i := getSess_addList _ _ i

theorem flights_sessNextIssued (sa sd : Reg) (a : Nat) (w : State) :
    (sessNextIssued sa sd a w).flights = w.flights ++ [sessNextFlight sa sd a w] :=
  congrArg (· ++ _) ((flights_addList _ _).trans (flights_runSessions w (selectSessions w) w))

theorem lists_sessNextIssued (sa sd : Reg) (a : Nat) (w : State) :
    (sessNextIssued sa sd a w).sess.lists = w.sess.lists ++ (if selectSessions w = [] then []
      else [{ sessions := (selectSessions w).map (fun p => p.1), boundaries := 0 }]) := by
  rw [← lists_runSessions w (selectSessions w) w]
  exact lists_addList (selectSessions w) (fun p => p.1) _

/-- SESS.NEXT whose checks all pass retires a third list, selects, and enters flight. -/
theorem issueSessNext_of_checks {sa sd : Reg} {s : State} (hf : free .ta [sa, sd] s)
    (hengine : s.mould.cfg.engines.getLsbD 4 = true) (hal : (sreg .ta sa s).toNat % 64 = 0)
    (hend : (sreg .ta sa s).toNat + 512 ≤ 0x40000) (he : engineReady .ta .session s = .ok ())
    (hb : sdmBad (retireOldest (sessScan s)) (sreg .ta sa s).toNat
      (32 * (selectSessions (retireOldest (sessScan s))).length) = none) :
    issueSessNext .ta sa sd s = .go (sessNextIssued sa sd (sreg .ta sa s).toNat (retireOldest (sessScan s))) := by
  have hsa : saOk (sreg .ta sa s) = true := saOk_of_lt (by omega) hal
  refine verdict_of_passed (onlyThread_self _) <| verdict_of_passed (need_of_true hengine) <|
    verdict_of_passed (regsReady_of_free hf) <| verdict_of_passed (paramsOk_of_all (by simp [hsa])) <|
    verdict_of_passed he <| verdict_of_passed (sdmRange_of_le hend) ?_
  dsimp only
  rw [hb]
  rfl

/-- Settles O28: the selection is sound, its sessions differ, and each is written once. -/
theorem sessionSelection : Obligations.SessionSelection := by
  intro sa sd s h v a w sel hf hengine hal hend he hb hm
  obtain ⟨hready, hlen, hnodup⟩ := selectSessions_sound w
  obtain ⟨hrun, hstay⟩ := getSess_runSessions (w := w) hnodup hm
  have hi : issueSessNext .ta sa sd v = .go (sessNextIssued sa sd a w) :=
    issueSessNext_of_checks hf hengine hal hend he hb
  refine ⟨sessNextIssued sa sd a w, goesOn_of_ready h hi, lists_sessNextIssued sa sd a w, fun p hp => ?selected,
    fun i hi => ?others, hlen, sessNextFlight sa sd a w, ?flights, rfl, rfl, _, rfl, sessRecords_length w sel⟩
  case selected =>
    obtain ⟨hmem, hstate, hcls⟩ := hready p hp
    exact ⟨(getSess_of_mem hm hmem).symm, hstate, hcls, (getSess_sessNextIssued sa sd a w p.1).trans (hrun p hp)⟩
  case others => exact (getSess_sessNextIssued sa sd a w i).trans (hstay i hi)
  case flights =>
    have hw : w.flights = v.flights := (flights_retireOldest _).trans (flights_sessScan v)
    rw [flights_sessNextIssued, hw]

end Sys2Proof.Machine
end

section
/-! SUPPORT. GLZ.STEP and GLZ.ROWS: O37. -/

namespace Sys2Proof.Machine
open Claims

/-! Operands in range (R98, R240, R248). -/

/-- The handles of a Glaze instruction exist and are untagged (R240). -/
theorem glzHandles_untagged {hs : List (Nat × List Int)} {s : State}
    (h : ∀ p ∈ hs, p.1 < 256 ∧ (getHandle s (BitVec.ofNat 8 p.1)).tagged = false) :
    hs.all (fun p => decide (p.1 < 256) && !(getHandle s (BitVec.ofNat 8 p.1)).tagged) = true :=
  List.all_eq_true.2 fun p hp => by simp [h p hp]

/-- The second port of GLZ.ROWS, for its count rows, is a row port other than the first (R98, R248). -/
theorem port2Ok_of_rows {lazy : Bool} {a : GlzArgs} {s : State}
    (h : lazy = true → portOk a.port2 s = true ∧ a.port ≠ a.port2) :
    (!lazy || (portOk a.port2 s && a.port != a.port2)) = true :=
  notOr_of_imp fun k => Bool.and_eq_true_iff.2 ⟨(h k).1, bne_iff_ne.2 (h k).2⟩

/-! The issue of GLZ.STEP and GLZ.ROWS (R239 to R243, R248). -/

/-- A Glaze instruction whose operands are in order enters flight. The handles are looked at before their rows are known; then,
for GLZ.ROWS alone, the list; then the rows of every handle. -/
theorem issueGlaze_of_ready (i : Instr) {lazy : Bool} {a : GlzArgs} {xs : List Xlate} {s : State}
    (h : glazeReady lazy a xs s) : issueGlaze i lazy .tx a s = .go (glazeIssued i lazy a xs s) := by
  obtain ⟨hslots, hcodes, hrnd, hengine, hlist, hgrad, hregs, htiles, hch, hlzy, huntagged, hport, hport2, hgzd, ht, hqueues,
    hrows, hfree, hfull, hparam, hitems, hfmtg, hshapeg, ⟨ys, hys⟩, hcheck, hxs⟩ := h
  refine verdict_of_passed (onlyThread_self _) <| verdict_of_passed hslots <| verdict_of_passed hcodes <|
    verdict_of_passed (need_of_true hrnd) <| verdict_of_passed hengine <| verdict_of_passed (regsReady_of_free hregs) <|
    verdict_of_passed htiles <| verdict_of_passed (paramsOk_of_all ?params) <| verdict_of_passed hqueues <|
    verdict_of_passed hrows <| verdict_of_passed hfree <| verdict_of_passed hfull <|
    verdict_of_passed (formatsOk_of_none ?formats) <| verdict_of_passed (shapesOk_of_nil ?shapes) <|
    verdict_of_passed hys ?checked
  case params =>
    simp only [List.forall_mem_cons]
    exact ⟨bne_iff_ne.2 hch, beq_iff_eq.2 hlzy, glzHandles_untagged huntagged, hport, port2Ok_of_rows hport2, hgzd,
      decide_eq_true ht, notOr_of_imp hlist, hgrad, List.forall_mem_nil _⟩
  case formats =>
    simp only [List.forall_mem_cons]
    exact ⟨badCode_of_accepted hparam, ite_eq_right_iff.2 fun k => (hitems k).1, hfmtg, List.forall_mem_nil _⟩
  case shapes => exact List.append_eq_nil_iff.2 ⟨ite_eq_right_iff.2 fun k => (hitems k).2, hshapeg⟩
  case checked =>
    cases lazy with
    | false => exact verdict_of_passed hxs (launch_eq ..)
    | true => exact verdict_of_passed (hcheck rfl) (verdict_of_passed hxs (launch_eq ..))

/-- Settles O37: where every check passes, the issue is its launch. -/
theorem glazeInstructionsIssue : Obligations.GlazeInstructionsIssue := fun _ _ _ hs =>
  ⟨fun h => goesOn_of_ready hs (issueGlaze_of_ready _ h), fun h => goesOn_of_ready hs (issueGlaze_of_ready _ h)⟩

end Sys2Proof.Machine
end

section
/-! SUPPORT. Power windows, the Drogue with its margins, and the crossings: O54. -/

namespace Sys2Proof.Machine
open Claims

theorem portOpen_passLull (s : State) : portOpen (passLull s) = portOpen s := by
  obtain ⟨_, _, _, _, _, e⟩ := passLull_eq s
  rw [e]
  rfl

/-! The account of a window (R279). -/

theorem clampInt_between {lo hi : Int} (h : lo ≤ hi) (x : Int) : lo ≤ clampInt lo hi x ∧ clampInt lo hi x ≤ hi := by
  unfold clampInt
  dsimp only
  split <;> split <;> omega

/-- A number between two of 24 bits is one itself. -/
theorem toInt_ofInt_of_between {a b : BitVec 24} {x : Int} (ha : a.toInt ≤ x) (hb : x ≤ b.toInt) : (BitVec.ofInt 24 x).toInt = x :=
  BitVec.toInt_ofInt_eq_self (by decide) ((BitVec.le_toInt a).trans ha) (hb.trans_lt BitVec.toInt_lt)

/-- What an update boundary writes of the governor before its thermal model and its outputs, and what it leaves of the clock and
the threads. -/
def windowView (s : State) : (BalParams × Word32 × BitVec 16 × Option (BitVec 16) × Nat × BitVec 24) × Clocks × ThreadState × ThreadState :=
  ((s.ballast.par, s.ballast.ewScale, s.ballast.credit, s.ballast.strobe, s.ballast.missRun, s.ballast.balance), s.clk, s.ta, s.tx)

theorem windowView_deliverTm (s : State) : windowView (deliverTm s) = windowView s := by
  unfold deliverTm
  dsimp only
  split
  · split <;> rfl
  · rfl

theorem windowView_tripStep (s : State) : windowView (tripStep s) = windowView s := by
  unfold tripStep
  dsimp only
  split
  · simp only [windowView, logEvent_ballast, logEvent_clk, logEvent_ta, logEvent_tx]
  · rfl

/-- The state behind an update boundary's account and thermal model, at which the trip is decided (R279 to R281). -/
def modelled (credit : BitVec 16) (s : State) : State :=
  let scale := if s.brg.restarting then s.ballast.ewScale else s.ballast.scaleNext
  let r := closeWindow credit { s with ballast := { s.ballast with par := s.ballast.written, ewScale := scale } }
  thermalStep r.2 (deliverTm r.1)

theorem updateStep_eq (credit : BitVec 16) (s : State) : updateStep credit s = writeOutputs (tripStep (modelled credit s)) := rfl

/-- The parameters in force and the account that an update boundary leaves (R278, R279). -/
theorem windowView_updateStep (credit : BitVec 16) (s : State) : ∃ x, windowView (updateStep credit s) =
    ((s.ballast.written, if s.brg.restarting then s.ballast.ewScale else s.ballast.scaleNext, credit, none, s.ballast.missRun,
      BitVec.ofInt 24 (clampInt s.ballast.written.balMin.toInt s.ballast.written.balMax.toInt x)), s.clk, s.ta, s.tx) := by
  rw [updateStep_eq]
  exact ⟨_, (windowView_tripStep _).trans ((windowView_deliverTm _).trans rfl)⟩

theorem modelled_events (credit : BitVec 16) (s : State) : (modelled credit s).evt = s.evt ∧ (modelled credit s).counters = s.counters := by
  have hd (u : State) : (deliverTm u).evt = u.evt ∧ (deliverTm u).counters = u.counters := by
    unfold deliverTm
    dsimp only
    split <;> exact ⟨rfl, rfl⟩
  exact hd _

theorem counter_updateStep (credit : BitVec 16) (s : State) {a : Nat} (ha : a ≠ cntEvtLost) :
    counter (updateStep credit s) a = counter s a := by
  have ht (u : State) : counter (writeOutputs (tripStep u)) a = counter u a := by
    unfold tripStep
    dsimp only
    split
    · exact counter_logEvent _ _ u ha
    · rfl
  rw [updateStep_eq, ht, counter, (modelled_events credit s).2, counter]

theorem queued_updateStep {c : BitVec 12} (credit : BitVec 16) {s : State} (h : queued c s) : queued c (updateStep credit s) := by
  have ht {u : State} (hu : queued c u) : queued c (writeOutputs (tripStep u)) := by
    unfold tripStep
    dsimp only
    split
    · exact queued_logEvent_of_queued _ _ hu
    · exact hu
  rw [updateStep_eq]
  refine ht ?_
  unfold queued
  rwa [(modelled_events credit s).1]

/-- A tripped cluster gets no budget and a duty of 1 (R281, R282). -/
theorem writeOutputs_of_trip {s : State} (h : s.ballast.trip = true) :
    (writeOutputs s).ballast.budget = 0 ∧ (writeOutputs s).ballast.d = 1 := by
  unfold writeOutputs
  dsimp only
  rw [h]
  exact ⟨rfl, rfl⟩

/-! Update boundaries (R278). -/

/-- An update boundary has brought the governor of `s` into a window of this credit, behind so many misses. -/
def WindowOpened (credit : BitVec 16) (miss : Nat) (s s' : State) : Prop :=
  s'.ballast.credit = credit ∧ s'.ballast.strobe = none ∧ s'.ballast.missRun = miss ∧ s'.ballast.par = s.ballast.written ∧
  s'.ballast.ewScale = (if s.brg.restarting then s.ballast.ewScale else s.ballast.scaleNext) ∧
  (s.ballast.written.balMin.toInt ≤ s.ballast.written.balMax.toInt →
    s.ballast.written.balMin.toInt ≤ s'.ballast.balance.toInt ∧ s'.ballast.balance.toInt ≤ s.ballast.written.balMax.toInt) ∧
  (s'.ballast.trip = true → s'.ballast.budget = 0 ∧ s'.ballast.d = 1) ∧ s'.clk = (passLull s).clk ∧ s'.ta = s.ta ∧ s'.tx = s.tx

/-- The state in which an update boundary finds the governor: a lull has passed and the misses are counted. -/
def Due (miss : Nat) (s u : State) : Prop :=
  u.ballast = { s.ballast with missRun := miss } ∧ u.brg = s.brg ∧ u.clk = (passLull s).clk ∧ u.ta = s.ta ∧ u.tx = s.tx

theorem due_passLull (miss : Nat) (s : State) :
    Due miss s { passLull s with ballast := { (passLull s).ballast with missRun := miss } } := by
  unfold Due
  obtain ⟨_, _, _, _, _, e⟩ := passLull_eq s
  rw [e]
  exact ⟨rfl, rfl, rfl, rfl, rfl⟩

theorem windowOpened_updateStep {credit : BitVec 16} {miss : Nat} {s u : State} (h : Due miss s u) :
    WindowOpened credit miss s (updateStep credit u) := by
  obtain ⟨hb, hr, hk, hta, htx⟩ := h
  obtain ⟨x, hv⟩ := windowView_updateStep credit u
  rw [hb, hr, hk, hta, htx] at hv
  simp only [windowView, Prod.mk.injEq] at hv
  obtain ⟨⟨hpar, hscale, hcredit, hstrobe, hmiss, hbal⟩, hclk, hta', htx'⟩ := hv
  refine ⟨hcredit, hstrobe, hmiss, hpar, hscale, fun hl => ?_,
    writeOutputs_of_trip (s := tripStep (modelled credit u)), hclk, hta', htx'⟩
  obtain ⟨hlo, hhi⟩ := clampInt_between hl x
  rw [hbal, toInt_ofInt_of_between hlo hhi]
  exact ⟨hlo, hhi⟩

theorem updateBoundary_opens {c : BitVec 16} {s : State} (hp : portOpen s = true) (hc : s.ballast.strobe = some c) :
    ∃ s', exec .updateBoundary s = .next s' ∧ WindowOpened c 0 s s' := by
  have hs : strobedBoundary (passLull s) =
      some (updateStep c { passLull s with ballast := { (passLull s).ballast with missRun := 0 } }) := by
    have hq : (passLull s).ballast.strobe = some c := by
      obtain ⟨_, _, _, _, _, e⟩ := passLull_eq s
      rw [e]
      exact hc
    unfold strobedBoundary governorRuns
    rw [hq, portOpen_passLull, hp]
    rfl
  exact ⟨_, congrArg (fun o => Host.Outcome.next (Option.getD o s)) hs, windowOpened_updateStep (due_passLull 0 s)⟩

/-- The state in which the governor makes a boundary of its own (R278). -/
def missCounted (s : State) : State :=
  bump cntBallastMissed 1 { passLull s with ballast := { (passLull s).ballast with missRun := s.ballast.missRun + 1 } }

/-- The same with the event that the fourth miss of a run logs. -/
def missLogged (s : State) : State :=
  if s.ballast.missRun + 1 = 4 then logEvent 0x506 (s.ballast.missRun + 1) (missCounted s) else missCounted s

theorem ballastMissed_eq {s : State} (hp : portOpen s = true) (hc : s.ballast.strobe = none) :
    exec .ballastMissed s = .next (updateStep 0 (missLogged s)) := by
  have hb : (passLull s).ballast = s.ballast := by
    obtain ⟨_, _, _, _, _, e⟩ := passLull_eq s
    rw [e]
    rfl
  have hs : missedStep (passLull s) = some (updateStep 0 (missLogged s)) := by
    unfold missedStep governorRuns missLogged missCounted
    rw [portOpen_passLull, hb, if_pos ⟨hp, by rw [hc]; rfl⟩]
  exact congrArg (fun o => Host.Outcome.next (Option.getD o s)) hs

theorem due_missLogged (s : State) : Due (s.ballast.missRun + 1) s (missLogged s) := by
  have h : Due (s.ballast.missRun + 1) s (missCounted s) := due_passLull _ s
  unfold missLogged
  split
  · unfold Due
    rw [logEvent_ballast, logEvent_brg, logEvent_clk, logEvent_ta, logEvent_tx]
    exact h
  · exact h

/-- A missed strobe is counted, and the fourth of a run is logged (R278). -/
theorem missLogged_events (s : State) :
    counter (missLogged s) cntBallastMissed = min (2 ^ 48 - 1) (counter s cntBallastMissed + 1) ∧
    (s.ballast.missRun = 3 → s.evt.queue.length < 64 → queued 0x506 (missLogged s)) := by
  have hc : counter (missCounted s) cntBallastMissed = min (2 ^ 48 - 1) (counter s cntBallastMissed + 1) := by
    have hl : counter (passLull s) cntBallastMissed = counter s cntBallastMissed := counter_passLull s (by decide) (by decide)
    rw [← hl]
    exact counter_bump_self cntBallastMissed 1 _ (Nat.succ_pos _)
  unfold missLogged
  constructor
  · split
    · rw [counter_logEvent _ _ _ (by decide), hc]
    · exact hc
  · intro hm hq
    obtain ⟨-, -, -, he⟩ := passLull_holds s
    rw [if_pos (by rw [hm])]
    exact queued_logEvent _ _ _ (by rw [missCounted, bump_evt]; exact he ▸ hq)

theorem ballastMissed_counts {s : State} (hp : portOpen s = true) (hc : s.ballast.strobe = none) :
    ∃ s', exec .ballastMissed s = .next s' ∧
      counter s' cntBallastMissed = min (2 ^ 48 - 1) (counter s cntBallastMissed + 1) ∧
      (s.ballast.missRun = 3 → s.evt.queue.length < 64 → queued 0x506 s') := by
  obtain ⟨hn, hq⟩ := missLogged_events s
  exact ⟨_, ballastMissed_eq hp hc, (counter_updateStep 0 _ (by decide)).trans hn, fun hm he => queued_updateStep 0 (hq hm he)⟩

/-! The Drogue (R321, R322). -/

/-- The codes of the twelve Cones of a report, none of those under calibration. -/
def reportedCodes (codes : List (Option (BitVec 6))) : List (Option (BitVec 6)) := (List.range 12).map (fun k => codes.getD k none)

/-- A report under a table: it raises the level to the one that its least code asks for. -/
theorem drogueReport_eq (codes : List (Option (BitVec 6))) {s : State} {l : Nat × Nat} (hl : drogueLimits s = some l) :
    drogueReport codes s =
      if drogueRank s.clk.level < drogueRank (drogueWanted l (leastCode (reportedCodes codes)).toNat)
      then setLevel (drogueWanted l (leastCode (reportedCodes codes)).toNat) (coneReport codes s) else coneReport codes s := by
  have hl' : drogueLimits (coneReport codes s) = some l := hl
  unfold drogueReport
  dsimp only
  rw [hl']
  rfl

theorem drogueRank_of_ne_s50 {v : Drogue} (h : v ≠ .s50) : drogueRank v < drogueRank .s50 := by
  cases v with
  | none => decide
  | s25 => decide
  | s50 => exact absurd rfl h

theorem drogueLevelRise_eq (codes : List (Option (BitVec 6))) {s : State} (hp : portOpen s = true) :
    exec (.drogueLevelRise codes) s = .next (drogueReport codes s) := congrArg Host.Outcome.next (if_pos hp)

theorem rise_to_s50 {codes : List (Option (BitVec 6))} {s : State} {l : Nat × Nat} (hl : drogueLimits s = some l)
    (hp : portOpen s = true) (hlow : (leastCode (reportedCodes codes)).toNat < l.2) (hv : s.clk.level ≠ .s50) :
    ∃ s', exec (.drogueLevelRise codes) s = .next s' ∧ s'.clk.level = .s50 ∧ s'.clk.coneLast = reportedCodes codes ∧
      s'.clk.coneMin.toNat = min s.clk.coneMin.toNat (leastCode (reportedCodes codes)).toNat := by
  have hw : drogueWanted l (leastCode (reportedCodes codes)).toNat = .s50 := if_pos hlow
  refine ⟨_, drogueLevelRise_eq codes hp, ?_⟩
  rw [drogueReport_eq codes hl, hw, if_pos (drogueRank_of_ne_s50 hv)]
  refine ⟨rfl, rfl, ?_⟩
  change BitVec.toNat (if leastCode (reportedCodes codes) < s.clk.coneMin then leastCode (reportedCodes codes) else s.clk.coneMin) = _
  split
  · next h => exact (Nat.min_eq_right (BitVec.lt_def.mp h).le).symm
  · next h => exact (Nat.min_eq_left (not_lt.mp fun k => h (BitVec.lt_def.mpr k))).symm

theorem rise_to_s25 {codes : List (Option (BitVec 6))} {s : State} {l : Nat × Nat} (hl : drogueLimits s = some l)
    (hp : portOpen s = true) (h50 : l.2 ≤ (leastCode (reportedCodes codes)).toNat) (h25 : (leastCode (reportedCodes codes)).toNat < l.1)
    (hv : s.clk.level = .none) :
    ∃ s', exec (.drogueLevelRise codes) s = .next s' ∧ s'.clk.level = .s25 ∧ s'.clk.good = 0 := by
  have hw : drogueWanted l (leastCode (reportedCodes codes)).toNat = .s25 := (if_neg (by omega)).trans (if_pos h25)
  refine ⟨_, drogueLevelRise_eq codes hp, ?_⟩
  rw [drogueReport_eq codes hl, hw, hv, if_pos (by decide)]
  exact ⟨rfl, rfl⟩

/-- A Drogue that has been good for DRG_HOLD cycles falls by one, where the codes of the cycle ask for no more than that. -/
theorem drogueLevelFall_eq {codes : List (Option (BitVec 6))} {s : State} {l : Nat × Nat} (hl : drogueLimits s = some l)
    (hp : portOpen s = true) (hg : s.clk.drgHold.toNat ≤ s.clk.good) (hv : s.clk.level ≠ .none)
    (hw : drogueRank (drogueWanted l (leastCode (reportedCodes codes)).toNat) ≤ drogueRank (drogueBelow s.clk.level)) :
    exec (.drogueLevelFall codes) s = .next (coneReport codes (setLevel (drogueBelow s.clk.level) s)) := by
  have hf : drogueFall s = setLevel (drogueBelow s.clk.level) s := if_pos ⟨hv, hg⟩
  have hl' : drogueLimits (setLevel (drogueBelow s.clk.level) s) = some l := hl
  refine congrArg Host.Outcome.next ((if_pos hp).trans ?_)
  rw [hf, drogueReport_eq codes hl']
  exact if_neg (not_lt.mpr hw)

theorem fall_to_s25 {codes : List (Option (BitVec 6))} {s : State} {l : Nat × Nat} (hl : drogueLimits s = some l)
    (hp : portOpen s = true) (hg : s.clk.drgHold.toNat ≤ s.clk.good) (h50 : l.2 ≤ (leastCode (reportedCodes codes)).toNat)
    (hv : s.clk.level = .s50) :
    ∃ s', exec (.drogueLevelFall codes) s = .next s' ∧ s'.clk.level = .s25 ∧ s'.clk.good = 0 ∧
      s'.clk.marginLogged = s.clk.marginLogged ∧ s'.clk.coneLast = reportedCodes codes := by
  have hw : drogueRank (drogueWanted l (leastCode (reportedCodes codes)).toNat) ≤ 1 := by
    unfold drogueWanted
    rw [if_neg (by omega)]
    split <;> decide
  refine ⟨_, drogueLevelFall_eq hl hp hg (by rw [hv]; decide) (by rw [hv]; exact hw), ?_⟩
  rw [hv]
  exact ⟨rfl, rfl, rfl, rfl⟩

theorem fall_to_none {codes : List (Option (BitVec 6))} {s : State} {l : Nat × Nat} (hl : drogueLimits s = some l)
    (hp : portOpen s = true) (hg : s.clk.drgHold.toNat ≤ s.clk.good) (h50 : l.2 ≤ (leastCode (reportedCodes codes)).toNat)
    (hv : s.clk.level = .s25) (h25 : l.1 ≤ (leastCode (reportedCodes codes)).toNat) :
    ∃ s', exec (.drogueLevelFall codes) s = .next s' ∧ s'.clk.level = .none ∧ s'.clk.marginLogged = false ∧
      s'.clk.coneLast = reportedCodes codes := by
  have hw : drogueWanted l (leastCode (reportedCodes codes)).toNat = .none := (if_neg (by omega)).trans (if_neg (by omega))
  refine ⟨_, drogueLevelFall_eq hl hp hg (by rw [hv]; decide) (by rw [hw]; exact Nat.zero_le _), ?_⟩
  rw [hv]
  exact ⟨rfl, rfl, rfl⟩

/-- 4,096 low cycles at S50 are logged once, with a Cone of the least code (R323). -/
theorem marginLow_logs {cone : BitVec 4} {s : State} (hv : s.clk.level = .s50) (hlow : 4096 ≤ s.clk.low)
    (hm : s.clk.marginLogged = false) (hc : s.clk.coneLast[cone.toNat]? = some (some (leastCode s.clk.coneLast))) :
    exec (.marginLow cone) s = .next (logEvent 0x503 cone.toNat { s with clk := { s.clk with marginLogged := true } }) := by
  have hs : marginLowStep cone s = some (logEvent 0x503 cone.toNat { s with clk := { s.clk with marginLogged := true } }) :=
    if_pos ⟨hv, hlow, by rw [hm]; rfl, by rw [hc]; exact beq_self_eq_true _⟩
  exact congrArg (fun o => Host.Outcome.next (Option.getD o s)) hs

/-! Crossings (R314). -/

/-- Two islands have an elastic buffer between them, and CLK runs. -/
def Crossing (src dst : BitVec 3) (s : State) : Prop := src.toNat ≤ 4 ∧ dst.toNat ≤ 4 ∧ src ≠ dst ∧ portOpen s = true

/-- What a buffer of at most four entries comes to: it stands in the middle, has drifted or has slipped. -/
theorem crossing_eq {src dst occ : BitVec 3} {s : State} (h : Crossing src dst s) (ho : occ.toNat ≤ 4) :
    exec (.crossingOccupancyCheck src dst occ) s = .next
      (let d := src.toNat + 2 ^ 4 * dst.toNat + 2 ^ 8 * occ.toNat
       if occ = 2 then passLull s
       else if occ = 1 ∨ occ = 3 then logEvent 0x501 d (bump cntClkDrift 1 (passLull s))
       else requestSafe .clkSlip (logEvent 0x502 d (passLull s))) := by
  obtain ⟨h1, h2, hne, hp⟩ := h
  have hn : ¬(4 < src.toNat ∨ 4 < dst.toNat ∨ src = dst ∨ 4 < occ.toNat ∨ (!portOpen (passLull s)) = true) := by
    simp [portOpen_passLull, hp, hne]; omega
  change Host.Outcome.next ((crossingStep src dst occ (passLull s)).getD s) = _
  unfold crossingStep
  dsimp only
  rw [if_neg hn]
  split
  · rfl
  · split <;> rfl

/-- A request for SAFE leaves the threads and the events; where SAFE can be entered, it becomes due for a cause (R334). -/
theorem requestSafe_requests {c : SafeCause} (hc : c ≠ .none) (s : State) :
    (requestSafe c s).ta = s.ta ∧ (requestSafe c s).tx = s.tx ∧ (requestSafe c s).evt = s.evt ∧
    (canEnterSafe s.run.state = true → (requestSafe c s).run.safeDue = true ∧ (requestSafe c s).run.safeCause ≠ .none) := by
  unfold requestSafe
  dsimp only
  split
  · refine ⟨rfl, rfl, rfl, fun _ => ⟨rfl, ?_⟩⟩
    dsimp only
    split
    · exact hc
    · next h => exact h
  · next hn =>
    split
    · exact ⟨rfl, rfl, rfl, fun k => absurd k hn⟩
    · exact ⟨rfl, rfl, rfl, fun k => absurd k hn⟩

/-- A buffer that has slipped asks for SAFE (R314). -/
theorem crossing_slips {src dst occ : BitVec 3} {s : State} (h : Crossing src dst s) (ho : occ = 0 ∨ occ = 4) :
    ∃ s', exec (.crossingOccupancyCheck src dst occ) s = .next s' ∧ s'.ta = s.ta ∧ s'.tx = s.tx ∧
      (canEnterSafe s.run.state = true → s'.run.safeDue = true ∧ s'.run.safeCause ≠ .none) ∧
      (s.evt.queue.length < 64 → queued 0x502 s') := by
  refine ⟨_, crossing_eq h (by rcases ho with rfl | rfl <;> decide), ?_⟩
  dsimp only
  rw [if_neg (by rcases ho with rfl | rfl <;> decide), if_neg (by rcases ho with rfl | rfl <;> decide)]
  generalize src.toNat + 2 ^ 4 * dst.toNat + 2 ^ 8 * occ.toNat = d
  obtain ⟨hta, htx, hevt, hsafe⟩ := requestSafe_requests (c := .clkSlip) (by decide) (logEvent 0x502 d (passLull s))
  obtain ⟨hrun, -⟩ := passLull_control s
  obtain ⟨-, -, -, he⟩ := passLull_holds s
  rw [logEvent_run, hrun] at hsafe
  refine ⟨?_, ?_, hsafe, fun hq => ?_⟩
  · rw [hta, logEvent_ta]
    exact getThread_passLull .ta s
  · rw [htx, logEvent_tx]
    exact getThread_passLull .tx s
  · unfold queued
    rw [hevt]
    exact queued_logEvent 0x502 d _ (he ▸ hq)

/-- Settles O54: an update boundary is an account with a thermal model, a trip and outputs behind it; the Drogue compares one rank
with another; a crossing's occupancy is one of five. -/
theorem powerAndClockEvents : Obligations.PowerAndClockEvents := by
  intro credit codes cone src dst occ s
  refine ⟨fun hp => ⟨congrArg Host.Outcome.next (if_pos hp), fun c hc => updateBoundary_opens hp hc, fun hc =>
    ⟨⟨_, ballastMissed_eq hp hc, windowOpened_updateStep (due_missLogged s)⟩, ballastMissed_counts hp hc⟩⟩,
    fun l hl hp => ⟨rise_to_s50 hl hp, rise_to_s25 hl hp, fun hg h50 => ⟨fall_to_s25 hl hp hg h50, fall_to_none hl hp hg h50⟩⟩,
    marginLow_logs, fun h1 h2 hne hp => ⟨?middle, ?drift, crossing_slips ⟨h1, h2, hne, hp⟩⟩⟩
  case middle =>
    rintro rfl
    exact crossing_eq ⟨h1, h2, hne, hp⟩ (by decide)
  case drift =>
    intro ho
    rw [crossing_eq ⟨h1, h2, hne, hp⟩ (by rcases ho with rfl | rfl <;> decide)]
    dsimp only
    rw [if_neg (by rcases ho with rfl | rfl <;> decide), if_pos ho]

end Sys2Proof.Machine
end

section
/-! SUPPORT. Host commands on handles, sessions and links: O47. -/

namespace Sys2Proof.Machine
open Claims

/-! Handles (R303 to R306). -/

/-- What decides on a handle and its age: the handle table, who reads a handle, and the cycle. -/
def residency (s : State) : Sparse Handle × List Flight × LocalStore × Fabric × SessTable × GlzState × Word64 :=
  (s.handles, s.flights, s.ls, s.fab, s.sess, s.glz, s.cycle)

theorem residency_accepted (op : Nat) (s : State) : residency (accepted op s) = residency (passLull s) := by
  obtain ⟨_, _, _, _, _, _, k, e⟩ := accepted_of_lull op s
  rw [k, e]
  rfl

theorem residency_readCfg (n : Nat) (s : State) : residency (readCfg n s) = residency s := by
  obtain ⟨_, _, e⟩ := readCfg_eq n s
  rw [e]
  rfl

theorem cmd_readCfg (n : Nat) (s : State) : (readCfg n s).cmd = s.cmd := by
  obtain ⟨_, _, e⟩ := readCfg_eq n s
  rw [e]

theorem handleIdle_passLull (s : State) (h : BitVec 8) : handleIdle (passLull s) h = handleIdle s h := by
  obtain ⟨_, _, _, _, _, e⟩ := passLull_eq s
  rw [e]
  rfl

theorem evictable_passLull (s : State) (h : BitVec 8) : evictable (passLull s) h = evictable s h := by
  obtain ⟨_, _, _, _, _, e⟩ := passLull_eq s
  rw [e]
  rfl

theorem handles_passLull (s : State) : (passLull s).handles = s.handles := by
  obtain ⟨_, _, _, _, _, e⟩ := passLull_eq s
  rw [e]
  rfl

theorem getHandle_congr {s t : State} (e : t.handles = s.handles) (h : BitVec 8) : getHandle t h = getHandle s h := by
  rw [getHandle, getHandle, e]

section
variable {s t : State} (e : residency t = residency s)
include e

theorem handles_of_residency : t.handles = s.handles := congrArg Prod.fst e

theorem handleIdle_of_residency (h : BitVec 8) : handleIdle t h = handleIdle s h := by
  simp only [residency, Prod.mk.injEq] at e
  obtain ⟨eh, ef, el, -⟩ := e
  simp only [handleIdle, translationOut, getHandle, eh, ef, el]

theorem evictChoice_of_residency : evictChoice t = evictChoice s := by
  have hi := handleIdle_of_residency e
  simp only [residency, Prod.mk.injEq] at e
  obtain ⟨eh, -, -, eb, es, eg, ec⟩ := e
  have hv (g : BitVec 8) : evictable t g = evictable s g := by simp only [evictable, hi, getHandle, eh, eb, es, eg]
  have ha (g : BitVec 8) : handleAge t g = handleAge s g := by simp only [handleAge, cycleStamp, getHandle, eh, ec]
  simp only [evictChoice, hv, ha, eh]

end

/-- A handle's state changes in a table alone. -/
theorem handles_setHState {s t : State} (e : t.handles = s.handles) (h : BitVec 8) (st : HState) :
    (setHState h st t).handles = (setHandle h { getHandle s h with state := st } s).handles := by
  simp only [setHState, setHandle, getHandle, e]

/-- A command on a handle in the state it asks for is performed behind the read of the handle's entry (R303, R347). -/
theorem postHandle_performs {op : Nat} {want : HState} {run : BitVec 8 → State → State} {h : BitVec 8} {s : State}
    (ha : halvesAgree s) (hm : hostMay op s) (harg : s.cmd.arg0 = h.setWidth 32) (hs : (getHandle s h).state = want) :
    ∃ t, postHandle op want run s = run h t ∧ residency t = residency (passLull s) := by
  have hn : s.cmd.arg0.toNat = h.toNat := by rw [harg, BitVec.toNat_setWidth]; omega
  have hw : s.cmd.arg0.setWidth 8 = h := by rw [harg]; exact BitVec.eq_of_toNat_eq (by simp)
  have hcmd := (posted_control s).2
  have hacc : (accepted op s).cmd.arg0 = s.cmd.arg0 := by rw [← hcmd]; rfl
  have hp : (posted s).handles = s.handles := handles_passLull s
  refine ⟨readCfg (s.cmd.arg0.toNat % 256) (accepted op s), ?_, (residency_readCfg _ _).trans (residency_accepted op s)⟩
  unfold postHandle
  rw [postCommand_of_may hm ha (by rw [hcmd, hn]; exact decide_eq_true h.isLt) rfl
    (by rw [hcmd, hw, getHandle_congr hp, hs]; exact beq_self_eq_true _), hacc, hw]

/-- A command that moves a handle to a state leaves the rest of the table alone and ends OK (Table 14.1). -/
theorem postHandle_moves {op : Nat} {want st : HState} {run : BitVec 8 → State → State} {h : BitVec 8} {s : State}
    (ha : halvesAgree s) (harg : s.cmd.arg0 = h.setWidth 32) (hm : hostMay op s) (hs : (getHandle s h).state = want)
    (hrun : ∀ t, residency t = residency (passLull s) → run h t = cmdOk (setHState h st t)) :
    ∃ s', Host.Outcome.next (postHandle op want run s) = (.next s' : Out) ∧
      s'.handles = (setHandle h { getHandle s h with state := st } s).handles ∧ s'.cmd.status = .ok := by
  obtain ⟨t, e, hr⟩ := postHandle_performs (run := run) ha hm harg hs
  exact ⟨_, congrArg Host.Outcome.next (e.trans (hrun t hr)),
    handles_setHState ((handles_of_residency hr).trans (handles_passLull s)) h st, rfl⟩

theorem hfree_frees {h : BitVec 8} {s : State} (ha : halvesAgree s) (harg : s.cmd.arg0 = h.setWidth 32) (hm : hostMay 0x22 s)
    (hs : (getHandle s h).state = .bound) :
    ∃ s', exec .hfree s = .next s' ∧
      s'.handles = (setHandle h { getHandle s h with state := if handleIdle s h then .free else .draining } s).handles ∧
      s'.cmd.status = .ok :=
  postHandle_moves ha harg hm hs fun t hr => by
    rw [runHfree, (handleIdle_of_residency hr h).trans (handleIdle_passLull s h)]

/-! The choice of HEVICT (R306). -/

/-- The better of a candidate, where there is one, and a handle. -/
def olderHandle (s : State) (best : Option (BitVec 8)) (h : BitVec 8) : Option (BitVec 8) :=
  if evictable s h then
    match best with
    | none => some h
    | some b => if handleAge s b < handleAge s h then some h else best
  else best

theorem evictChoice_eq (s : State) :
    evictChoice s = (s.handles.map (fun p => BitVec.ofNat 8 p.1)).foldl (olderHandle s) none := by
  unfold evictChoice olderHandle
  congr

/-- A candidate as old as every handle that may be taken so far. -/
def OldestOf (s : State) (l : List (BitVec 8)) (best : Option (BitVec 8)) : Prop :=
  (∀ b ∈ best, evictable s b = true) ∧ ∀ g ∈ l, evictable s g = true → ∃ b ∈ best, handleAge s g ≤ handleAge s b

theorem oldestOf_olderHandle {s : State} {l : List (BitVec 8)} {best : Option (BitVec 8)} (hb : OldestOf s l best) (h : BitVec 8) :
    OldestOf s (h :: l) (olderHandle s best h) := by
  obtain ⟨hev, hold⟩ := hb
  unfold olderHandle
  cases hh : evictable s h with
  | false =>
    rw [if_neg Bool.false_ne_true]
    refine ⟨hev, fun g hg hge => ?_⟩
    rcases List.mem_cons.1 hg with rfl | hg
    · exact absurd hge (by simp [hh])
    · exact hold g hg hge
  | true =>
    rw [if_pos rfl]
    cases best with
    | none =>
      refine ⟨fun b hb => by cases hb; exact hh, fun g hg hge => ?_⟩
      rcases List.mem_cons.1 hg with rfl | hg
      · exact ⟨g, rfl, le_rfl⟩
      · obtain ⟨b, hb, -⟩ := hold g hg hge
        cases hb
    | some b =>
      have hall {c : BitVec 8} (hc : handleAge s b ≤ handleAge s c) (hhc : handleAge s h ≤ handleAge s c) :
          ∀ g ∈ h :: l, evictable s g = true → handleAge s g ≤ handleAge s c := by
        intro g hg hge
        rcases List.mem_cons.1 hg with rfl | hg
        · exact hhc
        · obtain ⟨b', hb', hle⟩ := hold g hg hge
          cases hb'
          exact hle.trans hc
      dsimp only
      split
      · next hlt =>
        exact ⟨fun c hc => by cases hc; exact hh, fun g hg hge => ⟨h, rfl, hall hlt.le le_rfl g hg hge⟩⟩
      · next hge' =>
        exact ⟨hev, fun g hg hge => ⟨b, rfl, hall le_rfl (not_lt.1 hge') g hg hge⟩⟩

theorem oldestOf_foldl {s : State} (l : List (BitVec 8)) {k : List (BitVec 8)} {best : Option (BitVec 8)} (h : OldestOf s k best) :
    OldestOf s (l.reverse ++ k) (l.foldl (olderHandle s) best) := by
  induction l generalizing k best with
  | nil => exact h
  | cons a l ih => simpa using ih (oldestOf_olderHandle h a)

/-- A key that a map lists under no value reads as the default. -/
theorem get_of_unlisted {α : Type} (d : α) {m : Sparse α} {k : Nat} (h : ∀ p ∈ m, p.1 ≠ k) : Sparse.get d m k = d := by
  induction m with
  | nil => rfl
  | cons p m ih =>
    obtain ⟨hp, hm⟩ := List.forall_mem_cons.1 h
    unfold Sparse.get
    rw [if_neg (Ne.symm hp)]
    split
    · rfl
    · exact ih hm

/-- A handle that HEVICT may take is listed in the table. -/
theorem mem_handles_of_evictable {s : State} {g : BitVec 8} (h : evictable s g = true) :
    g ∈ s.handles.map (fun p => BitVec.ofNat 8 p.1) := by
  by_contra hg
  have hd : getHandle s g = Handle.reset := get_of_unlisted _ fun p hp hk =>
    hg (List.mem_map.2 ⟨p, hp, by rw [hk, BitVec.ofNat_toNat, BitVec.setWidth_eq]⟩)
  rw [evictable, hd] at h
  exact absurd h (by simp [Handle.reset])

/-- The handle that HEVICT takes may be taken, and none that may be is older (R306). -/
theorem evictChoice_oldest {s : State} {h : BitVec 8} (hc : evictChoice s = some h) :
    evictable s h = true ∧ ∀ g, evictable s g = true → handleAge s g ≤ handleAge s h := by
  obtain ⟨hev, hold⟩ := oldestOf_foldl (s := s) (k := []) (best := none) (s.handles.map (fun p => BitVec.ofNat 8 p.1))
    ⟨fun _ h => absurd h (by simp), fun _ h => absurd h (by simp)⟩
  rw [← evictChoice_eq, hc] at hev hold
  refine ⟨hev h rfl, fun g hg => ?_⟩
  obtain ⟨b, hb, hle⟩ := hold g (by simpa using mem_handles_of_evictable hg) hg
  cases hb
  exact hle

theorem residency_readHandles (s : State) : residency (readHandles s) = residency s := by
  have h (l : List Nat) : residency (l.foldl (fun s n => readCfg n s) s) = residency s :=
    foldl_keeps residency _ (fun s n => residency_readCfg n s) l s
  exact h _

/-- HEVICT reads the table and takes the choice of the cycle behind the lull. -/
theorem hevict_performs {s : State} (ha : halvesAgree s) (hm : hostMay 0x23 s) :
    exec .hevict s = .next (runHevict (accepted 0x23 s)) ∧
    residency (readHandles (accepted 0x23 s)) = residency (passLull s) :=
  ⟨next_postPlain hm ha, (residency_readHandles _).trans (residency_accepted 0x23 s)⟩

theorem hevict_fails {s : State} (ha : halvesAgree s) (hm : hostMay 0x23 s) (hc : evictChoice (passLull s) = none) :
    ∃ s', exec .hevict s = .next s' ∧ s'.cmd.status = .fail ∧ s'.cmd.arg0 = 0xFFFF ∧ s'.handles = s.handles := by
  obtain ⟨e, hr⟩ := hevict_performs ha hm
  refine ⟨_, e, ?_⟩
  unfold runHevict
  generalize readHandles (accepted 0x23 s) = u at hr
  dsimp only
  rw [evictChoice_of_residency hr, hc]
  exact ⟨rfl, rfl, (handles_of_residency hr).trans (handles_passLull s)⟩

/-- The two words of a descriptor. -/
theorem append_halves (d : Word64) : (d >>> 32).setWidth 32 ++ d.setWidth 32 = d := by
  ext i hi
  simp only [BitVec.getElem_append, BitVec.getElem_setWidth, BitVec.getLsbD_ushiftRight]
  split
  · exact BitVec.getLsbD_eq_getElem hi
  · rw [show 32 + (i - 32) = i by omega]
    exact BitVec.getLsbD_eq_getElem hi

theorem hevict_evicts {h : BitVec 8} {s : State} (ha : halvesAgree s) (hm : hostMay 0x23 s)
    (hc : evictChoice (passLull s) = some h) :
    ∃ s', exec .hevict s = .next s' ∧ (s'.handles = (setHandle h { getHandle s h with state := .free } s).handles ∧
        s'.cmd.status = .ok) ∧ s'.cmd.arg0 = h.setWidth 32 ∧ s'.cmd.arg2 ++ s'.cmd.arg1 = mapDescriptor (getHandle s h).cur := by
  obtain ⟨e, hr⟩ := hevict_performs ha hm
  have hh : (readHandles (accepted 0x23 s)).handles = s.handles := (handles_of_residency hr).trans (handles_passLull s)
  refine ⟨_, e, ?_⟩
  unfold runHevict
  generalize readHandles (accepted 0x23 s) = u at hr hh
  dsimp only
  rw [evictChoice_of_residency hr, hc]
  dsimp only
  rw [getHandle_congr hh]
  exact ⟨⟨handles_setHState (by exact hh) h _, rfl⟩, rfl, append_halves _⟩


/-! Sessions (R277). -/

/-- The touch of an entry moves nothing that a command on it reads beside the entries. -/
theorem sessTouch_control (i : Nat) (s : State) : (sessTouch i s).run = s.run ∧ (sessTouch i s).cmd = s.cmd ∧
    (sessTouch i s).mould = s.mould ∧ (sessTouch i s).handles = s.handles ∧ (sessTouch i s).res = s.res ∧
    (sessTouch i s).ls = s.ls := by
  refine ⟨?_, ?_, ?_, ?_, ?_, ?_⟩
  · simp [sessTouch, apply_ite State.run]
  · simp [sessTouch, apply_ite State.cmd]
  · simp [sessTouch, apply_ite State.mould]
  · simp [sessTouch, apply_ite State.handles]
  · simp [sessTouch, apply_ite State.res]
  · simp [sessTouch, apply_ite State.ls]

theorem sessTouch_entries (i : Nat) (s : State) : ∃ es, (sessTouch i s).sess = { s.sess with entries := es } := by
  rw [sessTouch_sess]
  split
  · split
    · exact ⟨s.sess.entries, rfl⟩
    · exact ⟨_, rfl⟩
  · exact ⟨s.sess.entries, rfl⟩

/-- A state has the sessions of `s` and the handles through which they are transferred. -/
def SameSessions (s t : State) : Prop := t.sess = s.sess ∧ t.handles = s.handles

theorem sameSessions_posted (s : State) : SameSessions s (posted s) := by
  obtain ⟨_, _, _, _, _, e, -⟩ := posted_eq s
  rw [e]
  exact ⟨rfl, rfl⟩

theorem resumeOk_congr {s t : State} (h : SameSessions s t) (i : Nat) : resumeOk t i = resumeOk s i := by
  obtain ⟨hs, hh⟩ := h
  simp only [resumeOk, getSess, freeSlot, usableSlots, getHandle, hs, hh]

theorem parkOk_congr {s t : State} (h : SameSessions s t) (i : Nat) : parkOk t i = parkOk s i := by
  obtain ⟨hs, -⟩ := h
  simp only [parkOk, getSess, hs]

theorem freeSlot_congr {s t : State} (h : SameSessions s t) : freeSlot t = freeSlot s := by
  obtain ⟨hs, hh⟩ := h
  simp only [freeSlot, usableSlots, getHandle, hs, hh]

/-- The handle and the number of rows of a transfer are those before the touch of its entry. -/
theorem transfer_of_sameSessions {i : Nat} {s t : State} (h : SameSessions (sessTouch i s) t) :
    getHandle t t.sess.handle = getHandle s s.sess.handle ∧ t.sess.rows = s.sess.rows := by
  obtain ⟨hs, hh⟩ := h
  obtain ⟨-, -, -, htable, -, -⟩ := sessTouch_control i s
  obtain ⟨es, hes⟩ := sessTouch_entries i s
  rw [hs, hes]
  exact ⟨getHandle_congr (hh.trans htable) _, rfl⟩

/-- What an accepted command on a session finds: the command BUSY, the sessions as the touch of the entry leaves them, and the
ports as they were. -/
def SessionMet (i : Nat) (s t : State) : Prop :=
  SameSessions (sessTouch i s) t ∧ t.cmd.status = .busy ∧ t.res = s.res ∧ t.ls = s.ls

/-- A command on an entry in use is performed behind the touch of the entry, where its own rule accepts it (R272, R277). -/
theorem postSession_performs {op : Nat} {ok : State → Nat → Bool} {run : Nat → State → State} {s : State} (ha : halvesAgree s)
    (hm : hostMay op s) (hi : s.cmd.arg0.toNat < s.sess.used.toNat) (he : s.mould.cfg.engines.getLsbD 4 = true)
    (hk : ∀ t, SameSessions (sessTouch s.cmd.arg0.toNat s) t → ok t s.cmd.arg0.toNat = true) :
    ∃ t, postSession op ok run s = run s.cmd.arg0.toNat t ∧ SessionMet s.cmd.arg0.toNat s t := by
  obtain ⟨hrun, hcmd, hmould, -, hres, hls⟩ := sessTouch_control s.cmd.arg0.toNat s
  obtain ⟨es, hsess⟩ := sessTouch_entries s.cmd.arg0.toNat s
  have hreached : sessReached op s = true := by
    obtain ⟨hp, hb, hc, hl⟩ := hm
    simp [sessReached, hp, hb, hc, hl, sessArgOk, hi, sequencerAbsent, he]
  generalize hu : sessTouch s.cmd.arg0.toNat s = u at hrun hcmd hmould hres hls hsess hk
  have hum : hostMay op u := by
    unfold hostMay portOpen at hm ⊢
    rwa [blockOpen_congr hrun, commandLegal_congr hrun, hrun, hcmd]
  have hua : halvesAgree u := by
    unfold halvesAgree
    rwa [hrun]
  have hpc : (posted u).cmd = s.cmd := (posted_control u).2.trans hcmd
  have harg : sessArgOk (posted u) = true := by
    rw [sessArgOk, hpc, (sameSessions_posted u).1, hsess]
    exact decide_eq_true hi
  have habs : sequencerAbsent (posted u) = false := by
    obtain ⟨_, _, _, _, _, e, -⟩ := posted_eq u
    rw [sequencerAbsent, e]
    exact (congrArg (fun m : Mould => !m.cfg.engines.getLsbD 4) hmould).trans (by rw [he]; rfl)
  obtain ⟨_, _, _, _, _, _, -, e⟩ := accepted_of_lull op u
  refine ⟨accepted op u, ?_, ?_⟩
  · unfold postSession
    rw [if_pos hreached, hu, postCommand_of_may hum hua harg habs (by rw [hpc]; exact hk _ (sameSessions_posted u))]
    exact congrArg (fun a : Word32 => run a.toNat (accepted op u)) (by rw [e, ← hcmd])
  · unfold SessionMet
    rw [hu, e]
    exact ⟨⟨rfl, rfl⟩, rfl, hres, hls⟩

/-- An entry that is not FREE reads back. -/
theorem getSess_setSess_of_taken {i : Nat} {e : Session} (h : e.state ≠ .free) (s : State) : getSess (setSess i e s) i = e :=
  Sparse.get_set_of_ne _ _ _ fun k => h (by rw [k]; rfl)

/-- Identifiers are given to requests that stay (R384). -/
theorem assignIds_length (n : Nat) (l : List ResReq) : (assignIds n l).length = l.length := by
  induction n generalizing l with
  | zero => rfl
  | succ n ih =>
    unfold assignIds
    split
    · rfl
    · have hl := congrArg List.length (List.takeWhile_append_dropWhile (p := fun r : ResReq => r.id.isSome) (l := l))
      dsimp only
      rw [List.span_eq_takeWhile_dropWhile]
      dsimp only
      split
      · rfl
      · next r rs hd =>
        rw [hd] at hl
        rw [ih, ← hl]
        simp

theorem foldl_reservoirRead (f : State → Nat → ResReq) (l : List Nat) (s : State) :
    ∃ rs, rs.length = l.length ∧ l.foldl (fun s i => reservoirRead false (f s i) s) s =
      { s with res := { s.res with reads := s.res.reads ++ rs } } := by
  induction l generalizing s with
  | nil => exact ⟨[], rfl, by simp⟩
  | cons i l ih =>
    obtain ⟨rs, hl, e⟩ := ih (reservoirRead false (f s i) s)
    exact ⟨f s i :: rs, by simp [hl], by rw [List.foldl_cons, e]; simp [reservoirRead]⟩

theorem foldl_queueBoundary (f : State → Nat → BAccess) (l : List Nat) (s : State) :
    ∃ bs, bs.length = l.length ∧ l.foldl (fun s i => queueBoundary (f s i) s) s =
      { s with ls := { s.ls with boundary := s.ls.boundary ++ bs } } := by
  induction l generalizing s with
  | nil => exact ⟨[], rfl, by simp⟩
  | cons i l ih =>
    obtain ⟨bs, hl, e⟩ := ih (queueBoundary (f s i) s)
    exact ⟨f s i :: bs, by simp [hl], by rw [List.foldl_cons, e]; simp [queueBoundary]⟩

/-- The transfer of a session's rows as its command begins it (R277). -/
def xferFrom (i : Nat) (park : Bool) (s : State) : SessXfer :=
  { index := i, park := park, done := 0, prior := (getSess s i).state, map := (getHandle s s.sess.handle).cur }

/-- The state with entry `i` DRAINING as `e` and its transfer in progress. -/
def transferring (i : Nat) (park : Bool) (e : Session) (s : State) : State :=
  { setSess i e s with sess := { (setSess i e s).sess with xfer := some (xferFrom i park s) } }

theorem getSess_transferring {i : Nat} {e : Session} (h : e.state ≠ .free) (park : Bool) {s t : State}
    (ht : t.sess = (transferring i park e s).sess) : getSess t i = e :=
  (getSess_congr ht i).trans (getSess_setSess_of_taken h s)

theorem startResume_eq {k : Nat} {s : State} (hk : freeSlot s = some k) (i : Nat) :
    ∃ rs, rs.length = s.sess.rows.toNat ∧ startResume i s =
      reservoirPump { transferring i false { getSess s i with state := .draining, slot := BitVec.ofNat 12 k } s with
        res := { s.res with reads := s.res.reads ++ rs } } := by
  obtain ⟨rs, hl, e⟩ := foldl_reservoirRead
    (fun u j => { id := none, address := parkAddress u i j, use := .sessIn j, data := [] }) (List.range s.sess.rows.toNat)
    (transferring i false { getSess s i with state := .draining, slot := BitVec.ofNat 12 k } s)
  refine ⟨rs, hl.trans List.length_range, ?_⟩
  unfold startResume
  rw [hk]
  exact congrArg reservoirPump e

theorem startPark_eq (i : Nat) (s : State) : ∃ bs, bs.length = s.sess.rows.toNat ∧ startPark i s =
    { transferring i true { getSess s i with state := .draining } s with ls := { s.ls with boundary := s.ls.boundary ++ bs } } := by
  obtain ⟨bs, hl, e⟩ := foldl_queueBoundary
    (fun u j => { phys := xferRow u (xferFrom i true s) j, handle := u.sess.handle, tagged := false, row := none, use := .sessOut j,
                  buffer := none, taken := none }) (List.range s.sess.rows.toNat)
    (transferring i true { getSess s i with state := .draining } s)
  exact ⟨bs, hl.trans List.length_range, e⟩

section
variable {s : State} (ha : halvesAgree s) (hi : s.cmd.arg0.toNat < s.sess.used.toNat)
  (he : s.mould.cfg.engines.getLsbD 4 = true)
include ha hi he

theorem sessResume_resumes (hm : hostMay 0x18 s) (hk : resumeOk (sessTouch s.cmd.arg0.toNat s) s.cmd.arg0.toNat = true) :
    let i := s.cmd.arg0.toNat
    let s0 := sessTouch i s
    ∃ s', exec .sessResume s = .next s' ∧ s'.cmd.status = .busy ∧
      (∃ k, freeSlot s0 = some k ∧ getSess s' i = { getSess s0 i with state := .draining, slot := BitVec.ofNat 12 k }) ∧
      s'.sess.xfer = some { index := i, park := false, done := 0, prior := .parked, map := (getHandle s s.sess.handle).cur } ∧
      s'.res.reads.length = s.res.reads.length + s.sess.rows.toNat := by
  intro i s0
  obtain ⟨t, e, hmet⟩ := postSession_performs (run := startResume) ha hm hi he fun t ht => (resumeOk_congr ht _).trans hk
  obtain ⟨hsame, hbusy, hres, -⟩ := hmet
  obtain ⟨hhandle, hrows⟩ := transfer_of_sameSessions hsame
  obtain ⟨hs, hh⟩ := hsame
  have hx (j : Nat) : getSess t j = getSess s0 j := getSess_congr hs j
  simp only [resumeOk, Bool.and_eq_true, beq_iff_eq] at hk
  obtain ⟨⟨⟨hparked, hslot⟩, -⟩, -⟩ := hk
  obtain ⟨k, hk⟩ := Option.isSome_iff_exists.1 hslot
  obtain ⟨rs, hl, er⟩ := startResume_eq ((freeSlot_congr ⟨hs, hh⟩).trans hk) i
  refine ⟨_, congrArg Host.Outcome.next e, ?_⟩
  rw [er]
  refine ⟨hbusy, ⟨k, hk, ?_⟩, ?_, ?_⟩
  · exact (getSess_transferring (e := { getSess t i with state := .draining, slot := BitVec.ofNat 12 k })
      (by exact fun h => nomatch h) false rfl).trans (by rw [hx])
  · change some (xferFrom i false t) = _
    rw [xferFrom, hx, hparked, hhandle]
  · change (assignIds _ (t.res.reads ++ rs)).length = _
    rw [assignIds_length, List.length_append, hl, hres, hrows]

theorem sessPark_parks (hm : hostMay 0x19 s) (hk : parkOk (sessTouch s.cmd.arg0.toNat s) s.cmd.arg0.toNat = true) :
    let i := s.cmd.arg0.toNat
    let x := getSess (sessTouch i s) i
    ∃ s', exec .sessPark s = .next s' ∧ s'.cmd.status = .busy ∧ getSess s' i = { x with state := .draining } ∧
      s'.sess.xfer = some { index := i, park := true, done := 0, prior := x.state, map := (getHandle s s.sess.handle).cur } ∧
      s'.ls.boundary.length = s.ls.boundary.length + s.sess.rows.toNat := by
  intro i x
  obtain ⟨t, e, hmet⟩ := postSession_performs (run := startPark) ha hm hi he fun t ht => (parkOk_congr ht _).trans hk
  obtain ⟨hsame, hbusy, -, hls⟩ := hmet
  obtain ⟨bs, hl, er⟩ := startPark_eq i t
  obtain ⟨hhandle, hrows⟩ := transfer_of_sameSessions hsame
  have hx : getSess t i = x := getSess_congr hsame.1 i
  refine ⟨_, congrArg Host.Outcome.next e, ?_⟩
  rw [er]
  refine ⟨hbusy, ?_, ?_, ?_⟩
  · exact (getSess_transferring (e := { getSess t i with state := .draining }) (by exact fun h => nomatch h) true rfl).trans
      (by rw [hx])
  · change some (xferFrom i true t) = _
    rw [xferFrom, hx, hhandle]
  · change (t.ls.boundary ++ bs).length = _
    rw [List.length_append, hl, hls, hrows]

end


/-! Links (R289, R382). -/

theorem getPort_setPort_self (p : BitVec 2) (q : Port) (s : State) : getPort (setPort p q s) p = q := by
  unfold getPort setPort
  match p.toNat with
  | 0 => rfl
  | 1 => rfl
  | 2 => rfl
  | _ + 3 => rfl

theorem getPort_modPort_self (p : BitVec 2) (g : Port → Port) (s : State) : getPort (modPort p g s) p = g (getPort s p) :=
  getPort_setPort_self p _ s

theorem getPort_congr {s t : State} (h : t.fab = s.fab) (p : BitVec 2) : getPort t p = getPort s p := by
  unfold getPort
  rw [h]

theorem setPort_cmd (p : BitVec 2) (q : Port) (s : State) : (setPort p q s).cmd = s.cmd := by
  unfold setPort
  split <;> rfl

/-- Whether a port is in a link reset, and the command slot: sending on the port moves neither. -/
def linkControl (p : BitVec 2) (s : State) : Bool × CmdSlot := ((getPort s p).retrain, s.cmd)

theorem linkControl_of_fab {s t : State} (hf : t.fab = s.fab) (hc : t.cmd = s.cmd) (p : BitVec 2) :
    linkControl p t = linkControl p s := by
  rw [linkControl, linkControl, getPort_congr hf, hc]

theorem linkControl_setPort {p : BitVec 2} {q : Port} {s : State} (h : q.retrain = (getPort s p).retrain) :
    linkControl p (setPort p q s) = linkControl p s := by
  rw [linkControl, linkControl, getPort_setPort_self, setPort_cmd, h]

theorem linkControl_readCfg (n : Nat) (p : BitVec 2) (s : State) : linkControl p (readCfg n s) = linkControl p s := by
  obtain ⟨_, _, e⟩ := readCfg_eq n s
  rw [e]
  rfl

theorem linkControl_transmit (p : BitVec 2) (b : Block) (s : State) : linkControl p (transmit p b s) = linkControl p s :=
  linkControl_setPort rfl

theorem linkControl_startBlock (p : BitVec 2) (b : Block) (s : State) : linkControl p (startBlock p b s) = linkControl p s := by
  refine (linkControl_transmit p _ _).trans (Eq.trans ?_ (linkControl_readCfg cfgNode p s))
  exact linkControl_setPort rfl

theorem linkControl_sendResends (n : Nat) (p : BitVec 2) (s : State) : linkControl p (sendResends n p s) = linkControl p s := by
  induction n generalizing s with
  | zero => rfl
  | succ n ih =>
    unfold sendResends
    dsimp only
    split
    · rfl
    · split
      · exact (ih _).trans ((linkControl_transmit p _ _).trans (linkControl_setPort rfl))
      · rfl

theorem linkControl_sendResponses (n : Nat) (p : BitVec 2) (s : State) : linkControl p (sendResponses n p s) = linkControl p s := by
  induction n generalizing s with
  | zero => rfl
  | succ n ih =>
    unfold sendResponses
    dsimp only
    split
    · rfl
    · split
      · exact (ih _).trans ((linkControl_startBlock p _ _).trans (linkControl_setPort rfl))
      · rfl

theorem linkControl_sendRequests (n : Nat) (p : BitVec 2) (s : State) : linkControl p (sendRequests n p s) = linkControl p s := by
  induction n generalizing s with
  | zero => rfl
  | succ n ih =>
    unfold sendRequests
    split
    · rfl
    · dsimp only
      split
      · rfl
      · split
        · refine (ih _).trans ((linkControl_startBlock p _ _).trans ?_)
          split
          · exact linkControl_setPort rfl
          · exact linkControl_setPort rfl
        · rfl

/-- A port that sends what it can ends no link reset and no command. -/
theorem linkControl_pump (p : BitVec 2) (s : State) : linkControl p (pump p s) = linkControl p s := by
  unfold pump
  split
  · have h (n : Nat) : linkControl p (sendResends n p (sendLinkUnits p s)) = linkControl p s :=
      (linkControl_sendResends n p _).trans (linkControl_setPort rfl)
    dsimp only
    split
    · exact h _
    · split
      · exact (linkControl_sendRequests 16 p _).trans ((linkControl_sendResponses 16 p _).trans (h _))
      · exact (linkControl_sendResponses 16 p _).trans (h _)
  · rfl

/-! A port that goes DOWN (R289). -/

/-- The fabric and the command slot, which no fault of an instruction moves. -/
def fabricSlot (s : State) : Fabric × CmdSlot := (s.fab, s.cmd)

theorem fabricSlot_of_flightsOnly {s t : State} (h : FlightsOnly s t) : fabricSlot t = fabricSlot s := by
  obtain ⟨_, _, _, rfl⟩ := h
  rfl

theorem fabricSlot_execFault (fid : Nat) (fc : BitVec 8) (v : Word64) (s : State) :
    fabricSlot (execFault fid fc v s) = fabricSlot s := by
  unfold execFault
  split
  · rfl
  · next f _ =>
    have h : fabricSlot (trimQueues (releaseQueues fid (releaseLeft f s))) = fabricSlot s :=
      fabricSlot_of_flightsOnly (flightsOnly_trans (flightsOnly_releaseLeft f s) ⟨_, _, _, rfl⟩)
    dsimp only
    split
    · exact h
    · rw [fabricSlot, modThread_fab, modThread_cmd]
      exact h

theorem fabricSlot_linkFault (f : Flight) (r : Remote) (s : State) : fabricSlot (linkFault f r s) = fabricSlot s := by
  unfold linkFault
  dsimp only
  rw [fabricSlot_execFault]
  refine foldl_keeps fabricSlot _ (fun s x => ?_) _ s
  split
  · split
    · exact fabricSlot_of_flightsOnly (flightsOnly_releaseClaim _ s)
    · rfl
  · rfl

/-- A port that goes DOWN is DOWN, in the link reset that it was in; no command ends (R289). -/
theorem goDown_port (p : BitVec 2) (s : State) : (getPort (goDown p s) p).down = true ∧
    (getPort (goDown p s) p).retrain = (getPort s p).retrain ∧ (goDown p s).cmd = s.cmd := by
  have h : ∃ g : Port → Port, (∀ q, (g q).down = true ∧ (g q).retrain = q.retrain) ∧
      fabricSlot (goDown p s) = fabricSlot (modPort p g s) := by
    refine ⟨fun q => { q with down := true, outLink := [], outRsp := [], tracker := [] }, fun q => ⟨rfl, rfl⟩, ?_⟩
    unfold goDown
    dsimp only
    rw [foldl_keeps fabricSlot _ (fun s x => fabricSlot_linkFault _ _ s), fabricSlot, logEvent_fab, logEvent_cmd]
    rfl
  obtain ⟨g, hg, e⟩ := h
  obtain ⟨ef, ec⟩ := Prod.mk.inj e
  rw [getPort_congr ef, getPort_modPort_self, ec, modPort_cmd]
  exact ⟨(hg _).1, (hg _).2, rfl⟩

/-! LINK_RETRAIN (R382). -/

theorem rowStatus_cmd (fid i : Nat) (st : BitVec 8) (s : State) : (rowStatus fid i st s).cmd = s.cmd := by
  have hc (p : Nat) (u : State) : (releaseClaim p u).cmd = u.cmd :=
    congrArg Prod.snd (fabricSlot_of_flightsOnly (flightsOnly_releaseClaim p u))
  unfold rowStatus
  dsimp only
  repeat' split
  all_goals simp [hc, freeTrack, modRemRow]

theorem dropOutstanding_cmd (p : BitVec 2) (s : State) : (dropOutstanding p s).cmd = s.cmd :=
  foldl_keeps State.cmd _ (fun s (t : Track) => rowStatus_cmd t.fid t.row stDenied s) _ s

/-- A link reset leaves of the port what it has sent, and no command ends (R382). -/
theorem clearLink_port (p : BitVec 2) (s : State) :
    getPort (clearLink p true s) p = { Port.reset with tx := (getPort s p).tx, retrain := true } ∧
    (clearLink p true s).cmd = s.cmd :=
  ⟨getPort_setPort_self p _ _, (setPort_cmd p _ _).trans (dropOutstanding_cmd p s)⟩

theorem linkRetrain_clears {p : BitVec 2} {s : State} (ha : halvesAgree s) (hm : hostMay 0x28 s)
    (harg : s.cmd.arg0 = p.setWidth 32) :
    ∃ s', exec .linkRetrain s = .next s' ∧
      (if portEnabled s p then s'.cmd.status = .busy ∧ getPort s' p = { Port.reset with tx := (getPort s p).tx, retrain := true }
       else s'.cmd.status = .fail ∧ s'.fab = s.fab) := by
  have hp : s.cmd.arg0.setWidth 2 = p := by rw [harg]; exact BitVec.eq_of_toNat_eq (by simp)
  have hok : portArgOk (posted s) = true := by
    rw [portArgOk, (posted_control s).2, harg]
    exact decide_eq_true (by simp; omega)
  obtain ⟨_, _, _, _, _, _, -, e⟩ := accepted_of_lull 0x28 s
  have hr : runRetrain (accepted 0x28 s) =
      if portEnabled s p then clearLink p true (accepted 0x28 s) else cmdFail 0 (accepted 0x28 s) := by
    rw [← hp, e]
    rfl
  have hfab : (accepted 0x28 s).fab = s.fab := by rw [e]; rfl
  have hbusy : (accepted 0x28 s).cmd.status = .busy := rfl
  refine ⟨_, congrArg Host.Outcome.next (postCommand_of_may hm ha hok rfl rfl), ?_⟩
  rw [hr]
  split
  · obtain ⟨hport, hcmd⟩ := clearLink_port p (accepted 0x28 s)
    rw [hport, hcmd, getPort_congr hfab]
    exact ⟨hbusy, rfl⟩
  · exact ⟨rfl, hfab⟩

theorem passLull_link (s : State) : (passLull s).fab = s.fab ∧ (passLull s).cmd = s.cmd := by
  obtain ⟨_, _, _, _, _, e⟩ := passLull_eq s
  rw [e]
  exact ⟨rfl, rfl⟩

/-- The end of a link reset ends the LINK_RETRAIN of its port, and moves the command slot alone. -/
theorem endRetrain_of_busy {p : BitVec 2} {done : State → State} {s t : State} (hc : t.cmd = s.cmd) (hb : busyWith s 0x28 = true)
    (harg : s.cmd.arg0 = p.setWidth 32) : endRetrain p done t = done t := by
  have hp : s.cmd.arg0.setWidth 2 = p := by rw [harg]; exact BitVec.eq_of_toNat_eq (by simp)
  unfold busyWith at hb
  unfold endRetrain busyWith
  rw [hc, hp, hb]
  exact if_pos (by simp)

theorem endRetrain_port {p : BitVec 2} {done : State → State} (hd : ∀ t, (done t).fab = t.fab) (t : State) :
    getPort (endRetrain p done t) p = getPort t p := by
  unfold endRetrain
  split
  · exact getPort_congr (hd t) p
  · rfl

/-- The port leaves its link reset. -/
def outOfReset (p : BitVec 2) (s : State) : State := modPort p (fun q => { q with retrain := false }) s

theorem retrainAck_ends {p : BitVec 2} {s : State} (h : (getPort s p).retrain = true) :
    ∃ s', exec (.retrainAck p) s = .next s' ∧ (getPort s' p).retrain = false ∧
      (busyWith s 0x28 = true → s.cmd.arg0 = p.setWidth 32 → s'.cmd.status = .ok) := by
  obtain ⟨hfab, hcmd⟩ := passLull_link s
  have hs : retrainAckStep p (passLull s) =
      some (endRetrain p cmdOk (pump p (freeFlits p 288 (outOfReset p (passLull s))))) :=
    if_pos (by rw [getPort_congr hfab]; exact h)
  have hk : linkControl p (pump p (freeFlits p 288 (outOfReset p (passLull s)))) = (false, s.cmd) := by
    rw [linkControl_pump, linkControl, freeFlits, getPort_modPort_self, outOfReset, getPort_modPort_self, modPort_cmd, modPort_cmd,
      hcmd]
  obtain ⟨hr, hc⟩ := Prod.mk.inj hk
  refine ⟨_, congrArg (fun o => Host.Outcome.next (Option.getD o s)) hs, ?_, fun hb harg => ?_⟩
  · rw [Option.getD_some, endRetrain_port cmdOk_fab]
    exact hr
  · rw [Option.getD_some, endRetrain_of_busy hc hb harg]
    rfl

theorem retrainTimeout_fails {p : BitVec 2} {s : State} (h : (getPort s p).retrain = true) :
    ∃ s', exec (.retrainTimeout p) s = .next s' ∧ (getPort s' p).retrain = false ∧ (getPort s' p).down = true ∧
      (busyWith s 0x28 = true → s.cmd.arg0 = p.setWidth 32 → s'.cmd.status = .fail ∧ s'.cmd.arg3 = 0x301) := by
  obtain ⟨hfab, hcmd⟩ := passLull_link s
  have hs : retrainTimeoutStep p (passLull s) = some (endRetrain p (cmdFail 0x301) (goDown p (outOfReset p (passLull s)))) :=
    if_pos (by rw [getPort_congr hfab]; exact h)
  obtain ⟨hdown, hr, hc⟩ := goDown_port p (outOfReset p (passLull s))
  refine ⟨_, congrArg (fun o => Host.Outcome.next (Option.getD o s)) hs, ?_⟩
  rw [Option.getD_some, endRetrain_port (cmdFail_fab _), hr, outOfReset, getPort_modPort_self]
  refine ⟨rfl, hdown, fun hb harg => ?_⟩
  rw [← outOfReset, endRetrain_of_busy (hc.trans ((modPort_cmd _ _ _).trans hcmd)) hb harg]
  exact ⟨rfl, rfl⟩

/-- Settles O47: each command is accepted and does its work on the handle, the entry or the port that it names; HEVICT's choice is a
fold that keeps an oldest candidate. -/
theorem handleSessionAndLinkCommands : Obligations.HandleSessionAndLinkCommands := by
  intro h p s ha
  refine ⟨fun harg => ⟨fun hm hs => postHandle_moves ha harg hm hs fun _ _ => rfl,
    fun hm hs => postHandle_moves ha harg hm hs fun _ _ => rfl, hfree_frees ha harg⟩, hevict_fails ha, fun hm hc => ?evict,
    fun hi he => ⟨sessResume_resumes ha hi he, sessPark_parks ha hi he⟩, linkRetrain_clears ha,
    fun hr => ⟨retrainAck_ends hr, retrainTimeout_fails hr⟩⟩
  case evict =>
    obtain ⟨hev, hold⟩ := evictChoice_oldest hc
    rw [evictable_passLull] at hev
    exact ⟨hev, fun g hg => hold g ((evictable_passLull s g).trans hg), hevict_evicts ha hm hc⟩

end Sys2Proof.Machine
end

section
/-! SUPPORT. Blocks, link units and timers of a fabric port: O30, O31. -/

namespace Sys2Proof.Machine

/-! A port behind a lull. -/

theorem getPort_passLull (s : State) (p : BitVec 2) : getPort (passLull s) p = getPort s p :=
  getPort_congr (passLull_link s).1 p

theorem portLive_passLull (s : State) (p : BitVec 2) : portLive (passLull s) p = portLive s p := by
  obtain ⟨-, -, hmould, -⟩ := passLull_control s
  rw [portLive, portLive, portEnabled, portEnabled, hmould, getPort_passLull]

theorem nextId_passLull (s : State) : (passLull s).nextId = s.nextId := by
  obtain ⟨_, _, _, _, _, e⟩ := passLull_eq s
  rw [e]
  rfl

/-! What a port looks up when a block arrives. -/

/-- What decides on a block beside the link: NODE_ID, the windows and the instructions in flight (R290, R294, R298). -/
def blockTables (s : State) : BitVec 19 × Sparse Window × List Flight := (s.fab.nodeId, s.fab.windows, s.flights)

theorem nodeId_of_blockTables {s t : State} (h : blockTables t = blockTables s) : t.fab.nodeId = s.fab.nodeId :=
  congrArg Prod.fst h

theorem windows_of_blockTables {s t : State} (h : blockTables t = blockTables s) : t.fab.windows = s.fab.windows :=
  congrArg (fun x => x.2.1) h

theorem flights_of_blockTables {s t : State} (h : blockTables t = blockTables s) : t.flights = s.flights :=
  congrArg (fun x => x.2.2) h

theorem blockTables_setPort (p : BitVec 2) (q : Port) (s : State) : blockTables (setPort p q s) = blockTables s := by
  unfold setPort
  split <;> rfl

theorem blockTables_modPort (p : BitVec 2) (g : Port → Port) (s : State) : blockTables (modPort p g s) = blockTables s :=
  blockTables_setPort p _ s

theorem blockTables_passLull (s : State) : blockTables (passLull s) = blockTables s := by
  obtain ⟨_, _, _, _, _, e⟩ := passLull_eq s
  rw [e]
  rfl

theorem blockTables_readCfg (n : Nat) (s : State) : blockTables (readCfg n s) = blockTables s := by
  rw [blockTables, readCfg_fab, readCfg_flights, blockTables]

theorem remoteRow_congr {s t : State} (h : t.flights = s.flights) (fid i : Nat) : remoteRow t fid i = remoteRow s fid i := by
  rw [remoteRow, remoteRow, findFlight_congr h]

theorem awaits_congr {s t : State} (h : t.flights = s.flights) (x : Track) : awaits t x = awaits s x := by
  rw [awaits, awaits, remoteRow_congr h]

/-! A block in sequence (R286, R288, R381). -/

/-- The port has given a block in sequence its place in the buffer, counted its SEQ, and queued its ACK. -/
def blockTaken (p : BitVec 2) (b : Block) (s : State) : State :=
  sendLink p true b.seq (takeFlits p (flitsOf b)
    (setPort p { getPort s p with rxSeq := (getPort s p).rxSeq + 1, discarding := false, discards := 0 } s))

theorem blockTables_blockTaken (p : BitVec 2) (b : Block) (s : State) : blockTables (blockTaken p b s) = blockTables s := by
  rw [blockTaken, sendLink, blockTables_modPort, takeFlits, blockTables_modPort, blockTables_setPort]

theorem tracker_blockTaken (p : BitVec 2) (b : Block) (s : State) :
    (getPort (blockTaken p b s) p).tracker = (getPort s p).tracker := by
  rw [blockTaken, sendLink, getPort_modPort_self, takeFlits, getPort_modPort_self, getPort_setPort_self]

/-- A block comes to a live port within its credits, has the SEQ expected, and is for this node (R286, R288, R381). -/
def InOrder (p : BitVec 2) (b : Block) (s : State) : Prop :=
  portLive s p = true ∧ flitsOf b ≤ (getPort s p).space ∧ b.seq = (getPort s p).rxSeq ∧ b.dst = s.fab.nodeId

theorem inOrder_passLull {p : BitVec 2} {b : Block} {s : State} (h : InOrder p b s) : InOrder p b (passLull s) := by
  rwa [InOrder, portLive_passLull, getPort_passLull, (passLull_link s).1]

theorem arrive_inOrder {p : BitVec 2} {b : Block} {s : State} (h : InOrder p b s) :
    arrive p b s = pump p (acceptBlock p b (blockTaken p b s)) ∧ b.dst = (blockTaken p b s).fab.nodeId := by
  obtain ⟨hl, hs, hn, hd⟩ := h
  refine ⟨?_, hd.trans (nodeId_of_blockTables (blockTables_blockTaken p b s)).symm⟩
  unfold arrive
  rw [if_pos hl]
  dsimp only
  rw [if_neg (not_lt.2 hs), if_pos hn]
  rfl

/-- A block of a request's type, with a row where the request is a PUT, for this node (R286, R290). -/
theorem acceptBlock_request {p : BitVec 2} {b : Block} {r : ReqType} {s : State} (ht : b.typ = reqTypeCode r)
    (hd : b.data = (r == .put)) (hn : b.dst = s.fab.nodeId) :
    acceptBlock p b s = acceptRequest p b r (readCfg cfgNode s) := by
  cases r <;> simp [acceptBlock, ht, hd, hn, reqTypeCode, reqOfType]

/-- A block of a response's type, for this node (R286, R290). -/
theorem acceptBlock_response {p : BitVec 2} {b : Block} {s : State} (ht : b.typ = if b.data then 5 else 6)
    (hn : b.dst = s.fab.nodeId) : acceptBlock p b s = acceptResponse p b (readCfg cfgNode s) := by
  cases hd : b.data <;> simp [acceptBlock, ht, hd, hn, reqOfType]

/-- The state in which a block in sequence is judged: taken, and NODE_ID read (R347). -/
def received (p : BitVec 2) (b : Block) (s : State) : State := readCfg cfgNode (blockTaken p b s)

theorem blockTables_received (p : BitVec 2) (b : Block) (s : State) : blockTables (received p b s) = blockTables s :=
  (blockTables_readCfg cfgNode _).trans (blockTables_blockTaken p b s)

/-- The same state behind a lull, as the statement writes it. -/
theorem received_passLull (p : BitVec 2) (b : Block) (s : State) : received p b (passLull s) =
    readCfg cfgNode (sendLink p true b.seq (takeFlits p (flitsOf b)
      (setPort p { getPort s p with rxSeq := (getPort s p).rxSeq + 1, discarding := false, discards := 0 } (passLull s)))) := by
  rw [received, blockTaken, getPort_passLull]

theorem blockTables_received_passLull (p : BitVec 2) (b : Block) (s : State) :
    blockTables (received p b (passLull s)) = blockTables s :=
  (blockTables_received p b _).trans (blockTables_passLull s)

theorem arrive_request {p : BitVec 2} {b : Block} {r : ReqType} {s : State} (h : InOrder p b s) (ht : b.typ = reqTypeCode r)
    (hr : b.data = (r == .put)) : arrive p b (passLull s) = pump p (acceptRequest p b r (received p b (passLull s))) := by
  obtain ⟨ha, hd⟩ := arrive_inOrder (inOrder_passLull h)
  rw [ha, acceptBlock_request ht hr hd, received]

theorem arrive_response {p : BitVec 2} {b : Block} {s : State} (h : InOrder p b s) (ht : b.typ = if b.data then 5 else 6) :
    arrive p b (passLull s) = pump p (acceptResponse p b (received p b (passLull s))) := by
  obtain ⟨ha, hd⟩ := arrive_inOrder (inOrder_passLull h)
  rw [ha, acceptBlock_response ht hd, received]

/-! A request that its window refuses (R293, R298). -/

/-- The window entry that a request names, and the entry of the window's handle, have been read (R347). -/
def windowRead (win : BitVec 4) (s : State) : State :=
  readCfg (getWindow s win.toNat).handle.toNat (readCfg (cfgWindow win.toNat) s)

theorem serveRequest_denied {req : ReqType} {win : BitVec 4} {wr : BitVec 17} {key : Word32} {src : BitVec 19} {why : Nat}
    {s : State} (h : windowCheck (windowRead win s) req win wr key src = .error why) (row : Bytes) (wuse ruse : BUse)
    (buffer : Option (BitVec 2)) :
    serveRequest req win wr key src row wuse ruse buffer s = (.status stDenied, denyRequest win why src (windowRead win s)) := by
  unfold serveRequest
  dsimp only
  rw [← windowRead, h]

theorem responseBlock_modPort (p : BitVec 2) (g : Port → Port) (s : State) : responseBlock (modPort p g s) = responseBlock s := by
  unfold responseBlock
  rw [show (modPort p g s).fab.nodeId = s.fab.nodeId from nodeId_of_blockTables (blockTables_modPort p g s)]

theorem acceptRequest_denied {p : BitVec 2} {b : Block} {r : ReqType} {why : Nat} {s : State}
    (h : windowCheck (windowRead b.win s) r b.win b.wr b.key b.src = .error why) :
    acceptRequest p b r s = sendResponse p (responseBlock (denyRequest b.win why b.src (windowRead b.win s)) b.src b.txn b.win
      stDenied none) (freeFlits p (flitsOf b) (denyRequest b.win why b.src (windowRead b.win s))) := by
  unfold acceptRequest
  rw [serveRequest_denied h]
  dsimp only
  rw [if_neg (fun ⟨_, k⟩ => absurd k (by decide)), freeFlits, responseBlock_modPort]

/-! A response and the row that waits for it (R294). -/

/-- The tracker entry that a response answers. -/
def answered (p : BitVec 2) (b : Block) (s : State) : Option Track :=
  (getPort s p).tracker.find? (fun t => t.txn == b.txn && t.node == b.src && awaits s t)

theorem answered_congr {p : BitVec 2} {b : Block} {s t : State} (hp : (getPort t p).tracker = (getPort s p).tracker)
    (hf : t.flights = s.flights) : answered p b t = answered p b s := by
  unfold answered
  rw [hp]
  simp only [awaits_congr hf]

theorem acceptResponse_matched {p : BitVec 2} {b : Block} {t : Track} {s : State} (h : answered p b s = some t)
    (hr : (remoteRow s t.fid t.row).isSome = true) : acceptResponse p b s =
      if b.data then rowArrived t.fid t.row (some p) (fitBytes 512 b.row) s
      else freeFlits p 2 (rowStatus t.fid t.row b.status s) := by
  unfold acceptResponse
  rw [← answered, h]
  dsimp only
  rw [Option.isNone_eq_false_iff.2 hr, if_neg Bool.false_ne_true, if_neg Bool.false_ne_true]

theorem acceptResponse_orphan {p : BitVec 2} {b : Block} {s : State} (h : answered p b s = none) :
    acceptResponse p b s = freeFlits p (flitsOf b) (bump (cntFabOrphan p.toNat) 1 s) := by
  unfold acceptResponse
  rw [← answered, h]

/-- The entry that a response answers is the one that it would have answered before it came. -/
theorem answered_received_passLull (p : BitVec 2) (b : Block) (s : State) :
    answered p b (received p b (passLull s)) = answered p b s :=
  answered_congr (by rw [received, getPort_congr (readCfg_fab cfgNode _), tracker_blockTaken, getPort_passLull])
    (flights_of_blockTables (blockTables_received_passLull p b s))

theorem arrive_matched {p : BitVec 2} {b : Block} {t : Track} {s : State} (h : InOrder p b s)
    (ht : b.typ = if b.data then 5 else 6) (hm : answered p b s = some t) (hr : (remoteRow s t.fid t.row).isSome = true) :
    arrive p b (passLull s) = pump p (if b.data then rowArrived t.fid t.row (some p) (fitBytes 512 b.row) (received p b (passLull s))
      else freeFlits p 2 (rowStatus t.fid t.row b.status (received p b (passLull s)))) := by
  rw [arrive_response h ht, acceptResponse_matched ((answered_received_passLull p b s).trans hm)]
  rwa [remoteRow_congr (flights_of_blockTables (blockTables_received_passLull p b s))]

theorem arrive_orphan {p : BitVec 2} {b : Block} {s : State} (h : InOrder p b s) (ht : b.typ = if b.data then 5 else 6)
    (hm : answered p b s = none) : arrive p b (passLull s) =
      pump p (freeFlits p (if b.data then 18 else 2) (bump (cntFabOrphan p.toNat) 1 (received p b (passLull s)))) := by
  rw [arrive_response h ht, acceptResponse_orphan ((answered_received_passLull p b s).trans hm), flitsOf]

/-- A row of a request's type serves the request, or answers that it is DENIED. -/
theorem request_served {p : BitVec 2} {b : Block} {r : ReqType} {i : Instr} {s : State} (h : InOrder p b s)
    (hi : exec i s = .next (arrive p b (passLull s))) (ht : b.typ = reqTypeCode r) (hr : b.data = (r == .put)) :
    let s1 := received p b (passLull s)
    let s2 := readCfg (getWindow s b.win.toNat).handle.toNat (readCfg (cfgWindow b.win.toNat) s1)
    exec i s = .next (pump p (acceptRequest p b r s1)) ∧
    ∀ why, windowCheck s2 r b.win b.wr b.key b.src = .error why →
      exec i s = .next (pump p (sendResponse p
        (responseBlock (denyRequest b.win why b.src s2) b.src b.txn b.win stDenied none)
        (freeFlits p (if b.data then 18 else 2) (denyRequest b.win why b.src s2)))) := by
  intro s1 s2
  have ha : exec i s = .next (pump p (acceptRequest p b r s1)) := by rw [hi, arrive_request h ht hr]
  have h2 : windowRead b.win s1 = s2 := by
    have hw : s1.fab.windows = s.fab.windows := windows_of_blockTables (blockTables_received_passLull p b s)
    rw [windowRead, getWindow, hw, ← getWindow]
  refine ⟨ha, fun why hwhy => ?_⟩
  rw [ha, acceptRequest_denied (h2.symm ▸ hwhy), h2, flitsOf]

/-- Settles O30: a block in order is judged in one state, where NODE_ID, the windows, the tracker and the rows in flight are those
before it came. -/
theorem remoteBlocksAreServed : Obligations.RemoteBlocksAreServed := by
  refine ⟨fun p b s hl hs hn hd => ?requests, fun p b s hl hs hn hd => ?responses⟩ <;> dsimp only <;> rw [← received_passLull]
  case requests =>
    have h : InOrder p b s := ⟨hl, hs, hn, hd⟩
    exact ⟨request_served (r := .put) h rfl, request_served (r := .take) h rfl, request_served (r := .peek) h rfl,
      request_served (r := .fetch) h rfl⟩
  case responses =>
    have h : InOrder p b s := ⟨hl, hs, hn, hd⟩
    have hdata (ht : b.typ = 5) (hb : b.data = true) : b.typ = if b.data then 5 else 6 := by rw [hb, if_pos rfl, ht]
    have hstatus (ht : b.typ = 6) (hb : b.data = false) : b.typ = if b.data then 5 else 6 := by
      rw [hb, if_neg Bool.false_ne_true, ht]
    refine ⟨fun t f r x hm hx => ?matched, fun hm => ?orphan⟩
    case matched =>
      have hr : (remoteRow s t.fid t.row).isSome = true := by rw [hx, Option.isSome_some]
      refine ⟨fun ht hb => congrArg Host.Outcome.next ?_, fun ht hb => congrArg Host.Outcome.next ?_⟩
      · exact (arrive_matched h (hdata ht hb) hm hr).trans (by rw [hb, if_pos rfl])
      · exact (arrive_matched h (hstatus ht hb) hm hr).trans (by rw [hb, if_neg Bool.false_ne_true])
    case orphan =>
      refine ⟨fun ht hb => congrArg Host.Outcome.next ?_, fun ht hb => congrArg Host.Outcome.next ?_⟩
      · exact (arrive_orphan h (hdata ht hb) hm).trans (by rw [hb, if_pos rfl])
      · exact (arrive_orphan h (hstatus ht hb) hm).trans (by rw [hb, if_neg Bool.false_ne_true])

/-! The replay buffer (R288, R289). -/

section
variable {p : BitVec 2} {seq : BitVec 8} {pre post : List Sent} {x : Sent} {q : Port} {s : State} (hq : getPort s p = q)
  (hr : q.replay = pre ++ x :: post) (hx : x.b.seq = seq) (hpre : ∀ y ∈ pre, y.b.seq ≠ seq)
include hq hr hx hpre

theorem ackBlock_of_held : ackBlock p seq s = pump p (setPort p { q with replay := post } s) := by
  have hd : q.replay.dropWhile (fun y => y.b.seq != seq) = x :: post := by
    rw [hr, List.dropWhile_append_of_pos (by simpa using hpre), List.dropWhile_cons_of_neg (by simp [hx])]
  unfold ackBlock
  rw [hq]
  dsimp only
  rw [hd]
  rfl

theorem resendFrom_of_held : resendFrom p seq s = some (if 8 ≤ x.resends then goDown p s else
    pump p (setPort p { q with replay := pre ++ (x :: post).map (fun y => { y with resend := true }) } s)) := by
  have ht : q.replay.takeWhile (fun y => y.b.seq != seq) = pre := by
    rw [hr, List.takeWhile_append_of_pos (by simpa using hpre), List.takeWhile_cons_of_neg (by simp [hx]), List.append_nil]
  unfold resendFrom
  rw [hq]
  dsimp only
  rw [ht, hr, List.drop_left]
  dsimp only
  split <;> rfl

variable (hl : portLive s p = true)
include hl

/-- An ACK has its block and every earlier one dropped. -/
theorem linkUnit_ack_of_held : linkUnit p true seq s = pump p (setPort p { q with replay := post } s) :=
  (if_pos hl).trans (ackBlock_of_held hq hr hx hpre)

/-- A NAK, and a missing answer, have its block and every later one resent, or take the port DOWN. -/
theorem linkUnit_nak_of_held : linkUnit p false seq s = if 8 ≤ x.resends then goDown p s else
    pump p (setPort p { q with replay := pre ++ (x :: post).map (fun y => { y with resend := true }) } s) :=
  (if_pos hl).trans (congrArg (Option.getD · s) (resendFrom_of_held hq hr hx hpre))

end

/-! Blocks that fail (R288, R289). -/

/-- Discards of the SEQ expected, with a failed block that had SEQ `k`. -/
def discardsWith (q : Port) (k : BitVec 8) : Nat := if k = q.rxSeq then q.discards + 1 else q.discards

/-- A failed block has been counted, and the receiver discards. -/
def failureCounted (p : BitVec 2) (n : Nat) (s : State) : State :=
  bump (cntFabCrc p.toNat) 1 (setPort p { getPort s p with discarding := true, discards := n } s)

/-- The answer to a failed block of a port that expected what `q` expects. -/
def failureAnswered (p : BitVec 2) (q : Port) (k : BitVec 8) (s : State) : State :=
  if 9 ≤ discardsWith q k then goDown p (failureCounted p (discardsWith q k) s)
  else pump p (sendLink p false q.rxSeq (failureCounted p (discardsWith q k) s))

/-- The discard of a block moves neither the SEQ expected nor its discards. -/
theorem discardFlits_keeps_expected (p : BitVec 2) (n : Nat) (s : State) :
    (getPort (discardFlits p n s) p).rxSeq = (getPort s p).rxSeq ∧
    (getPort (discardFlits p n s) p).discards = (getPort s p).discards := by
  unfold discardFlits
  split
  · rw [freeFlits, getPort_modPort_self, takeFlits, getPort_modPort_self]
    exact ⟨rfl, rfl⟩
  · exact ⟨rfl, rfl⟩

theorem failureAnswered_congr {p : BitVec 2} {q q' : Port} (hn : q'.rxSeq = q.rxSeq) (hd : q'.discards = q.discards) (k : BitVec 8)
    (s : State) : failureAnswered p q' k s = failureAnswered p q k s := by
  rw [failureAnswered, failureAnswered, discardsWith, discardsWith, hn, hd]

theorem blockFailure_eq (p : BitVec 2) (k : BitVec 8) (s : State) : blockFailure p k s = failureAnswered p (getPort s p) k s := rfl

/-- What a live port does with each failure. -/
theorem crcFailure_of_live {p : BitVec 2} {s : State} (hl : portLive s p = true) (k : BitVec 8) (d : Bool) :
    let s1 := discardFlits p (if d then 18 else 2) s
    crcFailure p (.blockCrc d) k s = failureAnswered p (getPort s p) k s1 ∧
    crcFailure p .noCredit k s = failureAnswered p (getPort s p) k s ∧ crcFailure p (.outOfSeq d) k s = s1 ∧
    crcFailure p .unitCrc k s = bump (cntFabCrc p.toNat) 1 s := by
  obtain ⟨hn, hd⟩ := discardFlits_keeps_expected p (flitCount d) s
  exact ⟨(if_pos hl).trans ((blockFailure_eq p k _).trans (failureAnswered_congr hn hd k _)), if_pos hl, if_pos hl, if_pos hl⟩

/-! Rows of remote instructions whose time has come (R218, R294). -/

theorem retryStep_of_due {fid i : Nat} {f : Flight} {r : Remote} {x : RemRow} {s : State}
    (h : remoteRow s fid i = some (f, r, x)) (hx : x.phase = .retry 0) : retryStep fid i s =
      some (offerRows fid (bump cntMsgRetries 1 (modRemRow fid i (fun y => { y with phase := .todo, stamp := s.nextId }) s))) := by
  unfold retryStep
  rw [h]
  dsimp only
  rw [hx]
  rfl

theorem rspTimeoutStep_of_late {p : BitVec 2} {n : BitVec 6} {t : Track} {s : State}
    (h : (getPort s p).tracker.find? (fun t => t.txn == n && awaits s t) = some t) (h0 : s.fab.rspLimit ≠ 0)
    (ht : s.fab.rspLimit.toNat ≤ t.age) : rspTimeoutStep p n s =
      some (pump p (rowStatus t.fid t.row stDenied (freeTrack p t.fid t.row
        (logEvent 0x304 (p.toNat + 256 * n.toNat) (bump (cntFabTimeout p.toNat) 1 s))))) := by
  unfold rspTimeoutStep
  rw [h]
  dsimp only
  rw [if_neg (not_or.2 ⟨h0, not_lt.2 ht⟩)]

/-- Settles O31: the lull moves no port and no row in flight, so each row finds the replay buffer, the SEQ expected, the gap and
the tracker as they stood. -/
theorem linkUnitsAndTimers : Obligations.LinkUnitsAndTimers := by
  refine ⟨fun p seq pre post x s hl => ?links, fun fid i p n f r x t s => ?timers⟩
  case links =>
    have hl' : portLive (passLull s) p = true := (portLive_passLull s p).trans hl
    have hq : getPort (passLull s) p = getPort s p := getPort_passLull s p
    have hfails (k : BitVec 8) (d : Bool) := crcFailure_of_live hl' k d
    rw [hq] at hfails
    refine ⟨fun hr hx hpre => ?held, ?credit, fun k d => ?failure, fun k => ?unit⟩
    case held =>
      have hnak := linkUnit_nak_of_held hq hr hx hpre hl'
      refine ⟨congrArg Host.Outcome.next (linkUnit_ack_of_held hq hr hx hpre hl'), fun h8 => ?_, fun h8 => ?_⟩
      · have h := hnak.trans (if_neg (not_le.2 h8))
        exact ⟨congrArg Host.Outcome.next h, congrArg Host.Outcome.next h⟩
      · have h := hnak.trans (if_pos h8)
        exact ⟨congrArg Host.Outcome.next h, congrArg Host.Outcome.next h⟩
    case credit =>
      exact congrArg Host.Outcome.next ((if_pos hl').trans (by rw [modPort, hq]))
    case failure =>
      obtain ⟨hcrc, hcredit, hseq, -⟩ := hfails k d
      exact ⟨congrArg Host.Outcome.next hcrc, congrArg Host.Outcome.next hcredit, congrArg Host.Outcome.next hseq⟩
    case unit =>
      obtain ⟨-, -, -, hunit⟩ := hfails k true
      exact congrArg Host.Outcome.next hunit
  case timers =>
    have hfl : (passLull s).flights = s.flights := flights_of_blockTables (blockTables_passLull s)
    refine ⟨fun h hx => ?retry, fun h h0 ht => ?late⟩
    case retry =>
      have hstep := retryStep_of_due ((remoteRow_congr hfl fid i).trans h) hx
      rw [nextId_passLull] at hstep
      exact congrArg (fun o => Host.Outcome.next (Option.getD o s)) hstep
    case late =>
      have hstep := rspTimeoutStep_of_late (p := p) (n := n) (t := t) (s := passLull s)
        (by simpa only [getPort_passLull, awaits_congr hfl] using h) (by rwa [(passLull_link s).1]) (by rwa [(passLull_link s).1])
      exact congrArg (fun o => Host.Outcome.next (Option.getD o s)) hstep

end Sys2Proof.Machine
end

section
/-! SUPPORT. The step and the commands that are refused: O1 and O48. -/

namespace Sys2Proof.Machine
open Claims

/-- Settles O1: it is the definition of a step. -/
theorem stepTakesFrontCommand : Obligations.StepTakesFrontCommand := fun _ _ _ => rfl

/-! Events of the log. -/

/-- The state `s` with other events in the queue, another cause and other counters (R350, R361). -/
def logChange (q : List Event) (c : BitVec 4) (cs : Sparse Nat) (s : State) : State :=
  { s with evt := { s.evt with queue := q, cause := c }, counters := cs }

theorem logAt_eq (place : Event → List Event → List Event) (cycle : BitVec 48) (code : BitVec 12) (d : Nat) (s : State) :
    ∃ q c cs, logAt place cycle code d s = logChange q c cs s := by
  unfold logAt
  dsimp only
  split
  · exact ⟨_, _, _, rfl⟩
  · exact ⟨_, _, _, rfl⟩

theorem logEvent_eq (code : BitVec 12) (d : Nat) (s : State) : ∃ q c cs, logEvent code d s = logChange q c cs s := logAt_eq ..

theorem bridleEvent_eq (code : BitVec 12) (d : Nat) (s : State) : ∃ q c cs, bridleEvent code d s = logChange q c cs s := by
  unfold bridleEvent
  split
  · exact logAt_eq ..
  · exact logEvent_eq ..

/-- An event of the Bridle is queued where the queue has room (R361). -/
theorem queued_bridleEvent (code : BitVec 12) (d : Nat) (s : State) (h : s.evt.queue.length < 64) :
    queued code (bridleEvent code d s) := by
  unfold bridleEvent
  split
  · unfold queued logAt
    dsimp only
    rw [if_pos h]
    exact ⟨_, List.mem_append_right _ (List.mem_singleton_self _), rfl⟩
  · exact queued_logEvent code d s h

/-! Commands that are refused (R331, R379). -/

/-- A refusal moves the answer of the CSR port, the status of the slot, the log and the counters. -/
theorem rejectCommand_eq (op : Nat) (st : CsrStatus) (s : State) : ∃ q c cs r,
    rejectCommand op st s = { logChange q c cs s with
      csr := r, cmd := { s.cmd with status := if s.cmd.status = .busy then .busy else .idle } } ∧
    r.status = st ∧ r.held = s.csr.held ∧ r.capture = s.csr.capture := by
  obtain ⟨_, _, _, e⟩ := logEvent_eq 0x001 (op + 2 ^ 8 * stateCode s.run.state) s
  unfold rejectCommand
  rw [e]
  exact ⟨_, _, _, _, rfl, rfl, rfl, rfl⟩

theorem queued_rejectCommand {op : Nat} {st : CsrStatus} {s : State} (h : s.evt.queue.length < 64) :
    queued 0x001 (rejectCommand op st s) :=
  queued_logEvent 0x001 (op + 2 ^ 8 * stateCode s.run.state) s h

section
variable {op : Nat} {s : State} (hp : portOpen s = true)
  (hn : blockOpen s 0x200 = false ∨ s.cmd.status = .busy ∨ commandLegal s op = false)
include hp hn

/-- A command on a session that is refused does not come to its entry. -/
theorem postSession_of_not_may {ok : State → Nat → Bool} {run : Nat → State → State} :
    postSession op ok run s = rejectCommand op .errState (posted s) := by
  have hr : sessReached op s = false := by
    unfold sessReached
    rcases hn with h | h | h <;> simp [h]
  unfold postSession
  rw [hr]
  exact postCommand_of_not_may hp hn

/-- Every command of Table 16.3 is a CMD_OP write, which the state refuses before it looks at anything else. -/
theorem exec_of_not_may {i : Instr} (hi : hostCode i = some op) : exec i s = .next (rejectCommand op .errState (posted s)) := by
  unfold hostCode at hi
  split at hi <;> cases hi
  case h_3 => exact congrArg Host.Outcome.next (show postPlain 0x03 _ s = _ from postCommand_of_not_may hp hn)
  case h_13 => exact congrArg Host.Outcome.next (postSession_of_not_may hp hn)
  case h_14 => exact congrArg Host.Outcome.next (postSession_of_not_may hp hn)
  all_goals exact congrArg Host.Outcome.next (postCommand_of_not_may hp hn)

end

/-- Settles O48: a refused command is one refusal, whatever the command. -/
theorem rejectedCommandsHaveNoSideEffect : Obligations.RejectedCommandsHaveNoSideEffect := by
  intro i op s hi hp hn
  refine ⟨_, exec_of_not_may hp hn hi, ?_⟩
  obtain ⟨_, _, _, _, e, hst, hheld, hcap⟩ := rejectCommand_eq op .errState (posted s)
  obtain ⟨_, hcmd, -, hcsr⟩ := passLull_control s
  obtain ⟨-, -, -, hevt⟩ := passLull_holds s
  have hq : s.evt.queue.length < 64 → queued 0x001 (rejectCommand op .errState (posted s)) := fun h =>
    queued_rejectCommand (by rw [← hevt] at h; exact h)
  rw [e] at hq ⊢
  exact ⟨hst, hheld, hcap.trans (congrArg CsrPort.capture hcsr :), hq, by simp only [(posted_control s).2], rfl⟩

end Sys2Proof.Machine
end

section
/-! SUPPORT. The serial monitor: O52. -/

namespace Sys2Proof.Machine
open Claims

/-! Who is answered (R370). -/

/-- A reply of the monitor leaves the run control, the Bridle and the registers. -/
def Sends (i : Instr) (r : MonReply) (s : State) : Prop :=
  ∃ s', exec i s = .next s' ∧ s'.mon.out = r :: s.mon.out ∧ s'.run = s.run ∧ s'.brg = s.brg ∧ (∀ u r, sreg u r s' = sreg u r s)

section
variable {i : Instr} {r : MonReply} {both : Bool} {run : State → State} {s : State}

/-- A command whose answer is one reply, behind which no more than the monitor has changed. -/
theorem sends_of_reply {m : Monitor} (h : exec i s = .next { s with mon := m }) (hm : m.out = r :: s.mon.out) :
    Sends i r s := ⟨_, h, hm, rfl, rfl, fun u _ => by cases u <;> rfl⟩

theorem monitorCommand_of_opened (hr : bridleRuns s = true) (ha : s.mon.access = .opened) :
    monitorCommand both run s = run s := by
  unfold monitorCommand
  rw [hr, ha]
  rfl

theorem monitorCommand_of_locked (hr : bridleRuns s = true) (ha : s.mon.access = .locked) :
    monitorCommand false run s = reply (.word "LOCKED") s := by
  unfold monitorCommand
  rw [hr, ha]
  rfl

theorem monitorCommand_of_closed (hr : bridleRuns s = true) (ha : s.mon.access = .closed) : monitorCommand both run s = s := by
  unfold monitorCommand
  rw [hr, ha]
  rfl

/-- HELP and UNLOCK are answered by a locked monitor too. -/
theorem monitorCommand_of_not_closed (hr : bridleRuns s = true) (ha : s.mon.access ≠ .closed) :
    monitorCommand true run s = run s := by
  unfold monitorCommand
  rw [hr]
  cases h : s.mon.access with
  | closed => exact absurd h ha
  | opened => rfl
  | locked => rfl

/-- The answer of an open monitor to a command that reports values or texts. -/
theorem sends_of_opened (hr : bridleRuns s = true) (ha : s.mon.access = .opened)
    (he : exec i s = .next (monitorCommand both run s)) (hs : run s = reply r s) : Sends i r s :=
  sends_of_reply (he.trans (congrArg Host.Outcome.next ((monitorCommand_of_opened hr ha).trans hs))) rfl

end

/-! UNLOCK (R370). -/

section
variable {k : BitVec 64} {s : State} (hr : bridleRuns s = true) (ha : s.mon.access ≠ .closed)
include hr ha

theorem exec_unlock : exec (.unlock k) s = .next (runUnlock k s) :=
  congrArg Host.Outcome.next (monitorCommand_of_not_closed hr ha)

theorem unlock_opens (hk : k ≠ 0 ∧ s.mon.token = some k) :
    Sends (.unlock k) (.word "OPEN") s ∧ ∃ s', exec (.unlock k) s = .next s' ∧ s'.mon.access = .opened ∧ s'.mon.token = none := by
  have he : exec (.unlock k) s =
      .next (reply (.word "OPEN") { s with mon := { s.mon with token := none, access := .opened } }) :=
    (exec_unlock hr ha).trans (congrArg Host.Outcome.next (if_pos hk))
  exact ⟨sends_of_reply he rfl, _, he, rfl, rfl⟩

/-- A wrong token is counted and logged; the third one voids the token. -/
theorem unlock_denies (hk : ¬(k ≠ 0 ∧ s.mon.token = some k)) :
    Sends (.unlock k) (.word "DENIED") s ∧ ∃ s', exec (.unlock k) s = .next s' ∧ s'.mon.access = s.mon.access ∧
      s'.mon.fails = min 3 (s.mon.fails + 1) ∧ (3 ≤ s.mon.fails + 1 → s'.mon.token = none) ∧
      (s.evt.queue.length < 64 → queued 0x604 s') := by
  have he : exec (.unlock k) s = .next (runUnlock k s) := exec_unlock hr ha
  unfold runUnlock at he
  rw [if_neg hk] at he
  generalize hn : min 3 (s.mon.fails + 1) = n at he ⊢
  dsimp only at he
  have hq := queued_bridleEvent 0x604 n { s with mon := { s.mon with fails := n } }
  obtain ⟨_, _, _, e⟩ := bridleEvent_eq 0x604 n { s with mon := { s.mon with fails := n } }
  rw [e] at he hq
  exact ⟨⟨_, he, rfl, rfl, rfl, fun u _ => by cases u <;> rfl⟩, _, he, rfl, rfl, fun h => if_pos (by omega), hq⟩

end

/-! The reports of an open monitor (Table 18.5). -/

theorem lastEntries_length (s : State) (n : Nat) : (lastEntries s n).length = min n (min s.evt.written 4096) := by
  unfold lastEntries
  rw [List.length_map, List.length_range]

/-- The address of a counter other than CYCLE is the base of its register, whose value is the counter. -/
theorem runCnt_of_counter {a : Nat} {s : State} (he : a % 2 = 0) (hl : a < 0x7000) (hc : regCounter s a ≠ none) (h0 : a ≠ 0x6000) :
    runCnt a s = reply (.values [counter s a]) s := by
  have hb : evenBelow a = a := by rw [evenBelow, he, Nat.sub_zero]
  unfold runCnt
  unfold regCounter at hc ⊢
  rw [if_neg (by omega)] at hc ⊢
  split at hc
  · next hr =>
    rw [if_pos hr, hb, reg2]
    dsimp only
    have hv : regValue s a = counter s a := by
      unfold regValue
      rw [if_neg (by omega), if_neg (by omega), if_neg (by omega), if_neg (by omega), if_neg (by omega), if_neg (by omega),
        if_neg (by omega), if_neg (by omega), if_neg (by omega), if_neg h0, if_pos hl]
    rw [if_pos rfl, hv]
    rfl
  · exact absurd rfl hc

/-! Lines (R369, R371). -/

/-- A line that spells a command is answered as the command. -/
theorem receiveLine_of_command {l : Bytes} {t : List Char} {c : Bool × (State → State)} (hl : lineChars l = t) (ht : t.length ≤ 80)
    (hc : lineCommand ((splitWords t).filter (fun w => !w.isEmpty)) = some c) (s : State) :
    receiveLine l s = monitorCommand c.1 c.2 s := by
  have hlen : l.length ≤ 80 := by
    rw [← hl, lineChars, List.length_map] at ht
    exact ht
  unfold receiveLine lineWords
  rw [if_pos hlen, hl, hc]

theorem uartCommandLine_of_line {xs : List Bool} {l : Bytes} {s : State} (h : lineOf (uartReceive xs.length xs) = some l) :
    exec (.uartCommandLine xs) s = .next (receiveLine l s) := by
  change Host.Outcome.next (match lineOf (uartReceive xs.length xs) with | none => s | some l => receiveLine l s) = _
  rw [h]

theorem uartCommandLine_of_none {xs : List Bool} {s : State} (h : lineOf (uartReceive xs.length xs) = none) :
    exec (.uartCommandLine xs) s = .next s := by
  change Host.Outcome.next (match lineOf (uartReceive xs.length xs) with | none => s | some l => receiveLine l s) = _
  rw [h]

/-- A received line with these characters is answered as the command that they spell. -/
theorem uartCommandLine_of_text {xs : List Bool} {t : List Char} {c : Bool × (State → State)} {s : State}
    (h : ∃ l, lineOf (uartReceive xs.length xs) = some l ∧ lineChars l = t) (ht : t.length ≤ 80)
    (hc : lineCommand ((splitWords t).filter (fun w => !w.isEmpty)) = some c) :
    exec (.uartCommandLine xs) s = .next (monitorCommand c.1 c.2 s) := by
  obtain ⟨l, hl, hchars⟩ := h
  rw [uartCommandLine_of_line hl, receiveLine_of_command hchars ht hc]

/-- A line of more than 80 characters gets the prompt alone. -/
theorem receiveLine_of_long {l : Bytes} {s : State} (h : 80 < l.length) :
    receiveLine l s = monitorCommand false (reply .prompt) s := by
  unfold receiveLine
  rw [if_neg (by omega)]

theorem receiveLine_of_closed {l : Bytes} {s : State} (hr : bridleRuns s = true) (ha : s.mon.access = .closed) :
    receiveLine l s = s := by
  unfold receiveLine
  split
  · exact monitorCommand_of_closed hr ha
  · exact monitorCommand_of_closed hr ha

/-- A closed monitor ignores every command and every line. -/
theorem closed_ignores {n : Nat} {a : BitVec 16} {k : BitVec 64} {xs : List Bool} {s : State} (hr : bridleRuns s = true)
    (ha : s.mon.access = .closed) :
    ∀ i ∈ ([.id, .state, .temp, .power, .cones, .steps, .log n, .cnt a, .lock] : List Instr) ++
      [.help, .unlock k, .uartCommandLine xs], exec i s = .next s := by
  have hc {both : Bool} {run : State → State} : Host.Outcome.next (monitorCommand both run s) = (.next s : Out) :=
    congrArg Host.Outcome.next (monitorCommand_of_closed hr ha)
  simp only [List.cons_append, List.nil_append, List.forall_mem_cons]
  refine ⟨hc, hc, hc, hc, hc, hc, hc, hc, hc, hc, hc, ?_, List.forall_mem_nil _⟩
  cases h : lineOf (uartReceive xs.length xs) with
  | none => exact uartCommandLine_of_none h
  | some l => rw [uartCommandLine_of_line h, receiveLine_of_closed hr ha]

theorem locked_refuses {n : Nat} {a : BitVec 16} {s : State} (hr : bridleRuns s = true) (ha : s.mon.access = .locked) :
    ∀ i ∈ ([.id, .state, .temp, .power, .cones, .steps, .log n, .cnt a, .lock] : List Instr), Sends i (.word "LOCKED") s := by
  have hc {i : Instr} {run : State → State} (he : exec i s = .next (monitorCommand false run s)) : Sends i (.word "LOCKED") s :=
    sends_of_reply (he.trans (congrArg Host.Outcome.next (monitorCommand_of_locked hr ha))) rfl
  simp only [List.forall_mem_cons]
  exact ⟨hc rfl, hc rfl, hc rfl, hc rfl, hc rfl, hc rfl, hc rfl, hc rfl, hc rfl, List.forall_mem_nil _⟩

/-- Settles O52: a command is answered by the monitor's access, a line is the command whose words it has, and each report is one
reply. -/
theorem monitorAnswers : Obligations.MonitorAnswers := by
  intro n a k xs s hr
  refine ⟨fun ha => ⟨?help, ?unlock⟩, fun ha => ?opened, locked_refuses hr, closed_ignores hr,
    fun h => uartCommandLine_of_text (c := (false, runState)) h (by decide) rfl,
    fun h => uartCommandLine_of_text (c := (false, runLog 64)) h (by decide) rfl,
    fun h => uartCommandLine_of_text (c := (false, runCnt 0x602E)) h (by decide) rfl,
    uartCommandLine_of_none, ?long, ?bytes⟩
  case help =>
    exact sends_of_reply (congrArg Host.Outcome.next (monitorCommand_of_not_closed hr ha)) rfl
  case unlock =>
    split
    · next hk => exact unlock_opens hr ha hk
    · next hk => exact unlock_denies hr ha hk
  case opened =>
    have hcones : exec .cones s = .next (runCones s) := congrArg Host.Outcome.next (monitorCommand_of_opened hr ha)
    have hlock : exec .lock s = .next (runLock s) := congrArg Host.Outcome.next (monitorCommand_of_opened hr ha)
    have hlocked : (runLock s).mon.access = .locked := if_neg (by rw [ha]; decide)
    refine ⟨sends_of_opened hr ha rfl rfl, sends_of_opened hr ha rfl rfl, sends_of_opened hr ha rfl rfl,
      sends_of_opened hr ha rfl rfl, ⟨sends_of_reply hcones rfl, _, hcones, rfl, rfl⟩, sends_of_opened hr ha rfl rfl,
      fun _ h64 => ⟨sends_of_opened hr ha rfl ?_, lastEntries_length s n⟩,
      fun he hl hc h0 => sends_of_opened hr ha rfl (runCnt_of_counter he hl hc h0),
      sends_of_reply hlock rfl, _, hlock, hlocked⟩
    rw [runLog, if_pos h64]
  case long =>
    intro l hl h80 ha
    exact sends_of_reply ((uartCommandLine_of_line hl).trans (congrArg Host.Outcome.next
      ((receiveLine_of_long h80).trans (monitorCommand_of_opened hr ha)))) rfl
  case bytes =>
    intro r
    rw [replyBytes, List.flatMap_def]
    rfl

end Sys2Proof.Machine
end

section
/-! SUPPORT. The mailbox: O51. -/

namespace Sys2Proof.Machine
open Claims

/-! The retune of the frequency-step table (R325, R359). -/

/-- The retune of the table moves the table, and the log where an entry changes. -/
theorem retuneTable_eq (s : State) : ∃ q c cs fs,
    retuneTable s = { logChange q c cs s with clk := { s.clk with fsteps := fs } } := by
  have hf (l : List ((Word32 × Word32) × Nat)) (s : State) : ∃ q c cs,
      l.foldl (fun s x => if x.1.1 = x.1.2 then s
        else bridleEvent 0x505 (x.2 + 2 ^ 8 * stepFreq x.1.2 + 2 ^ 20 * stepVid x.1.2) s) s = logChange q c cs s := by
    induction l using List.reverseRecOn with
    | nil => exact ⟨s.evt.queue, s.evt.cause, s.counters, rfl⟩
    | append_singleton l x ih =>
      obtain ⟨q, c, cs, e⟩ := ih
      rw [List.foldl_append, e, List.foldl_cons, List.foldl_nil]
      split
      · exact ⟨q, c, cs, rfl⟩
      · obtain ⟨_, _, _, k⟩ := bridleEvent_eq 0x505 (x.2 + 2 ^ 8 * stepFreq x.1.2 + 2 ^ 20 * stepVid x.1.2) (logChange q c cs s)
        exact ⟨_, _, _, k⟩
  unfold retuneTable
  dsimp only
  generalize (s.clk.fsteps.zip (s.mould.cfg.fsteps.zipIdx.map
    (fun x => retuned s.clk.vidOfs.toNat s.clk.freqOfs x.2 x.1))).zipIdx = pairs
  obtain ⟨_, _, _, e⟩ := hf pairs s
  rw [e]
  split
  · exact ⟨_, _, _, _, rfl⟩
  · exact ⟨_, _, _, _, rfl⟩

/-- New offsets are in force at once; the table follows now, or behind a change of step (R325). -/
theorem applyRetune_eq (v : BitVec 4) (f : Bool) (s : State) : ∃ q c cs fs w, applyRetune v f s =
    { logChange q c cs s with
      clk := { s.clk with vidOfs := v, freqOfs := f, fsteps := fs }, brg := { s.brg with retuneWait := w } } := by
  unfold applyRetune
  dsimp only
  split
  · exact ⟨s.evt.queue, s.evt.cause, s.counters, s.clk.fsteps, true, rfl⟩
  · obtain ⟨_, _, _, _, e⟩ := retuneTable_eq { s with clk := { s.clk with vidOfs := v, freqOfs := f } }
    rw [e]
    exact ⟨_, _, _, _, s.brg.retuneWait, rfl⟩

/-! The data buffer (R364). -/

theorem mbxData_setMbxData {s : State} (hw : Sparse.wf 0 s.mbx.data = true) (k j : Nat) (w : Word32) :
    mbxData (setMbxData k w s) j = if j = k then w else mbxData s j := by
  split
  · next h => rw [h]; exact Sparse.get_set_self 0 _ _ _ hw
  · next h => exact Sparse.get_set_ne 0 _ _ hw h

theorem mbxData_mbxOk (s : State) (k : Nat) : mbxData (mbxOk s) k = mbxData s k := rfl

/-- Words written from a place up read back there, and the words before them stay. -/
theorem mbxData_foldl_zipIdx (ws : List Word32) (n : Nat) {s : State} (hw : Sparse.wf 0 s.mbx.data = true) (k : Nat) :
    mbxData ((ws.zipIdx n).foldl (fun s x => setMbxData x.2 x.1 s) s) k =
      if n ≤ k ∧ k < n + ws.length then ws.getD (k - n) 0 else mbxData s k := by
  induction ws generalizing n s with
  | nil => simp
  | cons w ws ih =>
    rw [List.zipIdx_cons, List.foldl_cons, ih (n + 1) (Sparse.wf_set 0 _ _ _ hw), mbxData_setMbxData hw]
    by_cases hk : k = n
    · simp [hk]
    · by_cases hr : n + 1 ≤ k ∧ k < n + 1 + ws.length
      · have hn : n ≤ k ∧ k < n + (w :: ws).length := by rw [List.length_cons]; omega
        rw [if_pos hr, if_pos hn, show k - n = k - (n + 1) + 1 by omega, List.getD_cons_succ]
      · have hn : ¬(n ≤ k ∧ k < n + (w :: ws).length) := by rw [List.length_cons]; omega
        rw [if_neg hr, if_neg hn, if_neg hk]

theorem mbxData_setMbxWords {ws : List Word32} {s : State} (hw : Sparse.wf 0 s.mbx.data = true) {k : Nat} (hk : k < ws.length) :
    mbxData (setMbxWords ws s) k = ws.getD k 0 := by
  unfold setMbxWords
  rw [mbxData_foldl_zipIdx ws 0 hw, if_pos (by omega), Nat.sub_zero]

/-- Words of the buffer are all that is written. -/
theorem setMbxWords_eq (ws : List Word32) (s : State) : ∃ d, setMbxWords ws s = { s with mbx := { s.mbx with data := d } } := by
  unfold setMbxWords
  induction ws.zipIdx using List.reverseRecOn with
  | nil => exact ⟨s.mbx.data, rfl⟩
  | append_singleton l x ih =>
    obtain ⟨_, e⟩ := ih
    rw [List.foldl_append, e]
    exact ⟨_, rfl⟩

/-! An operation that is accepted (R364, R367, R379). -/

/-- The state in which an accepted operation is BUSY. -/
def mailboxTaken (op : Nat) (s : State) : State :=
  answer .ok 0 { posted s with
    mbx := { (posted s).mbx with op := BitVec.ofNat 8 op, status := .busy, waits := (posted s).run.state == .refire } }

theorem mailboxTaken_eq (op : Nat) (s : State) : ∃ c g l n cs r, r.status = .ok ∧ mailboxTaken op s = { lullChange c g l n cs s with
    csr := r, mbx := { s.mbx with op := BitVec.ofNat 8 op, status := .busy, waits := s.run.state == .refire } } := by
  obtain ⟨_, _, _, _, _, e, -⟩ := posted_eq s
  unfold mailboxTaken
  rw [e]
  exact ⟨_, _, _, _, _, _, rfl, rfl⟩

theorem postMailbox_of_may {op : Nat} {s : State} (h : mailboxMay op s) : postMailbox op s = mailboxServe (mailboxTaken op s) := by
  obtain ⟨hp, he, hb, hl⟩ := h
  obtain ⟨_, _, _, _, _, e, -⟩ := posted_eq s
  have hearly : ((mailboxEarly (posted s) && op != 1 && op != 2) || (posted s).mbx.status == .busy) = false := by
    rw [e]
    change ((mailboxEarly s && op != 1 && op != 2) || s.mbx.status == .busy) = false
    rw [beq_false_of_ne hb]
    rcases he with he | rfl | rfl <;> simp [*]
  have hlegal : mbxLegal (posted s) op = some true := by
    rw [e]
    exact hl
  unfold postMailbox
  rw [if_neg (by simp [hp])]
  change (if ((mailboxEarly (posted s) && op != 1 && op != 2) || (posted s).mbx.status == .busy) = true then _ else
    match mbxLegal (posted s) op with
    | none => _
    | some false => _
    | some true => _) = _
  rw [hearly, hlegal]
  rfl

/-- What an accepted operation other than a served UPDATE_ACTIVATE leaves: the operation is BUSY. -/
theorem mailboxServe_of_other {s : State} (h : s.mbx.op ≠ 6 ∨ bridleRuns s = false) : mailboxServe s = s := by
  refine if_neg fun hc => ?_
  simp only [mailboxRuns, Bool.and_eq_true, beq_iff_eq] at hc
  obtain ⟨⟨⟨-, hr⟩, -⟩, ho⟩ := hc
  rcases h with h | h
  · exact h ho
  · exact absurd hr (by rw [h]; decide)

/-- What every accepted operation leaves behind the lull (R364). -/
def Accepted (i : Instr) (op : BitVec 8) (s : State) : Prop :=
  mailboxMay op.toNat s → ∃ s', exec i s = .next s' ∧ s'.csr.status = .ok ∧ s'.run = s.run ∧
    (∀ u r, sreg u r s' = sreg u r s) ∧
    s'.mbx = { s.mbx with op := op, status := .busy, waits := s.run.state == .refire } ∧ s'.mon = s.mon ∧
    (op ≠ 6 ∨ bridleRuns s = false → s'.brg = s.brg) ∧
    (op = 6 → bridleRuns s = true → s'.brg.restarting = true ∧ s'.brg.activate = true ∧
      counter s' cntBrgRestarts = counter s cntBrgRestarts)

theorem accepted_of_other {i : Instr} {op : BitVec 8} {s : State} (he : exec i s = .next (postMailbox op.toNat s))
    (h : op ≠ 6 ∨ bridleRuns s = false) : Accepted i op s := by
  intro hm
  obtain ⟨_, _, _, _, _, _, hr, e⟩ := mailboxTaken_eq op.toNat s
  rw [BitVec.ofNat_toNat, BitVec.setWidth_eq] at e
  refine ⟨_, he.trans (congrArg Host.Outcome.next (postMailbox_of_may hm)), ?_⟩
  rw [e, mailboxServe_of_other (by exact h)]
  refine ⟨hr, rfl, fun u _ => by cases u <;> rfl, rfl, rfl, fun _ => rfl, fun h6 hb => ?_⟩
  rcases h with h | h
  · exact absurd h6 h
  · exact absurd h (by rw [hb]; decide)

/-- UPDATE_ACTIVATE is served at once by a Bridle that runs (R367). -/
theorem accepted_updateActivate (s : State) : Accepted .updateActivate 0x06 s := by
  cases hb : bridleRuns s with
  | false => exact accepted_of_other rfl (Or.inr hb)
  | true =>
    intro hm
    have hserve : mailboxServe (mailboxTaken 6 s) = runActivate (mailboxTaken 6 s) := by
      obtain ⟨_, _, _, _, _, _, -, e⟩ := mailboxTaken_eq 6 s
      have hw : (s.run.state == .refire) = false := by
        obtain ⟨-, -, -, hl⟩ := hm
        exact beq_false_of_ne fun hs => by simp [mbxLegal, hs] at hl
      refine if_pos ?_
      rw [e]
      change (true && bridleRuns s && !(s.run.state == .refire) && true) = true
      rw [hb, hw]
      rfl
    refine ⟨_, congrArg Host.Outcome.next ((postMailbox_of_may hm).trans hserve), ?_⟩
    have hc : counter (runActivate (mailboxTaken 6 s)) cntBrgRestarts = counter s cntBrgRestarts :=
      counter_passLull s (by decide) (by decide)
    obtain ⟨_, _, _, _, _, _, hr, e⟩ := mailboxTaken_eq 6 s
    rw [e] at hc ⊢
    exact ⟨hr, rfl, fun u _ => by cases u <;> rfl, rfl, rfl, fun h => (h.elim (absurd rfl) fun h => absurd hb (by rw [h]; decide)),
      fun _ _ => ⟨rfl, rfl, hc⟩⟩


/-! The ends of the operations (R360, R364, R365, R367 to R370). -/

/-- What the end of an operation leaves: its status and its results. -/
def Ends (img : ImageRead) (op : BitVec 8) (st : CmdStatus) (P : State → Prop) (s : State) : Prop :=
  mailboxRuns s = true → s.mbx.op = op → ∃ s', exec (.mailboxOperationEnd img) s = .next s' ∧ s'.mbx.status = st ∧
    s'.run = s.run ∧ (∀ u r, sreg u r s' = sreg u r s) ∧ P s'

section
variable {img : ImageRead} {op : BitVec 8} {st : CmdStatus} {P : State → Prop} {s t : State}

theorem ends_of_eq (he : s.mbx.op = op → endMailbox img s = t) (hst : t.mbx.status = st) (hr : t.run = s.run) (ha : t.ta = s.ta)
    (hx : t.tx = s.tx) (hp : P t) : Ends img op st P s := by
  intro hb ho
  refine ⟨t, congrArg Host.Outcome.next ((if_pos hb).trans (he ho)), hst, hr, fun u r => ?_, hp⟩
  cases u
  · exact sreg_congr .ta r (congrArg ThreadState.regs ha)
  · exact sreg_congr .tx r (congrArg ThreadState.regs hx)

end

theorem version_ends (img : ImageRead) (s : State) : Ends img 0x01 .ok (fun s' => s'.mbx.arg0 = s.brg.romVersion ∧
    s'.mbx.arg1 = s.brg.slot.setWidth 32 ∧ s'.mbx.arg2 = s.brg.svn.setWidth 32 ∧ s'.mbx.arg3 = s.brg.seq) s :=
  ends_of_eq (t := runVersion s) (fun ho => by rw [endMailbox, ho]; rfl) rfl rfl rfl rfl ⟨rfl, rfl, rfl, rfl⟩

/-- Words that an operation leaves in the data buffer. -/
theorem words_end {img : ImageRead} {op : BitVec 8} {ws : List Word32} {s t : State} {P : State → Prop}
    (he : s.mbx.op = op → endMailbox img s = mbxOk (setMbxWords ws t)) (ht : t.run = s.run ∧ t.ta = s.ta ∧ t.tx = s.tx)
    (hp : P (mbxOk (setMbxWords ws t))) : Ends img op .ok P s := by
  obtain ⟨hr, ha, hx⟩ := ht
  obtain ⟨_, e⟩ := setMbxWords_eq ws t
  refine ends_of_eq he rfl ?_ ?_ ?_ hp
  all_goals rw [e]
  exacts [hr, ha, hx]

theorem telemetry_ends (img : ImageRead) {s : State} (hw : Sparse.wf 0 s.mbx.data = true) :
    Ends img 0x02 .ok (fun s' => ∀ k, k < 12 → mbxData s' k = s.brg.record.getD k 0) s := by
  refine words_end (ws := telemetryWords s s.free) (t := { s with free := s.free + 1 }) (fun ho => by rw [endMailbox, ho]; rfl)
    ⟨rfl, rfl, rfl⟩ fun k hk => ?_
  refine (mbxData_mbxOk _ k).trans <| (mbxData_setMbxWords (s := { s with free := s.free + 1 }) (by exact hw)
    (by simp [telemetryWords]; omega)).trans ?_
  unfold telemetryWords
  rw [List.getD_append _ _ _ _ (by simpa using hk)]
  simp [hk]

theorem wearRecord_length (s : State) : (wearRecord s).length = 64 := by
  simp [wearRecord, wearWords]

theorem wearRead_ends (img : ImageRead) {s : State} (hw : Sparse.wf 0 s.mbx.data = true) :
    Ends img 0x03 .ok (fun s' => ∀ k, k < 64 → mbxData s' k = (wearRecord s).getD k 0) s :=
  words_end (ws := wearRecord s) (t := s) (fun ho => by rw [endMailbox, ho]; rfl) ⟨rfl, rfl, rfl⟩
    fun _ hk => (mbxData_mbxOk _ _).trans (mbxData_setMbxWords hw (by rwa [wearRecord_length]))

/-- The offset in force behind a restored record is the greater of the two (R359). -/
theorem restoredOffset (s : State) :
    (if s.clk.vidOfs < (mbxData s 9).setWidth 4 then (mbxData s 9).setWidth 4 else s.clk.vidOfs).toNat =
      max s.clk.vidOfs.toNat ((mbxData s 9).toNat % 16) := by
  have hv : ((mbxData s 9).setWidth 4).toNat = (mbxData s 9).toNat % 16 := BitVec.toNat_setWidth ..
  split
  · next h => rw [BitVec.lt_def, hv] at h; rw [hv]; omega
  · next h => rw [BitVec.lt_def, hv] at h; omega

theorem wearWrite_ends (img : ImageRead) {s : State} (hk : wearOk s = true) : Ends img 0x04 .ok (fun s' => s'.brg.restored = true ∧
    s'.brg.wear.baseline = some ((List.range 12).map (wearByte s)) ∧
    s'.clk.vidOfs.toNat = max s.clk.vidOfs.toNat ((mbxData s 9).toNat % 16) ∧
    s'.clk.freqOfs = (s.clk.freqOfs || (mbxData s 9).getLsbD 4)) s := by
  have he (ho : s.mbx.op = 0x04) : endMailbox img s = mbxOk (wearRestore s) := by
    rw [endMailbox, ho]
    exact if_pos hk
  have hv := restoredOffset s
  unfold wearRestore at he
  dsimp only at he
  obtain ⟨_, _, _, _, _, e⟩ := applyRetune_eq
    (if s.clk.vidOfs < (mbxData s 9).setWidth 4 then (mbxData s 9).setWidth 4 else s.clk.vidOfs)
    (s.clk.freqOfs || (mbxData s 9).getLsbD 4) { s with brg := { s.brg with
      restored := true, wear := { s.brg.wear with baseline := some ((List.range 12).map (wearByte s)) } } }
  rw [e] at he
  exact ends_of_eq he rfl rfl rfl rfl ⟨rfl, rfl, hv, rfl⟩

theorem wearWrite_fails (img : ImageRead) {s : State} (hk : wearOk s = false) :
    Ends img 0x04 .fail (fun s' => s'.brg = s.brg ∧ s'.clk = s.clk) s :=
  ends_of_eq (t := mbxFail s) (fun ho => by rw [endMailbox, ho]; exact if_neg (by rw [hk]; decide)) rfl rfl rfl rfl ⟨rfl, rfl⟩

theorem updateVerify_ends (img : ImageRead) (s : State) : Ends img 0x05 (if imageVerifies s.fuses img then .ok else .fail)
    (fun s' => s'.brg = s.brg ∧ (imageVerifies s.fuses img = false → s.evt.queue.length < 64 → queued 0x602 s')) s := by
  have he (ho : s.mbx.op = 0x05) : endMailbox img s = endVerify img s := by rw [endMailbox, ho]; rfl
  unfold endVerify at he
  cases hv : imageVerifies s.fuses img with
  | true =>
    rw [hv] at he
    exact ends_of_eq he rfl rfl rfl rfl ⟨rfl, fun h => nomatch h⟩
  | false =>
    rw [hv] at he
    have hq := queued_bridleEvent 0x602 (s.mbx.arg0.toNat % 2) s
    obtain ⟨_, _, _, e⟩ := bridleEvent_eq 0x602 (s.mbx.arg0.toNat % 2) s
    rw [e] at he hq
    exact ends_of_eq he rfl rfl rfl rfl ⟨rfl, fun _ => hq⟩

theorem challenge_ends (img : ImageRead) (s : State) :
    Ends img 0x09 .ok (fun s' => s'.brg.nonce = some (s'.mbx.arg1 ++ s'.mbx.arg0) ∧ s'.brg.ticket = none) s :=
  ends_of_eq (t := runChallenge s) (fun ho => by rw [endMailbox, ho]; rfl) rfl rfl rfl rfl
    ⟨congrArg some (append_halves (Config.nonce s.free)).symm, rfl⟩

theorem authorize_ends (img : ImageRead) (s : State) : Ends img 0x0A (if authOk s then .ok else .fail) (fun s' =>
    if authOk s then s'.brg.ticket = some (s.mbx.arg0.setWidth 3, s'.mbx.arg1 ++ s'.mbx.arg0)
    else s'.brg.nonce = none ∧ s'.brg.ticket = s.brg.ticket) s := by
  have he (ho : s.mbx.op = 0x0A) : endMailbox img s = endAuthorize s := by rw [endMailbox, ho]; rfl
  unfold endAuthorize at he
  cases ha : authOk s with
  | true =>
    rw [ha] at he
    exact ends_of_eq he rfl rfl rfl rfl
      (congrArg (fun t => some (s.mbx.arg0.setWidth 3, t)) (append_halves (Config.ticket s.free)).symm)
  | false =>
    rw [ha] at he
    exact ends_of_eq he rfl rfl rfl rfl ⟨rfl, rfl⟩

/-- A divisor in range is taken (R369). -/
theorem uartCfg_ends (img : ImageRead) (s : State) :
    let fits : Prop := 67 ≤ s.mbx.arg0.toNat ∧ s.mbx.arg0.toNat ≤ 65535
    Ends img 0x0B (if 67 ≤ s.mbx.arg0.toNat ∧ s.mbx.arg0.toNat ≤ 65535 then .ok else .fail) (fun s' =>
      (fits → s'.mon.divisor.toNat = s.mbx.arg0.toNat) ∧ (¬ fits → s'.mon.divisor = s.mon.divisor)) s := by
  intro fits
  have he (ho : s.mbx.op = 0x0B) : endMailbox img s = runUartCfg s := by rw [endMailbox, ho]; rfl
  unfold runUartCfg at he
  dsimp only at he
  split
  · next h =>
    rw [if_pos h] at he
    exact ends_of_eq he rfl rfl rfl rfl
      ⟨fun _ => (BitVec.toNat_setWidth ..).trans (Nat.mod_eq_of_lt (by omega)), fun hn => absurd h hn⟩
  · next h =>
    rw [if_neg h] at he
    exact ends_of_eq he rfl rfl rfl rfl ⟨fun hf => absurd hf h, fun _ => rfl⟩

/-- Settles O51: every operation is accepted in one way, but UPDATE_ACTIVATE, which is served at once; each ends by its own rule. -/
theorem mailboxOperations : Obligations.MailboxOperations := by
  intro img s hm
  obtain ⟨-, -, -, -, -, -, -, -, -, -, hw⟩ := hm
  have accepts {i : Instr} {op : BitVec 8} (he : exec i s = .next (postMailbox op.toNat s)) (h : op ≠ 6) : Accepted i op s :=
    accepted_of_other he (Or.inl h)
  exact ⟨⟨accepts rfl (by decide), accepts rfl (by decide), accepts rfl (by decide), accepts rfl (by decide),
      accepts rfl (by decide), accepted_updateActivate s, accepts rfl (by decide), accepts rfl (by decide),
      accepts rfl (by decide), accepts rfl (by decide), accepts rfl (by decide)⟩,
    version_ends img s, telemetry_ends img hw, wearRead_ends img hw, wearWrite_ends img, wearWrite_fails img,
    updateVerify_ends img s,
    ends_of_eq (t := runMonToken s) (fun ho => by rw [endMailbox, ho]; rfl) rfl rfl rfl rfl ⟨rfl, rfl⟩,
    ends_of_eq (t := mbxOk (lockMonitor s)) (fun ho => by rw [endMailbox, ho]; rfl) rfl rfl rfl rfl rfl,
    challenge_ends img s, authorize_ends img s, uartCfg_ends img s⟩

end Sys2Proof.Machine
end

section
/-! SUPPORT. The duties of the Bridle: O55. -/

namespace Sys2Proof.Machine
open Claims

/-! The 1 ms tick (R355 to R357). -/

/-- The diodes left out of T_M are those that read out of range (R355). -/
theorem badDiodes_getLsbD {ds : List (BitVec 16)} (hl : ds.length = 4) {k : Nat} {c : BitVec 16} (h : ds[k]? = some c) :
    (badDiodes ds).getLsbD k = !diodeGood c := by
  have hbits : ∀ w x y z : Bool, ∀ k < 4, (BitVec.ofNat 4
      (([w, x, y, z].zipIdx).map (fun x => if x.1 = true then 0 else 2 ^ x.2)).sum).getLsbD k = !([w, x, y, z][k]?.getD true) := by
    decide
  obtain ⟨w, x, y, z, rfl⟩ := List.length_eq_four.1 hl
  obtain ⟨hk, -⟩ := List.getElem?_eq_some_iff.1 h
  have hg : ([w, x, y, z].map diodeGood)[k]?.getD true = diodeGood c := by
    rw [List.getElem?_map, h]
    rfl
  rw [← hg]
  exact hbits _ _ _ _ k hk

theorem bridleTick_samples {x : TickSample} {s : State} (hr : bridleRuns s = true) (hx : sampleOk x = true) :
    ∃ s', exec (.bridleTick x) s = .next s' ∧ s'.brg.diodes = x.diodes ∧ s'.brg.core = codeMean x.core ∧
      s'.brg.sram = codeMean x.sram ∧ s'.brg.ticks = s.brg.ticks + 1 ∧ s'.brg.stepMoved = false ∧ s'.ballast.tmNew = true ∧
      s'.ballast.eDyn = 0 ∧ s'.ballast.par = s.ballast.par ∧ s'.ballast.scaleNext = tickScale x s ∧
      s'.brg.record = telemetryRecord x.diodes s'.brg.core s'.brg.sram s'.ballast.scaleNext s'.brg.ticks s ∧
      (∀ (k : Nat) (c : BitVec 16), x.diodes[k]? = some c →
        s'.ballast.diodeBad.getLsbD k = !(decide (-320 ≤ c.toInt) && decide (c.toInt ≤ 1200))) := by
  have hl : x.diodes.length = 4 := by
    simp only [sampleOk, Bool.and_eq_true, beq_iff_eq] at hx
    exact hx.1.1
  exact ⟨_, congrArg (fun o => Host.Outcome.next (Option.getD o s)) (if_pos (by rw [hr, hx]; rfl)), rfl, rfl, rfl, rfl, rfl, rfl,
    rfl, rfl, rfl, rfl, fun _ _ h => badDiodes_getLsbD hl h⟩

/-! Calibration and wear (R324, R325, R359, R360). -/

theorem coneCalibration_calibrates {offsets : List (BitVec 8)} {s : State} (hr : bridleRuns s = true)
    (hs : s.run.state ≠ .refire) (hl : offsets.length = 12) : ∃ s', exec (.coneCalibration offsets) s = .next s' ∧
      s'.brg.wear.latest = offsets ∧ s'.brg.wearDue = true ∧
      (∀ b, s.brg.wear.baseline = some b → s.run.started = false ∨ s.brg.restored = true → s'.brg.wear.baseline = some b) ∧
      (s.brg.wear.baseline = none → s'.brg.wear.baseline = some offsets) ∧ s'.clk = s.clk := by
  refine ⟨_, congrArg (fun o => Host.Outcome.next (Option.getD o s)) (if_pos ⟨hr, hs, hl⟩), rfl, rfl, fun b hb hk => ?_,
    fun hn => if_pos (by rw [hn]; rfl), rfl⟩
  refine (if_neg ?_).trans hb
  rcases hk with hk | hk <;> simp [hb, hk]

/-- An offset that rises to the target of the drift (R359). -/
theorem raised_toNat (v : BitVec 4) {t : Nat} (ht : t < 16) :
    (if v.toNat < t then BitVec.ofNat 4 t else v).toNat = max v.toNat t := by
  split
  · rw [BitVec.toNat_ofNat, Nat.mod_eq_of_lt ht]; omega
  · omega

/-- The frequency is lowered from a drift of 15 codes on, at which the VID offset has reached its limit (R359). -/
theorem lowersFreq_iff (d : Nat) : (wearTarget d == 8 && decide (15 ≤ d)) = decide (15 ≤ d) := by
  by_cases h : 15 ≤ d
  · have ht : wearTarget d = 8 := by unfold wearTarget; omega
    simp [h, ht]
  · simp [h]

theorem wearEvaluation_retunes {s : State} (hr : bridleRuns s = true) (hd : s.brg.wearDue = true) :
    ∃ s', exec .wearEvaluation s = .next s' ∧ s'.brg.wearDue = false ∧
      s'.clk.vidOfs.toNat = max s.clk.vidOfs.toNat (min 8 (2 * (wearDrift s.brg.wear / 3))) ∧
      s'.clk.freqOfs = (s.clk.freqOfs || decide (15 ≤ wearDrift s.brg.wear)) := by
  have hv := raised_toNat s.clk.vidOfs (t := wearTarget (wearDrift s.brg.wear)) (by unfold wearTarget; omega)
  have hf := congrArg (s.clk.freqOfs || ·) (lowersFreq_iff (wearDrift s.brg.wear))
  refine ⟨_, congrArg (fun o => Host.Outcome.next (Option.getD o s)) (if_pos ⟨hr, hd⟩), ?_⟩
  rw [Option.getD_some]
  generalize (if s.clk.vidOfs.toNat < wearTarget (wearDrift s.brg.wear) then BitVec.ofNat 4 (wearTarget (wearDrift s.brg.wear))
    else s.clk.vidOfs) = v at hv ⊢
  dsimp only at hf ⊢
  generalize (s.clk.freqOfs || (wearTarget (wearDrift s.brg.wear) == 8 && decide (15 ≤ wearDrift s.brg.wear))) = f at hf ⊢
  split
  · next h =>
    obtain ⟨rfl, rfl⟩ := h
    exact ⟨rfl, hv, hf⟩
  · obtain ⟨_, _, _, _, _, e⟩ := applyRetune_eq v f { s with brg := { s.brg with wearDue := false } }
    rw [e]
    exact ⟨rfl, hv, hf⟩

/-! Restarts (R358, R366, R367). -/

theorem watchdogExpiry_restarts {s : State} (hr : bridleRuns s = true) :
    ∃ s', exec .watchdogExpiry s = .next s' ∧ s'.brg.restarting = true ∧ s'.brg.activate = false ∧ s'.run = s.run ∧
      counter s' cntBrgRestarts = min (2 ^ 48 - 1) (counter s cntBrgRestarts + 1) ∧
      (s.mbx.status = .busy → s'.mbx.status = if s.mbx.waits then .busy else .fail) := by
  have hc : counter (bump cntBrgRestarts 1 { s with brg :=
      { s.brg with restarting := true, activate := false, failedSlot := none } }) cntBrgRestarts =
      min (2 ^ 48 - 1) (counter s cntBrgRestarts + 1) := counter_bump_self cntBrgRestarts 1 _ (Nat.succ_pos _)
  refine ⟨_, congrArg (fun o => Host.Outcome.next (Option.getD o s)) (if_pos hr), ?_⟩
  rw [Option.getD_some]
  split
  · next h => exact ⟨rfl, rfl, rfl, hc, fun _ => (if_neg (by simpa using h.2)).symm⟩
  · next h =>
    refine ⟨rfl, rfl, rfl, hc, fun hb => hb.trans (if_pos ?_).symm⟩
    simpa using fun hw : s.mbx.waits = false => h ⟨hb, congrArg Bool.not hw⟩

theorem imageSelfCheckTimeout_ignored {slot : BitVec 1} {late : Bool} {i0 i1 : ImageRead} {s : State}
    (h : s.brg.failedSlot.isSome = true ∨ romLeft i0 i1 s = []) :
    exec (.imageSelfCheckTimeout slot late i0 i1) s = .next s := by
  have hs : selfCheckTimeoutStep slot i0 i1 s = none := by
    unfold selfCheckTimeoutStep
    rcases h with h | h
    · exact if_neg (by simp [Option.isSome_iff_ne_none.1 h])
    · rw [h]
      exact ite_self none
  exact congrArg (fun o => Host.Outcome.next (Option.getD o s)) hs

/-- The ROM gives up an image and goes on to the next of those left, which is logged (R366). -/
def nextImage (slot : BitVec 1) (rest : List (BitVec 1 × ImageRead)) (s : State) : State :=
  let t : State := { s with brg := { s.brg with failedSlot := some slot } }
  match rest with
  | [] => t
  | y :: _ => bridleEvent 0x603 y.1.toNat t

theorem imageSelfCheckTimeout_fails {late : Bool} {i0 i1 : ImageRead} {y : BitVec 1 × ImageRead} {ys : List (BitVec 1 × ImageRead)}
    {s : State} (hr : s.brg.restarting = true) (hp : portOpen s = true) (hf : s.brg.failedSlot = none)
    (hy : romLeft i0 i1 s = y :: ys) :
    ∃ s', exec (.imageSelfCheckTimeout y.1 late i0 i1) s = .next s' ∧ s'.brg.failedSlot = some y.1 ∧ s'.brg.restarting = true ∧
      (ys ≠ [] → s.evt.queue.length < 64 → queued 0x603 s') := by
  have hs : selfCheckTimeoutStep y.1 i0 i1 s = some (nextImage y.1 ys s) := by
    unfold selfCheckTimeoutStep
    rw [if_pos (by rw [hr, hp, hf]; rfl), hy]
    exact if_neg (by simp)
  refine ⟨_, congrArg (fun o => Host.Outcome.next (Option.getD o s)) hs, ?_⟩
  rw [Option.getD_some]
  unfold nextImage
  cases ys with
  | nil => exact ⟨rfl, hr, fun h => absurd rfl h⟩
  | cons z zs =>
    dsimp only
    rw [bridleEvent_brg]
    exact ⟨rfl, hr, fun _ h => queued_bridleEvent 0x603 z.1.toNat _ h⟩

/-- What the end of a restart leaves: the image in its slot, and an UPDATE_ACTIVATE ended by the slot (R366, R367). -/
theorem endRestart_eq (slot : BitVec 1) (x : ImageRead) (s : State) : ∃ q c cs m, endRestart slot x s =
    { logChange q c cs s with
      brg := { s.brg with restarting := false, activate := false, failedSlot := none, slot := slot, svn := x.svn, seq := x.seq }
      mbx := { s.mbx with status := m } } ∧
    (m = if s.brg.activate then if slot = s.brg.slot then .fail else .ok else s.mbx.status) := by
  unfold endRestart
  dsimp only
  cases ha : s.brg.activate with
  | false => exact ⟨s.evt.queue, s.evt.cause, s.counters, s.mbx.status, rfl, rfl⟩
  | true =>
    rw [if_neg (show ¬(!true) = true by decide)]
    by_cases hs : slot = s.brg.slot
    · rw [if_neg (show ¬(slot != s.brg.slot) = true by rw [hs, bne_self_eq_false]; decide)]
      exact ⟨s.evt.queue, s.evt.cause, s.counters, .fail, rfl, (if_pos hs).symm⟩
    · rw [if_pos (bne_iff_ne.2 hs)]
      obtain ⟨_, _, _, e⟩ := bridleEvent_eq 0x601 slot.toNat (setImage slot x { s with brg :=
        { s.brg with restarting := false, activate := false, failedSlot := none } })
      rw [e]
      exact ⟨_, _, _, .ok, rfl, (if_neg hs).symm⟩

/-- A new image that an UPDATE_ACTIVATE has asked for is logged (R367). -/
theorem queued_endRestart {slot : BitVec 1} {x : ImageRead} {s : State} (ha : s.brg.activate = true) (hs : slot ≠ s.brg.slot)
    (h : s.evt.queue.length < 64) : queued 0x601 (endRestart slot x s) := by
  unfold endRestart
  dsimp only
  rw [ha, if_neg (show ¬(!true) = true by decide), if_pos (bne_iff_ne.2 hs)]
  exact queued_bridleEvent 0x601 slot.toNat _ h

/-- What an operation that is served behind the restart leaves: at most, a restart of its own (R367). -/
theorem mailboxServe_eq (s : State) : ∃ a b f, mailboxServe s =
    { s with brg := { s.brg with restarting := a, activate := b, failedSlot := f } } ∧
    (s.mbx.status ≠ .busy → a = s.brg.restarting) := by
  by_cases h : (mailboxRuns s && s.mbx.op == 6) = true
  · refine ⟨true, true, none, if_pos h, fun hb => absurd ?_ hb⟩
    simp only [mailboxRuns, Bool.and_eq_true, beq_iff_eq] at h
    exact h.1.1.1
  · exact ⟨s.brg.restarting, s.brg.activate, s.brg.failedSlot, if_neg h, fun _ => rfl⟩

/-! A command that has waited for the restart (R335, R345, R358). -/

theorem requestSafe_eq (c : SafeCause) (s : State) : ∃ r, requestSafe c s = { s with run := r } := by
  unfold requestSafe
  dsimp only
  split
  · exact ⟨_, rfl⟩
  · split
    · exact ⟨_, rfl⟩
    · exact ⟨s.run, rfl⟩

/-- A difference of the copies moves the log and the run control (R22, R334). -/
theorem splitAuthority_eq (s : State) : ∃ d r, splitAuthority s = { logEvent 0x004 d s with run := r } :=
  ⟨copyImage s.run.west + 2 ^ 16 * copyImage s.run.east, requestSafe_eq .splitAuthority _⟩

/-- A RESUME in SAFE under copies that agree re-enters the state held, and ends OK (R335). -/
theorem leaveSafe_of_agree {s : State} (hw : s.run.west = s.run.east) : ∃ a x, leaveSafe s = { cmdOk s with
    ta := a, tx := x, run := controlIn s.run.held { s.run with safeCause := .none, safeDue := false } } := by
  unfold leaveSafe
  rw [if_neg (by simp [hw])]
  dsimp only
  split
  · rw [setRun_eq (by exact fun h => nomatch h) (by exact hw) (by exact fun h => nomatch h)]
    exact ⟨_, _, rfl⟩
  · rw [setRun_eq (by exact fun h => nomatch h) (by exact hw) (by exact fun h => nomatch h)]
    exact ⟨s.ta, s.tx, rfl⟩

/-- A RESUME in SAFE leaves the Bridle and its mailbox alone, and every event in the queue. -/
theorem leaveSafe_keeps (s : State) : (leaveSafe s).brg = s.brg ∧ (leaveSafe s).mbx = s.mbx ∧
    ∀ c, queued c s → queued c (leaveSafe s) := by
  by_cases hw : s.run.west = s.run.east
  · obtain ⟨_, _, e⟩ := leaveSafe_of_agree hw
    rw [e]
    exact ⟨rfl, rfl, fun _ h => h⟩
  · have hl : leaveSafe s = stayInSafe (splitAuthority s) := if_pos hw
    rw [hl]
    obtain ⟨d, r, e⟩ := splitAuthority_eq s
    rw [e]
    exact ⟨logEvent_brg 0x004 d s, logEvent_mbx 0x004 d s, fun _ h => queued_logEvent_of_queued 0x004 d h⟩

/-- The cluster behind a life-cycle transition to a state, in which a ticket that was needed is used up (R345). -/
def lcChanged (s : State) : State :=
  let new : BitVec 3 := s.cmd.arg0.setWidth 3
  let t := coldReset true 3 { s with run := { s.run with lc := new } }
  cmdOk { t with
    fuseBus := { t.fuseBus with lc := new }
    brg := { t.brg with ticket := if s.run.lc = 2 then none else s.brg.ticket }
    mon := { t.mon with access := MonAccess.ofLc new } }

/-- A transition that no ticket bars is logged and made. -/
theorem changeLc_of_allowed {s : State} (h : ¬(s.run.lc = 2 ∧ ticketOk s = false)) : ∃ q c cs,
    changeLc s = lcChanged (logChange q c cs s) := by
  unfold changeLc
  dsimp only
  rw [if_neg (by simpa using h)]
  obtain ⟨_, _, _, e⟩ := logEvent_eq 0x007 (s.run.lc.toNat + 2 ^ 8 * (s.cmd.arg0.setWidth 3).toNat) s
  rw [e]
  exact ⟨_, _, _, rfl⟩

/-- A transition that a ticket bars fails (R345). -/
theorem changeLc_of_barred {s : State} (h : s.run.lc = 2 ∧ ticketOk s = false) : changeLc s = cmdFail 0 s := by
  obtain ⟨hl, ht⟩ := h
  exact if_pos ⟨hl, congrArg Bool.not ht⟩

/-- The slot of the active image with its numbers. -/
def activeImage (s : State) : BitVec 1 × BitVec 16 × Word32 := (s.brg.slot, s.brg.svn, s.brg.seq)

theorem activeImage_heldCommand (s : State) : activeImage (heldCommand s) = activeImage s := by
  unfold heldCommand
  split
  · rw [activeImage, (leaveSafe_keeps s).1, activeImage]
  · split
    · by_cases h : s.run.lc = 2 ∧ ticketOk s = false
      · rw [changeLc_of_barred h]
        rfl
      · obtain ⟨_, _, _, e⟩ := changeLc_of_allowed h
        rw [e]
        rfl
    · rfl

/-- Where no LC_SET waits, what has waited leaves the Bridle and its mailbox alone. -/
theorem heldCommand_keeps {s : State} (h : busyWith s 0x08 = false) : (heldCommand s).brg = s.brg ∧ (heldCommand s).mbx = s.mbx ∧
    ∀ c, queued c s → queued c (heldCommand s) := by
  unfold heldCommand
  split
  · exact leaveSafe_keeps s
  · rw [h]
    exact ⟨rfl, rfl, fun _ h => h⟩

/-- The cluster behind a restart, before what has waited for it goes on. -/
def restarted (y : BitVec 1 × ImageRead) (s : State) : State := mailboxServe (endRestart y.1 y.2 s)

section
variable {i0 i1 : ImageRead} {y : BitVec 1 × ImageRead} {s : State}

theorem exec_imageSelfCheckPass {ys : List (BitVec 1 × ImageRead)} (hr : s.brg.restarting = true) (hp : portOpen s = true)
    (hy : romLeft i0 i1 s = y :: ys) :
    exec (.imageSelfCheckPass y.1 i0 i1) s = .next (heldCommand (restarted y s)) := by
  have hs : selfCheckPassStep y.1 i0 i1 s = some (heldCommand (restarted y s)) := by
    unfold selfCheckPassStep
    rw [if_pos (by rw [hr, hp]; rfl), hy]
    exact if_pos rfl
  exact congrArg (fun o => Host.Outcome.next (Option.getD o s)) hs

/-- The end of a restart moves the Bridle, its mailbox and the log (R358, R366, R367). -/
theorem restarted_eq (y : BitVec 1 × ImageRead) (s : State) : ∃ q c cs b m, restarted y s =
    { logChange q c cs s with brg := b, mbx := { s.mbx with status := m } } ∧
    (b.slot = y.1 ∧ b.svn = y.2.svn ∧ b.seq = y.2.seq) ∧ (m ≠ .busy → b.restarting = false) ∧
    (m = if s.brg.activate then if y.1 = s.brg.slot then .fail else .ok else s.mbx.status) := by
  obtain ⟨_, _, _, m, e, hm⟩ := endRestart_eq y.1 y.2 s
  unfold restarted
  rw [e]
  generalize ht : ({ logChange _ _ _ s with brg := _, mbx := _ } : State) = t
  obtain ⟨_, _, _, k, hb⟩ := mailboxServe_eq t
  rw [k, ← ht]
  rw [← ht] at hb
  exact ⟨_, _, _, _, _, rfl, ⟨rfl, rfl, rfl⟩, hb, hm⟩

theorem queued_restarted (ha : s.brg.activate = true) (hs : y.1 ≠ s.brg.slot) (h : s.evt.queue.length < 64) :
    queued 0x601 (restarted y s) := by
  obtain ⟨_, _, _, e, -⟩ := mailboxServe_eq (endRestart y.1 y.2 s)
  unfold restarted
  rw [e]
  exact queued_endRestart (slot := y.1) (x := y.2) ha hs h

theorem imageSelfCheckPass_boots {ys : List (BitVec 1 × ImageRead)} (hr : s.brg.restarting = true) (hp : portOpen s = true)
    (hy : romLeft i0 i1 s = y :: ys) : ∃ s', exec (.imageSelfCheckPass y.1 i0 i1) s = .next s' ∧
      s'.brg.slot = y.1 ∧ s'.brg.svn = y.2.svn ∧ s'.brg.seq = y.2.seq ∧
      (busyWith s 0x08 = false →
        (s.mbx.status ≠ .busy ∨ s.brg.activate = true → s'.brg.restarting = false) ∧
        (s.brg.activate = true →
          if y.1 = s.brg.slot then s'.mbx.status = .fail
          else s'.mbx.status = .ok ∧ (s.evt.queue.length < 64 → queued 0x601 s'))) ∧
      (s.run.state = .safe → busyWith s 0x03 = true → halvesAgree s → s'.run.state = s.run.held ∧ s'.cmd.status = .ok) ∧
      (busyWith s 0x08 = true → s.run.lc ≠ 2 → s'.run.lc = s.cmd.arg0.setWidth 3 ∧ s'.cmd.status = .ok) := by
  refine ⟨_, exec_imageSelfCheckPass hr hp hy, ?_⟩
  have hq := queued_restarted (y := y) (s := s)
  obtain ⟨_, _, _, b, m, e, ⟨hslot, hsvn, hseq⟩, hdone, hm⟩ := restarted_eq y s
  rw [e] at hq ⊢
  generalize hu : ({ logChange _ _ _ s with brg := _, mbx := _ } : State) = u at hq
  have hbrg : u.brg = b := hu ▸ rfl
  have hmbx : u.mbx.status = m := hu ▸ rfl
  have hrun : u.run = s.run := hu ▸ rfl
  have hcmd : u.cmd = s.cmd := hu ▸ rfl
  have hbusy (op : BitVec 8) : busyWith u op = busyWith s op := by rw [busyWith, busyWith, hcmd]
  have himage := activeImage_heldCommand u
  simp only [activeImage, Prod.mk.injEq, hbrg] at himage
  obtain ⟨kslot, ksvn, kseq⟩ := himage
  refine ⟨kslot.trans hslot, ksvn.trans hsvn, kseq.trans hseq, fun h8 => ?_, fun hs h3 ha => ?_, fun h8 hl => ?_⟩
  · obtain ⟨kbrg, kmbx, kq⟩ := heldCommand_keeps ((hbusy 0x08).trans h8)
    rw [kbrg, kmbx, hbrg, hmbx]
    refine ⟨fun h => hdone ?_, fun ha => ?_⟩
    · rw [hm]
      cases ha : s.brg.activate with
      | true => rw [if_pos rfl]; split <;> decide
      | false => exact h.elim id fun k => absurd (ha.symm.trans k) (by decide)
    · rw [hm, if_pos ha]
      split
      · rfl
      · next hne => exact ⟨rfl, fun hl => kq 0x601 (hq ha hne hl)⟩
  · have hh : heldCommand u = leaveSafe u := if_pos ⟨hrun ▸ hs, (hbusy 0x03).trans h3⟩
    obtain ⟨_, _, k⟩ := leaveSafe_of_agree (s := u) (by rw [hrun]; exact ha.1.trans ha.2.symm)
    rw [hh, k, hrun]
    exact ⟨rfl, rfl⟩
  · have hn : ¬(u.run.state = .safe ∧ busyWith u 0x03 = true) := fun h =>
      absurd ((busyWith_op h.2).2.symm.trans (busyWith_op ((hbusy 0x08).trans h8)).2) (by decide)
    have hh : heldCommand u = changeLc u := (if_neg hn).trans (if_pos ((hbusy 0x08).trans h8))
    obtain ⟨_, _, _, k⟩ := changeLc_of_allowed (s := u) (fun h => hl (hrun ▸ h.1))
    rw [hh, k]
    exact ⟨congrArg (fun c : CmdSlot => c.arg0.setWidth 3) hcmd, rfl⟩

end

/-! The event log (R361, R362). -/

/-- The log behind the entry of the oldest event of the queue. -/
def entryLogged (e : Event) (rest : List Event) (s : State) : State :=
  { s with evt := { s.evt with
    queue := rest, log := Sparse.set 0 s.evt.log (s.evt.head.toNat % 4096) (logImage e s.evt.head), head := s.evt.head + 1
    written := s.evt.written + 1 } }

/-- The loss of an unread entry is counted and logged beside the log itself (R362). -/
theorem loseEntry_eq (s : State) : ∃ q c cs a, loseEntry s =
    { s with evt := { s.evt with queue := q, cause := c, lostArmed := a }, counters := cs } := by
  unfold loseEntry
  dsimp only
  split
  · obtain ⟨_, _, _, e⟩ := bridleEvent_eq 0x605 (counter (bump cntEvtLost 1 s) cntEvtLost % 2 ^ 16)
      { bump cntEvtLost 1 s with evt := { (bump cntEvtLost 1 s).evt with lostArmed := false } }
    rw [e]
    exact ⟨_, _, _, false, rfl⟩
  · exact ⟨s.evt.queue, s.evt.cause, _, s.evt.lostArmed, rfl⟩

theorem queued_loseEntry {s : State} (ha : s.evt.lostArmed = true) (h : s.evt.queue.length < 64) : queued 0x605 (loseEntry s) := by
  have hl : loseEntry s = bridleEvent 0x605 (counter (bump cntEvtLost 1 s) cntEvtLost % 2 ^ 16)
      { bump cntEvtLost 1 s with evt := { s.evt with lostArmed := false } } := if_pos ha
  rw [hl]
  exact queued_bridleEvent 0x605 _ _ h

theorem eventLogEntry_writes {e : Event} {rest : List Event} {s : State} (hr : bridleRuns s = true) (hq : s.evt.queue = e :: rest) :
    ∃ s', exec .eventLogEntry s = .next s' ∧ s'.evt.head = s.evt.head + 1 ∧
      s'.evt.written = s.evt.written + 1 ∧ s'.evt.log = Sparse.set 0 s.evt.log (s.evt.head.toNat % 4096) (logImage e s.evt.head) ∧
      (overwritesUnread s = false → s'.evt.queue = rest) ∧
      (overwritesUnread s = true → s.evt.lostArmed = true → s.evt.queue.length ≤ 64 → queued 0x605 s') := by
  have hs : logEntryStep s = some (if overwritesUnread s then loseEntry (entryLogged e rest s) else entryLogged e rest s) := by
    unfold logEntryStep
    rw [hq]
    exact if_pos hr
  refine ⟨_, congrArg (fun o => Host.Outcome.next (Option.getD o s)) hs, ?_⟩
  rw [Option.getD_some]
  cases ho : overwritesUnread s with
  | false => exact ⟨rfl, rfl, rfl, fun _ => rfl, fun h => nomatch h⟩
  | true =>
    rw [if_pos rfl]
    have hlost (ha : s.evt.lostArmed = true) (hl : s.evt.queue.length ≤ 64) : queued 0x605 (loseEntry (entryLogged e rest s)) :=
      queued_loseEntry ha (by rw [hq] at hl; exact hl)
    obtain ⟨_, _, _, _, k⟩ := loseEntry_eq (entryLogged e rest s)
    rw [k] at hlost ⊢
    exact ⟨rfl, rfl, rfl, fun h => (nomatch h), fun _ => hlost⟩

/-! The configuration sweep (R347). -/

/-- The copies of every entry but the one that is read stay as they are. -/
theorem mem_cfg_readCfg {n m : Nat} (h : m ≠ n) (s : State) : m ∈ (readCfg n s).upsets.cfg ↔ m ∈ s.upsets.cfg := by
  unfold readCfg
  split
  · simp [h]
  · rfl

theorem configurationSweep_reads {s : State} (hp : portOpen s = true) (hl : s.upsets.sweep < sweepLength) :
    ∃ s', exec .configurationSweep s = .next s' ∧
      s'.upsets.sweep = (s.upsets.sweep + 1) % 354 ∧ s.upsets.sweep ∉ s'.upsets.cfg ∧
      (∀ n, n ≠ s.upsets.sweep → (n ∈ s'.upsets.cfg ↔ n ∈ s.upsets.cfg)) ∧ s'.handles = s.handles ∧ s'.mould = s.mould := by
  have hs : sweepStep s = { readCfg s.upsets.sweep s with
      upsets := { (readCfg s.upsets.sweep s).upsets with sweep := (s.upsets.sweep + 1) % sweepLength } } := by
    unfold sweepStep
    rw [Nat.mod_eq_of_lt hl]
  refine ⟨_, congrArg Host.Outcome.next ((if_pos hp).trans hs), rfl, readCfg_repaired _ s, fun n hn => mem_cfg_readCfg hn s, ?_⟩
  obtain ⟨_, _, e⟩ := readCfg_eq s.upsets.sweep s
  rw [e]
  exact ⟨rfl, rfl⟩

/-- Settles O55: each duty is one step of the Bridle; what has waited for a restart leaves the image that has started alone. -/
theorem bridleDuties : Obligations.BridleDuties := by
  intro x offsets slot late i0 i1 s
  refine ⟨fun hr => ⟨bridleTick_samples hr, coneCalibration_calibrates hr, wearEvaluation_retunes hr, watchdogExpiry_restarts hr,
    fun _ _ => eventLogEntry_writes hr⟩, fun hr hp => ⟨imageSelfCheckTimeout_ignored,
    fun _ _ => imageSelfCheckTimeout_fails hr hp, fun _ _ => imageSelfCheckPass_boots hr hp⟩, configurationSweep_reads⟩

end Sys2Proof.Machine
end

section
/-! SUPPORT. Reset pins, the bisque start and the test access port: O50. -/

namespace Sys2Proof.Machine
open Claims

/-! The test access port (R388). -/

/-- An instruction of the port selects a register, drives the outputs or not, and leaves the rest of the cluster alone. -/
def Selects (i : Instr) (held : List Bool) (r : TapReg) (drives : Bool) (s : State) : Prop :=
  ∃ s', exec i s = .next s' ∧ { s' with tap := s.tap } = s ∧ tapReg s' = r ∧ tapDrives s' = drives ∧
    s'.tap.cells = held ∧ pins s' = (if drives then cellPins held else corePins s) ∧
    (s.tap.state = .testLogicReset ∨ s.tap.state = .runTestIdle → s'.tap.state = .runTestIdle ∧ tdoEn s' = false)

theorem loadPath_idle {st : TapState} (h : st = .testLogicReset ∨ st = .runTestIdle) :
    loadPath.foldl tapNext st = .runTestIdle := by
  rcases h with rfl | rfl <;> rfl

/-- A load that leaves these cells in the boundary-scan register. -/
theorem selects_of_load {i : Instr} {ir : TapInstr} {held : List Bool} {n : Nat} {r : TapReg} {drives : Bool} {s : State}
    (he : exec i s = .next { tapLoad ir s with tap := { (tapLoad ir s).tap with cells := held, scans := n } })
    (hr : tapReg (tapLoad ir s) = r) (hd : tapDrives (tapLoad ir s) = drives) : Selects i held r drives s := by
  refine ⟨_, he, rfl, hr, hd, rfl, ?_, fun h => ?_⟩
  · rw [← hd]
    rfl
  · have hl : (loadPath.foldl tapNext s.tap.state) = .runTestIdle := loadPath_idle h
    exact ⟨hl, congrArg tdoEnabled hl⟩

/-- EXTEST and CLAMP drive the outputs in MAINT and FAULTED alone. -/
theorem tapDrives_extest (s : State) : tapDrives (tapLoad .extest s) = tapMayDrive s := by
  change ((if tapMayDrive s then TapInstr.extest else .sample) == .extest ||
    (if tapMayDrive s then TapInstr.extest else .sample) == .clamp) = _
  cases tapMayDrive s <;> rfl

theorem tapReg_extest (s : State) : tapReg (tapLoad .extest s) = .boundary := by
  have h : tapEffect (tapLoad .extest s) = if tapMayDrive s then .extest else .sample := rfl
  unfold tapReg
  rw [h]
  cases tapMayDrive s <;> rfl

theorem tapDrives_clamp (s : State) : tapDrives (tapLoad .clamp s) = tapMayDrive s := by
  change ((if tapMayDrive s then TapInstr.clamp else .sample) == .extest ||
    (if tapMayDrive s then TapInstr.clamp else .sample) == .clamp) = _
  cases tapMayDrive s <;> rfl

theorem tapReg_clamp (s : State) : tapReg (tapLoad .clamp s) = if tapMayDrive s then .bypassReg else .boundary := by
  have h : tapEffect (tapLoad .clamp s) = if tapMayDrive s then .clamp else .sample := rfl
  unfold tapReg
  rw [h]
  cases tapMayDrive s <;> rfl

/-! Resets (R330, R374). -/

/-- A reset leaves nothing in flight and no memory, keeps the queue, and shuts the ports. -/
def Wiped (s s' : State) : Prop :=
  s'.flights = [] ∧ s'.handles = [] ∧ s'.sdm = [] ∧ s'.ls.rows = [] ∧ s'.pending = s.pending ∧ portOpen s' = false ∧
  halvesAgree s' ∧ (∀ u r, sreg u r s' = 0) ∧ corePins s' = Pins.reset

theorem sreg_of_empty {t : Thread} {s : State} (h : (getThread t s).regs = []) (r : Reg) : sreg t r s = 0 := by
  unfold sreg readReg
  rw [h]
  exact ite_self 0

theorem porNLow_wipes (s : State) : ∃ s', exec .porNLow s = .next s' ∧ s'.run.state = .off ∧ s'.run.porN = false ∧
    s'.tap = { Tap.reset with scans := s.tap.scans } ∧ Wiped s s' :=
  ⟨powerOff s, rfl, rfl, rfl, rfl, rfl, rfl, rfl, rfl, rfl, rfl, ⟨rfl, rfl⟩, fun u r => sreg_of_empty (by cases u <;> rfl) r, rfl⟩

theorem rstNAssert_ignored {s : State} (h : s.run.state = .off) : exec .rstNAssert s = .next s :=
  congrArg Host.Outcome.next (if_pos h)

theorem rstNAssert_wipes {s : State} (h : s.run.state ≠ .off) : ∃ s', exec .rstNAssert s = .next s' ∧ s'.run.state = .bisque ∧
    s'.run.step = 1 ∧ s'.run.rstN = false ∧ s'.run.lc = s.run.lc ∧ s'.tap = s.tap ∧ Wiped s s' := by
  have hi : inReset { coldReset false 1 s with run := { (coldReset false 1 s).run with rstN := false } } = true := by
    change (!(s.run.porN && false)) = true
    rw [Bool.and_false]
    rfl
  refine ⟨_, congrArg Host.Outcome.next (if_neg h), rfl, rfl, rfl, rfl, rfl, rfl, rfl, rfl, rfl, rfl, ?_, ⟨rfl, rfl⟩,
    fun u r => sreg_of_empty (by cases u <;> rfl) r, if_pos hi⟩
  change (s.run.porN && false && _) = false
  rw [Bool.and_false, Bool.false_and]

/-! A change of the run state that ends a command (R330, R333). -/

theorem endStepChange_eq (s : State) : ∃ q c cs k w, endStepChange s =
    { logChange q c cs s with clk := k, brg := { s.brg with retuneWait := w } } ∧
    (s.brg.retuneWait = false → w = false ∧ q = s.evt.queue) := by
  unfold endStepChange
  dsimp only
  split
  · next hw =>
    obtain ⟨_, _, _, _, e⟩ := retuneTable_eq { s with
      clk := { s.clk with target := none }, brg := { s.brg with retuneWait := false } }
    rw [e]
    exact ⟨_, _, _, _, false, rfl, fun h => absurd (hw.symm.trans h) (by decide)⟩
  · exact ⟨s.evt.queue, s.evt.cause, s.counters, _, s.brg.retuneWait, rfl, fun h => ⟨h, rfl⟩⟩

/-- The transfer of a session that is given up moves the entry and the requests (R277). -/
theorem dropXfer_backOut_eq (x : SessXfer) (s : State) : ∃ se re b,
    dropXfer (backOut x s) = { s with sess := se, res := re, ls := { s.ls with boundary := b } } := by
  have h : ∃ se, backOut x s = { s with sess := se } := by
    unfold backOut
    dsimp only
    split
    · exact ⟨_, rfl⟩
    · exact ⟨s.sess, rfl⟩
  obtain ⟨_, e⟩ := h
  rw [e]
  exact ⟨_, _, _, rfl⟩

/-- What the end of a command that the new run state cuts off moves (R333). -/
theorem endBusy_eq (s : State) : ∃ q c cs se re b cm k w, endBusy s =
    { logChange q c cs s with
      sess := se, res := re, ls := { s.ls with boundary := b }, cmd := cm, clk := k, brg := { s.brg with retuneWait := w } } ∧
    (s.brg.retuneWait = false → w = false ∧ q = s.evt.queue) ∧ cm.status = .fail := by
  have h : ∃ se re b, (match s.sess.xfer with | some x => dropXfer (backOut x s) | none => s) =
      { s with sess := se, res := re, ls := { s.ls with boundary := b } } := by
    split
    · exact dropXfer_backOut_eq _ s
    · exact ⟨s.sess, s.res, s.ls.boundary, rfl⟩
  obtain ⟨_, _, _, e⟩ := h
  have hb : endBusy s = cmdFail 0 (endStepChange (match s.sess.xfer with | some x => dropXfer (backOut x s) | none => s)) := rfl
  rw [hb, e]
  generalize ht : ({ s with sess := _, res := _, ls := _ } : State) = t
  obtain ⟨_, _, _, _, _, k, hw⟩ := endStepChange_eq t
  rw [k, ← ht]
  rw [← ht] at hw
  exact ⟨_, _, _, _, _, _, _, _, _, rfl, hw, rfl⟩

theorem queued_endBusy {c : BitVec 12} {s : State} (h : queued c s) : queued c (endBusy s) := by
  have hx : queued c (match s.sess.xfer with | some x => dropXfer (backOut x s) | none => s) := by
    split
    · obtain ⟨_, _, _, e⟩ := dropXfer_backOut_eq _ s
      rw [e]
      exact h
    · exact h
  obtain ⟨-, -, -, -, -, hq⟩ := endStepChange_keeps (match s.sess.xfer with | some x => dropXfer (backOut x s) | none => s)
  exact hq c hx

/-- The state in which a change of the run state writes the run control: a command that is not legal there has ended. -/
def cutOff (st : RunState) (s : State) : State :=
  if s.cmd.status = .busy ∧ !legalIn s.cmd.op.toNat st then endBusy s else s

/-- A change of the run state under copies that are equal, to a state whose owner the Bridle's claim does not change (R22, R334). -/
theorem setRun_of_agree {st : RunState} {s : State} (h : s.run.west = s.run.east)
    (ho : (if s.run.safeDue && s.run.owner == .bridle then .bridle else ownerOf st s.run.owner) = ownerOf st s.run.owner) :
    setRun st s = { cutOff st s with run := controlIn st s.run } := by
  have hr : (cutOff st s).run = s.run := by
    unfold cutOff
    split
    · exact endBusy_run s
    · rfl
  have hs : setRun st s = (let u := cutOff st s
    let owner := if u.run.safeDue && u.run.owner == .bridle then .bridle else ownerOf st u.run.owner
    let epoch := if owner = u.run.owner then u.run.epoch else u.run.epoch + 1
    handshake { u with run := { u.run with state := st, owner := owner, epoch := epoch } }) := rfl
  rw [hs]
  generalize cutOff st s = u at hr
  dsimp only
  rw [hr, ho, handshake_of_equal (by exact h)]
  rfl

theorem cutOff_eq (st : RunState) (s : State) : ∃ q c cs se re b cm k w, cutOff st s =
    { logChange q c cs s with
      sess := se, res := re, ls := { s.ls with boundary := b }, cmd := cm, clk := k, brg := { s.brg with retuneWait := w } } ∧
    (s.brg.retuneWait = false → w = false ∧ q = s.evt.queue) := by
  unfold cutOff
  split
  · obtain ⟨_, _, _, _, _, _, _, _, _, e, hw, -⟩ := endBusy_eq s
    rw [e]
    exact ⟨_, _, _, _, _, _, _, _, _, rfl, hw⟩
  · exact ⟨s.evt.queue, s.evt.cause, s.counters, s.sess, s.res, s.ls.boundary, s.cmd, s.clk, s.brg.retuneWait, rfl,
      fun h => ⟨h, rfl⟩⟩

theorem queued_cutOff {c : BitVec 12} {st : RunState} {s : State} (h : queued c s) : queued c (cutOff st s) := by
  unfold cutOff
  split
  · exact queued_endBusy h
  · exact h


/-! The bisque start (R341, R342, R366). -/

/-- The cluster as the steps of a bisque start find it: the pins are released, the fuses read, and the start is under way. -/
def startFrom (s : State) : State :=
  let s := if s.run.state = .off then powerGood s else s
  let s := setMouldErr 0 0 { s with run := { s.run with porN := true, rstN := true } }
  if s.run.state = .off then setRun .bisque s else s

/-- A start that may go on boots an image before step 3, and fails with START_CODE 1 if none runs. -/
theorem bisqueStep_of_waits {o : BisqueOutcome} {s : State} (h : startWaits s = true) : bisqueStep o s =
    (let r := if decide (s.run.step.toNat ≤ 2) then bootStep o (startFrom s) else (true, startFrom s)
     some (if r.1 then startSteps o r.2 else startFails 1 r.2)) := if_pos h

/-- What the release of the pins leaves (R330, R375). -/
def Begun (s t : State) : Prop :=
  entered .bisque .bridle s t ∧ t.run.porN = true ∧ t.run.rstN = true ∧ t.build = s.build ∧
  t.fuses = (if s.run.state = .off then s.fuseBus else s.fuses) ∧
  (s.run.state = .off → t.run.lc = s.fuseBus.lc ∧ t.fab.nodeId = s.fuseBus.cluster.setWidth 19)

theorem startFrom_of_off {s : State} (ha : halvesAgree s) (h : s.run.state = .off) :
    Begun s (startFrom s) ∧ (s.brg.retuneWait = false → (startFrom s).evt.queue = s.evt.queue) := by
  let t : State := setMouldErr 0 0 { powerGood s with run := { (powerGood s).run with porN := true, rstN := true } }
  have hs : startFrom s = setRun .bisque t := by
    unfold startFrom
    rw [if_pos h]
    exact if_pos h
  have hr : setRun .bisque t = { cutOff .bisque t with run := controlIn .bisque t.run } :=
    setRun_of_agree (ha.1.trans ha.2.symm) (ite_self _)
  obtain ⟨_, _, _, _, _, _, _, _, _, e, hw⟩ := cutOff_eq .bisque t
  rw [hs, hr, e]
  exact ⟨⟨entered_controlIn (r := t.run) rfl rfl rfl, rfl, rfl, rfl, (if_pos h).symm, fun _ => ⟨rfl, rfl⟩⟩, fun h => (hw h).2⟩

theorem startFrom_of_bisque {s : State} (ha : halvesAgree s) (h : s.run.state = .bisque) (ho : s.run.owner = .bridle) :
    Begun s (startFrom s) ∧ (startFrom s).evt.queue = s.evt.queue := by
  have hn : s.run.state ≠ .off := by rw [h]; decide
  have hs : startFrom s = setMouldErr 0 0 { s with run := { s.run with porN := true, rstN := true } } := by
    unfold startFrom
    rw [if_neg hn]
    exact if_neg hn
  rw [hs]
  exact ⟨⟨⟨h, ho, (if_pos ho).symm, ha⟩, rfl, rfl, rfl, (if_neg hn).symm, fun h => absurd h hn⟩, rfl⟩

theorem bridleEvent_grows (code : BitVec 12) (d : Nat) (s : State) : ∃ q c cs,
    bridleEvent code d s = logChange q c cs s ∧ q.length ≤ s.evt.queue.length + 1 := by
  have hlog (place : Event → List Event → List Event) (hp : ∀ e q, (place e q).length = q.length + 1) (n : BitVec 48) :
      ∃ q c cs, logAt place n code d s = logChange q c cs s ∧ q.length ≤ s.evt.queue.length + 1 := by
    unfold logAt
    dsimp only
    split
    · exact ⟨_, _, _, rfl, (hp _ _).le⟩
    · exact ⟨_, _, _, rfl, Nat.le_succ _⟩
  have hi (e : Event) (q : List Event) : (insertEvent e q).length = q.length + 1 := by
    induction q with
    | nil => rfl
    | cons x q ih =>
      unfold insertEvent
      split
      · exact congrArg (· + 1) ih
      · rfl
  unfold bridleEvent
  split
  · exact hlog _ (fun _ _ => List.length_append) _
  · exact hlog _ (fun e q => by rw [byCode, List.length_reverse, hi, List.length_reverse]) _

/-- The images that the ROM tries end in the first that runs, and each try but the first is an event (R366). -/
theorem bootImages_eq (runs : BitVec 1 → Bool) (l : List (BitVec 1 × ImageRead)) (s : State) : ∃ q c cs g,
    bootImages runs l s = ((l.find? (fun x => runs x.1)).isSome, { logChange q c cs s with brg := g }) ∧
    q.length ≤ s.evt.queue.length + (l.length - 1) ∧
    ∀ x, l.find? (fun x => runs x.1) = some x → g.slot = x.1 ∧ g.svn = x.2.svn ∧ g.seq = x.2.seq := by
  induction l generalizing s with
  | nil => exact ⟨s.evt.queue, s.evt.cause, s.counters, s.brg, rfl, Nat.le_add_right .., fun x h => (nomatch h)⟩
  | cons y l ih =>
    unfold bootImages
    rw [List.find?_cons]
    cases hy : runs y.1 with
    | true =>
      exact ⟨s.evt.queue, s.evt.cause, s.counters, _, rfl, Nat.le_add_right .., fun x h => by cases h; exact ⟨rfl, rfl, rfl⟩⟩
    | false =>
      cases l with
      | nil => exact ⟨s.evt.queue, s.evt.cause, s.counters, s.brg, rfl, Nat.le_add_right .., fun x h => (nomatch h)⟩
      | cons z l =>
        obtain ⟨q, c, cs, e, hq⟩ := bridleEvent_grows 0x603 z.1.toNat s
        obtain ⟨q', c', cs', g, e', hq', hg⟩ := ih (logChange q c cs s)
        refine ⟨q', c', cs', g, ?_, ?_, hg⟩
        · dsimp only
          rw [if_neg (by decide), e]
          exact e'
        · have hl : (logChange q c cs s).evt.queue.length = q.length := rfl
          simp only [List.length_cons, hl] at hq' ⊢
          omega

theorem romOrder_length (z : Fuses) (a b : ImageRead) : (romOrder z a b).length ≤ 2 := by
  unfold romOrder
  cases imageVerifies z a <;> cases imageVerifies z b <;> dsimp only <;> split <;> simp

/-- A step that fails twice ends the start FAULTED, with its code and the event (R342). -/
theorem startFails_faults {code : BitVec 8} {s t : State} (h : Begun s t) : entered .faulted .bridle s (startFails code t) ∧
    (startFails code t).run.startCode = code ∧ (t.evt.queue.length < 64 → queued 0x002 (startFails code t)) := by
  obtain ⟨⟨-, ho, he, ha⟩, -⟩ := h
  have hq := queued_bridleEvent 0x002 code.toNat t
  obtain ⟨q, c, cs, e⟩ := bridleEvent_eq 0x002 code.toNat t
  rw [e] at hq
  let u : State := { logChange q c cs t with run := { t.run with startCode := code, step := 0 } }
  have hs : startFails code t = { cutOff .faulted u with run := controlIn .faulted u.run } := by
    unfold startFails
    rw [e]
    exact setRun_of_agree (ha.1.trans ha.2.symm) (ite_self _)
  rw [hs]
  exact ⟨⟨rfl, rfl, (if_pos ho.symm :).trans he, rfl, rfl⟩, rfl, fun h => queued_cutOff (st := .faulted) (s := u) (hq h)⟩

theorem applyRepair_eq (o : BisqueOutcome) (s : State) : ∃ q c cs, applyRepair o s = { logChange q c cs s with
      mx := { s.mx with full := (mxWidths o.badCols).1, h0 := (mxWidths o.badCols).2.1, h1 := (mxWidths o.badCols).2.2 }
      ls := { s.ls with repairs := failedRows s.build o.badRows } } ∧ q.length ≤ s.evt.queue.length + 1 := by
  unfold applyRepair
  dsimp only
  split
  · obtain ⟨q, c, cs, e, hq⟩ := bridleEvent_grows 0x205 o.badCols.toNat { s with
      mx := { s.mx with full := (mxWidths o.badCols).1, h0 := (mxWidths o.badCols).2.1, h1 := (mxWidths o.badCols).2.2 }
      ls := { s.ls with repairs := failedRows s.build o.badRows } }
    exact ⟨q, c, cs, e, hq⟩
  · exact ⟨s.evt.queue, s.evt.cause, s.counters, rfl, Nat.le_succ _⟩

/-- The steps 3 to 7, where none fails. -/
theorem startSteps_of_pass {o : BisqueOutcome} {s t : State} (h : Begun s t) (hc : startFailure s.build o = 0) :
    Begun s (startSteps o t) ∧ (startSteps o t).run.step = 8 ∧ (startSteps o t).clk.align = o.trims ∧
    (startSteps o t).brg = { t.brg with wear := { t.brg.wear with baseline := some o.offsets, latest := o.offsets } } ∧
    ((startSteps o t).mx.full, (startSteps o t).mx.h0, (startSteps o t).mx.h1) = mxWidths o.badCols ∧
    (startSteps o t).ls.repairs = failedRows s.build o.badRows := by
  have hb : t.build = s.build := h.2.2.2.1
  obtain ⟨q, c, cs, e, -⟩ := applyRepair_eq o t
  have hs : startSteps o t = (let u := applyRepair o t
      { applyCalibration o u with run := { u.run with step := 8 } }) := by
    unfold startSteps
    rw [hb, hc]
    rfl
  rw [hs, e, hb]
  exact ⟨h, rfl, rfl, rfl, rfl, rfl⟩

/-- The steps 3 to 7, where one fails twice. -/
theorem startSteps_of_failure {o : BisqueOutcome} {s t : State} (h : Begun s t) (hc : startFailure s.build o ≠ 0) :
    entered .faulted .bridle s (startSteps o t) ∧ (startSteps o t).run.startCode = startFailure s.build o ∧
    (t.evt.queue.length < 63 → queued 0x002 (startSteps o t)) := by
  have hb : t.build = s.build := h.2.2.2.1
  have hs : startSteps o t = startFails (startFailure s.build o)
      (if startFailure s.build o = 0 ∨ 5 ≤ (startFailure s.build o).toNat then applyRepair o t else t) := by
    unfold startSteps
    rw [hb]
    exact if_neg hc
  rw [hs]
  have hu : Begun s (if startFailure s.build o = 0 ∨ 5 ≤ (startFailure s.build o).toNat then applyRepair o t else t) ∧
      (if startFailure s.build o = 0 ∨ 5 ≤ (startFailure s.build o).toNat then applyRepair o t else t).evt.queue.length ≤
        t.evt.queue.length + 1 := by
    split
    · obtain ⟨q, c, cs, e, hq⟩ := applyRepair_eq o t
      rw [e]
      exact ⟨h, hq⟩
    · exact ⟨h, Nat.le_succ _⟩
  obtain ⟨he, hcode, hq⟩ := startFails_faults (code := startFailure s.build o) hu.1
  exact ⟨he, hcode, fun hl => hq (by omega)⟩

/-- The image that step 2 of a start ends with, under the fuses that the release of por_n reads (R366, R375). -/
def startedImage (o : BisqueOutcome) (s : State) : Option (BitVec 1 × ImageRead) :=
  (romOrder (if s.run.state = .off then s.fuseBus else s.fuses) o.image0 o.image1).find?
    (fun x => if x.1 = 0 then o.runs0 else o.runs1)

theorem bootStep_eq {o : BisqueOutcome} {s t : State} (h : Begun s t) : ∃ u, bootStep o t = ((startedImage o s).isSome, u) ∧
    Begun s u ∧ u.evt.queue.length ≤ t.evt.queue.length + 1 ∧
    ∀ x, startedImage o s = some x → u.brg.slot = x.1 ∧ u.brg.svn = x.2.svn ∧ u.brg.seq = x.2.seq := by
  obtain ⟨-, -, -, -, hz, -⟩ := id h
  unfold startedImage
  rw [← hz]
  obtain ⟨q, c, cs, g, e, hq, hg⟩ :=
    bootImages_eq (fun k => if k = 0 then o.runs0 else o.runs1) (romOrder t.fuses o.image0 o.image1) t
  have hl := romOrder_length t.fuses o.image0 o.image1
  exact ⟨_, e, h, by change q.length ≤ _; omega, hg⟩

/-- The steps 1 and 2: the pins, and an image that runs, where the start is not past it (R341, R366). -/
theorem exec_bisqueStart {o : BisqueOutcome} {s : State} (ha : halvesAgree s)
    (hw : s.run.state = .off ∨ (s.run.state = .bisque ∧ s.run.step ≠ 8 ∧ s.run.owner = .bridle)) :
    ∃ b u, exec (.bisqueStart o) s = .next (if b then startSteps o u else startFails 1 u) ∧ Begun s u ∧
    (s.brg.retuneWait = false → u.evt.queue.length ≤ s.evt.queue.length + 1) ∧ (2 < s.run.step.toNat → b = true) ∧
    (s.run.step.toNat ≤ 2 → b = (startedImage o s).isSome ∧
      ∀ x, startedImage o s = some x → u.brg.slot = x.1 ∧ u.brg.svn = x.2.svn ∧ u.brg.seq = x.2.seq) := by
  have hs : startWaits s = true := by
    rcases hw with h | ⟨h, hstep, -⟩
    · simp [startWaits, h]
    · rw [startWaits, h, bne_iff_ne.mpr hstep]
      rfl
  have ht : Begun s (startFrom s) ∧ (s.brg.retuneWait = false → (startFrom s).evt.queue = s.evt.queue) := by
    rcases hw with h | ⟨h, -, ho⟩
    · exact startFrom_of_off ha h
    · exact ⟨(startFrom_of_bisque ha h ho).1, fun _ => (startFrom_of_bisque ha h ho).2⟩
  obtain ⟨hb, hq⟩ := ht
  have he : exec (.bisqueStart o) s = .next ((bisqueStep o s).getD s) := rfl
  rw [bisqueStep_of_waits hs, Option.getD_some] at he
  by_cases hstep : s.run.step.toNat ≤ 2
  · obtain ⟨u, e, hu, hlen, hx⟩ := bootStep_eq (o := o) hb
    rw [if_pos (decide_eq_true hstep), e] at he
    exact ⟨_, u, he, hu, fun h => by rw [hq h] at hlen; exact hlen, fun h => absurd hstep (by omega), fun _ => ⟨rfl, hx⟩⟩
  · rw [decide_eq_false hstep] at he
    exact ⟨true, startFrom s, he, hb, fun h => by rw [hq h]; exact Nat.le_succ _, fun _ => rfl, fun h => absurd h hstep⟩

/-- Settles O50: the resets leave an empty cluster; a start goes through the release, the images and the steps from 3;
each instruction of the test port is one load. -/
theorem pinsAndTestPort : Obligations.PinsAndTestPort := by
  refine ⟨fun o s => ?_, fun s => ?_⟩
  · intro wiped z started
    refine ⟨porNLow_wipes s, rstNAssert_ignored, rstNAssert_wipes, fun hw ha => ?_⟩
    obtain ⟨b, u, e, hu, hq, hlate, hboot⟩ := exec_bisqueStart (o := o) ha hw
    refine ⟨fun hstep hn => ?_, fun hsome => ?_⟩
    · have hb : b = false := (hboot hstep).1.trans (congrArg Option.isSome (show _ = none from hn))
      rw [hb, if_neg (by decide)] at e
      obtain ⟨he, hc, -⟩ := startFails_faults (code := 1) hu
      exact ⟨_, e, he, hc⟩
    · have hb : b = true := by
        by_cases hstep : s.run.step.toNat ≤ 2
        · exact (hboot hstep).1.trans (hsome hstep)
        · exact hlate (by omega)
      rw [hb, if_pos rfl] at e
      refine ⟨fun hc => ?_, fun hc => ?_⟩
      · obtain ⟨⟨hent, hp, hr, -, hz, hoff⟩, hstep, halign, hbrg, hmx, hrep⟩ := startSteps_of_pass hu hc
        refine ⟨_, e, hent, hstep, hp, hr, hz, fun h => ?_, halign, by rw [hbrg], hmx, hrep, fun x hle hx => ?_⟩
        · obtain ⟨hlc, hnode⟩ := hoff h
          have hzb : z = s.fuseBus := if_pos h
          rw [hzb]
          exact ⟨hlc, hnode⟩
        · rw [hbrg]
          exact (hboot hle).2 x hx
      · obtain ⟨hent, hcode, hev⟩ := startSteps_of_failure hu hc
        exact ⟨_, e, hent, hcode, fun hw hl => hev (by have := hq hw; omega)⟩
  · intro mode selects
    have hm : tapMayDrive s = mode := rfl
    refine ⟨⟨_, rfl, rfl, rfl, rfl⟩, ?_, ?_, ?_, ?_, ?_⟩
    · exact selects_of_load (ir := .bypass) (n := s.tap.scans) rfl rfl rfl
    · exact selects_of_load (ir := .idcode) (n := s.tap.scans) rfl rfl rfl
    · exact selects_of_load (ir := .sample) (n := s.tap.scans + 1) rfl rfl rfl
    · exact selects_of_load (ir := .extest) (n := s.tap.scans) rfl (tapReg_extest s) (tapDrives_extest s)
    · exact selects_of_load (ir := .clamp) (n := s.tap.scans) rfl (tapReg_clamp s) (tapDrives_clamp s)

end Sys2Proof.Machine
end

section
/-! SUPPORT. The Mould load, the refire and the life cycle: O49. -/

namespace Sys2Proof.Machine
open Claims

/-! What the links' part of an applied stream leaves alone (R340, R382). -/

/-- The run control, the command slot, the clocks, the Mould, the Bridle and the mailbox: no link and no instruction in flight
moves them. -/
def controlOf (s : State) : RunCtl × CmdSlot × Clocks × Mould × Bridle × Mailbox :=
  (s.run, s.cmd, s.clk, s.mould, s.brg, s.mbx)

theorem controlOf_of_flightsOnly {s t : State} (h : FlightsOnly s t) : controlOf t = controlOf s := by
  obtain ⟨_, _, _, rfl⟩ := h
  rfl

theorem controlOf_modPort (p : BitVec 2) (g : Port → Port) (s : State) : controlOf (modPort p g s) = controlOf s := by
  simp only [controlOf, modPort_run, modPort_cmd, modPort_clk, modPort_mould, modPort_brg, modPort_mbx]

theorem controlOf_setPort (p : BitVec 2) (q : Port) (s : State) : controlOf (setPort p q s) = controlOf s :=
  controlOf_modPort p (fun _ => q) s

theorem controlOf_logEvent (code : BitVec 12) (d : Nat) (s : State) : controlOf (logEvent code d s) = controlOf s := by
  obtain ⟨_, _, _, e⟩ := logEvent_eq code d s
  rw [e]
  rfl

theorem controlOf_execFault (fid : Nat) (fc : BitVec 8) (v : Word64) (s : State) :
    controlOf (execFault fid fc v s) = controlOf s := by
  unfold execFault
  split
  · rfl
  · next f _ =>
    have h : controlOf (trimQueues (releaseQueues fid (releaseLeft f s))) = controlOf s :=
      controlOf_of_flightsOnly (flightsOnly_trans (flightsOnly_releaseLeft f s) ⟨_, _, _, rfl⟩)
    have hm (t : Thread) (g : ThreadState → ThreadState) (u : State) : controlOf (modThread t g u) = controlOf u := by
      cases t <;> rfl
    dsimp only
    split
    · exact h
    · exact (hm ..).trans h

theorem controlOf_linkFault (f : Flight) (r : Remote) (s : State) : controlOf (linkFault f r s) = controlOf s := by
  unfold linkFault
  dsimp only
  rw [controlOf_execFault]
  refine foldl_keeps controlOf _ (fun s x => ?_) _ s
  split
  · split
    · exact controlOf_of_flightsOnly (flightsOnly_releaseClaim _ s)
    · rfl
  · rfl

theorem controlOf_goDown (p : BitVec 2) (s : State) : controlOf (goDown p s) = controlOf s := by
  unfold goDown
  dsimp only
  rw [foldl_keeps controlOf _ (fun s x => controlOf_linkFault _ _ s), controlOf_logEvent, controlOf_modPort]

theorem controlOf_rowStatus (fid i : Nat) (st : BitVec 8) (s : State) : controlOf (rowStatus fid i st s) = controlOf s := by
  have hr (p : Nat) (u : State) : controlOf (releaseClaim p u) = controlOf u :=
    controlOf_of_flightsOnly (flightsOnly_releaseClaim p u)
  have hb (u : State) : controlOf (bump cntFabRefused 1 u) = controlOf u := rfl
  have hm (g : RemRow → RemRow) : controlOf (modRemRow fid i g s) = controlOf s := rfl
  have hf (p : BitVec 2) (g : RemRow → RemRow) : controlOf (freeTrack p fid i (modRemRow fid i g s)) = controlOf s :=
    controlOf_modPort p _ _
  unfold rowStatus
  dsimp only
  repeat' split
  all_goals simp only [hr, hb, hf, hm]

theorem controlOf_applyPort (up : BitVec 4) (s : State) (p : Nat) : controlOf (applyPort up s p) = controlOf s := by
  have hc (q : BitVec 2) : controlOf (clearLink q false s) = controlOf s := by
    unfold clearLink dropOutstanding
    exact (controlOf_setPort q _ _).trans (foldl_keeps controlOf _ (fun s _ => controlOf_rowStatus _ _ _ s) _ s)
  unfold applyPort
  dsimp only
  split
  · exact hc _
  · split
    · exact (controlOf_modPort _ _ _).trans (hc _)
    · exact (controlOf_goDown _ _).trans (hc _)

/-- What an applied stream leaves of the control of the cluster (R316, R340). -/
theorem applyStream_control (c : Checked) (up : BitVec 4) (s : State) : (applyStream c up s).run = s.run ∧
    (applyStream c up s).cmd = s.cmd ∧
    (applyStream c up s).mould = { s.mould with cfg := c.cfg, pending := none, pendingFlag := false, warn := c.warn } ∧
    (applyStream c up s).clk.step = 0 ∧ (applyStream c up s).clk.align = s.clk.align ∧
    (applyStream c up s).brg.wear = s.brg.wear ∧ (applyStream c up s).mbx = s.mbx := by
  unfold applyStream
  dsimp only
  generalize hu : (List.range 4).foldl (applyPort up) _ = u
  have hk := foldl_keeps controlOf (applyPort up) (controlOf_applyPort up) (List.range 4) (setStep 0 { s with
    mould := { s.mould with cfg := c.cfg, pending := none, pendingFlag := false, warn := c.warn }
    sess := { s.sess with used := c.cfg.sessUsed }
    clk := { s.clk with fsteps := c.cfg.fsteps } })
  rw [hu] at hk
  simp only [controlOf, Prod.mk.injEq] at hk
  obtain ⟨hrun, hcmd, hclk, hmould, hbrg, hmbx⟩ := hk
  obtain ⟨_, _, _, _, e⟩ := retuneTable_eq u
  rw [e]
  exact ⟨hrun, hcmd, hmould, (congrArg Clocks.step hclk :), (congrArg Clocks.align hclk :), (congrArg Bridle.wear hbrg :), hmbx⟩

/-! The stream that is read (R339). -/

/-- A request keeps its use and its address when it is sent. -/
theorem mem_assignIds {r : ResReq} (n : Nat) {l : List ResReq} (h : r ∈ l) :
    ∃ r' ∈ assignIds n l, r'.use = r.use ∧ r'.address = r.address := by
  induction n generalizing l r with
  | zero => exact ⟨r, h, rfl, rfl⟩
  | succ n ih =>
    unfold assignIds
    split
    · exact ⟨r, h, rfl, rfl⟩
    · next k _ =>
      have hl : l = l.takeWhile (fun r => r.id.isSome) ++ l.dropWhile (fun r => r.id.isSome) :=
        List.takeWhile_append_dropWhile.symm
      rw [List.span_eq_takeWhile_dropWhile]
      dsimp only
      split
      · exact ⟨r, h, rfl, rfl⟩
      · next x xs hx =>
        rw [hx] at hl
        rw [hl, List.mem_append, List.mem_cons] at h
        rcases h with h | rfl | h
        · exact ih (List.mem_append_left _ h)
        · exact ih (r := { r with id := some k }) (List.mem_append_right _ (List.mem_cons_self ..))
        · exact ih (List.mem_append_right _ (List.mem_cons_of_mem _ h))

theorem readStream_eq (base : BitVec 48) (s : State) : ∃ q, readStream base s =
    { s with res := q, mould := { s.mould with rows := [], retried := [], failed := none } } ∧
    ∃ r ∈ q.reads, r.use = .stream 0 ∧ r.address = base := by
  let r : ResReq := { id := none, address := base + BitVec.ofNat 48 (512 * 0), use := .stream 0, data := [] }
  have hr : r ∈ dropStream s.res.reads ++ [r] := List.mem_append_right _ (List.mem_singleton_self _)
  obtain ⟨x, hx, hu, ha⟩ := mem_assignIds _ hr
  exact ⟨_, rfl, x, hx, hu, ha.trans (BitVec.add_zero base)⟩

/-- Once the stream has been read no answer is due. -/
theorem streamAnswers_of_ended (readErr : Bool) (stream : List Bytes) {s : State} (h : streamEnded s = true) :
    streamAnswers readErr stream s = s := by
  have ha (err : Bool) (row : Bytes) : answerStreamRead err row s = s := if_pos h
  unfold streamAnswers
  dsimp only
  rw [List.foldl_fixed' (f := fun s row => answerStreamRead false row s) (ha false)]
  split
  · exact List.foldl_fixed' (fun _ => ha true []) _
  · rfl

theorem mouldNotes_eq (c : Checked) (s : State) : ∃ q g cs, mouldNotes c s = logChange q g cs s := by
  have h {α : Type} (f : State → α → State) (hf : ∀ s a, ∃ q g cs, f s a = logChange q g cs s) (l : List α) (s : State) :
      ∃ q g cs, l.foldl f s = logChange q g cs s := by
    induction l generalizing s with
    | nil => exact ⟨s.evt.queue, s.evt.cause, s.counters, rfl⟩
    | cons a l ih =>
      obtain ⟨q, g, cs, e⟩ := hf s a
      obtain ⟨q', g', cs', e'⟩ := ih (f s a)
      rw [e] at e'
      rw [List.foldl_cons, e]
      exact ⟨q', g', cs', e'⟩
  unfold mouldNotes
  obtain ⟨_, _, _, e⟩ := h (fun s k => logEvent 0x005 k s) (fun s k => logEvent_eq 0x005 k s)
    ((List.range 5).filter (fun k => c.warn.getLsbD k)) s
  dsimp only
  rw [e]
  exact h (fun s (x : Nat × Nat) => logEvent 0x006 (x.1 + 2 ^ 8 * x.2) s) (fun s x => logEvent_eq 0x006 _ s) _ _


/-! MOULD_LOAD (R339, R340). -/

theorem mouldLoad_reads {s : State} (ha : halvesAgree s) (hm : hostMay 0x07 s) (h0 : s.cmd.arg0.toNat % 512 = 0)
    (h1 : s.cmd.arg1.toNat < 2 ^ 16) : ∃ s', exec .mouldLoad s = .next s' ∧ s'.cmd.status = .busy ∧ s'.cmd.op = 7 ∧
    s'.run = s.run ∧ s'.mould = { s.mould with rows := [], retried := [], failed := none } ∧
    (∃ r ∈ s'.res.reads, r.use = .stream 0 ∧ r.address = mouldArg s) := by
  have hargs : mouldArgsOk (posted s) = true := by
    rw [mouldArgsOk, (posted_control s).2]
    simpa [h0] using h1
  refine ⟨_, congrArg Host.Outcome.next (postCommand_of_may hm ha hargs rfl rfl), ?_⟩
  obtain ⟨_, _, _, _, e, -⟩ := accepted_eq 0x07 s
  rw [e, runMouldLoad]
  generalize ht : ({ s with cycle := _, clk := _, counters := _, csr := _, cmd := _ } : State) = t
  obtain ⟨_, k, r, hr, hu, hadr⟩ := readStream_eq (mouldArg t) t
  rw [k, ← ht]
  exact ⟨rfl, rfl, rfl, rfl, r, hr, hu, by rw [hadr, ← ht]; rfl⟩

/-- A lull moves nothing that the check of a stream reads. -/
theorem passLull_stream (s : State) : streamEnded (passLull s) = streamEnded s ∧ checkRead (passLull s) = checkRead s ∧
    mouldArg (passLull s) = mouldArg s := by
  obtain ⟨_, _, _, _, _, e⟩ := passLull_eq s
  rw [e]
  exact ⟨rfl, rfl, rfl⟩

theorem exec_mouldLoadComplete {readErr : Bool} {stream : List Bytes} {up : BitVec 4} {s t : State}
    (hs : streamEnded s = true) (h : mouldLoadStep up (passLull s) = some t) :
    exec (.mouldLoadComplete readErr stream up) s = .next t := by
  have he : exec (.mouldLoadComplete readErr stream up) s =
    .next ((mouldLoadStep up (streamAnswers readErr stream (passLull s))).getD s) := rfl
  rw [he, streamAnswers_of_ended readErr stream ((passLull_stream s).1.trans hs), h, Option.getD_some]

/-- The state in which an accepted stream is put in force or waits (R336, R340). -/
def mouldTaken (c : Checked) (s : State) : State :=
  mouldNotes c { s with mould := { s.mould with
    address := mouldArg s, crc := c.crc, length := BitVec.ofNat 13 c.length, err := 0, word := 0, warn := c.warn } }

theorem mouldNotes_control (c : Checked) (s : State) : (mouldNotes c s).run = s.run ∧ (mouldNotes c s).mould = s.mould := by
  obtain ⟨_, _, _, e⟩ := mouldNotes_eq c s
  rw [e]
  exact ⟨rfl, rfl⟩

theorem mouldTaken_run (c : Checked) (s : State) : (mouldTaken c s).run = s.run := (mouldNotes_control c _).1

theorem mouldTaken_mould (c : Checked) (s : State) : (mouldTaken c s).mould = { s.mould with
    address := mouldArg s, crc := c.crc, length := BitVec.ofNat 13 c.length, err := 0, word := 0, warn := c.warn } :=
  (mouldNotes_control c _).2

/-- The state of a bisque start in which an accepted stream has come into force (R340). -/
def mouldApplied (c : Checked) (up : BitVec 4) (s : State) : State :=
  let t := applyStream c up (cmdOk (mouldTaken c s))
  { t with run := { t.run with step := 0 } }

theorem mouldApplied_control (c : Checked) (up : BitVec 4) (s : State) :
    (mouldApplied c up s).run = { s.run with step := 0 } ∧ (mouldApplied c up s).cmd.status = .ok ∧
    (mouldApplied c up s).mould = { s.mould with
      cfg := c.cfg, pending := none, pendingFlag := false, address := mouldArg s, crc := c.crc
      length := BitVec.ofNat 13 c.length, err := 0, word := 0, warn := c.warn } ∧
    (mouldApplied c up s).clk.step = 0 := by
  obtain ⟨hr, hc, hm, hstep, -⟩ := applyStream_control c up (cmdOk (mouldTaken c s))
  exact ⟨congrArg (fun r : RunCtl => { r with step := 0 }) (hr.trans (mouldTaken_run c s)), (congrArg CmdSlot.status hc :),
    hm.trans (congrArg (fun m : Mould => { m with cfg := c.cfg, pending := none, pendingFlag := false, warn := c.warn })
      (mouldTaken_mould c s)), hstep⟩

section
variable {up : BitVec 4} {c : Checked} {s : State} (hb : busyWith s 0x07 = true) (hs : streamEnded s = true)
include hb hs

theorem mouldLoadStep_of_error {err word : Nat} (hc : checkRead s = .error (err, word)) :
    mouldLoadStep up s = some (cmdFail 0 (setMouldErr err word s)) := by
  unfold mouldLoadStep
  rw [hb, hs, hc]
  rfl

theorem mouldLoadStep_of_ok (hc : checkRead s = .ok c) : mouldLoadStep up s = some (
    if s.run.state = .bisque then setRun .ready (mouldApplied c up s)
    else cmdOk { mouldTaken c s with mould := { (mouldTaken c s).mould with pending := some c.cfg, pendingFlag := true } }) := by
  rw [← mouldTaken_run c s]
  unfold mouldLoadStep
  rw [hb, hs, hc]
  rfl

end

/-- A start or a refire whose stream is in force ends READY (R340, R343). -/
theorem setRun_ready {s t : State} (ha : halvesAgree s) (hk : s.run.safeDue = true → s.run.owner ≠ .bridle)
    (hr : t.run = { s.run with step := 0 }) (hc : t.cmd.status = .ok) :
    ∃ r, setRun .ready t = { t with run := r } ∧ ∀ u : State, u.run = r → entered .ready .host s u := by
  refine ⟨_, setRun_eq (st := .ready) (t := t) (by rw [hc]; decide) ?_ (by rw [hr]; exact hk), fun u hu => ?_⟩
  · rw [hr]
    exact ha.1.trans ha.2.symm
  · exact entered_controlIn hu (by rw [hr]) (by rw [hr])

section
variable {readErr : Bool} {stream : List Bytes} {up : BitVec 4} {c : Checked} {s : State}
  (hb : busyWith s 0x07 = true) (hs : streamEnded s = true)
include hb hs

/-- The end of a load whose stream a check refuses (R339). -/
theorem mouldLoadComplete_refuses {err word : Nat} (hc : checkRead s = .error (err, word)) :
    ∃ s', exec (.mouldLoadComplete readErr stream up) s = .next s' ∧ s'.cmd.status = .fail ∧ s'.run = s.run ∧
      s'.mould = { s.mould with err := BitVec.ofNat 8 err, word := BitVec.ofNat 12 word } := by
  obtain ⟨hps, hpc, -⟩ := passLull_stream s
  obtain ⟨hrun, -, hmould, -⟩ := passLull_control s
  have h := mouldLoadStep_of_error (up := up) ((busyWith_passLull s 0x07).trans hb) (hps.trans hs) (hpc.trans hc)
  exact ⟨_, exec_mouldLoadComplete hs h, rfl, hrun, by rw [← hmould]; rfl⟩

/-- The end of a load whose stream is accepted (R339, R340). -/
theorem mouldLoadComplete_accepts (ha : halvesAgree s) (hc : checkRead s = .ok c)
    (hk : s.run.safeDue = true → s.run.owner ≠ .bridle) :
    ∃ s', exec (.mouldLoadComplete readErr stream up) s = .next s' ∧ s'.cmd.status = .ok ∧ s'.mould.crc = c.crc ∧
      s'.mould.err = 0 ∧ s'.mould.address = mouldArg s ∧ s'.mould.length = BitVec.ofNat 13 c.length ∧
      (if s.run.state = .bisque then entered .ready .host s s' ∧ s'.mould.cfg = c.cfg ∧ s'.clk.step = 0
       else s'.run = s.run ∧ s'.mould.cfg = s.mould.cfg ∧ s'.mould.pending = some c.cfg ∧ s'.mould.pendingFlag = true) := by
  obtain ⟨hps, hpc, harg⟩ := passLull_stream s
  obtain ⟨hrun, -, hmould, -⟩ := passLull_control s
  have h := mouldLoadStep_of_ok (up := up) ((busyWith_passLull s 0x07).trans hb) (hps.trans hs) (hpc.trans hc)
  rw [hrun] at h
  refine ⟨_, exec_mouldLoadComplete hs h, ?_⟩
  by_cases hst : s.run.state = .bisque
  · obtain ⟨hr, hok, hm, hstep⟩ := mouldApplied_control c up (passLull s)
    rw [hrun] at hr
    rw [harg] at hm
    obtain ⟨r, e, hent⟩ := setRun_ready ha hk hr hok
    rw [if_pos hst, if_pos hst, e, hm]
    exact ⟨hok, rfl, rfl, rfl, rfl, hent _ rfl, rfl, hstep⟩
  · rw [if_neg hst, if_neg hst, mouldTaken_mould, harg, ← hrun, ← hmould]
    exact ⟨rfl, rfl, rfl, rfl, rfl, mouldTaken_run c _, rfl, rfl, rfl⟩

end


/-! REFIRE (R343, R344). -/

/-- The buffers that a refire frees are the ports': the node id stays, and all but the fabric. -/
theorem foldl_freeBoundary_eq (l : List BAccess) (s : State) :
    ∃ f, l.foldl freeBoundary s = { s with fab := f } ∧ f.nodeId = s.fab.nodeId := by
  have h (s : State) (b : BAccess) : ∃ f, freeBoundary s b = { s with fab := f } ∧ f.nodeId = s.fab.nodeId := by
    unfold freeBoundary freeFlits modPort setPort
    split
    · split
      · exact ⟨_, rfl, rfl⟩
      · exact ⟨_, rfl, rfl⟩
      · exact ⟨_, rfl, rfl⟩
      · exact ⟨_, rfl, rfl⟩
    · exact ⟨s.fab, rfl, rfl⟩
  induction l generalizing s with
  | nil => exact ⟨s.fab, rfl, rfl⟩
  | cons b l ih =>
    obtain ⟨f, e, hf⟩ := h s b
    obtain ⟨g, k, hg⟩ := ih (freeBoundary s b)
    rw [e] at k hg
    rw [List.foldl_cons, e]
    exact ⟨g, k, hg.trans hf⟩

/-- What refire leaves of the cluster (R91, R344, Table 16.9). -/
theorem refireReset_wipes (s : State) : (refireReset s).run.state = s.run.state ∧ (refireReset s).run.owner = s.run.owner ∧
    (refireReset s).run.epoch = 0 ∧ halvesAgree (refireReset s) ∧ (refireReset s).flights = [] ∧
    (∀ u r, sreg u r (refireReset s) = 0) ∧ (refireReset s).sdm = [] ∧
    (refireReset s).mould = { s.mould with err := 0, word := 0, warn := 0 } ∧
    (refireReset s).fab.nodeId = s.fab.nodeId ∧
    (∀ q ∈ (refireReset s).handles, q.2.state = .pinned ∧ q.2.prevValid = false ∧ q.2.refcount = 0) := by
  unfold refireReset
  dsimp only
  obtain ⟨f, e, hf⟩ := foldl_freeBoundary_eq s.ls.boundary s
  rw [e]
  refine ⟨rfl, rfl, rfl, ⟨rfl, rfl⟩, rfl, fun u r => sreg_of_empty (by cases u <;> rfl) r, rfl, rfl, hf, fun q hq => ?_⟩
  obtain ⟨x, hx, rfl⟩ := List.mem_map.mp hq
  exact ⟨eq_of_beq (List.mem_filter.mp hx).2, rfl, rfl⟩

/-- The run state as REFIRE finds it after the change of its state, which ends its own command as one that is not legal there. -/
theorem setRun_refire {s : State} (ha : halvesAgree s) : (setRun .refire (accepted 0x04 s)).run.state = .refire ∧
    (setRun .refire (accepted 0x04 s)).run.owner = .bridle ∧ (setRun .refire (accepted 0x04 s)).mould = s.mould ∧
    (setRun .refire (accepted 0x04 s)).fab = s.fab := by
  obtain ⟨_, _, _, _, ea, -⟩ := accepted_eq 0x04 s
  have hw : (accepted 0x04 s).run.west = (accepted 0x04 s).run.east := by
    rw [ea]
    exact ha.1.trans ha.2.symm
  rw [setRun_of_agree hw (ite_self _)]
  obtain ⟨_, _, _, _, _, _, _, _, _, ec, -⟩ := cutOff_eq .refire (accepted 0x04 s)
  rw [ec, ea]
  exact ⟨rfl, rfl, rfl, rfl⟩

theorem runRefire_eq (s : State) : runRefire s = readStream (refireReset (setRun .refire s)).mould.address
    { refireReset (setRun .refire s) with cmd := { CmdSlot.reset with op := 4, status := .busy } } := rfl

theorem refire_wipes {s : State} (ha : halvesAgree s) (hm : hostMay 0x04 s) : ∃ s', exec .refire s = .next s' ∧
    s'.run.state = .refire ∧ s'.run.owner = .bridle ∧ s'.run.epoch = 0 ∧ halvesAgree s' ∧ s'.cmd.status = .busy ∧
    s'.cmd.op = 4 ∧ s'.flights = [] ∧ (∀ u r, sreg u r s' = 0) ∧ (∀ a, Mem.read s'.sdm a = 0) ∧
    s'.mould.cfg = s.mould.cfg ∧ s'.fab.nodeId = s.fab.nodeId ∧
    (∀ q ∈ s'.handles, q.2.state = .pinned ∧ q.2.prevValid = false ∧ q.2.refcount = 0) ∧
    (∃ r ∈ s'.res.reads, r.use = .stream 0 ∧ r.address = s.mould.address) := by
  refine ⟨_, next_postPlain hm ha, ?_⟩
  obtain ⟨hst, ho, hm, hf⟩ := setRun_refire ha
  rw [runRefire_eq]
  generalize setRun .refire (accepted 0x04 s) = t at hst ho hm hf
  obtain ⟨kst, ko, hep, hh, hfl, hreg, hsdm, hmould, hnode, hpin⟩ := refireReset_wipes t
  rw [hm] at hmould
  generalize refireReset t = u at kst ko hep hh hfl hreg hsdm hmould hnode hpin
  obtain ⟨_, k, r, hr, hu, hadr⟩ := readStream_eq u.mould.address
    { u with cmd := { CmdSlot.reset with op := 4, status := .busy } }
  rw [k]
  refine ⟨kst.trans hst, ko.trans ho, hep, hh, rfl, rfl, hfl, hreg, fun a => ?_, (congrArg Mould.cfg hmould :),
    hnode.trans (congrArg Fabric.nodeId hf), hpin, r, hr, hu, hadr.trans (congrArg Mould.address hmould :)⟩
  change Mem.read u.sdm a = 0
  rw [hsdm]
  rfl

/-! REFIRE_COMPLETE (R330, R343). -/

/-- A step of the refire that fails falls back to the bisque start's step 2 (R343). -/
theorem refireFallback_falls (failed err word : Nat) (s : State) : (refireFallback failed err word s).run.state = .bisque ∧
    (refireFallback failed err word s).run.step = 2 ∧ (refireFallback failed err word s).cmd.status = .fail ∧
    (refireFallback failed err word s).cmd.arg3 = 0x003 ∧ (refireFallback failed err word s).handles = [] ∧
    (refireFallback failed err word s).mould.cfg = (State.resetOf s.build s.fuses).mould.cfg ∧
    queued 0x003 (refireFallback failed err word s) := by
  let t := setMouldErr err word (coldReset false 2 s)
  have hq : queued 0x003 (bridleEvent 0x003 (failed + 2 ^ 8 * err) t) := queued_bridleEvent _ _ t (Nat.zero_lt_succ 63)
  have he : refireFallback failed err word s = cmdFail 0x003 (bridleEvent 0x003 (failed + 2 ^ 8 * err) t) := rfl
  obtain ⟨_, _, _, e⟩ := bridleEvent_eq 0x003 (failed + 2 ^ 8 * err) t
  rw [e] at he hq
  rw [he]
  exact ⟨rfl, rfl, rfl, rfl, rfl, rfl, hq⟩

section
variable {o : RefireOutcome} {s : State} (hs : s.run.state = .refire) (hb : s.brg.restarting = false)
include hs hb

theorem refireComplete_falls (hf : o.failStep ≠ 0) :
    exec (.refireComplete o) s = .next (refireFallback o.failStep.toNat 0 0 s) := by
  have h : refireCompleteStep o s = some (refireFallback o.failStep.toNat 0 0 s) := by
    unfold refireCompleteStep
    rw [if_pos ⟨hs, by rw [hb]; rfl⟩, if_pos hf]
  exact congrArg (fun x => Host.Outcome.next (Option.getD x s)) h

theorem refireComplete_passes {c : Checked} (ha : halvesAgree s) (hk : s.run.safeDue = true → s.run.owner ≠ .bridle)
    (hf : o.failStep = 0) (he : streamEnded s = true) (hc : checkRead s = .ok c) (hcrc : c.crc = s.mould.crc)
    (hlen : c.length = s.mould.length.toNat) :
    ∃ s', exec (.refireComplete o) s = .next s' ∧ entered .ready .host s s' ∧ s'.cmd.status = .ok ∧ s'.mould.cfg = c.cfg ∧
      s'.clk.step = 0 ∧ s'.clk.align = o.trims ∧ s'.brg.wear.latest = quickCheck o s.brg.wear.latest := by
  let t := applyStream c o.linkUp (refireCheck o s)
  have h : refireCompleteStep o s = some (refireDone t) := by
    unfold refireCompleteStep
    rw [if_pos ⟨hs, by rw [hb]; rfl⟩, if_neg (not_not_intro hf), if_pos he, hc]
    exact congrArg some (if_neg (by simp [hcrc, hlen]))
  refine ⟨_, congrArg (fun x => Host.Outcome.next (Option.getD x s)) h, ?_⟩
  rw [Option.getD_some]
  obtain ⟨hr, -, hmould, hstep, halign, hwear, hmbx⟩ := applyStream_control c o.linkUp (refireCheck o s)
  obtain ⟨r, e, hent⟩ := setRun_ready (t := cmdOk { t with run := { t.run with step := 0 } }) ha hk
    (congrArg (fun r : RunCtl => { r with step := 0 }) hr) rfl
  obtain ⟨_, _, _, k, -⟩ := mailboxServe_eq { cmdOk { t with run := { t.run with step := 0 } } with
    run := r, mbx := { t.mbx with waits := false } }
  have hd : refireDone t = mailboxServe { cmdOk { t with run := { t.run with step := 0 } } with
      run := r, mbx := { t.mbx with waits := false } } := by
    unfold refireDone
    rw [e]
    rfl
  rw [hd, k]
  exact ⟨hent _ rfl, rfl, (congrArg Mould.cfg hmould :), hstep, halign, (congrArg Wear.latest hwear :)⟩

end

/-! LC_SET (R345). -/

theorem lcSet_posts {s : State} (ha : halvesAgree s) (hm : hostMay 0x08 s) (ht : lcTargetOk s = true) :
    exec .lcSet s = .next (runLcSet (accepted 0x08 s)) := by
  have hargs : lcTargetOk (posted s) = true := by
    obtain ⟨hr, hc⟩ := posted_control s
    rw [lcTargetOk, hr, hc]
    exact ht
  exact congrArg Host.Outcome.next (postCommand_of_may hm ha hargs rfl rfl)

theorem lcSet_waits {s : State} (ha : halvesAgree s) (hm : hostMay 0x08 s) (ht : lcTargetOk s = true)
    (hb : s.brg.restarting = true) : ∃ s', exec .lcSet s = .next s' ∧ s'.cmd.status = .busy ∧ s'.cmd.op = 8 ∧
      s'.run = s.run ∧ s'.ls = s.ls := by
  refine ⟨_, lcSet_posts ha hm ht, ?_⟩
  obtain ⟨_, _, _, _, e, -⟩ := accepted_eq 0x08 s
  rw [e, runLcSet, if_pos hb]
  exact ⟨rfl, rfl, rfl, rfl⟩

theorem lcSet_moves {s : State} (ha : halvesAgree s) (hm : hostMay 0x08 s) (ht : lcTargetOk s = true)
    (hb : s.brg.restarting = false) : ∃ s', exec .lcSet s = .next s' ∧
      (if s.run.lc = 2 ∧ ticketOk s = false then s'.cmd.status = .fail ∧ s'.run = s.run ∧ s'.ls = s.ls
       else s'.cmd.status = .ok ∧ s'.run.lc = s.cmd.arg0.setWidth 3 ∧ s'.fuseBus.lc = s'.run.lc ∧ s'.run.state = .bisque ∧
        s'.run.step = 3 ∧ s'.flights = [] ∧ s'.ls.rows = [] ∧ s'.sdm = [] ∧ s'.handles = []) := by
  refine ⟨_, lcSet_posts ha hm ht, ?_⟩
  obtain ⟨_, _, _, _, e, -⟩ := accepted_eq 0x08 s
  have hr : runLcSet (accepted 0x08 s) = changeLc (accepted 0x08 s) := by
    refine if_neg ?_
    rw [e]
    exact Bool.not_eq_true _ ▸ hb
  have hbar : ((accepted 0x08 s).run.lc = 2 ∧ ticketOk (accepted 0x08 s) = false) ↔ (s.run.lc = 2 ∧ ticketOk s = false) := by
    rw [e]
    rfl
  rw [hr]
  split
  · next h =>
    rw [changeLc_of_barred (hbar.mpr h), e]
    exact ⟨rfl, rfl, rfl⟩
  · next h =>
    obtain ⟨_, _, _, k⟩ := changeLc_of_allowed (mt hbar.mp h)
    rw [k, e]
    exact ⟨rfl, rfl, rfl, rfl, rfl, rfl, rfl, rfl, rfl⟩

/-- Settles O49: each command is accepted and does its work; a stream that passes comes into force through one function, and
what it does to the links leaves the control alone. -/
theorem mouldRefireAndLifeCycle : Obligations.MouldRefireAndLifeCycle := by
  intro readErr stream up o c s ha
  refine ⟨mouldLoad_reads ha,
    fun hb hs => ⟨fun _ _ => mouldLoadComplete_refuses hb hs, fun hc => mouldLoadComplete_accepts hb hs ha hc⟩,
    refire_wipes ha, fun hs hb => ⟨fun hf he hc hcrc hlen _ hk => refireComplete_passes hs hb ha hk hf he hc hcrc hlen,
      fun hf => ⟨_, refireComplete_falls hs hb hf, refireFallback_falls _ _ _ s⟩⟩,
    fun hm ht => ⟨lcSet_waits ha hm ht, lcSet_moves ha hm ht⟩⟩

end Sys2Proof.Machine
end

section
/-! SUPPORT. The frame of the host's commands, the mailbox, the monitor and the test access port: O59. -/

namespace Sys2Proof.Machine
open Claims

/-! The frame. -/

/-- What no such command changes of a thread. -/
def threadFrame (th : ThreadState) : Sparse Word64 × List Binding × Nstat × Word32 × List CoilLevel :=
  (th.regs, th.bind, th.nstat, th.lfsr, th.coil)

/-- What no such command changes of the cluster. -/
def hostFrame (s : State) :=
  ((threadFrame s.ta, threadFrame s.tx), s.preg, s.sdm, s.tiles, s.mx, s.amax, s.vx, s.ls.rows, s.build, s.pending)

/-- The outcome of a command keeps the frame. -/
def OutFrame (s : State) : Out → Prop
  | .next s' => hostFrame s' = hostFrame s
  | _ => True

theorem threadFrame_getThread {s s' : State} (h : hostFrame s' = hostFrame s) (t : Thread) :
    threadFrame (getThread t s') = threadFrame (getThread t s) := by
  obtain ⟨ha, hx⟩ := Prod.mk.inj (congrArg Prod.fst h :)
  cases t
  · exact ha
  · exact hx

/-! Operations that are part of many commands. -/

theorem hostFrame_ite {c : Prop} [Decidable c] {a b s : State} (ha : hostFrame a = hostFrame s) (hb : hostFrame b = hostFrame s) :
    hostFrame (if c then a else b) = hostFrame s := by
  split
  · exact ha
  · exact hb

theorem hostFrame_getD {o : Option State} {s : State} (h : ∀ t, o = some t → hostFrame t = hostFrame s) :
    hostFrame (o.getD s) = hostFrame s := by
  cases o with
  | none => rfl
  | some t => exact h t rfl

theorem hostFrame_logEvent (code : BitVec 12) (d : Nat) (s : State) : hostFrame (logEvent code d s) = hostFrame s := by
  obtain ⟨_, _, _, e⟩ := logEvent_eq code d s
  rw [e]
  rfl

theorem hostFrame_bridleEvent (code : BitVec 12) (d : Nat) (s : State) : hostFrame (bridleEvent code d s) = hostFrame s := by
  obtain ⟨_, _, _, e⟩ := bridleEvent_eq code d s
  rw [e]
  rfl

theorem hostFrame_passLull (s : State) : hostFrame (passLull s) = hostFrame s := by
  obtain ⟨_, _, _, _, _, e⟩ := passLull_eq s
  rw [e]
  rfl

theorem hostFrame_splitAuthority (s : State) : hostFrame (splitAuthority s) = hostFrame s := by
  obtain ⟨d, _, e⟩ := splitAuthority_eq s
  rw [e]
  exact hostFrame_logEvent 0x004 d s

theorem hostFrame_handshake (s : State) : hostFrame (handshake s) = hostFrame s :=
  hostFrame_ite rfl (hostFrame_splitAuthority s)

theorem hostFrame_endStepChange (s : State) : hostFrame (endStepChange s) = hostFrame s := by
  obtain ⟨_, _, _, _, _, e, -⟩ := endStepChange_eq s
  rw [e]
  rfl

theorem hostFrame_cutOff (st : RunState) (s : State) : hostFrame (cutOff st s) = hostFrame s := by
  obtain ⟨_, _, _, _, _, _, _, _, _, e, -⟩ := cutOff_eq st s
  rw [e]
  rfl

theorem hostFrame_setRun (st : RunState) (s : State) : hostFrame (setRun st s) = hostFrame s :=
  (hostFrame_handshake _).trans (hostFrame_cutOff st s)

theorem hostFrame_readCfg (n : Nat) (s : State) : hostFrame (readCfg n s) = hostFrame s := by
  obtain ⟨_, _, e⟩ := readCfg_eq n s
  rw [e]
  rfl

theorem hostFrame_releaseClaim (p : Nat) (s : State) : hostFrame (releaseClaim p s) = hostFrame s := by
  obtain ⟨_, _, _, e⟩ := flightsOnly_releaseClaim p s
  rw [e]
  rfl

theorem hostFrame_modPort (p : BitVec 2) (g : Port → Port) (s : State) : hostFrame (modPort p g s) = hostFrame s := by
  unfold modPort setPort
  split <;> rfl

/-! The command slot (R331). -/

/-- A command whose effect keeps the frame keeps it, refused or accepted. -/
theorem hostFrame_postCommand {op : Nat} {args absent object : State → Bool} {run : State → State} {s : State}
    (h : ∀ t, hostFrame (run t) = hostFrame t) : hostFrame (postCommand op args absent object run s) = hostFrame s := by
  have hp : hostFrame (dropHeld (passLull s)) = hostFrame s := hostFrame_passLull s
  have hr (st : CsrStatus) (t : State) : hostFrame (rejectCommand op st t) = hostFrame t :=
    hostFrame_logEvent 0x001 (op + 2 ^ 8 * stateCode t.run.state) t
  have ha (t : State) : hostFrame (run (acceptCommand op t)) = hostFrame t := (h _).trans (hostFrame_handshake _)
  unfold postCommand
  refine hostFrame_ite rfl ?_
  dsimp only
  generalize dropHeld (passLull s) = t at hp
  exact hostFrame_ite ((hr ..).trans hp) (hostFrame_ite ((hr ..).trans hp) (hostFrame_ite ((hr ..).trans hp)
    (hostFrame_ite ((hr ..).trans hp) ((ha t).trans hp))))

theorem hostFrame_postHandle {op : Nat} {want : HState} {run : BitVec 8 → State → State} {s : State}
    (h : ∀ g t, hostFrame (run g t) = hostFrame t) : hostFrame (postHandle op want run s) = hostFrame s :=
  hostFrame_postCommand fun t => (h _ _).trans (hostFrame_readCfg _ t)

theorem hostFrame_sessTouch (i : Nat) (s : State) : hostFrame (sessTouch i s) = hostFrame s := by
  have h : hostFrame (if s.upsets.sessDouble.contains i then
      let s := { s with upsets := { s.upsets with sessDouble := s.upsets.sessDouble.filter (fun j => j != i) } }
      if (getSess s i).state = .free then s
      else logEvent 0x401 i (setSess i Session.reset s)
    else s) = hostFrame s := hostFrame_ite (hostFrame_ite rfl (hostFrame_logEvent 0x401 i _)) rfl
  exact hostFrame_ite h h

theorem hostFrame_postSession {op : Nat} {ok : State → Nat → Bool} {run : Nat → State → State} {s : State}
    (h : ∀ i t, hostFrame (run i t) = hostFrame t) : hostFrame (postSession op ok run s) = hostFrame s :=
  (hostFrame_postCommand fun t => h _ t).trans (hostFrame_ite (hostFrame_sessTouch _ s) rfl)

/-! The run state, PAUSE and SAFE (R86, R330, R335). -/

theorem hostFrame_modThread (t : Thread) {g : ThreadState → ThreadState} (h : ∀ th, threadFrame (g th) = threadFrame th)
    (s : State) : hostFrame (modThread t g s) = hostFrame s := by
  cases t
  · exact congrArg (fun x => ((x, threadFrame s.tx), (hostFrame s).2)) (h s.ta)
  · exact congrArg (fun x => ((threadFrame s.ta, x), (hostFrame s).2)) (h s.tx)

theorem hostFrame_pauseThread (t : Thread) (s : State) : hostFrame (pauseThread t s) = hostFrame s := by
  have hf (f : Flight) (u : State) :
      hostFrame (trimQueues (releaseQueues f.id (dropFlight f.id (releaseLeft f u)))) = hostFrame u := by
    obtain ⟨_, _, _, e⟩ := flightsOnly_releaseLeft f u
    rw [e]
    rfl
  unfold pauseThread
  dsimp only
  refine (hostFrame_modThread t (fun th => ?_) _).trans (foldl_keeps hostFrame _ (fun u f => hf f u) _ s)
  split
  · rfl
  · split <;> rfl

theorem hostFrame_pauseBoth (s : State) : hostFrame (pauseBoth s) = hostFrame s := by
  have h (t : Thread) (u : State) : hostFrame (pauseIfReady t u) = hostFrame u := hostFrame_ite (hostFrame_pauseThread t u) rfl
  exact (h .tx _).trans (h .ta s)

theorem hostFrame_runResume (split : Bool) (s : State) : hostFrame (runResume split s) = hostFrame s := by
  have hl : hostFrame (leaveSafe s) = hostFrame s :=
    hostFrame_ite (hostFrame_splitAuthority s) ((hostFrame_setRun _ _).trans (hostFrame_ite (a := unpause s) rfl rfl))
  exact hostFrame_ite (hostFrame_ite rfl (hostFrame_ite rfl hl)) (hostFrame_setRun .run _)

theorem hostFrame_pauseComplete (s : State) : OutFrame s (exec .pauseComplete s) := by
  refine hostFrame_getD fun t h => ?_
  unfold pauseCompleteStep at h
  dsimp only at h
  split at h
  · split at h
    · cases h
      exact (hostFrame_setRun .pause _).trans ((hostFrame_pauseBoth _).trans (hostFrame_passLull s))
    · cases h
  · cases h

theorem hostFrame_safeEntry (s : State) : OutFrame s (exec .safeEntry s) := by
  refine hostFrame_getD fun t h => ?_
  have hp : hostFrame (if (passLull s).run.state = .run then pauseBoth (passLull s) else passLull s) = hostFrame s :=
    hostFrame_ite ((hostFrame_pauseBoth _).trans (hostFrame_passLull s)) (hostFrame_passLull s)
  unfold safeEntryStep at h
  dsimp only at h
  generalize (if (passLull s).run.state = .run then pauseBoth (passLull s) else passLull s) = u at h hp
  split at h
  · split at h
    · cases h
    · cases h
      exact (hostFrame_setRun .safe _).trans hp
  · cases h

/-! The step, retention, handles, sessions and links (R277, R303 to R306, R317, R327, R382). -/

theorem hostFrame_lockStep (n : BitVec 4) {done : State → State} (s : State) (h : hostFrame (done s) = hostFrame s) :
    hostFrame (lockStep n done s) = hostFrame s := hostFrame_ite h rfl

theorem hostFrame_switchBoundary (s : State) : OutFrame s (exec .switchBoundary s) := by
  refine hostFrame_getD fun t h => ?_
  have hl (u : State) : hostFrame (endLocked u) = hostFrame u :=
    hostFrame_ite rfl (hostFrame_ite (hostFrame_handshake _) (hostFrame_ite (hostFrame_handshake _) rfl))
  unfold switchStep at h
  split at h
  · cases h
  · cases h
    exact (hostFrame_endStepChange _).trans ((hl _).trans (hostFrame_passLull s))

theorem hostFrame_synthLockFail (s : State) : OutFrame s (exec .synthLockFail s) := by
  refine hostFrame_getD fun t h => ?_
  unfold lockFailStep at h
  split at h
  · cases h
  · cases h
    exact (hostFrame_endStepChange _).trans ((hostFrame_logEvent 0x504 _ _).trans (hostFrame_passLull s))

theorem hostFrame_runHevict (s : State) : hostFrame (runHevict s) = hostFrame s := by
  have hr : hostFrame (readHandles s) = hostFrame s := foldl_keeps hostFrame _ (fun u h => hostFrame_readCfg h u) _ s
  unfold runHevict
  dsimp only
  generalize readHandles s = u at hr
  split
  · exact hr
  · exact hr

theorem hostFrame_startResume (i : Nat) (s : State) : hostFrame (startResume i s) = hostFrame s := by
  have hp (u : State) : hostFrame (reservoirPump u) = hostFrame u := rfl
  have hr (r : ResReq) (u : State) : hostFrame (reservoirRead false r u) = hostFrame u := rfl
  unfold startResume
  dsimp only
  rw [hp, foldl_keeps hostFrame _ (fun u j => hr _ u)]
  rfl

theorem hostFrame_startPark (i : Nat) (s : State) : hostFrame (startPark i s) = hostFrame s := by
  obtain ⟨_, -, e⟩ := startPark_eq i s
  rw [e]
  rfl

theorem hostFrame_rowStatus (fid i : Nat) (st : BitVec 8) (s : State) : hostFrame (rowStatus fid i st s) = hostFrame s := by
  have hb (u : State) : hostFrame (bump cntFabRefused 1 u) = hostFrame u := rfl
  have hm (g : RemRow → RemRow) : hostFrame (modRemRow fid i g s) = hostFrame s := rfl
  have hf (p : BitVec 2) (g : RemRow → RemRow) : hostFrame (freeTrack p fid i (modRemRow fid i g s)) = hostFrame s :=
    hostFrame_modPort p _ _
  unfold rowStatus
  dsimp only
  repeat' split
  all_goals simp only [hostFrame_releaseClaim, hb, hf, hm]

theorem hostFrame_runRetrain (s : State) : hostFrame (runRetrain s) = hostFrame s := by
  have hd (p : BitVec 2) : hostFrame (dropOutstanding p s) = hostFrame s :=
    foldl_keeps hostFrame _ (fun u (t : Track) => hostFrame_rowStatus t.fid t.row stDenied u) _ s
  have hc (p : BitVec 2) : hostFrame (clearLink p true s) = hostFrame s := by
    unfold clearLink
    exact (hostFrame_modPort p (fun _ => _) _).trans (hd p)
  exact hostFrame_ite (hc _) rfl

/-- The host's commands but REFIRE and LC_SET. -/
theorem outFrame_of_hostCode {i : Instr} {op : Nat} (h : hostCode i = some op) (h4 : op ≠ 0x04) (h8 : op ≠ 0x08) (s : State) :
    OutFrame s (exec i s) := by
  have hs (u : State) (st : RunState) : hostFrame (setRun st (cmdOk u)) = hostFrame u := hostFrame_setRun st _
  unfold hostCode at h
  split at h <;> cases h
  case h_1 => exact hostFrame_postCommand (run := runStart) fun _ => hostFrame_setRun .run _
  case h_2 => exact hostFrame_postCommand hostFrame_pauseBoth
  case h_3 => exact hostFrame_postCommand (hostFrame_runResume _)
  case h_4 => exact absurd rfl h4
  case h_5 => exact hostFrame_postCommand (run := runMaintEnter) fun t => hs t .maint
  case h_6 => exact hostFrame_postCommand (run := runMaintExit) fun t => hs t .ready
  case h_7 => exact hostFrame_postCommand (run := runMouldLoad) fun _ => rfl
  case h_8 => exact absurd rfl h8
  case h_9 => exact hostFrame_postCommand (run := runReplay) fun _ => rfl
  case h_10 => exact hostFrame_postCommand (run := runSetStep) fun t => hostFrame_lockStep _ t rfl
  case h_11 => exact hostFrame_postCommand (run := runRetain) fun _ => hostFrame_lockStep 0 _ (hostFrame_handshake _)
  case h_12 => exact hostFrame_postCommand (run := runWake) fun t => hostFrame_lockStep _ t (hostFrame_handshake _)
  case h_13 => exact hostFrame_postSession hostFrame_startResume
  case h_14 => exact hostFrame_postSession hostFrame_startPark
  case h_15 => exact hostFrame_postHandle (run := runHpin) fun _ _ => rfl
  case h_16 => exact hostFrame_postHandle (run := runHunpin) fun _ _ => rfl
  case h_17 => exact hostFrame_postHandle (run := runHfree) fun _ _ => rfl
  case h_18 => exact hostFrame_postCommand hostFrame_runHevict
  case h_19 => exact hostFrame_postCommand hostFrame_runRetrain

/-! The mailbox (R364). -/

theorem hostFrame_postMailbox (op : Nat) (s : State) : hostFrame (postMailbox op s) = hostFrame s := by
  have hp : hostFrame (dropHeld (passLull s)) = hostFrame s := hostFrame_passLull s
  have hm (u : State) : hostFrame (mailboxServe u) = hostFrame u := by
    obtain ⟨_, _, _, e, -⟩ := mailboxServe_eq u
    rw [e]
    rfl
  unfold postMailbox
  refine hostFrame_ite rfl (hostFrame_ite hp ?_)
  split
  · exact hp
  · exact hp
  · exact (hm _).trans hp

theorem hostFrame_mbxWords (ws : List Word32) (s : State) : hostFrame (mbxOk (setMbxWords ws s)) = hostFrame s := by
  obtain ⟨_, e⟩ := setMbxWords_eq ws s
  rw [e]
  rfl

theorem hostFrame_wearRestore (s : State) : hostFrame (wearRestore s) = hostFrame s := by
  unfold wearRestore
  dsimp only
  obtain ⟨_, _, _, _, _, e⟩ := applyRetune_eq _ _ _
  rw [e]
  rfl

theorem hostFrame_mailboxEnd (img : ImageRead) (s : State) : OutFrame s (exec (.mailboxOperationEnd img) s) := by
  refine hostFrame_ite ?_ rfl
  unfold endMailbox
  split
  · rfl
  · exact hostFrame_mbxWords _ { s with free := s.free + 1 }
  · exact hostFrame_mbxWords _ s
  · exact hostFrame_ite (hostFrame_wearRestore s) rfl
  · exact hostFrame_ite rfl (hostFrame_bridleEvent 0x602 _ s)
  · rfl
  · rfl
  · rfl
  · exact hostFrame_ite rfl rfl
  · exact hostFrame_ite rfl rfl
  · rfl

/-! The monitor (R370). -/

theorem hostFrame_monitorCommand (both : Bool) {run : State → State} {s : State} (h : hostFrame (run s) = hostFrame s) :
    hostFrame (monitorCommand both run s) = hostFrame s := by
  refine hostFrame_ite rfl ?_
  split
  · rfl
  · exact h
  · exact hostFrame_ite h rfl

/-- The commands of the mailbox, the monitor and the test access port, and the ends of host commands. -/
theorem outFrame_of_service (s : State) : ∀ i ∈ ([.pauseComplete, .safeEntry, .switchBoundary, .synthLockFail,
      .version, .telemetry, .wearRead, .wearWrite, .updateVerify, .updateActivate, .monToken, .monLock, .lcChallenge,
      .lcAuthorize, .uartCfg, .help, .id, .state, .temp, .power, .cones, .steps, .lock, .trstN, .bypass, .idcode,
      .samplePreload, .extest, .clamp] : List Instr), OutFrame s (exec i s) := by
  have box (op : Nat) : hostFrame (postMailbox op s) = hostFrame s := hostFrame_postMailbox op s
  have ask (run : State → State) (h : hostFrame (run s) = hostFrame s) : hostFrame (monitorCommand false run s) = hostFrame s :=
    hostFrame_monitorCommand false h
  simp only [List.forall_mem_cons]
  exact ⟨hostFrame_pauseComplete s, hostFrame_safeEntry s, hostFrame_switchBoundary s, hostFrame_synthLockFail s,
    box _, box _, box _, box _, box _, box _, box _, box _, box _, box _, box _,
    hostFrame_monitorCommand true rfl, ask runId rfl, ask runState rfl, ask runTemp rfl, ask runPower rfl, ask runCones rfl,
    ask runSteps rfl, ask runLock rfl, rfl, rfl, rfl, rfl, rfl, rfl, fun _ h => nomatch h⟩

/-- Settles O59: each command keeps the frame, which its parts keep. -/
theorem hostCommandFrame : Obligations.HostCommandFrame := by
  intro i s s' he hi
  have ho : OutFrame s (exec i s) := by
    rcases hi with ⟨op, h, h4, h8⟩ | h | ⟨img, rfl⟩
    · exact outFrame_of_hostCode h h4 h8 s
    · exact outFrame_of_service s i h
    · exact hostFrame_mailboxEnd img s
  rw [he] at ho
  have hf : hostFrame s' = hostFrame s := ho
  refine ⟨fun t r => ?_, ?_⟩
  · have ht := threadFrame_getThread hf t
    simp only [threadFrame, Prod.mk.injEq] at ht
    obtain ⟨hregs, hrest⟩ := ht
    exact ⟨by rw [sreg, readReg, hregs]; rfl, hrest⟩
  · simp only [hostFrame, Prod.mk.injEq] at hf
    exact hf.2

end Sys2Proof.Machine
end
